-- ==== Sys2Proof/Word.lean ====
section
/-! DEFINITION. Word: the words of the machine and their plainest arithmetic. -/
namespace Sys2Proof

/-- One byte. -/
abbrev Byte := BitVec 8
/-- A 16-bit half word. -/
abbrev Half := BitVec 16
/-- A 32-bit word: the size of a control-space register (R34) and of an instruction word (R173). -/
abbrev Word := BitVec 32
/-- A 64-bit word: the size of a scalar register (R169). -/
abbrev DWord := BitVec 64

end Sys2Proof
end

