-- ==== Sys2Proof/Machine/Table.lean ====
section
/-! DEFINITION. Table: sparse tables by number, byte memories in canonical form, little-endian access, bit fields and
sign extension: the named operations that every later definition reads and writes its data through. -/
namespace Sys2Proof.Machine

/-- A sparse table by number, numbers strictly rising; a number that is not listed has the default its reader gives. -/
abbrev Tab (α : Type) := List (Nat × α)

/-- The entry of `k`, if it is listed. -/
def tabFind {α : Type} : Tab α → Nat → Option α
  | [], _ => none
  | (k', v) :: t, k => if k' = k then some v else if k < k' then none else tabFind t k

/-- The entry of `k`, or the default `d`. -/
def tabGet {α : Type} (d : α) (t : Tab α) (k : Nat) : α := (tabFind t k).getD d

/-- Sets the entry of `k`. -/
def tabSet {α : Type} : Tab α → Nat → α → Tab α
  | [], k, v => [(k, v)]
  | (k', v') :: t, k, v =>
    if k' = k then (k, v) :: t else if k < k' then (k, v) :: (k', v') :: t else (k', v') :: tabSet t k v

/-- Takes the entry of `k` out. -/
def tabErase {α : Type} : Tab α → Nat → Tab α
  | [], _ => []
  | (k', v') :: t, k => if k' = k then t else if k < k' then (k', v') :: t else (k', v') :: tabErase t k

/-- The numbers of a table rise strictly. -/
def tabWf {α : Type} : Tab α → Bool
  | [] => true
  | (k, _) :: t => t.all (fun e => decide (k < e.1)) && tabWf t

/-- The set of the listed numbers, in rising order. -/
def tabKeys {α : Type} (t : Tab α) : List Nat := t.map (·.1)

/-- Applies `f` to every listed entry. -/
def tabMap {α : Type} (f : Nat → α → α) (t : Tab α) : Tab α := t.map (fun e => (e.1, f e.1 e.2))

/-- Keeps the entries that `f` accepts. -/
def tabFilter {α : Type} (f : Nat → α → Bool) (t : Tab α) : Tab α := t.filter (fun e => f e.1 e.2)

/-! Byte memories. -/

/-- A memory: address and byte pairs, addresses strictly rising, none listed with the byte an unlisted address reads. -/
abbrev Mem := List Host.Cell

/-- One byte of a memory whose unlisted addresses read `d`. -/
def memGet (d : Byte) : Mem → Nat → Byte
  | [], _ => d
  | (a', b) :: m, a => if a' = a then b else if a < a' then d else memGet d m a

/-- Lists or unlists the byte at the head of the part of the memory that lies at `a` and above. -/
def memCons (d : Byte) (a : Nat) (b : Byte) (m : Mem) : Mem := if b = d then m else (a, b) :: m

/-- Writes one byte; writing the byte `d` that an unlisted address reads takes the entry out. -/
def memSet (d : Byte) : Mem → Nat → Byte → Mem
  | [], a, b => memCons d a b []
  | (a', b') :: m, a, b =>
    if a' = a then memCons d a b m
    else if a < a' then memCons d a b ((a', b') :: m)
    else (a', b') :: memSet d m a b

/-- The canonical form of a memory whose unlisted addresses read `d`. -/
def memWf (d : Byte) : Mem → Bool
  | [] => true
  | (a, b) :: m => decide (b ≠ d) && m.all (fun e => decide (a < e.1)) && memWf d m

/-- `n` bytes from address `a`, in rising address. -/
def memBytes (d : Byte) (m : Mem) (a : Nat) : Nat → List Byte
  | 0 => []
  | n + 1 => memGet d m a :: memBytes d m (a + 1) n

/-- Writes bytes from address `a` on. -/
def memPut (d : Byte) (m : Mem) (a : Nat) : List Byte → Mem
  | [] => m
  | b :: bs => memPut d (memSet d m a b) (a + 1) bs

/-- The bytes outside [lo, hi) of a memory. -/
def memDrop (m : Mem) (lo hi : Nat) : Mem := m.filter (fun e => decide (e.1 < lo) || decide (hi ≤ e.1))

/-- The bytes inside [lo, hi) of a memory. -/
def memKeep (m : Mem) (lo hi : Nat) : Mem := m.filter (fun e => decide (lo ≤ e.1) && decide (e.1 < hi))

/-- The bytes of a memory moved up by `n`. -/
def memShiftUp (m : Mem) (n : Nat) : Mem := m.map (fun e => (e.1 + n, e.2))

/-- The bytes of a memory that lie at `n` or above, moved down by `n`. -/
def memShiftDown (m : Mem) (n : Nat) : Mem := (m.filter (fun e => decide (n ≤ e.1))).map (fun e => (e.1 - n, e.2))

/-! Little-endian numbers. -/

/-- The number that bytes spell, the first byte least significant (R13). -/
def leNat : List Byte → Nat
  | [] => 0
  | b :: bs => b.toNat + 256 * leNat bs

/-- The `n` bytes of a number, least significant first. -/
def leBytes : Nat → Nat → List Byte
  | 0, _ => []
  | n + 1, v => BitVec.ofNat 8 v :: leBytes n (v / 256)

/-- Zero bytes. -/
def zeroBytes (n : Nat) : List Byte := List.replicate n 0

/-- The byte of a list at a position, zero beyond its end. -/
def byteAt (l : List Byte) (i : Nat) : Byte := (l[i]?).getD 0

/-- `n` bytes of a list from position `i`, zeros beyond its end. -/
def bytesAt (l : List Byte) (i : Nat) : Nat → List Byte
  | 0 => []
  | n + 1 => byteAt l i :: bytesAt l (i + 1) n

/-- A little-endian field of `n` bytes at position `i` of a list of bytes. -/
def fieldAt (l : List Byte) (i n : Nat) : Nat := leNat (bytesAt l i n)

/-- A list cut or padded with zeros to `n` bytes. -/
def padTo (n : Nat) (l : List Byte) : List Byte := bytesAt l 0 n

/-- Replaces bytes of a list from position `i` on; what would fall beyond its end is dropped. -/
def bytesPut (l : List Byte) (i : Nat) (b : List Byte) : List Byte :=
  l.take i ++ (b ++ l.drop (i + b.length)).take (l.length - i)

/-! Bits of numbers. -/

/-- `n` bits of a number from bit `lo`. -/
def natBits (v lo n : Nat) : Nat := v / 2 ^ lo % 2 ^ n

/-- One bit of a number. -/
def natBit (v i : Nat) : Bool := v / 2 ^ i % 2 == 1

/-- `n` bits of a word from bit `lo`, as a number. -/
def bvBits {w : Nat} (v : BitVec w) (lo n : Nat) : Nat := natBits v.toNat lo n

/-- A word with `n` bits from bit `lo` set to a number. -/
def bvPut {w : Nat} (v : BitVec w) (lo n x : Nat) : BitVec w :=
  (v &&& ~~~(BitVec.ofNat w ((2 ^ n - 1) * 2 ^ lo))) ||| BitVec.ofNat w ((x % 2 ^ n) * 2 ^ lo)

/-- A truth value as a number. -/
def boolNat (b : Bool) : Nat := if b then 1 else 0

/-- The integer that the low `n` bits of a number spell in two's complement. -/
def signedOf (n v : Nat) : Int :=
  let x := v % 2 ^ n
  if x < 2 ^ (n - 1) then (x : Int) else (x : Int) - (2 ^ n : Nat)

/-- An integer narrowed to the low `n` bits. -/
def narrowInt (n : Nat) (i : Int) : Nat := (i % ((2 ^ n : Nat) : Int)).toNat

/-- A sum that stops at a bound. -/
def satAdd (bound a b : Nat) : Nat := min bound (a + b)

/-- Rounds up to a multiple of `m`. -/
def roundUp (n m : Nat) : Nat := (n + m - 1) / m * m

/-- The position of the first entry of a list that `p` accepts. -/
def firstIdx {α : Type} (p : α → Bool) : List α → Option Nat
  | [] => none
  | x :: xs => if p x then some 0 else (firstIdx p xs).map (· + 1)

/-- Puts an entry into a list sorted by `le`, after the entries that are not after it. -/
def insertBy {α : Type} (le : α → α → Bool) (x : α) : List α → List α
  | [] => [x]
  | y :: ys => if le y x then y :: insertBy le x ys else x :: y :: ys

/-- A list sorted by `le`; entries that neither is before the other keep their order. -/
def sortBy {α : Type} (le : α → α → Bool) (l : List α) : List α := l.foldl (fun acc x => insertBy le x acc) []

/-- Sum of a list of numbers. -/
def sumNat (l : List Nat) : Nat := l.foldl (· + ·) 0

end Sys2Proof.Machine
end

