-- ==== Sys2Proof/Syntax/Forms.lean ====
section
/-! DEFINITION. Forms: the shapes of the commands' operands. A core's instruction carries every field of its encoding format
(R174, R215), the unused ones too, so that the decode checks of R176 can be made. -/
namespace Sys2Proof

/-- The masters of the control space (R54). -/
inductive Master where
  | none
  | h0
  | h1
  | h2
  | h3
  | mm
  | pk
  | pe
  deriving DecidableEq, Repr

/-- A master with the context (PK) or module (PE) that its access stands for; 0 for the others (R55, R58). -/
structure Writer where
  master : Master
  tag : BitVec 15
  deriving DecidableEq, Repr

/-- A command of a host or of the sideband, by its controller, queue and identifier (R433). -/
structure CmdRef where
  ctrl : Nat
  sqid : Nat
  cid : Nat
  deriving DecidableEq, Repr

/-- The protection fields of an NVM command (R426): PRACT, PRCHK (guard, application tag, reference tag), application tag with its
mask, initial reference tag. -/
structure PrInfo where
  pract : Bool
  guard : Bool
  appTag : Bool
  refTag : Bool
  app : BitVec 16
  mask : BitVec 16
  ref : BitVec 48
  deriving DecidableEq, Repr

/-- The blocks that an NVM command names: namespace, first block, count (NLB + 1). -/
structure LbaSpan where
  nsid : Nat
  slba : Nat
  nlb : Nat
  deriving DecidableEq, Repr

/-- How the codewords of the blocks that a command reads decode (R392): the blocks that need read retry or soft decode, and those
that no LDPC stage corrects; the others decode by hard decision. And whether the command's transfer between module and host succeeds
(R451). -/
structure Decodes where
  soft : List Nat
  bad : List Nat
  moves : Bool := true
  deriving DecidableEq, Repr

/-- Why a fill fails (R328): its source or destination cannot be reached, its data is corrupt, or a block of the media, counted from the
first of its source, cannot be read. -/
inductive FillError where
  | unreachable
  | data
  | media (block : BitVec 16)
  deriving DecidableEq, Repr

/-- What the check of a firmware image finds in it (R476, R477): whether its signature verifies, its revision, its security version and
minimum, and its IMAGE_BYTES. -/
structure FwFacts where
  signed : Bool
  fr : List Byte
  svn : Nat
  minSvn : Nat
  imageBytes : Nat
  deriving DecidableEq, Repr

/-- An admin command as its fields, for the queue of a controller and for the sideband alike (R483). -/
inductive AdminReq where
  | identify (cns : Byte) (nsid cntid : Nat)
  | getLog (lid : Byte) (rae : Bool) (off len : Nat)
  | getFeature (fid : Byte) (sel : Fin 8) (nsid dw11 : Nat)
  | setFeature (fid : Byte) (save : Bool) (nsid dw11 dw12 : Nat) (data : List Byte)
  | fwDownload (off : Nat) (data : List Byte)
  | fwCommit (ca slot : Fin 8) (facts : FwFacts)
  | format (nsid : Nat) (lbaf : Fin 16) (ext : Bool) (pi : Fin 8) (pil : Bool) (ses : Fin 8)
  | sanitize (action : Fin 8)
  | nsManage (sel : Fin 16) (nsid : Nat) (data : List Byte)
  | nsAttach (sel : Fin 16) (nsid : Nat) (ctrls : List Nat)
  | calWrite (data : List Byte)
  | calRestore
  | calRead (which : Fin 4)
  deriving DecidableEq, Repr

/-- An NVMe-MI command (R483). -/
inductive MiReq where
  | readData (dtyp : Byte)
  | subsystemPoll
  | controllerPoll
  | configGet (id : Byte)
  | configSet (id : Byte) (value : Nat)
  | vpdRead
  | vpdWrite (data : List Byte)
  deriving DecidableEq, Repr

/-- A training record of the far end (R514): VMAX, VMIN, MODULE, LINK, LANES, ACK_SEQ where it is VALID, PHASE. -/
structure TrainRec where
  vmax : Nat
  vmin : Nat
  module : Nat
  link : Nat
  lanes : Nat
  ackSeq : Option Nat
  phase : Nat
  deriving DecidableEq, Repr

/-- A codeword as the decoder of a lane finds it at the expected boundary (R486, R489): whether it decodes and how many symbols it
corrects, its header, and the block with the scrambling taken off; and, where it fails there, the boundary within 16 bits at which it
decodes with the count that continues. -/
structure CodeWord where
  decodes : Bool
  corrected : Fin 16
  header : BitVec 20
  block : List Byte
  shift : Option Int
  deriving DecidableEq, Repr

/-- The device states of PCIe (R421). -/
inductive PowerD where
  | d0
  | d3hot
  | d3cold
  deriving DecidableEq, Repr

/-- A core's number, 0 to 12,287 (R5). -/
abbrev CoreNo := Fin 12288
/-- A host port (R33). -/
abbrev PortNo := Fin 4
/-- A context's number (R338). -/
abbrev CtxNo := Fin 32768
/-- An Aupen link (R14). -/
abbrev LinkNo := Fin 24
/-- A check-value unit (R36). -/
abbrev ChkNo := Fin 16
/-- A device-memory stack (R19). -/
abbrev StackNo := Fin 8
/-- A flash channel (R20). -/
abbrev ChanNo := Fin 32
/-- A compute die (R15). -/
abbrev DieNo := Fin 4
/-- A cluster, g = die × 192 + region × 16 + cluster (R36). -/
abbrev CluNo := Fin 768
/-- A region, die × 12 + region (R36). -/
abbrev RgnNo := Fin 48
/-- A control page (R36). -/
abbrev PageNo := Fin 16384

/-- Format SY (R174). -/
structure SY where
  sd : Fin 32
  sa : Fin 32
  imm11 : BitVec 11
  deriving DecidableEq, Repr

/-- Format SR. -/
structure SR where
  sd : Fin 32
  sa : Fin 32
  sb : Fin 32
  deriving DecidableEq, Repr

/-- Format SI. -/
structure SI where
  sd : Fin 32
  sa : Fin 32
  imm16 : BitVec 16
  deriving DecidableEq, Repr

/-- Format MA but for its size field, which the row or an operand gives. -/
structure MA where
  d : Fin 32
  an : Fin 16
  mode : Fin 4
  imm12 : BitVec 12
  deriving DecidableEq, Repr

/-- Format BR but for its condition, which the row gives. -/
structure BR where
  sa : Fin 32
  off18 : BitVec 18
  deriving DecidableEq, Repr

/-- Format LP with i = 0 (LOOP). -/
structure LP where
  lc : Fin 4
  sa : Fin 32
  zero : Fin 4
  body : BitVec 16
  deriving DecidableEq, Repr

/-- Format LP with i = 1 (LOOPI). -/
structure LPI where
  lc : Fin 4
  count : BitVec 11
  body : BitVec 12
  deriving DecidableEq, Repr

/-- Format VV but for its function. -/
structure VV where
  vd : Fin 32
  va : Fin 32
  vb : Fin 32
  pred : Fin 8
  bf16 : Bool
  deriving DecidableEq, Repr

/-- Format PD but for its function. -/
structure PD where
  pd : Fin 8
  pa : Fin 8
  pb : Fin 8
  s : Fin 32
  deriving DecidableEq, Repr

/-- Format XT but for its function, with the fields of its second word (R215). -/
structure XT where
  td : Fin 16
  ta : Fin 16
  tb : Fin 16
  tc : Fin 16
  set : Fin 8
  sa : Fin 32
  sb : Fin 32
  sd : Fin 32
  opt : BitVec 14
  deriving DecidableEq, Repr

/-- A temperature reading of the board, in °C (R664): coolant inlet, outlet, hold-up bank, connector, the hottest die of a flash channel
with its position, a stack of device memory. -/
inductive BoardTemp where
  | inlet (deg : Int)
  | outlet (deg : Int)
  | bank (deg : Int)
  | connector (deg : Int)
  | channel (c : ChanNo) (pos : Fin 16) (deg : Int)
  | stack (k : StackNo) (deg : Int)
  deriving DecidableEq, Repr

/-- What resets a port (R423, R610): its PERST# input, link loss, hot reset, function level reset. -/
inductive PortResetKind where
  | perst
  | linkLoss
  | hotReset
  | flr
  deriving DecidableEq, Repr

/-- What the self-test of a start finds (R566, R571, R572, R617): core numbers whose core fails, clusters whose spare fails, cluster stores
that cannot be repaired, rows newly repaired, program pages of device memory newly held out, check-value units that fail, and DRAM dies
that reach the threshold, by stack. -/
structure SelfTest where
  cores : List CoreNo
  spares : List CluNo
  clusters : List CluNo
  rows : Nat
  pages : List Nat
  chks : List ChkNo
  dies : List (StackNo × Fin 16)
  deriving DecidableEq, Repr

/-- What the module manager finds when it starts (R457, R594, R614): whether the image of slot 1, and of slot 2, passes, and whether the
self-test of pair A, and of pair B, does. -/
structure BootFacts where
  slot1 : Bool
  slot2 : Bool
  pairA : Bool
  pairB : Bool
  deriving DecidableEq, Repr

end Sys2Proof
end

