-- ==== Sys2Proof/Syntax.lean ====
section
/-! DEFINITION. Syntax: the commands the block takes and the shapes of their operands. -/
namespace Sys2Proof

/-- The commands of the block: one constructor for each row of spec/opcode_table.json. -/
inductive Instr where
  /-- REGISTER_WRITE (R61): A write to a control-space register that has no row of its own is judged by right, guard and value and applied through the page arbiter. -/
  | registerWrite (w : Writer) (p : PageNo) (off : Fin 4096) (size : Nat) (value : DWord)
  /-- OWNER_WRITE (R56): A guarded write to OWNER claims, releases or hands over a page. -/
  | ownerWrite (w : Writer) (p : PageNo) (value : Word)
  /-- ERR_FIRST_READ (R49): A read of ERR_FIRST by the owner or by MM returns the value and clears it as one action. -/
  | errFirstRead (w : Writer) (p : PageNo)
  /-- COUNTER_LOW_READ (R65): A 4-byte read of a counter's low word stores the counter's high word in the master's snapshot slot. -/
  | counterLowRead (w : Writer) (p : PageNo) (off : Fin 4096) (size : Nat)
  /-- BAR4_READ (R35): A read through the staging window reaches the mapped device-memory page, or returns zeros. -/
  | bar4Read (p : PortNo) (o : Nat) (n : Fin 4097)
  /-- BAR4_WRITE (R35): A write through the staging window reaches the mapped device-memory page, or is dropped and counted. -/
  | bar4Write (p : PortNo) (o : Nat) (b : List Byte)
  /-- EPOCH_BOUNDARY (R67): At the boundary time every page latches its live statistics into STAT_SHADOW, sets EPOCH and restarts its counters. -/
  | epochBoundary
  /-- RGN_SHADOW_LATCH (R112): A region page latches its shadow once the pace reading of the closed window has been made. -/
  | rgnShadowLatch (r : RgnNo)
  /-- CORE_HALT (R98): A write of CTL.HALT = 1 sends HALT to the core, which stops at its next resumable point. -/
  | coreHalt (w : Writer) (c : CoreNo) (guard : Byte)
  /-- CORE_RESUME (R200): A write of CTL.HALT = 0 restarts the detached instruction and then resumes issue from COR_PC. -/
  | coreResume (w : Writer) (c : CoreNo) (guard : Byte)
  /-- ZEROISE_COMPLETE (R94): The zeroise of a core, cluster store or slice completes and the block becomes READY for its latest owner. -/
  | zeroiseComplete (p : PageNo) (slice : Option (Fin 16)) (ok : Bool)
  /-- CLU_SLICE_OWNER_WRITE (R107): An MM write that changes a slice's owner starts the zeroise of that slice. -/
  | cluSliceOwnerWrite (w : Writer) (g : CluNo) (j : Fin 16) (value : Word)
  /-- PACE_WINDOW_END (R90): At each microsecond boundary RGN_PACE takes the step count and stamp of the window just ended. -/
  | paceWindowEnd (r : RgnNo) (micro : Nat) (steps : BitVec 16)
  /-- FABRIC_TRANSFER_ARRIVAL (R87): A transfer between clusters arrives at its destination, in order per source-destination pair. -/
  | fabricTransferArrival (x : CtxNo) (rank id : Nat)
  /-- FABRIC_TRANSFER_ERROR (R89): A transfer to a fenced or unreachable destination ends with an error returned to its source within 10 µs. -/
  | fabricTransferError (x : CtxNo) (rank id : Nat)
  /-- MERGE_READY (R84): The last contribution of a merge arrives and the operation queues for the cluster merge unit. -/
  | mergeReady (x : CtxNo) (group n : Nat)
  /-- MERGE_COMPLETE (R82): The merge unit finishes combining the contributions by the fixed tree and delivers the result. -/
  | mergeComplete (x : CtxNo) (group n : Nat)
  /-- POWER_GOVERNOR_ADJUST (R28): The power governor changes the core supply of a die to keep within the envelope, the policy target and the thermal limits. -/
  | powerGovernorAdjust (d : DieNo) (mv : Nat)
  /-- ADMISSION_GRANT (R30): A waiting array instruction is admitted in rank order once the accounted total allows it. -/
  | admissionGrant (c : CoreNo)
  /-- ARRAY_ISSUE_POINT (R128): An array instruction's operands are resident and admission is granted, so it pins its operands and begins the ramp-up. -/
  | arrayIssuePoint (c : CoreNo)
  /-- ARRAY_RESUMABLE_POINT (R138): The array reaches a group boundary or the end of a pass, rescales and records its position in PROG. -/
  | arrayResumablePoint (c : CoreNo)
  /-- ARRAY_RESULT_READY (R132): The drained result of an array instruction is marked resident for dependent instructions and its pins drop. -/
  | arrayResultReady (c : CoreNo)
  /-- ARRAY_RAMP_DOWN_END (R136): The 48-step ramp-down ends and the core is accounted as idle. -/
  | arrayRampDownEnd (c : CoreNo)
  /-- ADD (R177): Scalar 64-bit addition. -/
  | add (c : CoreNo) (x : SR)
  /-- SUB (R177): Scalar 64-bit subtraction. -/
  | sub (c : CoreNo) (x : SR)
  /-- MUL (R177): Low 64 bits of a scalar product. -/
  | mul (c : CoreNo) (x : SR)
  /-- MULHS (R177): High 64 bits of a signed scalar product. -/
  | mulhs (c : CoreNo) (x : SR)
  /-- MULHU (R177): High 64 bits of an unsigned scalar product. -/
  | mulhu (c : CoreNo) (x : SR)
  /-- DIVS (R178): Signed scalar division, with defined results for division by zero and overflow. -/
  | divs (c : CoreNo) (x : SR)
  /-- DIVU (R178): Unsigned scalar division. -/
  | divu (c : CoreNo) (x : SR)
  /-- REMS (R178): Signed scalar remainder. -/
  | rems (c : CoreNo) (x : SR)
  /-- REMU (R178): Unsigned scalar remainder. -/
  | remu (c : CoreNo) (x : SR)
  /-- AND (R177): Scalar bitwise AND. -/
  | andOp (c : CoreNo) (x : SR)
  /-- OR (R177): Scalar bitwise OR. -/
  | orOp (c : CoreNo) (x : SR)
  /-- XOR (R177): Scalar bitwise XOR. -/
  | xorOp (c : CoreNo) (x : SR)
  /-- SHL (R177): Scalar shift left by Sb & 63. -/
  | shl (c : CoreNo) (x : SR)
  /-- SHR (R177): Scalar logical shift right. -/
  | shr (c : CoreNo) (x : SR)
  /-- SRA (R177): Scalar arithmetic shift right. -/
  | sra (c : CoreNo) (x : SR)
  /-- MIN (R177): Signed scalar minimum. -/
  | minOp (c : CoreNo) (x : SR)
  /-- MAX (R177): Signed scalar maximum. -/
  | maxOp (c : CoreNo) (x : SR)
  /-- MINU (R177): Unsigned scalar minimum. -/
  | minu (c : CoreNo) (x : SR)
  /-- MAXU (R177): Unsigned scalar maximum. -/
  | maxu (c : CoreNo) (x : SR)
  /-- SLT (R177): Signed set-less-than. -/
  | slt (c : CoreNo) (x : SR)
  /-- SLTU (R177): Unsigned set-less-than. -/
  | sltu (c : CoreNo) (x : SR)
  /-- SEQ (R177): Set-equal. -/
  | seq (c : CoreNo) (x : SR)
  /-- POPC (R177): Population count of Sa (K2). -/
  | popc (c : CoreNo) (x : SR)
  /-- CLZ (R177): Leading zeros of Sa (K2). -/
  | clz (c : CoreNo) (x : SR)
  /-- ADDI (R179): Add a sign-extended immediate. -/
  | addi (c : CoreNo) (x : SI)
  /-- ANDI (R179): AND with a zero-extended immediate. -/
  | andi (c : CoreNo) (x : SI)
  /-- ORI (R179): OR with a zero-extended immediate. -/
  | ori (c : CoreNo) (x : SI)
  /-- XORI (R179): XOR with a zero-extended immediate. -/
  | xori (c : CoreNo) (x : SI)
  /-- SLTI (R179): Signed compare with a sign-extended immediate. -/
  | slti (c : CoreNo) (x : SI)
  /-- LUI (R179): Write the sign-extended immediate shifted left by 16. -/
  | lui (c : CoreNo) (x : SI)
  /-- SHIFTI (R179): Shift by an immediate amount, the kind chosen by imm16[7:6]. -/
  | shifti (c : CoreNo) (x : SI)
  /-- NOP (R189): No operation. -/
  | nop (c : CoreNo) (x : SY)
  /-- END (R224): Ends the core's program once every issued and posted instruction has finished. -/
  | endOp (c : CoreNo) (x : SY)
  /-- END_DONE (R224): The posted work that END waited for finishes, and the core stops or faults with the lowest failing set. -/
  | endDone (c : CoreNo)
  /-- TRAP (R189): Faults with class TRAP and detail imm11. -/
  | trap (c : CoreNo) (x : SY)
  /-- MFS (R171): Reads a special register into Sd. -/
  | mfs (c : CoreNo) (x : SY)
  /-- MTS (R171): Writes a special register: FSTAT, a loop counter or MIRAGE. -/
  | mts (c : CoreNo) (x : SY)
  /-- QCAP (R204): Returns a capability item of this module. -/
  | qcap (c : CoreNo) (x : SY)
  /-- LD (R180): Scalar load through an address register. -/
  | ld (c : CoreNo) (size : Fin 7) (x : MA)
  /-- ST (R180): Scalar store through an address register. -/
  | st (c : CoreNo) (size : Fin 7) (x : MA)
  /-- VLD (R180): Vector load of 128 bytes. -/
  | vld (c : CoreNo) (x : MA)
  /-- VST (R180): Vector store of 128 bytes. -/
  | vst (c : CoreNo) (x : MA)
  /-- LOOP (R190): Starts a hardware loop whose count is taken from a register. -/
  | loop (c : CoreNo) (x : LP)
  /-- LOOPI (R190): Starts a hardware loop with an immediate count. -/
  | loopi (c : CoreNo) (x : LPI)
  /-- BZ (R188): Branch if the register is zero. -/
  | bz (c : CoreNo) (x : BR)
  /-- BNZ (R188): Branch if the register is nonzero. -/
  | bnz (c : CoreNo) (x : BR)
  /-- BLTZ (R188): Branch if the register is negative. -/
  | bltz (c : CoreNo) (x : BR)
  /-- BGEZ (R188): Branch if the register is not negative. -/
  | bgez (c : CoreNo) (x : BR)
  /-- BANY (R188): Branch if the predicate is not zero. -/
  | bany (c : CoreNo) (x : BR)
  /-- BNONE (R188): Branch if the predicate is zero. -/
  | bnone (c : CoreNo) (x : BR)
  /-- B (R188): Unconditional branch. -/
  | b (c : CoreNo) (x : BR)
  /-- CALL (R188): Branch and write the return offset to S31. -/
  | call (c : CoreNo) (x : BR)
  /-- JR (R189): Jump to the offset held in a register. -/
  | jr (c : CoreNo) (x : SR)
  /-- JALR (R189): Jump to a register offset and link. -/
  | jalr (c : CoreNo) (x : SR)
  /-- ASET (R181): Set BASE of an address register. -/
  | aset (c : CoreNo) (x : SR)
  /-- ASTRIDE (R181): Set STRIDE of an address register. -/
  | astride (c : CoreNo) (x : SR)
  /-- ALSTEP (R181): Set LSTEPk of an address register. -/
  | alstep (c : CoreNo) (x : SR)
  /-- AGET (R181): Read BASE of an address register. -/
  | aget (c : CoreNo) (x : SR)
  /-- AADD (R181): Add to BASE of an address register. -/
  | aadd (c : CoreNo) (x : SR)
  /-- VADD (R183): Vector add. -/
  | vadd (c : CoreNo) (x : VV)
  /-- VSUB (R183): Vector subtract. -/
  | vsub (c : CoreNo) (x : VV)
  /-- VMUL (R183): Vector multiply. -/
  | vmul (c : CoreNo) (x : VV)
  /-- VMIN (R184): Vector minimum. -/
  | vmin (c : CoreNo) (x : VV)
  /-- VMAX (R184): Vector maximum. -/
  | vmax (c : CoreNo) (x : VV)
  /-- VABS (R183): Clear the sign bit of each lane. -/
  | vabs (c : CoreNo) (x : VV)
  /-- VNEG (R183): Invert the sign bit of each lane. -/
  | vneg (c : CoreNo) (x : VV)
  /-- VRCP (R184): Vector reciprocal. -/
  | vrcp (c : CoreNo) (x : VV)
  /-- VRSQ (R184): Vector reciprocal square root. -/
  | vrsq (c : CoreNo) (x : VV)
  /-- VEXP2 (R184): Vector base-2 exponential. -/
  | vexp2 (c : CoreNo) (x : VV)
  /-- VLOG2 (R184): Vector base-2 logarithm. -/
  | vlog2 (c : CoreNo) (x : VV)
  /-- VTANH (R184): Vector hyperbolic tangent (K2). -/
  | vtanh (c : CoreNo) (x : VV)
  /-- VSEL (R183): Select lanes by a predicate. -/
  | vsel (c : CoreNo) (x : VV)
  /-- VRSUM (R184): Sum the active lanes by the fixed tree into lane 0. -/
  | vrsum (c : CoreNo) (x : VV)
  /-- VRMAX (R184): Maximum of the active lanes into lane 0. -/
  | vrmax (c : CoreNo) (x : VV)
  /-- VBCAST (R183): Broadcast a scalar to the active lanes. -/
  | vbcast (c : CoreNo) (x : VV)
  /-- VEXTR (R183): Extract one lane into a scalar register. -/
  | vextr (c : CoreNo) (x : VV)
  /-- VIADD (R183): Vector S32 add. -/
  | viadd (c : CoreNo) (x : VV)
  /-- VISUB (R183): Vector S32 subtract. -/
  | visub (c : CoreNo) (x : VV)
  /-- VIMUL (R183): Vector S32 multiply, keeping the low 32 bits. -/
  | vimul (c : CoreNo) (x : VV)
  /-- VAND (R183): Vector bitwise AND. -/
  | vand (c : CoreNo) (x : VV)
  /-- VOR (R183): Vector bitwise OR. -/
  | vor (c : CoreNo) (x : VV)
  /-- VXOR (R183): Vector bitwise XOR. -/
  | vxor (c : CoreNo) (x : VV)
  /-- VSHL (R183): Vector shift left. -/
  | vshl (c : CoreNo) (x : VV)
  /-- VSHR (R183): Vector logical shift right. -/
  | vshr (c : CoreNo) (x : VV)
  /-- VCVTIF (R183): Convert S32 lanes to FP32. -/
  | vcvtif (c : CoreNo) (x : VV)
  /-- VCVTFI (R183): Convert FP32 lanes to S32. -/
  | vcvtfi (c : CoreNo) (x : VV)
  /-- VNARROW (R183): Narrow two FP32 vectors into BF16 lanes (K2). -/
  | vnarrow (c : CoreNo) (x : VV)
  /-- VWIDENL (R183): Widen BF16 lanes 0 to 31 to FP32 (K2). -/
  | vwidenl (c : CoreNo) (x : VV)
  /-- VWIDENH (R183): Widen BF16 lanes 32 to 63 to FP32 (K2). -/
  | vwidenh (c : CoreNo) (x : VV)
  /-- VFMA (R183): Fused multiply-add with one rounding. -/
  | vfma (c : CoreNo) (x : VV)
  /-- VCMP (R183): Compare lanes and write a predicate. -/
  | vcmp (c : CoreNo) (fn : Fin 6) (x : VV)
  /-- VGTH (R186): Gather active lanes from base plus per-lane offsets. -/
  | vgth (c : CoreNo) (x : VV)
  /-- VSCT (R186): Scatter active lanes to base plus per-lane offsets. -/
  | vsct (c : CoreNo) (x : VV)
  /-- PAND (R187): Predicate AND. -/
  | pand (c : CoreNo) (x : PD)
  /-- POR (R187): Predicate OR. -/
  | por (c : CoreNo) (x : PD)
  /-- PXOR (R187): Predicate XOR. -/
  | pxor (c : CoreNo) (x : PD)
  /-- PANDN (R187): Predicate AND-NOT. -/
  | pandn (c : CoreNo) (x : PD)
  /-- PNOT (R187): Predicate NOT. -/
  | pnot (c : CoreNo) (x : PD)
  /-- PMOVS (R187): Copy a scalar register to a predicate. -/
  | pmovs (c : CoreNo) (x : PD)
  /-- SMOVP (R187): Copy a predicate to a scalar register. -/
  | smovp (c : CoreNo) (x : PD)
  /-- PCNT (R187): Count the set bits of a predicate. -/
  | pcnt (c : CoreNo) (x : PD)
  /-- PFIRST (R187): Index of the lowest set bit of a predicate. -/
  | pfirst (c : CoreNo) (x : PD)
  /-- TLD (R214): Load a tensor descriptor from local store. -/
  | tld (c : CoreNo) (x : XT)
  /-- TST (R214): Store a tensor descriptor to local store. -/
  | tst (c : CoreNo) (x : XT)
  /-- TMOV (R214): Copy a tensor descriptor. -/
  | tmov (c : CoreNo) (x : XT)
  /-- TADDR (R214): Set a descriptor's ADDR. -/
  | taddr (c : CoreNo) (x : XT)
  /-- TSETF (R214): Set a descriptor field. -/
  | tsetf (c : CoreNo) (x : XT)
  /-- TGETF (R214): Read a descriptor field. -/
  | tgetf (c : CoreNo) (x : XT)
  /-- AMUL (R225): Decodes and checks an array product, then waits for residency and admission. -/
  | amul (c : CoreNo) (x : XT)
  /-- RANGE (R229): Range pass that writes scales, reciprocals, zero points and a record. -/
  | range (c : CoreNo) (x : XT)
  /-- QCONV (R230): Quantise an FP tensor to integer codes. -/
  | qconv (c : CoreNo) (x : XT)
  /-- DQCONV (R231): Convert integer codes to FP32 or BF16. -/
  | dqconv (c : CoreNo) (x : XT)
  /-- TPACK (R232): Build the tiled weight layout from dense codes. -/
  | tpack (c : CoreNo) (x : XT)
  /-- LONG_ISSUE_POINT (R197): A long instruction other than AMUL reaches its issue point and detaches. -/
  | longIssuePoint (c : CoreNo)
  /-- LONG_RESUMABLE_POINT (R233): A long instruction reaches a resumable point and updates PROG. -/
  | longResumablePoint (c : CoreNo)
  /-- LONG_COMPLETE (R196): A long instruction completes, writes its final results and unpins its operands. -/
  | longComplete (c : CoreNo)
  /-- MOVE (R234): Posted tensor copy carried out by the tier engine. -/
  | move (c : CoreNo) (x : XT)
  /-- MRD (R236): Posted read of logical blocks into a tensor. -/
  | mrd (c : CoreNo) (x : XT)
  /-- MWR (R236): Posted write of a tensor to logical blocks. -/
  | mwr (c : CoreNo) (x : XT)
  /-- POSTED_ACCEPT (R220): A posted instruction is accepted once a tag, room and any launch time allow, and it pins its extents. -/
  | postedAccept (c : CoreNo)
  /-- POSTED_FINISH (R221): A posted instruction's unit finishes the work and decrements its completion set. -/
  | postedFinish (x : CtxNo) (rank id : Nat) (bad : List Nat)
  /-- POSTED_FAILURE (R237): A posted instruction fails after acceptance and records a failure word in its set. -/
  | postedFailure (x : CtxNo) (rank id : Nat) (kind : Fin 3) (block : BitVec 16)
  /-- SELT (R258): Threshold compaction into a LIST and the live list. -/
  | selt (c : CoreNo) (x : XT)
  /-- TOPK (R265): Top-k selection into a LIST with PAIRS. -/
  | topk (c : CoreNo) (x : XT)
  /-- PQLOAD (R242): Load a distance table into the product-code engine. -/
  | pqload (c : CoreNo) (x : XT)
  /-- PQSCAN (R243): Score product codes, optionally fused with compaction or top-k. -/
  | pqscan (c : CoreNo) (x : XT)
  /-- CHKV (R244): Compute a configurable CRC over a tensor. -/
  | chkv (c : CoreNo) (x : XT)
  /-- CRED (R248): Collective reduction. -/
  | cred (c : CoreNo) (x : XT)
  /-- CBCAST (R248): Collective broadcast from the root. -/
  | cbcast (c : CoreNo) (x : XT)
  /-- CCAT (R272): Collective concatenation of lists. -/
  | ccat (c : CoreNo) (x : XT)
  /-- CTOPK (R274): Collective top-k merge. -/
  | ctopk (c : CoreNo) (x : XT)
  /-- CBAR (R248): Collective barrier. -/
  | cbar (c : CoreNo) (x : XT)
  /-- COLLECTIVE_FINISH (R249): A collective's result is written to a member's Td, or all contributions are accepted, and its set finishes. -/
  | collectiveFinish (x : CtxNo) (rank id : Nat)
  /-- COLLECTIVE_MEMBER_LOST (R249): A member is lost before contributing, and the collective fails with MEMBER_LOST on every survivor. -/
  | collectiveMemberLost (x : CtxNo) (rank id : Nat) (remote : Bool)
  /-- TWAIT (R223): Waits for the named completion sets. -/
  | twait (c : CoreNo) (x : XT)
  /-- TWAIT_DONE (R223): The named sets finish; the failure word is returned, the sets are cleared and a fault is taken if it applies. -/
  | twaitDone (c : CoreNo)
  /-- TAT (R250): Sets a launch time for the next instruction. -/
  | tat (c : CoreNo) (x : XT)
  /-- TIMED_LAUNCH_TIME (R251): The launch time is reached; the timed instruction issues, or is late or dropped. -/
  | timedLaunchTime (c : CoreNo)
  /-- STOP_PREEMPT (R198): The dispatcher's PREEMPT stops issue, withdraws the waiting instruction and runs the detached one to its resumable point. -/
  | stopPreempt (c : CoreNo)
  /-- STOP_TEARDOWN (R198): The dispatcher's TEARDOWN stops the core and discards its state. -/
  | stopTeardown (c : CoreNo)
  /-- CORE_STOP_DONE (R198): The core reaches its stopping point, writes the state record for PREEMPT, and reports HALTED. -/
  | coreStopDone (c : CoreNo)
  /-- CARAVAN_FILL_START (R319): A layer instance comes within LEAD and the tier engine starts filling its tensor copies in order. -/
  | caravanFillStart (x : CtxNo)
  /-- COPY_RESIDENT (R310): The last byte of a tensor copy is written and the copy becomes RESIDENT. -/
  | copyResident (x : CtxNo) (tid : Nat) (cluster : Bool) (place : Nat)
  /-- GATE_REACH (R317): A core reaches a layer's gated instruction and waits for the decision of the layer instance. -/
  | gateReach (c : CoreNo)
  /-- LAYER_DEADLINE (R322): The deadline of an undecided layer instance passes, and the instance is decided MIRAGE unless its kind is WAIT. -/
  | layerDeadline (x : CtxNo) (layer iter : Nat)
  /-- FILL_FAILED (R328): A caravan fill fails, so its layer instance is decided FAILED. -/
  | fillFailed (x : CtxNo) (tid : Nat) (cluster : Bool) (place : Nat) (kind : FillError)
  /-- DECISION_DELIVERY (R324): A layer decision reaches the cores of the instance, and waiting cores act on it. -/
  | decisionDelivery (c : CoreNo)
  /-- COPY_RELEASE (R320): Once every core has left the instance and its pins drop, a non-PERSIST copy is released. -/
  | copyRelease (x : CtxNo) (tid : Nat) (cluster : Bool) (place : Nat)
  /-- DEVMEM_PAGE_ZEROISE (R331): A released or new program page finishes background zeroising and becomes assignable. -/
  | devmemPageZeroise (p : Fin 196608)
  /-- TIE_LEAD_MAX_WRITE (R335): A write of the largest LEAD honoured, which takes effect for later layer instances. -/
  | tieLeadMaxWrite (w : Writer) (d : DieNo) (value : Word)
  /-- DMM_TEMP_READING (R337): A stack temperature reading sets the refresh rate and the hardware throttle. -/
  | dmmTempReading (k : StackNo) (deg : Int)
  /-- CONTEXT_OPEN (R339): Context Open command: image check, page assignment, save area and device-memory CONST load. -/
  | contextOpen (cmd : CmdRef) (data : List Byte)
  /-- OPEN_PAGES_ZEROISED (R340): An open that waits for zeroised pages obtains them and continues. -/
  | openPagesZeroised (x : CtxNo)
  /-- OPEN_TIMEOUT (R340): An open that waited 50 ms for zeroised pages fails with RESOURCES and releases its pages. -/
  | openTimeout (x : CtxNo)
  /-- COMPUTE (R341): Compute command that makes a run of the context, or is queued behind the current run. -/
  | compute (cmd : CmdRef) (x : Nat) (data : List Byte)
  /-- RUN_PLACEMENT (R349): The dispatcher places an eligible run on the first free units and hands over its pages and slices. -/
  | runPlacement
  /-- DSP_QUANTUM_EXPIRY (R352): A BE run has held its cores for DSP_QUANTUM while another BE run waits, and it is preempted. -/
  | dspQuantumExpiry
  /-- DSP_AGE_LIMIT_REACHED (R348): A waiting run reaches DSP_AGE_LIMIT and stops later runs from passing it. -/
  | dspAgeLimitReached (x : CtxNo)
  /-- RUN_START (R350): Once every core is zeroised and its CONST sections loaded, the run's cores start together. -/
  | runStart (x : CtxNo)
  /-- RUN_SAVE_DONE (R353): The state records, local stores and slices of a preempted run are saved, and the run becomes PARKED. -/
  | runSaveDone (x : CtxNo)
  /-- RUN_RESTORE_DONE (R355): The save area of a parked run is read back and its cores resume. -/
  | runRestoreDone (x : CtxNo)
  /-- RUN_TEARDOWN (R357): A faulted, aborted or closed run is torn down and its cores and slices are released. -/
  | runTeardown (x : CtxNo) (byMm : Bool)
  /-- RUN_COMPLETE (R341): Every core of the run has ended or the run is torn down, and the run report is posted. -/
  | runComplete (x : CtxNo)
  /-- RUN_ABORT (R443): Run Abort command that tears down or discards the context's run. -/
  | runAbort (cmd : CmdRef) (x : Nat)
  /-- CONTEXT_CLOSE (R443): Context Close command, refused while a run exists unless FORCE is set. -/
  | contextClose (cmd : CmdRef) (x : Nat) (force : Bool)
  /-- JOIN (R364): Join command that joins a context into a job across modules. -/
  | join (cmd : CmdRef) (x : CtxNo) (id : Word) (count index : BitVec 15)
  /-- CONTEXT_CONTROL (R362): Context Control command that makes one control-space access as PK. -/
  | contextControl (cmd : CmdRef) (x : Nat) (p : PageNo) (off : Fin 4096) (write : Bool) (value : Word)
  /-- STAGING_ALLOCATE (R437): Takes zeroised 2 MiB pages as staging pages for the port. -/
  | stagingAllocate (cmd : CmdRef) (n : Nat)
  /-- STAGING_RELEASE (R437): Releases and zeroises staging pages and empties the map entries that name them. -/
  | stagingRelease (cmd : CmdRef) (first n : Nat)
  /-- STAGING_MAP (R437): Applies BAR4 staging map entries in order. -/
  | stagingMap (cmd : CmdRef) (entries : List (Word × Word))
  /-- ABORT_BY_TAG (R448): Aborts a fetched command named by SQID and CID at best effort and reports the outcome. -/
  | abortByTag (cmd : CmdRef) (sqid cid : BitVec 16)
  /-- ABORT (R448): The standard Abort command, which acts as Abort by Tag. -/
  | abort (cmd : CmdRef) (sqid cid : BitVec 16)
  /-- INDEX_CREATE (R436): Writes the persistent form of a new index into its namespace. -/
  | indexCreate (cmd : CmdRef) (nsid : Nat) (data : List Byte)
  /-- INDEX_ATTACH (R277): Opens a search context and reads the index into its device memory. -/
  | indexAttach (cmd : CmdRef) (nsid : Nat) (be : Bool) (gran : Fin 4) (ncores : Nat) (window : BitVec 16) (batchMax : BitVec 15)
  /-- INDEX_DETACH (R435): Writes the merged lists back and detaches the index. -/
  | indexDetach (cmd : CmdRef) (x : Nat)
  /-- SEARCH (R288): Search command whose queries join the index's open batch window. -/
  | search (cmd : CmdRef) (x : Nat) (data : List Byte)
  /-- SEARCH_WINDOW_CLOSE (R294): A window closes when WINDOW passes or BATCH_MAX is reached, and fixes the visible state. -/
  | searchWindowClose (x : CtxNo)
  /-- WINDOW_SCAN_END (R296): A window finishes scanning its lists and its queries are answered. -/
  | windowScanEnd (x : CtxNo)
  /-- INSERT (R299): Encodes vectors and appends drift entries with sequence numbers. -/
  | insert (cmd : CmdRef) (x : Nat) (data : List Byte)
  /-- DELETE (R300): Records tombstones with sequence numbers. -/
  | delete (cmd : CmdRef) (x : Nat) (ids : List (BitVec 64))
  /-- MERGE (R442): Merge command that merges every list up to SEQ at the command's arrival. -/
  | merge (cmd : CmdRef) (x : Nat)
  /-- LIST_MERGE_START (R303): A background merge begins when the drift list or tombstone set reaches MERGE_AT. -/
  | listMergeStart (x : CtxNo) (l : Nat)
  /-- LIST_MERGE_COMPLETE (R302): A list's new version is installed as one change between two window closes. -/
  | listMergeComplete (x : CtxNo) (l : Nat)
  /-- VERSION_RELEASE (R302): Once every window that saw them has finished, old versions, folded drift entries and freed slots are released. -/
  | versionRelease (x : CtxNo)
  /-- REBUILD (R304): Rebuild command that trains and encodes a new index from the raw vectors. -/
  | rebuild (cmd : CmdRef) (x : Nat) (nlist m codeBits sample iterations seed : Nat)
  /-- REBUILD_PROMOTION (R305): After replay, the rebuilt index replaces the old one at a window close. -/
  | rebuildPromotion (x : CtxNo)
  /-- READ (R392): NVM Read through the map, LDPC stages and protection checks. -/
  | read (cmd : CmdRef) (a : LbaSpan) (pr : PrInfo) (d : Decodes)
  /-- WRITE (R381): NVM Write that completes once its data is in the protected write buffer, or under write-through. -/
  | write (cmd : CmdRef) (a : LbaSpan) (pr : PrInfo) (data : Option (List Byte))
  /-- WRITE_ZEROES (R405): Write Zeroes, with or without DEAC. -/
  | writeZeroes (cmd : CmdRef) (a : LbaSpan) (pr : PrInfo) (deac full : Bool)
  /-- DATASET_MANAGEMENT (R402): Deallocation hint for ranges of logical blocks. -/
  | datasetManagement (cmd : CmdRef) (nsid : Nat) (deallocate : Bool) (ranges : List (Nat × Nat × Bool))
  /-- COMPARE (R449): NVM Compare. -/
  | compare (cmd : CmdRef) (a : LbaSpan) (pr : PrInfo) (d : Decodes) (data : List Byte)
  /-- VERIFY (R449): NVM Verify. -/
  | verify (cmd : CmdRef) (a : LbaSpan) (pr : PrInfo) (d : Decodes)
  /-- FLUSH (R424): Flush, which completes without media work. -/
  | flush (cmd : CmdRef) (nsid : Nat)
  /-- RESERVATION_REGISTER (R424): NVMe reservation register. -/
  | reservationRegister (cmd : CmdRef) (nsid : Nat) (rrega : Fin 8) (iekey : Bool) (cptpl : Fin 4) (crkey nrkey : DWord)
  /-- RESERVATION_ACQUIRE (R424): NVMe reservation acquire. -/
  | reservationAcquire (cmd : CmdRef) (nsid : Nat) (racqa : Fin 8) (rtype : Nat) (crkey prkey : DWord)
  /-- RESERVATION_RELEASE (R424): NVMe reservation release. -/
  | reservationRelease (cmd : CmdRef) (nsid : Nat) (rrela : Fin 8) (rtype : Nat) (crkey : DWord)
  /-- RESERVATION_REPORT (R424): NVMe reservation report. -/
  | reservationReport (cmd : CmdRef) (nsid bytes : Nat)
  /-- GATHER_STRIPE_PROGRAMMED (R382): A gather stripe with its XOR page finishes programming. -/
  | gatherStripeProgrammed (g : Fin 15) (failed : List (Fin 512))
  /-- DIRECT_PATH_PROGRAMMED (R383): A QLC wordline of the direct path programs and its buffer entries are freed. -/
  | directPathProgrammed (die : Fin 512) (failed : Bool)
  /-- FOLD (R384): Background folding moves gather data into QLC bands with conditional map changes. -/
  | fold (die : Fin 512) (failed : Bool)
  /-- BAND_CLOSE (R386): The last wordline and parity of a band are programmed, and the band becomes CLOSED. -/
  | bandClose (b : Nat)
  /-- BAND_VERIFY_START (R388): One second after close, margin verification of the band begins. -/
  | bandVerifyStart (b : Nat)
  /-- BAND_VERIFY_END (R388): Verification ends and failing pages are relocated. -/
  | bandVerifyEnd (b : Nat) (fails : List (Nat × Nat)) (target : Fin 512) (retired : List (Fin 512))
  /-- BAND_RELEASE (R389): The band's release record becomes durable and the band is RELEASED. -/
  | bandRelease (b : Nat)
  /-- DEFERRED_ERROR_CREATE (R394): Data of a completed write is found lost and a deferred error record is created. -/
  | deferredErrorCreate (nsid slba nlb : Nat)
  /-- CHANNEL_RETRAIN (R375): A flash channel retrains after a 20 °C drift or a lehr. -/
  | channelRetrain (c : ChanNo)
  /-- PATROL_READ (R398): A patrol read of a block, followed by relocation if it is needed. -/
  | patrolRead (stripe : Bool) (id : Nat) (die : Fin 512) (weak : Bool) (target : Fin 512)
  /-- READ_DISTURB_LIMIT (R398): A block reaches its read count limit and its neighbours are checked. -/
  | readDisturbLimit (stripe : Bool) (id : Nat) (die : Fin 512) (fail : Bool) (target : Fin 512)
  /-- RETENTION_LIMIT (R398): A block reaches its retention age and its data is relocated. -/
  | retentionLimit (stripe : Bool) (id : Nat) (die : Fin 512) (deg : Nat) (target : Fin 512)
  /-- DIE_EVACUATION (R399): A die's valid data is relocated, the die retires and a spare enters service. -/
  | dieEvacuation (d : Fin 512) (target : Fin 512)
  /-- DIE_FAILURE (R400): A die that fails without warning is fenced and its data reconstructed or lost. -/
  | dieFailure (d : Fin 512) (target : Fin 512)
  /-- READ_ONLY_ENTRY (R401): The spare-block pool falls below 2 % and the module becomes read-only. -/
  | readOnlyEntry (pm : Fin 20)
  /-- HOLDUP_TEST (R411): The daily or commanded hold-up test measures the bank and sets HOLDUP_OK. -/
  | holdupTest (us : Nat)
  /-- MED_TEST_HOLDUP (R411): A write of MED CTL.TEST_HOLDUP starts a hold-up test. -/
  | medTestHoldup (w : Writer) (guard : Byte) (writeThrough : Bool)
  /-- ONF_DIE_EVACUATE (R418): MM command that evacuates a die. -/
  | onfDieEvacuate (w : Writer) (c : ChanNo) (pos : Fin 16)
  /-- ONF_DIE_RETIRE (R418): MM command that retires a fenced or emptied die. -/
  | onfDieRetire (w : Writer) (c : ChanNo) (pos : Fin 16)
  /-- ONF_DIE_TEST (R418): MM command that tests a spare or fenced die. -/
  | onfDieTest (w : Writer) (c : ChanNo) (pos : Fin 16)
  /-- SANITIZE (R410): Crypto-erase that replaces every namespace key. -/
  | sanitize (cmd : CmdRef) (action : Fin 8)
  /-- FORMAT_NVM (R410): Format NVM, with optional secure erase by key replacement. -/
  | formatNvm (cmd : CmdRef) (nsid : Nat) (lbaf : Fin 16) (ext : Bool) (pi : Fin 8) (pil : Bool) (ses : Fin 8)
  /-- NAMESPACE_MANAGEMENT (R409): Creates or deletes a namespace, generating its key pair. -/
  | namespaceManagement (cmd : CmdRef) (sel : Fin 16) (nsid : Nat) (data : List Byte)
  /-- NAMESPACE_ATTACHMENT (R424): Attaches or detaches namespaces to controllers. -/
  | namespaceAttachment (cmd : CmdRef) (sel : Fin 16) (nsid : Nat) (ctrls : List Nat)
  /-- SQ_TAIL_DOORBELL (R432): A submission tail doorbell write makes commands available for fetch; an invalid one raises an event. -/
  | sqTailDoorbell (p : PortNo) (y : Fin 4097) (tail : BitVec 16)
  /-- CQ_HEAD_DOORBELL (R428): A completion head doorbell write frees completion entries. -/
  | cqHeadDoorbell (p : PortNo) (y : Fin 4097) (head : BitVec 16)
  /-- COMMAND_FETCH (R431): A command is fetched once a tag is available, in arbitration order. -/
  | commandFetch (cid : BitVec 16) (op : Byte)
  /-- COALESCING_TIMER (R433): The interrupt aggregation time expires and the interrupt is sent. -/
  | coalescingTimer (p : PortNo) (v : Fin 2048)
  /-- CREATE_IO_SQ (R429): Creates an I/O submission queue. -/
  | createIoSq (cmd : CmdRef) (qid size cq : Nat) (prio : Fin 4)
  /-- CREATE_IO_CQ (R429): Creates an I/O completion queue. -/
  | createIoCq (cmd : CmdRef) (qid size vector : Nat) (ien : Bool)
  /-- DELETE_IO_SQ (R429): Deletes an I/O submission queue. -/
  | deleteIoSq (cmd : CmdRef) (qid : Nat)
  /-- DELETE_IO_CQ (R429): Deletes an I/O completion queue. -/
  | deleteIoCq (cmd : CmdRef) (qid : Nat)
  /-- DOORBELL_BUFFER_CONFIG (R424): Configures shadow doorbell buffers. -/
  | doorbellBufferConfig (cmd : CmdRef)
  /-- ASYNC_EVENT_REQUEST (R469): Arms an asynchronous event request slot. -/
  | asyncEventRequest (cmd : CmdRef)
  /-- IDENTIFY (R460): Returns Identify Controller or Namespace data. -/
  | identify (cmd : CmdRef) (cns : Byte) (nsid cntid : Nat)
  /-- GET_LOG_PAGE (R469): Returns a log page and re-arms its event when RAE = 0. -/
  | getLogPage (cmd : CmdRef) (lid : Byte) (rae : Bool) (off len : Nat)
  /-- SET_FEATURES (R474): Sets a feature, applied in arrival order across controllers and sideband. -/
  | setFeatures (cmd : CmdRef) (fid : Byte) (save : Bool) (nsid dw11 dw12 : Nat) (data : List Byte)
  /-- GET_FEATURES (R471): Returns a feature value. -/
  | getFeatures (cmd : CmdRef) (fid : Byte) (sel : Fin 8) (nsid dw11 : Nat)
  /-- NVME_MI_SEND (R483): NVMe-MI Send through the admin queue. -/
  | nvmeMiSend (cmd : CmdRef) (r : MiReq)
  /-- NVME_MI_RECEIVE (R483): NVMe-MI Receive through the admin queue. -/
  | nvmeMiReceive (cmd : CmdRef) (r : MiReq)
  /-- FIRMWARE_IMAGE_DOWNLOAD (R476): Places a piece of a firmware image in the controller's download buffer. -/
  | firmwareImageDownload (cmd : CmdRef) (off : Nat) (data : List Byte)
  /-- FW_COMMIT_REPLACE (R477): Firmware Commit CA 0: check the image and write the slot. -/
  | fwCommitReplace (cmd : CmdRef) (slot : Fin 8) (f : FwFacts)
  /-- FW_COMMIT_REPLACE_ACTIVATE (R477): Firmware Commit CA 1: write the slot and activate it at the next module reset. -/
  | fwCommitReplaceActivate (cmd : CmdRef) (slot : Fin 8) (f : FwFacts)
  /-- FW_COMMIT_ACTIVATE (R477): Firmware Commit CA 2: activate the existing slot at the next module reset. -/
  | fwCommitActivate (cmd : CmdRef) (slot : Fin 8)
  /-- FW_COMMIT_ACTIVATE_NOW (R478): Firmware Commit CA 3: write the slot and activate it without reset. -/
  | fwCommitActivateNow (cmd : CmdRef) (slot : Fin 8) (f : FwFacts)
  /-- FW_SLOT_WRITE_DONE (R477): A slot write finishes, or fails on verification. -/
  | fwSlotWriteDone (ok : Bool)
  /-- FW_ACTIVATION_PROGRESS (R478): A step of activation without reset completes: standby boot, state transfer, handover, unit update or former pair reboot. -/
  | fwActivationProgress
  /-- CALIBRATION_WRITE (R481): Replaces the calibration overlay and starts its apply. -/
  | calibrationWrite (cmd : CmdRef) (data : List Byte)
  /-- RESTORE_FACTORY (R481): Empties the calibration overlay and starts its apply. -/
  | restoreFactory (cmd : CmdRef)
  /-- CALIBRATION_READ (R481): Returns the factory, overlay or effective calibration record. -/
  | calibrationRead (cmd : CmdRef) (which : Fin 4)
  /-- CALIBRATION_APPLY_DONE (R481): The last unit passes its calibration lehr and vendor event 0x06 is raised. -/
  | calibrationApplyDone
  /-- MM_HANDOVER (R457): A lockstep mismatch or watchdog expiry hands service to the standby pair. -/
  | mmHandover (mismatch : Bool)
  /-- TEMP_HISTORY_SAVE (R467): The temperature history is written to media metadata every hour. -/
  | tempHistorySave
  /-- MI_READ_DATA_STRUCTURE (R483): NVMe-MI Read NVMe-MI Data Structure. -/
  | miReadDataStructure (tag : Nat) (dtyp : Byte)
  /-- MI_SUBSYSTEM_HEALTH_POLL (R483): NVMe-MI NVM Subsystem Health Status Poll. -/
  | miSubsystemHealthPoll (tag : Nat)
  /-- MI_CONTROLLER_HEALTH_POLL (R483): NVMe-MI Controller Health Status Poll. -/
  | miControllerHealthPoll (tag : Nat)
  /-- MI_CONFIGURATION_GET (R483): NVMe-MI Configuration Get. -/
  | miConfigurationGet (tag : Nat) (id : Byte)
  /-- MI_CONFIGURATION_SET (R483): NVMe-MI Configuration Set. -/
  | miConfigurationSet (tag : Nat) (id : Byte) (value : Nat)
  /-- MI_VPD_READ (R483): Returns the 256 VPD bytes of the option area. -/
  | miVpdRead (tag : Nat)
  /-- MI_VPD_WRITE (R604): Commits new VPD bytes as a new option record. -/
  | miVpdWrite (tag : Nat) (data : List Byte)
  /-- MI_TUNNELLED_ADMIN (R483): An admin command tunnelled over the sideband to a named controller. -/
  | miTunnelledAdmin (tag : Nat) (p : PortNo) (r : AdminReq)
  /-- LANE_LOCK (R488): A lane confirms a candidate alignment and locks. -/
  | laneLock (l : LinkNo) (lane : Fin 2) (decodes : Fin 8) (field : Fin 2) (cw0 cw1 cw2 : Fin 64)
  /-- BLOCK_RECEIVE (R491): A block is decoded and checked, delivering its ACK and CREDIT and accepting or discarding DATA. -/
  | blockReceive (l : LinkNo) (lane : Fin 2) (w : CodeWord)
  /-- REPLAY_TIMEOUT (R492): The oldest unacknowledged block waits 10 µs and the sender replays. -/
  | replayTimeout (l : LinkNo)
  /-- LINK_RETRAIN (R493): The link enters RETRAIN and searches for lock again. -/
  | linkRetrain (l : LinkNo)
  /-- LINK_RETRAIN_DONE (R493): Retraining ends with READY and traffic resumes from the peer's ACK, or it fails. -/
  | linkRetrainDone (l : LinkNo) (pass : Bool)
  /-- LINK_DOWN (R505): The link goes DOWN, discards its replay buffer and queues, and sends GAP_CHECKs. -/
  | linkDown (l : LinkNo)
  /-- TRAIN_RECORD_RECEIVE (R514): A TRAIN block advances link training: negotiation, rate change or READY. -/
  | trainRecordReceive (l : LinkNo) (r : TrainRec)
  /-- LINK_ADMIT (R516): With ADMIT on both sides and the link time-locked, the link enters ACTIVE. -/
  | linkAdmit (l : LinkNo) (far : Bool)
  /-- FRAME_FORWARD (R498): The router delivers, forwards, discards or drops a frame. -/
  | frameForward
  /-- PWRITE_FRAME (R519): A peer's control-space write is applied as PE. -/
  | pwriteFrame
  /-- READ_FRAME (R519): A peer's control-space read is answered with a COMPLETION. -/
  | readFrame
  /-- COMPLETION_FRAME (R497): The value of an earlier READ returns to the module manager. -/
  | completionFrame
  /-- COLL_FRAME (R508): A collective contribution, result or abort frame is applied, or rejected for lack of a member. -/
  | collFrame
  /-- NOTICE_FRAME (R507): A POISON, DROPPED, REJECTED or EVENT notice fails frames or logs a peer event. -/
  | noticeFrame
  /-- SACK_FRAME (R501): A stream acknowledgement frees the frames it covers. -/
  | sackFrame
  /-- GAP_CHECK_FRAME (R504): A GAP_CHECK either poisons the stream or is answered with a SACK. -/
  | gapCheckFrame
  /-- JOIN_FRAME (R364): A member announces that it has joined the job. -/
  | joinFrame
  /-- TIME_FRAME (R530): A TIME REQUEST, RESPONSE or FOLLOW is stamped and answered or used to compute the offset. -/
  | timeFrame
  /-- REORDER_HOLD_TIMEOUT (R502): A gap is not filled within 50 µs and the stream is poisoned. -/
  | reorderHoldTimeout (src : Fin 16384) (vc : Fin 2)
  /-- POISON_REPEAT_TIMER (R503): A poisoned stream repeats its POISON notice at most every 100 µs. -/
  | poisonRepeatTimer (src : Fin 16384) (vc : Fin 2)
  /-- SACK_TIMER (R504): A SACK is sent within 10 µs of an uncovered applied frame. -/
  | sackTimer (src : Fin 16384) (vc : Fin 2)
  /-- GAP_CHECK_TIMER (R504): The source's oldest unacknowledged frame has waited 100 µs, and a GAP_CHECK is sent. -/
  | gapCheckTimer (dst : Fin 16384) (vc : Fin 3)
  /-- LINK_DRAIN_DONE (R517): A fenced link's replay buffer is empty and 50 µs have passed, so it goes DOWN with reason FENCED. -/
  | linkDrainDone (l : LinkNo)
  /-- LINK_TEST_END (R517): The 10 ms PRBS test of a link ends. -/
  | linkTestEnd (l : LinkNo) (n : Nat)
  /-- AUP_RETRAIN_WRITE (R521): A write of CTL.RETRAIN puts the link into RETRAIN. -/
  | aupRetrainWrite (w : Writer) (l : LinkNo) (value : Word)
  /-- AUP_ROUTE_ENTRY_WRITE (R522): Replaces the route table entry of the master's selected destination. -/
  | aupRouteEntryWrite (w : Writer) (l : LinkNo) (value : Word)
  /-- TIME_REQUEST_TIMER (R530): Every 16 µs each end of a trained link sends a TIME REQUEST. -/
  | timeRequestTimer (l : LinkNo)
  /-- TIME_EXCHANGE_TIMEOUT (R530): A FOLLOW that has not arrived within 50 µs drops the exchange. -/
  | timeExchangeTimeout (l : LinkNo)
  /-- ANNOUNCE_TICK (R529): The grandmaster advances its announcement count every 16 µs. -/
  | announceTick
  /-- DOMAIN_FOUNDING (R528): Hearing no domain for 10 ms, a module becomes grandmaster of a new domain. -/
  | domainFounding
  /-- GM_LOSS_TIMEOUT (R528): With no advancing announcement for 1 ms, a module starts its grandmaster claim wait. -/
  | gmLossTimeout
  /-- GM_CLAIM (R528): At the end of its wait, a module claims the grandmaster role unless a better claim was heard. -/
  | gmClaim
  /-- HOLDOVER_ENTRY (R531): After 200 µs without an exchange with a parent, the STU enters HOLDOVER. -/
  | holdoverEntry
  /-- STU_ADOPT (R528): MM writes ADOPT and the module adopts the domain heard on ADOPT_LINK, stepping time. -/
  | stuAdopt (w : Writer) (value : Word)
  /-- ACTION_ARM (R537): A slot CMD = ARM write arms a timed WRITE or EPOCH action. -/
  | actionArm (w : Writer) (epoch : Bool)
  /-- ACTION_CANCEL (R538): A slot CMD = CANCEL write cancels an armed slot unless it has already fired. -/
  | actionCancel (w : Writer)
  /-- ACTION_FIRE (R536): An armed slot fires at its time: it applies its write or launches an epoch boundary. -/
  | actionFire (n : Fin 64)
  /-- EPOCH_SCHEDULE_WRITE (R539): A write of the epoch origin or period sets the boundary schedule. -/
  | epochScheduleWrite (w : Writer) (origin : Bool) (lo : Option Word) (v : Word)
  /-- EPOCH_NEXT_WRITE (R540): A write of STU_EPOCH_NEXT sets the number of the next boundary. -/
  | epochNextWrite (w : Writer) (lo : Option Word) (hi : Word)
  /-- CHK_START (R548): Checks the mode and begins a CRC computation, with the fold bytes when CHAIN is off. -/
  | chkStart (w : Writer) (u : ChkNo) (guard : Byte) (scan : Bool)
  /-- CHK_SCAN (R551): Starts feeding the unit from a staging or namespace source. -/
  | chkScan (w : Writer) (u : ChkNo) (guard : Byte)
  /-- CHK_ABORT (R553): Stops a running scan and returns the unit to ACCEPTING. -/
  | chkAbort (w : Writer) (u : ChkNo) (guard : Byte) (taken : Nat)
  /-- CHK_FINISH (R553): Returns the unit to IDLE and keeps RESULT and COUNT. -/
  | chkFinish (w : Writer) (u : ChkNo) (guard : Byte)
  /-- CHK_DATA8 (R550): Takes one byte into the CRC register. -/
  | chkData8 (w : Writer) (u : ChkNo) (value : Word)
  /-- CHK_DATA16 (R550): Takes two bytes into the CRC register. -/
  | chkData16 (w : Writer) (u : ChkNo) (value : Word)
  /-- CHK_DATA32 (R550): Takes four bytes into the CRC register. -/
  | chkData32 (w : Writer) (u : ChkNo) (value : Word)
  /-- CHK_DATA64 (R550): Takes eight bytes when the high word is written. -/
  | chkData64 (w : Writer) (u : ChkNo) (lo : Option Word) (hi : Word)
  /-- CHK_SCAN_DONE (R553): A scan completes, the unit returns to ACCEPTING and SCAN_DONE is set. -/
  | chkScanDone (u : ChkNo)
  /-- CHK_SCAN_FAILURE (R552): A scan meets unreadable data or released staging and stops with SCAN_DATA. -/
  | chkScanFailure (u : ChkNo) (bad : List Nat)
  /-- DM_WRITE_BACK (R559): A queued write-back is applied, unless a later write to the line abandons it. -/
  | dmWriteBack (line : Nat)
  /-- CHK_DM_MARK_WRITE (R557): MM marks or unmarks a die of a stack. -/
  | chkDmMarkWrite (w : Writer) (u : ChkNo) (value : Word)
  /-- CE_DIES_READ (R577): A read of CHK_DM_CE_DIES by MM returns the value and clears it. -/
  | ceDiesRead (w : Writer) (u : ChkNo)
  /-- SRAM_WRITE_BACK (R564): A corrected SRAM word is written back when the general port is next free. -/
  | sramWriteBack (word : Nat)
  /-- STATE_PARITY_ERROR (R567): A parity error in core state faults the core with DATA STATE and leads to a fence. -/
  | stateParityError (c : CoreNo)
  /-- DM_SCRUB_READ (R568): A scrub read of a device-memory line, with write-back of any correction. -/
  | dmScrubRead (k : StackNo) (n : Fin 858993459) (fresh : List (Fin 40))
  /-- SRAM_SCRUB_READ (R569): A scrub read of an SRAM word in an idle general-port step. -/
  | sramScrubRead (cluster : Bool) (unit : Fin 12288) (word : Fin 2097152) (fresh : Fin 3)
  /-- CFL_PROGRAM_ROW (R586): MM command that programs a code-flash row from CFL_PROG_BUF. -/
  | cflProgramRow (w : Writer) (bank : Fin 2) (sector : Fin 1024) (row : Fin 256)
  /-- CFL_ERASE_SECTOR (R586): MM command that erases a code-flash sector. -/
  | cflEraseSector (w : Writer) (bank : Fin 2) (sector : Fin 1024)
  /-- CFL_VERIFY_SECTOR (R592): MM command that margin-verifies a sector. -/
  | cflVerifySector (w : Writer) (bank : Fin 2) (sector : Fin 1024)
  /-- CFL_OP_COMPLETE (R586): A program or erase finishes its verify and OP_DONE is set. -/
  | cflOpComplete (pass : Bool)
  /-- CFL_SUSPEND (R589): A fetch from a busy bank suspends the operation. -/
  | cflSuspend (bank : Fin 2)
  /-- CFL_RESUME (R589): With no fetch pending for 2 µs, or after 200 µs of suspension, the operation resumes. -/
  | cflResume
  /-- CFL_RDATA_READ (R607): A read through the window returns data or a status word and advances the master's address. -/
  | cflRdataRead (w : Writer) (wide : Bool) (grade : Fin 3)
  /-- MARGIN_PATROL (R593): The daily margin read of both banks refreshes sectors that fail margin. -/
  | marginPatrol (fails : List (Fin 2048))
  /-- OPT_UNLOCK (R598): Checks the password and unlocks the OPT page, or counts a failure or lockout. -/
  | optUnlock (w : Writer) (guard : Byte)
  /-- OPT_LOCK (R599): Locks the OPT page. -/
  | optLock (w : Writer) (guard : Byte)
  /-- OPT_LOAD_STAGE (R603): Copies the latest committed record into the stage. -/
  | optLoadStage (w : Writer) (guard : Byte)
  /-- OPT_COMMIT (R603): Checks the stage and its base SEQ and starts writing a new option record. -/
  | optCommit (w : Writer) (guard : Byte)
  /-- OPT_SET_PASSWORD (R600): Stores or removes the password digest. -/
  | optSetPassword (w : Writer) (guard : Byte)
  /-- OPT_STAGE_WRITE (R603): A write into the stage, accepted only while the owner has the page unlocked. -/
  | optStageWrite (w : Writer) (n : Fin 128) (value : Word)
  /-- OPT_COMMIT_DONE (R603): The new option record is durable in both banks and COMMIT_DONE is set. -/
  | optCommitDone
  /-- MAIN_VALID (R659): MAIN stays at or above 42 V for 20 ms: cold power-on start. -/
  | mainValid
  /-- MAIN_LOSS (R412): MAIN below 38 V for 2 µs runs the hold-up sequence that saves the write buffer and journal. -/
  | mainLoss (holds : Bool)
  /-- AUX_APPLIED (R662): AUX powers the standby island, which serves VPD Read and the health poll. -/
  | auxApplied
  /-- AUX_LOSS (R662): Loss of AUX silences the sideband and releases the open-drain outputs. -/
  | auxLoss
  /-- MRST_ASSERT (R613): The module reset input held low for 100 µs begins a module reset. -/
  | mrstAssert
  /-- HUB_RESET_CTL_WRITE (R624): A write with the right KEY and MODULE_RESET begins a module reset. -/
  | hubResetCtlWrite (w : Writer) (value : Word)
  /-- HUB_WATCHDOG_EXPIRY (R612): No pair has served for 100 ms and a module reset follows. -/
  | hubWatchdogExpiry
  /-- MEDIA_READY (R616): The map is complete and the namespaces become ready. -/
  | mediaReady
  /-- COMPUTE_READY (R619): Contexts, cores, staging and BAR4 become ready and held vendor commands proceed. -/
  | computeReady (t : SelfTest)
  /-- PORT_RESET (R423): PERST#, link loss, hot reset or FLR resets one port and releases its contexts, indexes, staging and pages. -/
  | portReset (p : PortNo) (kind : PortResetKind)
  /-- CONTROLLER_RESET (R423): Clearing CC.EN settles the controller's commands and tears down its runs. -/
  | controllerReset (p : PortNo)
  /-- CONTROLLER_ENABLE (R619): Setting CC.EN makes the controller ready once the module manager has started. -/
  | controllerEnable (p : PortNo) (asq acq : Fin 4097)
  /-- PMCSR_WRITE (R456): A host D-state change enters or leaves D3, and enters LOW when every port is suspended. -/
  | pmcsrWrite (p : PortNo) (d : PowerD) (pmeEn clear : Bool)
  /-- WAKE_ARBITRATION (R456): The wake arbiter orders a host resume against a device wake, sending at most one PME. -/
  | wakeArbitration
  /-- PME_RESEND (R456): A host that suspends with a cause pending receives a PME within 1 ms. -/
  | pmeResend (p : PortNo)
  /-- RESUME_COMPLETE (R456): Resume finishes and pending causes are delivered. -/
  | resumeComplete
  /-- SERVICE_FENCE (R630): SERVICE.CMD FENCE puts the unit into DRAINING. -/
  | serviceFence (w : Writer) (p : PageNo) (guard : Byte)
  /-- SERVICE_TEST (R637): SERVICE.CMD TEST runs the unit's test without readmission. -/
  | serviceTest (w : Writer) (p : PageNo) (guard : Byte)
  /-- SERVICE_READMIT (R634): SERVICE.CMD READMIT begins the lehr. -/
  | serviceReadmit (w : Writer) (p : PageNo) (guard : Byte)
  /-- SERVICE_RETIRE (R626): SERVICE.CMD RETIRE retires a fenced unit. -/
  | serviceRetire (w : Writer) (p : PageNo) (guard : Byte)
  /-- UNIT_FAULT_FENCE (R629): A detected fault fences the unit and fails the work it held. -/
  | unitFaultFence (p : PageNo) (target : Fin 512)
  /-- DRAIN_DONE (R630): A unit finishes draining and reaches FENCED. -/
  | drainDone (p : PageNo)
  /-- CORE_HANDOVER_COPY (R631): The halted core's state and local store are copied to the spare. -/
  | coreHandoverCopy (c : CoreNo)
  /-- CORE_HANDOVER_DONE (R631): The spare takes the core number, shows IN_SERVICE and resumes the run. -/
  | coreHandoverDone (c : CoreNo)
  /-- LEHR_DONE (R634): The lehr's test and zeroise finish and the unit returns to service or stays FENCED. -/
  | lehrDone (p : PageNo) (pass : Bool)
  /-- TEST_DONE (R637): A TEST finishes and RESULT reports pass or fail. -/
  | testDone (p : PageNo) (pass : Bool)
  /-- REMOVE_PREPARE (R641): HUB_REMOVE.PREPARE begins an orderly removal. -/
  | removePrepare (w : Writer) (key : Half)
  /-- REMOVE_CANCEL (R641): HUB_REMOVE.CANCEL restarts the module from READY as after a module reset. -/
  | removeCancel (w : Writer) (key : Half)
  /-- REMOVAL_READY (R641): The removal preparation ends, the compute dies power down and REMOVE_OK is driven. -/
  | removalReady
  /-- REMOVE_REQ_ASSERT (R660): REMOVE_REQ# held low for 1 s makes MM write PREPARE. -/
  | removeReqAssert
  /-- HUB_MODE_POWER_WRITE (R645): Sets the supply policy and power cap for the governor. -/
  | hubModePowerWrite (w : Writer) (value : Word)
  /-- HUB_MODE_GATHER_WRITE (R646): Sets the target size of the gather region. -/
  | hubModeGatherWrite (w : Writer) (value : Word)
  /-- GATHER_RESIZE_STEP (R646): The gather size in effect moves by 128 GB toward its target. -/
  | gatherResizeStep
  /-- JUNCTION_READING (R664): A junction temperature reading lowers the supply, holds admission or trips. -/
  | junctionReading (d : Fin 5) (deg mean : Int) (sensor : Fin 16)
  /-- BOARD_READING (R664): A coolant, flash, DRAM or bank reading applies or ends its thermal action. -/
  | boardReading (b : BoardTemp)
  /-- OUTLET_CAP_RELEASE (R665): After 10 s at or below 60 °C, the outlet cap rises by 200 W. -/
  | outletCapRelease
  /-- LEAK_SENSE (R666): Moisture at the couplings drives LEAK# low and sets the LEAK event. -/
  | leakSense (wet : Bool)
  /-- MRST_RELEASE (R613): Release of the module reset input lets the start proceed from step 2 of R614 after the module has held at step 8. -/
  | mrstRelease
  /-- PERST_RELEASE (R610): Release of a port's PERST# input lets that port train its PCIe link. -/
  | perstRelease (p : PortNo)
  /-- PCIE_LINK_UP (R421): A port's PCIe link finishes training and NVE_LINK takes its rate, width and Flit mode. -/
  | pcieLinkUp (p : PortNo) (rate : Fin 7) (width : Fin 17) (flit : Bool)
  /-- MANAGER_START_DONE (R614): The module manager finishes starting its slot at step 5 of the start, so admin readiness, the watchdog and a held removal request can proceed. -/
  | managerStartDone (f : BootFacts)
  /-- STANDBY_SELF_TEST_DONE (R457): After a handover, the former serving pair finishes its restart and self-test and becomes STANDBY or FAILED. -/
  | standbySelfTestDone (pass : Bool)
  /-- RECLAIM (R397): Background reclaim and wear-levelling relocation move valid data with conditional map changes, erase the freed blocks and retire blocks that fail to erase. -/
  | reclaim (b : Nat) (target : Fin 512) (failed : List (Fin 512)) (pm : Fin 1001) (wearMax wearMean : BitVec 16)
  /-- FENCED_READ_TIMEOUT (R395): A read of released data on a fenced channel that has waited min(1 s, TLER) completes with Unrecovered Read Error, DNR 0. -/
  | fencedReadTimeout (cmd : CmdRef)
  /-- JOIN_TIMEOUT (R364): A Join that has not completed within 100 ms fails with JOIN_FAILED. -/
  | joinTimeout (x : CtxNo)
  /-- TIMED_ACTION_DUE (R454): In LOW, an armed slot or a scheduled epoch boundary coming within 5 ms of its time raises wake cause 2. -/
  | timedActionDue
  /-- DEVICE_MEMORY_LINE_RETURN (R675): A device-memory line returns from the clocked DRAM to a waiting load, is decoded and corrected, and writes its register or faults. -/
  | deviceMemoryLineReturn (c : CoreNo) (id : Nat)
  deriving DecidableEq, Repr

end Sys2Proof
end

