-- ==== Sys2Proof/Decode.lean ====
section
/-! DEFINITION. Decode: the command that a word spells by the table's bits, of which there are none (log entry 1); and the words of a core's
program (R173 to R175, R216): the instruction that one spells, and the words of an instruction. -/
namespace Sys2Proof
open Sys2Proof.Machine

/-- The command that a word of nbits bits spells by the table's bits: none, since the table gives no row bits. -/
def decodeTableWord (nbits w : Nat) : Option Instr :=
  match nbits, w with
  | _, _ => none

/-! The formats (R174, R215): the fields of a first word w and of a second word ext. -/

def regAt (w lo : Nat) : Fin 32 := Fin.ofNat 32 (natBits w lo 5)
def syOf (w : Nat) : SY := ⟨regAt w 21, regAt w 16, BitVec.ofNat 11 w⟩
def srOf (w : Nat) : SR := ⟨regAt w 21, regAt w 16, regAt w 11⟩
def siOf (w : Nat) : SI := ⟨regAt w 21, regAt w 16, BitVec.ofNat 16 w⟩
def maOf (w : Nat) : MA := ⟨regAt w 21, Fin.ofNat 16 (natBits w 17 4), Fin.ofNat 4 (natBits w 15 2), BitVec.ofNat 12 w⟩
def brOf (w : Nat) : BR := ⟨regAt w 21, BitVec.ofNat 18 w⟩
def lpOf (w : Nat) : LP := ⟨Fin.ofNat 4 (natBits w 24 2), regAt w 18, Fin.ofNat 4 (natBits w 16 2), BitVec.ofNat 16 w⟩
def lpiOf (w : Nat) : LPI := ⟨Fin.ofNat 4 (natBits w 24 2), BitVec.ofNat 11 (w / 2 ^ 12), BitVec.ofNat 12 w⟩
def vvOf (w : Nat) : VV := ⟨regAt w 21, regAt w 16, regAt w 11, Fin.ofNat 8 (natBits w 8 3), natBit w 7⟩
def pdOf (w : Nat) : PD :=
  ⟨Fin.ofNat 8 (natBits w 23 3), Fin.ofNat 8 (natBits w 20 3), Fin.ofNat 8 (natBits w 17 3), regAt w 12⟩
def nibbleAt (w lo : Nat) : Fin 16 := Fin.ofNat 16 (natBits w lo 4)
def xtOf (w ext : Nat) : XT :=
  ⟨nibbleAt w 22, nibbleAt w 18, nibbleAt w 14, nibbleAt w 10, Fin.ofNat 8 (natBits ext 0 3), regAt ext 3, regAt ext 8, regAt ext 13,
    BitVec.ofNat 14 (ext / 2 ^ 18)⟩

/-- The major opcode of a first word. -/
def majorOf (w : Nat) : Nat := natBits w 26 6
/-- The bytes of the instruction that a first word begins: majors 0x30 to 0x3F take two words. -/
def wordLen (w : Nat) : Nat := if 0x30 ≤ majorOf w then 8 else 4

/-! What a word of each major spells: the instruction, or the ILLEGAL kind 2 of a reserved function (R176). -/

/-- Major 0x01 (R189). -/
def decodeSy (c : CoreNo) (w : Nat) : Instr ⊕ Nat :=
  match natBits w 11 5 with
  | 0 => .inl (.nop c (syOf w))
  | 1 => .inl (.endOp c (syOf w))
  | 2 => .inl (.trap c (syOf w))
  | 3 => .inl (.mfs c (syOf w))
  | 4 => .inl (.mts c (syOf w))
  | 5 => .inl (.qcap c (syOf w))
  | _ => .inr 2

/-- Major 0x02 (R177). -/
def decodeSr (c : CoreNo) (w : Nat) : Instr ⊕ Nat :=
  match natBits w 0 11 with
  | 0 => .inl (.add c (srOf w))
  | 1 => .inl (.sub c (srOf w))
  | 2 => .inl (.mul c (srOf w))
  | 3 => .inl (.mulhs c (srOf w))
  | 4 => .inl (.mulhu c (srOf w))
  | 5 => .inl (.divs c (srOf w))
  | 6 => .inl (.divu c (srOf w))
  | 7 => .inl (.rems c (srOf w))
  | 8 => .inl (.remu c (srOf w))
  | 9 => .inl (.andOp c (srOf w))
  | 10 => .inl (.orOp c (srOf w))
  | 11 => .inl (.xorOp c (srOf w))
  | 12 => .inl (.shl c (srOf w))
  | 13 => .inl (.shr c (srOf w))
  | 14 => .inl (.sra c (srOf w))
  | 15 => .inl (.minOp c (srOf w))
  | 16 => .inl (.maxOp c (srOf w))
  | 17 => .inl (.minu c (srOf w))
  | 18 => .inl (.maxu c (srOf w))
  | 19 => .inl (.slt c (srOf w))
  | 20 => .inl (.sltu c (srOf w))
  | 21 => .inl (.seq c (srOf w))
  | 22 => .inl (.popc c (srOf w))
  | 23 => .inl (.clz c (srOf w))
  | _ => .inr 2

/-- Major 0x0E (R189). -/
def decodeJr (c : CoreNo) (w : Nat) : Instr ⊕ Nat :=
  match natBits w 0 11 with
  | 0 => .inl (.jr c (srOf w))
  | 1 => .inl (.jalr c (srOf w))
  | _ => .inr 2

/-- Major 0x0F (R181). -/
def decodeAr (c : CoreNo) (w : Nat) : Instr ⊕ Nat :=
  match natBits w 0 11 with
  | 0 => .inl (.aset c (srOf w))
  | 1 => .inl (.astride c (srOf w))
  | 2 => .inl (.alstep c (srOf w))
  | 3 => .inl (.aget c (srOf w))
  | 4 => .inl (.aadd c (srOf w))
  | _ => .inr 2

/-- Major 0x10 (R183). -/
def decodeVv (c : CoreNo) (w : Nat) : Instr ⊕ Nat :=
  match natBits w 0 7 with
  | 0 => .inl (.vadd c (vvOf w))
  | 1 => .inl (.vsub c (vvOf w))
  | 2 => .inl (.vmul c (vvOf w))
  | 3 => .inl (.vmin c (vvOf w))
  | 4 => .inl (.vmax c (vvOf w))
  | 5 => .inl (.vabs c (vvOf w))
  | 6 => .inl (.vneg c (vvOf w))
  | 7 => .inl (.vrcp c (vvOf w))
  | 8 => .inl (.vrsq c (vvOf w))
  | 9 => .inl (.vexp2 c (vvOf w))
  | 10 => .inl (.vlog2 c (vvOf w))
  | 11 => .inl (.vtanh c (vvOf w))
  | 12 => .inl (.vsel c (vvOf w))
  | 13 => .inl (.vrsum c (vvOf w))
  | 14 => .inl (.vrmax c (vvOf w))
  | 15 => .inl (.vbcast c (vvOf w))
  | 16 => .inl (.vextr c (vvOf w))
  | 17 => .inl (.viadd c (vvOf w))
  | 18 => .inl (.visub c (vvOf w))
  | 19 => .inl (.vimul c (vvOf w))
  | 20 => .inl (.vand c (vvOf w))
  | 21 => .inl (.vor c (vvOf w))
  | 22 => .inl (.vxor c (vvOf w))
  | 23 => .inl (.vshl c (vvOf w))
  | 24 => .inl (.vshr c (vvOf w))
  | 25 => .inl (.vcvtif c (vvOf w))
  | 26 => .inl (.vcvtfi c (vvOf w))
  | 27 => .inl (.vnarrow c (vvOf w))
  | 28 => .inl (.vwidenl c (vvOf w))
  | 29 => .inl (.vwidenh c (vvOf w))
  | _ => .inr 2

/-- Major 0x14 (R187). -/
def decodePd (c : CoreNo) (w : Nat) : Instr ⊕ Nat :=
  match natBits w 0 12 with
  | 0 => .inl (.pand c (pdOf w))
  | 1 => .inl (.por c (pdOf w))
  | 2 => .inl (.pxor c (pdOf w))
  | 3 => .inl (.pandn c (pdOf w))
  | 4 => .inl (.pnot c (pdOf w))
  | 5 => .inl (.pmovs c (pdOf w))
  | 6 => .inl (.smovp c (pdOf w))
  | 7 => .inl (.pcnt c (pdOf w))
  | 8 => .inl (.pfirst c (pdOf w))
  | _ => .inr 2

/-- Major 0x12 (R183). -/
def decodeCmp (c : CoreNo) (w : Nat) : Instr ⊕ Nat :=
  if natBits w 0 7 < 6 then .inl (.vcmp c (Fin.ofNat 6 (natBits w 0 7)) (vvOf w)) else .inr 2

/-- Major 0x0D: the condition chooses (R188). -/
def decodeBr (c : CoreNo) (w : Nat) : Instr ⊕ Nat :=
  match natBits w 18 3 with
  | 0 => .inl (.bz c (brOf w))
  | 1 => .inl (.bnz c (brOf w))
  | 2 => .inl (.bltz c (brOf w))
  | 3 => .inl (.bgez c (brOf w))
  | 4 => .inl (.bany c (brOf w))
  | 5 => .inl (.bnone c (brOf w))
  | 6 => .inl (.b c (brOf w))
  | _ => .inl (.call c (brOf w))

/-- Majors 0x0A and 0x0B (R180): size 7 is the vector access. -/
def decodeMa (c : CoreNo) (w : Nat) (store : Bool) : Instr ⊕ Nat :=
  let size := natBits w 12 3
  if size = 7 then .inl (if store then .vst c (maOf w) else .vld c (maOf w))
  else .inl (if store then .st c (Fin.ofNat 7 size) (maOf w) else .ld c (Fin.ofNat 7 size) (maOf w))

/-- Majors 0x30 to 0x38 (R214, R216). -/
def decodeXt (c : CoreNo) (w ext : Nat) : Instr ⊕ Nat :=
  match majorOf w, natBits w 0 10 with
  | 0x30, 0 => .inl (.tld c (xtOf w ext))
  | 0x30, 1 => .inl (.tst c (xtOf w ext))
  | 0x30, 2 => .inl (.tmov c (xtOf w ext))
  | 0x30, 3 => .inl (.taddr c (xtOf w ext))
  | 0x30, 4 => .inl (.tsetf c (xtOf w ext))
  | 0x30, 5 => .inl (.tgetf c (xtOf w ext))
  | 0x31, 0 => .inl (.amul c (xtOf w ext))
  | 0x32, 0 => .inl (.range c (xtOf w ext))
  | 0x32, 1 => .inl (.qconv c (xtOf w ext))
  | 0x32, 2 => .inl (.dqconv c (xtOf w ext))
  | 0x32, 3 => .inl (.tpack c (xtOf w ext))
  | 0x33, 0 => .inl (.move c (xtOf w ext))
  | 0x33, 1 => .inl (.mrd c (xtOf w ext))
  | 0x33, 2 => .inl (.mwr c (xtOf w ext))
  | 0x34, 0 => .inl (.selt c (xtOf w ext))
  | 0x34, 1 => .inl (.topk c (xtOf w ext))
  | 0x35, 0 => .inl (.pqload c (xtOf w ext))
  | 0x35, 1 => .inl (.pqscan c (xtOf w ext))
  | 0x36, 0 => .inl (.chkv c (xtOf w ext))
  | 0x37, 0 => .inl (.cred c (xtOf w ext))
  | 0x37, 1 => .inl (.cbcast c (xtOf w ext))
  | 0x37, 2 => .inl (.ccat c (xtOf w ext))
  | 0x37, 3 => .inl (.ctopk c (xtOf w ext))
  | 0x37, 4 => .inl (.cbar c (xtOf w ext))
  | 0x38, 0 => .inl (.twait c (xtOf w ext))
  | 0x38, 1 => .inl (.tat c (xtOf w ext))
  | _, _ => .inr 2

/-- What the words w and ext spell on core c: an instruction, or the ILLEGAL kind that R176 gives a reserved major (1) or function (2). -/
def decodeWord (c : CoreNo) (w ext : Nat) : Instr ⊕ Nat :=
  match majorOf w with
  | 0x01 => decodeSy c w
  | 0x02 => decodeSr c w
  | 0x3 => .inl (.addi c (siOf w))
  | 0x4 => .inl (.andi c (siOf w))
  | 0x5 => .inl (.ori c (siOf w))
  | 0x6 => .inl (.xori c (siOf w))
  | 0x7 => .inl (.slti c (siOf w))
  | 0x8 => .inl (.lui c (siOf w))
  | 0x9 => .inl (.shifti c (siOf w))
  | 0xa => decodeMa c w false
  | 0xb => decodeMa c w true
  | 0xc => .inl (if natBit w 23 then .loopi c (lpiOf w) else .loop c (lpOf w))
  | 0xd => decodeBr c w
  | 0xe => decodeJr c w
  | 0xf => decodeAr c w
  | 0x10 => decodeVv c w
  | 0x11 => if natBits w 0 7 = 0 then .inl (.vfma c (vvOf w)) else .inr 2
  | 0x12 => decodeCmp c w
  | 0x13 => if natBits w 0 7 = 0 then .inl (.vgth c (vvOf w)) else if natBits w 0 7 = 1 then .inl (.vsct c (vvOf w)) else .inr 2
  | 0x14 => decodePd c w
  | m => if 0x30 ≤ m ∧ m ≤ 0x38 then decodeXt c w ext else .inr 1

/-! The words of an instruction. -/

def syWord (f : Nat) (x : SY) : Nat := 2 ^ 26 + x.sd.val * 2 ^ 21 + x.sa.val * 2 ^ 16 + f * 2 ^ 11 + x.imm11.toNat
def srWord (m f : Nat) (x : SR) : Nat := m * 2 ^ 26 + x.sd.val * 2 ^ 21 + x.sa.val * 2 ^ 16 + x.sb.val * 2 ^ 11 + f
def siWord (m : Nat) (x : SI) : Nat := m * 2 ^ 26 + x.sd.val * 2 ^ 21 + x.sa.val * 2 ^ 16 + x.imm16.toNat
def maWord (m size : Nat) (x : MA) : Nat :=
  m * 2 ^ 26 + x.d.val * 2 ^ 21 + x.an.val * 2 ^ 17 + x.mode.val * 2 ^ 15 + size * 2 ^ 12 + x.imm12.toNat
def brWord (cond : Nat) (x : BR) : Nat := 0xD * 2 ^ 26 + x.sa.val * 2 ^ 21 + cond * 2 ^ 18 + x.off18.toNat
def lpWord (x : LP) : Nat := 0xC * 2 ^ 26 + x.lc.val * 2 ^ 24 + x.sa.val * 2 ^ 18 + x.zero.val * 2 ^ 16 + x.body.toNat
def lpiWord (x : LPI) : Nat := 0xC * 2 ^ 26 + x.lc.val * 2 ^ 24 + 2 ^ 23 + x.count.toNat * 2 ^ 12 + x.body.toNat
def vvWord (m f : Nat) (x : VV) : Nat :=
  m * 2 ^ 26 + x.vd.val * 2 ^ 21 + x.va.val * 2 ^ 16 + x.vb.val * 2 ^ 11 + x.pred.val * 2 ^ 8 + boolNat x.bf16 * 2 ^ 7 + f
def pdWord (f : Nat) (x : PD) : Nat :=
  0x14 * 2 ^ 26 + x.pd.val * 2 ^ 23 + x.pa.val * 2 ^ 20 + x.pb.val * 2 ^ 17 + x.s.val * 2 ^ 12 + f
/-- Both words, the first in the low half. -/
def xtWords (m f : Nat) (x : XT) : Nat :=
  m * 2 ^ 26 + x.td.val * 2 ^ 22 + x.ta.val * 2 ^ 18 + x.tb.val * 2 ^ 14 + x.tc.val * 2 ^ 10 + f +
    2 ^ 32 * (x.set.val + x.sa.val * 2 ^ 3 + x.sb.val * 2 ^ 8 + x.sd.val * 2 ^ 13 + x.opt.toNat * 2 ^ 18)

/-- The length in bytes and the words of an instruction of a core; none for a command that is no instruction. -/
def encode : Instr → Option (Nat × Nat)
  | .nop _ x => some (4, syWord 0 x)
  | .endOp _ x => some (4, syWord 1 x)
  | .trap _ x => some (4, syWord 2 x)
  | .mfs _ x => some (4, syWord 3 x)
  | .mts _ x => some (4, syWord 4 x)
  | .qcap _ x => some (4, syWord 5 x)
  | .add _ x => some (4, srWord 2 0 x)
  | .sub _ x => some (4, srWord 2 1 x)
  | .mul _ x => some (4, srWord 2 2 x)
  | .mulhs _ x => some (4, srWord 2 3 x)
  | .mulhu _ x => some (4, srWord 2 4 x)
  | .divs _ x => some (4, srWord 2 5 x)
  | .divu _ x => some (4, srWord 2 6 x)
  | .rems _ x => some (4, srWord 2 7 x)
  | .remu _ x => some (4, srWord 2 8 x)
  | .andOp _ x => some (4, srWord 2 9 x)
  | .orOp _ x => some (4, srWord 2 10 x)
  | .xorOp _ x => some (4, srWord 2 11 x)
  | .shl _ x => some (4, srWord 2 12 x)
  | .shr _ x => some (4, srWord 2 13 x)
  | .sra _ x => some (4, srWord 2 14 x)
  | .minOp _ x => some (4, srWord 2 15 x)
  | .maxOp _ x => some (4, srWord 2 16 x)
  | .minu _ x => some (4, srWord 2 17 x)
  | .maxu _ x => some (4, srWord 2 18 x)
  | .slt _ x => some (4, srWord 2 19 x)
  | .sltu _ x => some (4, srWord 2 20 x)
  | .seq _ x => some (4, srWord 2 21 x)
  | .popc _ x => some (4, srWord 2 22 x)
  | .clz _ x => some (4, srWord 2 23 x)
  | .addi _ x => some (4, siWord 0x3 x)
  | .andi _ x => some (4, siWord 0x4 x)
  | .ori _ x => some (4, siWord 0x5 x)
  | .xori _ x => some (4, siWord 0x6 x)
  | .slti _ x => some (4, siWord 0x7 x)
  | .lui _ x => some (4, siWord 0x8 x)
  | .shifti _ x => some (4, siWord 0x9 x)
  | .ld _ size x => some (4, maWord 0xA size.val x)
  | .st _ size x => some (4, maWord 0xB size.val x)
  | .vld _ x => some (4, maWord 0xA 7 x)
  | .vst _ x => some (4, maWord 0xB 7 x)
  | .loop _ x => some (4, lpWord x)
  | .loopi _ x => some (4, lpiWord x)
  | .bz _ x => some (4, brWord 0 x)
  | .bnz _ x => some (4, brWord 1 x)
  | .bltz _ x => some (4, brWord 2 x)
  | .bgez _ x => some (4, brWord 3 x)
  | .bany _ x => some (4, brWord 4 x)
  | .bnone _ x => some (4, brWord 5 x)
  | .b _ x => some (4, brWord 6 x)
  | .call _ x => some (4, brWord 7 x)
  | .jr _ x => some (4, srWord 0xE 0 x)
  | .jalr _ x => some (4, srWord 0xE 1 x)
  | .aset _ x => some (4, srWord 0xF 0 x)
  | .astride _ x => some (4, srWord 0xF 1 x)
  | .alstep _ x => some (4, srWord 0xF 2 x)
  | .aget _ x => some (4, srWord 0xF 3 x)
  | .aadd _ x => some (4, srWord 0xF 4 x)
  | .vadd _ x => some (4, vvWord 0x10 0 x)
  | .vsub _ x => some (4, vvWord 0x10 1 x)
  | .vmul _ x => some (4, vvWord 0x10 2 x)
  | .vmin _ x => some (4, vvWord 0x10 3 x)
  | .vmax _ x => some (4, vvWord 0x10 4 x)
  | .vabs _ x => some (4, vvWord 0x10 5 x)
  | .vneg _ x => some (4, vvWord 0x10 6 x)
  | .vrcp _ x => some (4, vvWord 0x10 7 x)
  | .vrsq _ x => some (4, vvWord 0x10 8 x)
  | .vexp2 _ x => some (4, vvWord 0x10 9 x)
  | .vlog2 _ x => some (4, vvWord 0x10 10 x)
  | .vtanh _ x => some (4, vvWord 0x10 11 x)
  | .vsel _ x => some (4, vvWord 0x10 12 x)
  | .vrsum _ x => some (4, vvWord 0x10 13 x)
  | .vrmax _ x => some (4, vvWord 0x10 14 x)
  | .vbcast _ x => some (4, vvWord 0x10 15 x)
  | .vextr _ x => some (4, vvWord 0x10 16 x)
  | .viadd _ x => some (4, vvWord 0x10 17 x)
  | .visub _ x => some (4, vvWord 0x10 18 x)
  | .vimul _ x => some (4, vvWord 0x10 19 x)
  | .vand _ x => some (4, vvWord 0x10 20 x)
  | .vor _ x => some (4, vvWord 0x10 21 x)
  | .vxor _ x => some (4, vvWord 0x10 22 x)
  | .vshl _ x => some (4, vvWord 0x10 23 x)
  | .vshr _ x => some (4, vvWord 0x10 24 x)
  | .vcvtif _ x => some (4, vvWord 0x10 25 x)
  | .vcvtfi _ x => some (4, vvWord 0x10 26 x)
  | .vnarrow _ x => some (4, vvWord 0x10 27 x)
  | .vwidenl _ x => some (4, vvWord 0x10 28 x)
  | .vwidenh _ x => some (4, vvWord 0x10 29 x)
  | .vfma _ x => some (4, vvWord 0x11 0 x)
  | .vcmp _ fn x => some (4, vvWord 0x12 fn.val x)
  | .vgth _ x => some (4, vvWord 0x13 0 x)
  | .vsct _ x => some (4, vvWord 0x13 1 x)
  | .pand _ x => some (4, pdWord 0 x)
  | .por _ x => some (4, pdWord 1 x)
  | .pxor _ x => some (4, pdWord 2 x)
  | .pandn _ x => some (4, pdWord 3 x)
  | .pnot _ x => some (4, pdWord 4 x)
  | .pmovs _ x => some (4, pdWord 5 x)
  | .smovp _ x => some (4, pdWord 6 x)
  | .pcnt _ x => some (4, pdWord 7 x)
  | .pfirst _ x => some (4, pdWord 8 x)
  | .tld _ x => some (8, xtWords 0x30 0 x)
  | .tst _ x => some (8, xtWords 0x30 1 x)
  | .tmov _ x => some (8, xtWords 0x30 2 x)
  | .taddr _ x => some (8, xtWords 0x30 3 x)
  | .tsetf _ x => some (8, xtWords 0x30 4 x)
  | .tgetf _ x => some (8, xtWords 0x30 5 x)
  | .amul _ x => some (8, xtWords 0x31 0 x)
  | .range _ x => some (8, xtWords 0x32 0 x)
  | .qconv _ x => some (8, xtWords 0x32 1 x)
  | .dqconv _ x => some (8, xtWords 0x32 2 x)
  | .tpack _ x => some (8, xtWords 0x32 3 x)
  | .move _ x => some (8, xtWords 0x33 0 x)
  | .mrd _ x => some (8, xtWords 0x33 1 x)
  | .mwr _ x => some (8, xtWords 0x33 2 x)
  | .selt _ x => some (8, xtWords 0x34 0 x)
  | .topk _ x => some (8, xtWords 0x34 1 x)
  | .pqload _ x => some (8, xtWords 0x35 0 x)
  | .pqscan _ x => some (8, xtWords 0x35 1 x)
  | .chkv _ x => some (8, xtWords 0x36 0 x)
  | .cred _ x => some (8, xtWords 0x37 0 x)
  | .cbcast _ x => some (8, xtWords 0x37 1 x)
  | .ccat _ x => some (8, xtWords 0x37 2 x)
  | .ctopk _ x => some (8, xtWords 0x37 3 x)
  | .cbar _ x => some (8, xtWords 0x37 4 x)
  | .twait _ x => some (8, xtWords 0x38 0 x)
  | .tat _ x => some (8, xtWords 0x38 1 x)
  | _ => none

end Sys2Proof
end

