-- ==== Sys2Proof/Config.lean ====
section
/-! DEFINITION. Config: what an implementation fixes and the values the spec leaves open. Every constant without a body is
a free value: nothing in Lean can evaluate it, so whatever is proved holds for every value of it. -/
namespace Sys2Proof.Config

/-- The byte an unspecified byte of memory or of a result holds, by the count of free values drawn so far (log entry 2). -/
opaque freeByte : Nat → Byte
/-- An unspecified word, by the count of free values drawn so far (log entry 2). -/
opaque freeWord : Nat → Word
/-- The die of each of the 16 plane-blocks in which the parity of a band lies (R386). -/
opaque parityDie : Nat → Nat → Fin 512
/-- Where VRCP lies within its bound: the offset in units of the last place from the nearest value (log entry 10). -/
opaque rcpPick : Word → Nat
/-- Where VRSQ lies within its bound (log entry 10). -/
opaque rsqPick : Word → Nat
/-- Where VEXP2 lies within its bound (log entry 10). -/
opaque exp2Pick : Word → Nat
/-- Where VLOG2 lies within its bound (log entry 10). -/
opaque log2Pick : Word → Nat
/-- Where VTANH lies within its bound (log entry 10). -/
opaque tanhPick : Word → Nat

/-- The accounted array state of a core whose array a lehr's test runs: 0 idle, 1 hold, 2 stream (R29; log entry 15). -/
opaque testMode : Nat → Fin 3

/-- The group size code for which QCONV writes weight sums of a per-tensor conversion: the spec gives none (log entry 16). -/
opaque wsumGroup : Fin 3

/-- Whether a CTOPK ranks its 32-bit values as integers: a LIST does not say what its values are (log entry 17). -/
opaque ctopkInt : Nat → Bool

/-- Element i of the centroids, and of the codebooks, that a rebuild trains (R304): a function of its parameters (dimension, metric,
lists, sub-spaces, code bits, sample, iterations, seed) and of the raw vectors; the spec does not give the algorithm's steps (log
entry 32). -/
opaque trainCentroid : List Nat → List (List Nat) → Nat → Word
opaque trainCodebook : List Nat → List (List Nat) → Nat → Word

/-- What a part carries from its factory: Vendor ID, Subsystem Vendor ID of the configuration header, serial number (20 characters),
subsystem name before the serial number, the revision of the firmware in slot 1 (R460; log entry 36). -/
opaque vendorId : BitVec 16
opaque factorySsvid : BitVec 16
opaque factorySsid : BitVec 16
opaque serialByte : Nat → Byte
opaque subNqnByte : Nat → Byte
opaque shippedFr : Nat → Byte
/-- What the factory region of code flash holds, by offset in the bank, and the firmware image that slot 1 is shipped with (R580; log
entry 36). -/
opaque factoryFlash : Nat → Byte
opaque shippedFlash : Nat → Byte
/-- Where a firmware image, named by its revision, holds the program image of the search context: offset and length (R474; log entry 143). -/
opaque searchAt : List Byte → Nat × Nat
/-- The factory value of a calibration item's instance (R480; log entry 36). -/
opaque factoryCal : Nat → Nat → BitVec 32

/-- How far a scan of a check-value unit has got when it is looked at: the spec fixes no rate (R551, R553). -/
opaque scanProgress : Nat → Nat

/-- The low bits of the detail of a parity fault: no address belongs to it (R563; log entry 43). -/
opaque parityDetail : Nat → BitVec 20

/-- A reading of a power meter, by what it reads and the count of free values drawn so far: nothing in the spec says what the module
draws (R669, R670; log entry 48). -/
opaque meter : Nat → Nat → BitVec 64

end Sys2Proof.Config
end

