-- ==== Sys2Proof/Machine/AdminState.lean ====
section
/-! DEFINITION. AdminState: the module manager's pairs, firmware slots, calibration overlay, temperatures and their history, thresholds,
the Timestamp, the error log and the sideband's configuration (R457 to R484). -/
namespace Sys2Proof.Machine

/-- The standby pair (R457, R484). -/
inductive Standby where
  | ready
  | booting
  | failed
  deriving DecidableEq, Repr

/-- The image of a slot (R475, R476). -/
structure FwImage where
  fr : List Byte
  svn : Nat
  minSvn : Nat
  bytes : List Byte
  deriving DecidableEq, Repr

/-- A firmware commit whose slot is being written, or whose activation without reset is in progress (R477, R478). -/
structure FwCommit where
  cmd : CmdRef
  slot : Nat
  ca : Nat
  img : FwImage
  deriving DecidableEq, Repr

/-- An entry of the calibration overlay (R481). -/
structure CalEntry where
  item : Nat
  inst : Nat
  value : Int
  deriving DecidableEq, Repr

/-- The temperature history of a sensor, in K, and minutes by bin of 5 °C (R467). -/
structure TempHist where
  max : Nat := 0
  min : Nat := 0
  bins : Tab Nat := []
  deriving DecidableEq, Repr

/-- An entry of the error log (R469): its number, the command with its status or none, the page's ERR_FIRST or zero. -/
structure ErrRec where
  count : Nat
  cmd : Option CmdRef
  status : Nat
  vendor : Word
  deriving DecidableEq, Repr

structure AdminState where
  /-- which pair serves (true: B), the standby pair, handovers since module reset -/
  servingB : Bool := false
  standby : Standby := .ready
  handovers : Nat := 0
  /-- firmware: the slots' images, the running slot, the slot for the next module reset (0 none), the step of R478 in progress, the units
  that step 6 has yet to update, the stored minimum security version -/
  slots : Tab FwImage := []
  /-- the image that slot 1 was shipped with has been overwritten -/
  shippedGone : Bool := false
  active : Nat := 1
  pendingSlot : Nat := 0
  step : Nat := 0
  unitsLeft : List Nat := []
  minSvn : Nat := 0
  commit : Option FwCommit := none
  /-- calibration: overlay, its generation, whether an apply runs, the pages that have yet to pass a lehr for it -/
  overlay : List CalEntry := []
  calGen : Nat := 0
  applying : Bool := false
  calLeft : List Nat := []
  /-- temperatures in °C: 0 to 4 the hottest junction of the THM pages, 5 to 12 stacks, 13 to 44 channels, 45 inlet, 46 outlet, 47 bank,
  48 connector -/
  temps : Tab Int := []
  hist : Tab TempHist := []
  histSaved : Tab TempHist := []
  /-- the minute up to which the history and the minute counts have been brought -/
  minute : Nat := 0
  /-- feature 0x04, in K, by 0 composite, 1 to 8 sensors: over- and under-temperature thresholds, and their saved values -/
  overK : Tab Nat := []
  underK : Tab Nat := []
  overKSaved : Tab Nat := []
  underKSaved : Tab Nat := []
  /-- feature 0x0E: the milliseconds set, and when; none until one is set -/
  stamp : Option (Nat × Nat) := none
  errLog : List ErrRec := []
  /-- sideband configuration: SMBus frequency code, transmission unit in bytes, pending health status changes (a write of 1 clears a bit) -/
  smbFreq : Nat := 1
  mtu : Nat := 64
  healthChange : Nat := 0
  deriving DecidableEq, Repr

end Sys2Proof.Machine
end

