-- ==== Sys2Proof/Machine/Crc.lean ====
section
/-! DEFINITION. Crc: the check values of R545: a register of WIDTH bits that takes bytes in, its result and the way back. -/
namespace Sys2Proof.Machine

/-- The parameters of a check value (R545). -/
structure CrcMode where
  width : Nat
  poly : Nat
  init : Nat
  refin : Bool
  refout : Bool
  invert : Bool
  deriving DecidableEq, Repr

/-- Bit i moves to bit n - 1 - i. -/
def reflectBits (v n : Nat) : Nat := sumNat ((List.range n).map (fun i => if natBit v i then 2 ^ (n - 1 - i) else 0))

/-- One bit into the register. -/
def crcBit (m : CrcMode) (r : Nat) (b : Bool) : Nat :=
  let top := natBit r (m.width - 1)
  let r := (2 * r) % 2 ^ m.width
  if top != b then Nat.xor r m.poly else r

/-- One byte into the register. -/
def crcTake (m : CrcMode) (r : Nat) (b : Byte) : Nat :=
  let v := if m.refin then reflectBits b.toNat 8 else b.toNat
  [7, 6, 5, 4, 3, 2, 1, 0].foldl (fun r i => crcBit m r (natBit v i)) r

/-- Bytes into the register, in rising address. -/
def crcBytes (m : CrcMode) (r : Nat) (l : List Byte) : Nat := l.foldl (crcTake m) r

/-- All ones of WIDTH. -/
def crcMask (m : CrcMode) : Nat := 2 ^ m.width - 1

/-- The register to a result. -/
def crcFinish (m : CrcMode) (r : Nat) : Nat :=
  let r := if m.refout then reflectBits r m.width else r
  if m.invert then Nat.xor r (crcMask m) else r

/-- A result back to the register, for CHAIN. -/
def crcUnwind (m : CrcMode) (v : Nat) : Nat :=
  let v := if m.invert then Nat.xor v (crcMask m) else v
  if m.refout then reflectBits v m.width else v

/-- CRC-32C, the code of images and option records (R166, R546). -/
def crc32c : CrcMode := ⟨32, 0x1EDC6F41, 0xFFFFFFFF, true, true, true⟩
def crc32cOf (l : List Byte) : Nat := crcFinish crc32c (crcBytes crc32c crc32c.init l)

end Sys2Proof.Machine
end

