-- ==== Sys2Proof/Machine/CheckState.lean ====
section
/-! DEFINITION. CheckState: the state of a check-value unit (R547 to R553). -/
namespace Sys2Proof.Machine

/-- A scan in progress: source kind (R551), port of a staging source, first index or NSID, first byte or block, bytes, and the bytes
taken in so far. -/
structure ChkScan where
  kind : Nat
  port : Nat
  id : Nat
  start : Nat
  len : Nat
  done : Nat := 0
  deriving DecidableEq, Repr

/-- A check-value unit: its state, the mode as START took it, the register, and the data bytes taken in since START. -/
structure ChkUnit where
  /-- STATUS.BLOCK.STATE: 0 IDLE, 1 ACCEPTING, 2 SCANNING -/
  st : Nat := 0
  mode : CrcMode := ⟨0, 0, 0, false, false, false⟩
  crc : Nat := 0
  count : Nat := 0
  failed : Bool := false
  scan : Option ChkScan := none
  deriving DecidableEq, Repr

end Sys2Proof.Machine
end

