-- ==== Sys2Proof/Machine/CollState.lean ====
section
/-! DEFINITION. CollState: a collective as its members contribute to it (R82 to R84, R245 to R249). -/
namespace Sys2Proof.Machine

/-- Who takes part in a collective: a team or all cores of a context, or the contexts of a job (R245). -/
inductive CollScope where
  | team (ctx group : Nat)
  | context (ctx : Nat)
  | system (job : Nat)
  deriving DecidableEq, Repr

/-- What every member of a collective must agree on (R246): function, OPT, format and shape of the operands, root. -/
structure CollShape where
  func : Nat
  opt : Nat
  fmt : Nat
  kind : Nat
  flags : Nat
  d0 : Nat
  d1 : Nat
  d2 : Nat
  root : Nat
  deriving DecidableEq, Repr

/-- The format and shape of a member's destination (R246). -/
structure CollDst where
  fmt : Nat
  kind : Nat
  flags : Nat
  d0 : Nat
  d1 : Nat
  d2 : Nat
  deriving DecidableEq, Repr

/-- A member's contribution, read at acceptance. -/
structure CollPart where
  ordinal : Nat
  shape : CollShape
  data : List Byte
  /-- combined by another module for its member: elements of 4 bytes for a reduction; a list whose header tells at 0x1C how many entries
  follow (log entry 19) -/
  remote : Bool := false
  /-- the member's destination, where it receives the result -/
  dst : Option CollDst := none
  /-- whether the values of a contributed top-k list are integers, where the module knows what wrote it (R253, R274) -/
  int : Option Bool := none
  deriving DecidableEq, Repr

/-- Where the merge of a collective within one cluster stands (R82, R84). -/
inductive CollStage where
  | gathering
  | queued (since : Nat)
  | merged
  deriving DecidableEq, Repr

/-- A collective: the n-th of its scope. -/
structure Coll where
  scope : CollScope
  n : Nat
  parts : List CollPart := []
  stage : CollStage := .gathering
  /-- the ordinals of this module's members that have finished -/
  finished : List Nat := []
  /-- an ABORT has come, or a member was lost, in SYSTEM scope: members that contribute later fail too (R510) -/
  lost : Bool := false
  deriving DecidableEq, Repr

end Sys2Proof.Machine
end

