-- ==== Sys2Proof/Machine/CoreState.lean ====
section
/-! DEFINITION. CoreState: the state of one core (R71, R169 to R172, R196 to R203, R221, R241, R242). A register that is not
listed in its table is zero (R164). -/
namespace Sys2Proof.Machine

/-- An address register (R169). -/
structure AReg where
  base : DWord := 0
  stride : Word := 0
  lstep0 : Word := 0
  lstep1 : Word := 0
  lstep2 : Word := 0
  lstep3 : Word := 0
  deriving DecidableEq, Repr

/-- An active hardware loop (R190): its counter, the offset of its first body word and the offset after its last. -/
structure LoopRec where
  lc : Nat
  first : Nat
  past : Nat
  deriving DecidableEq, Repr

/-- COR_RUN.STATE (R100). -/
inductive RunState where
  | idle
  | running
  | operandWait
  | admitWait
  | halted
  | faulted
  | zeroising
  deriving DecidableEq, Repr

/-- The accounted array state of a core (R29, R100). -/
inductive ArrayMode where
  | idle
  | hold
  | stream
  deriving DecidableEq, Repr

/-- The stop requests, in rising rank (R198, R199). -/
inductive StopKind where
  | halt
  | preempt
  | teardown
  deriving DecidableEq, Repr

/-- The long instructions (R216). -/
inductive LongKind where
  | amul
  | range
  | qconv
  | dqconv
  | tpack
  | selt
  | topk
  | pqload
  | pqscan
  | chkv
  deriving DecidableEq, Repr

/-- A pending timed launch (R250): the time, DROP, the register that receives the outcome, the offset of the TAT. -/
structure Timed where
  time : Nat
  drop : Bool
  sd : Nat
  off : Nat
  deriving DecidableEq, Repr

/-- A long instruction: waiting for its issue point, or detached with what it captured there (R197). -/
structure Long where
  kind : LongKind
  x : XT
  off : Nat
  td : BitVec 256 := 0
  ta : BitVec 256 := 0
  tb : BitVec 256 := 0
  tc : BitVec 256 := 0
  sa : DWord := 0
  sb : DWord := 0
  sd : DWord := 0
  list : List Word := []
  pass : Nat := 0
  unit : Nat := 0
  /-- real work has ended; what is left is the rescale and drain, or the final write -/
  ended : Bool := false
  /-- running values of an instruction that is partly done (R233, R241) -/
  scratch : List Nat := []
  timed : Option Timed := none
  /-- stopped at a resumable point: it passes a new issue point on resume (R200) -/
  parked : Bool := false
  /-- its operands are pinned: from its issue point until it completes, a HALT included (R129, R198) -/
  pinned : Bool := false
  /-- it has reached a resumable point since its latest issue point (R139) -/
  moved : Bool := false
  /-- a slab has been fetched since its latest issue point: the first fetch falls into the ramp-up, or into the work before (R132, R133;
  log entry 131) -/
  fed : Bool := false
  deriving DecidableEq, Repr

/-- The posted instructions (R216). -/
inductive PostKind where
  | move
  | mrd
  | mwr
  | cred
  | cbcast
  | ccat
  | ctopk
  | cbar
  deriving DecidableEq, Repr

/-- A posted instruction: waiting for acceptance, or accepted and unfinished (R220 to R222). -/
structure Posted where
  id : Nat
  kind : PostKind
  x : XT
  off : Nat
  td : BitVec 256 := 0
  ta : BitVec 256 := 0
  sa : DWord := 0
  sb : DWord := 0
  /-- the count of the collective in its scope (R246) -/
  seq : Nat := 0
  /-- the contribution read at acceptance (R248) -/
  data : List Byte := []
  /-- the transfer of a move between clusters has arrived: its destination is written (R87, R88) -/
  arrived : Bool := false
  timed : Option Timed := none
  deriving DecidableEq, Repr

/-- A completion set (R221). -/
structure CSet where
  unfinished : Nat := 0
  word : Word := 0
  deriving DecidableEq, Repr

/-- The register that a load from device memory writes when its lines return (R675, R196). -/
inductive LoadDst where
  | scalar (sd : Nat) (size : Nat)
  | vector (vd : Nat)
  | gather (vd : Nat) (lanes : List Nat)
  deriving DecidableEq, Repr

/-- A load whose lines have not returned: the bytes it reads in program order, taken when it was issued, the program address of
its first byte in device memory, the lines it waits for, each with the symbols that stood in error when it was issued, and the A register
whose BASE the access steps once it has been made (R180). -/
structure PendLoad where
  id : Nat
  off : Nat
  dst : LoadDst
  addr : Nat
  lines : List (Nat × List Nat)
  data : List Byte
  step : Option Nat := none
  deriving DecidableEq, Repr

/-- The table of the product-code engine (R242). -/
structure PqTable where
  d0 : Nat
  m : Nat
  tab : List Word
  deriving DecidableEq, Repr

/-- What the array holds beside the accumulator set in use (R113). -/
structure ArrayParts where
  /-- the accumulator set that drains -/
  other : Tab Word := []
  /-- the group registers that are not zero, by accumulator entry and half-column: none at a resumable point, which is a group boundary, where
  the rescale has zeroed them (R138, R149) -/
  groups : Tab (BitVec 40) := []
  /-- stream mode: the activation code that the cells of each row hold -/
  cells : List Byte := []
  /-- hold mode: the weights in the latches of the tile that was served last, and in the spare latches, by row and column -/
  latch : List Byte := []
  spare : List Byte := []
  /-- hold mode: the slabs of the current input tile -/
  slabs : List Byte := []
  deriving DecidableEq, Repr

/-- The context placed on a core (R99, R163, R171). -/
structure Placed where
  ctx : Nat
  rank : Nat
  deriving DecidableEq, Repr

/-- A core waiting at a gated instruction for the decision of its layer instance (R317). -/
structure GateWait where
  layer : Nat
  iter : Nat
  deriving DecidableEq, Repr

/-- One schedulable core number and what serves it. -/
structure Core where
  placed : Option Placed := none
  run : RunState := .idle
  array : ArrayMode := .idle
  /-- the activity level of the array is above zero: a ramp-down has not ended (R135, R136) -/
  ramping : Bool := false
  pc : Nat := 0
  fault : Word := 0
  faultOff : Word := 0xFFFFFFFF
  s : Tab DWord := []
  a : Tab AReg := []
  lc : Tab DWord := []
  loops : List LoopRec := []
  v : Tab (BitVec 1024) := []
  p : Tab DWord := []
  t : Tab (BitVec 256) := []
  fstat : BitVec 16 := 0
  steps : DWord := 0
  /-- the last access through the general port took more than one step: the one behind it may wait for it (R73) -/
  portWaits : Bool := false
  mirage : DWord := 0
  acc : Tab Word := []
  parts : ArrayParts := {}
  live : List Word := []
  pq : Option PqTable := none
  waiting : Option Long := none
  /-- when the waiting array instruction asked for admission (R30) -/
  asked : Option Nat := none
  det : Option Long := none
  /-- older long instructions whose real work has ended and whose results are not ready, the oldest first (R133, R197) -/
  drains : List Long := []
  /-- when the present wait for operands began, and whether it has ended and been counted (R103, statistic 7) -/
  since : Nat := 0
  /-- the state record of the core has been written for a save (R353) -/
  recorded : Bool := false
  resident : Bool := false
  sets : Tab CSet := []
  posted : List Posted := []
  /-- the top-k lists that the core's tensors hold, by program address: whether their values are integers, and the bytes as they were
  written (R253, R256, R274; log entry 133) -/
  topLists : Tab (Bool × List Byte) := []
  postWait : Option Posted := none
  twait : Option XT := none
  endWait : Bool := false
  ended : Bool := false
  timed : Option Timed := none
  collSeq : Tab Nat := []
  stop : Option StopKind := none
  loads : List PendLoad := []
  gate : Option GateWait := none
  /-- the gate at the present pc has been passed: its instance was decided FULL (R317) -/
  gateOpen : Bool := false
  /-- the next layer of the declared order, and the iteration, that this core is to reach (R318) -/
  nextLayer : Nat := 0
  iter : Nat := 0
  /-- instances of the layers whose gate this core has passed and whose code it has not left -/
  inLayers : List GateWait := []
  ls : Mem := []
  deriving DecidableEq, Repr

end Sys2Proof.Machine
end

