-- ==== Sys2Proof/Machine/ContextState.lean ====
section
/-! DEFINITION. ContextState: contexts, their images as read at open, their runs, and what the caravan holds for them
(R166, R167, R313 to R327, R338 to R361, R364). -/
namespace Sys2Proof.Machine

/-- The class of a context (R338). -/
inductive CtxClass where
  | lc
  | be
  deriving DecidableEq, Repr

/-- The states of a context (R344). -/
inductive CtxPhase where
  | free
  | opening
  | idle
  | waiting
  | placing
  | running
  | saving
  | parked
  | restoring
  | held
  | ending
  | teardown
  | closing
  deriving DecidableEq, Repr

/-- A CONST section (R167): the window it goes to (0 local store, 1 cluster store, 2 device memory), its byte offset there, its bytes. -/
structure ConstSec where
  window : Nat
  addr : Nat
  bytes : List Byte
  deriving DecidableEq, Repr

/-- An entry of the TENSORS section (R313). -/
structure TensorDecl where
  persist : Bool
  perRank : Bool
  dstCluster : Bool
  srcNs : Bool
  nsSlot : Nat
  place : Nat
  src : Nat
  bytes : Nat
  dst : Nat
  stride : Nat
  deriving DecidableEq, Repr

/-- An entry of the LAYERS section (R314). -/
structure LayerDecl where
  ref : Nat
  firstRank : Nat
  rankCount : Nat
  gate : Nat
  endOff : Nat
  deadline : Nat
  tensors : List Nat
  mirage : Option Nat
  deriving DecidableEq, Repr

/-- An entry of the MIRAGE section (R315). -/
structure MirageDecl where
  kind : Nat
  target : Nat
  tensors : List Nat
  deriving DecidableEq, Repr

/-- What the module keeps of an image (R166, R167). -/
structure Image where
  level : Nat := 1
  entry : Nat := 0
  code : List Byte := []
  localBytes : Nat := 0
  slices : Nat := 0
  devBytes : Nat := 0
  consts : List ConstSec := []
  tensors : List TensorDecl := []
  lead : Nat := 1
  iterations : Nat := 0
  layers : List LayerDecl := []
  mirages : List MirageDecl := []
  deriving DecidableEq, Repr

/-- The state of a copy of a declared tensor (R313). -/
inductive CopyState where
  | absent
  | filling
  | resident
  | released
  deriving DecidableEq, Repr

/-- A copy: its tensor, the rank or (for the cluster store) the cluster that holds it, its destination window offset. -/
structure Copy where
  tid : Nat
  cluster : Bool
  place : Nat
  lo : Nat
  bytes : Nat
  state : CopyState := .absent
  written : Nat := 0
  /-- the layer instance the copy is filled for -/
  layer : Nat := 0
  iter : Nat := 0
  /-- when it last became RESIDENT (R323) -/
  since : Nat := 0
  deriving DecidableEq, Repr

/-- How a layer instance was decided (R323): a mirage with its kind and target, a failure with its fault word. -/
inductive Decision where
  | full
  | mirage (kind : Nat) (target : Nat)
  | failed (word : Word) (kind : Nat) (target : Nat) (declared : Bool)
  deriving DecidableEq, Repr

/-- A layer instance (R317, R322, R323). -/
structure Inst where
  layer : Nat
  iter : Nat
  gateTime : Option Nat := none
  decision : Option Decision := none
  decided : Nat := 0
  /-- ranks that acted on the decision, and ranks that left the instance -/
  acted : List Nat := []
  left : List Nat := []
  deriving DecidableEq, Repr

/-- A compute command (R440): its command, when it arrived, its argument and result places, its data. -/
structure ComputeCmd where
  cmd : CmdRef
  arrival : Nat
  /-- its place among all the compute commands that have arrived (R348) -/
  order : Nat
  ndt : Nat
  argAddr : Nat
  argBytes : Nat
  resAddr : Nat
  resBytes : Nat
  arg : List Byte
  deriving DecidableEq, Repr

/-- A core's fault within a run (R359). -/
structure RunFault where
  time : Nat
  rank : Nat
  word : Word
  off : Word
  deriving DecidableEq, Repr

/-- A run of a context (R341, R361). -/
structure Run where
  cc : ComputeCmd
  /-- when it became a run -/
  since : Nat
  firstStart : Option Nat := none
  /-- when its latest placement began -/
  placedAt : Nat := 0
  /-- core numbers by rank -/
  cores : List Nat := []
  preemptions : Nat := 0
  events : Nat := 0
  faults : List RunFault := []
  mirages : Nat := 0
  aborted : Bool := false
  aged : Bool := false
  /-- ranks that have ended (R353) -/
  endedRanks : List Nat := []
  deriving DecidableEq, Repr

/-- The image in the save area of one rank: the core's state, its local store (R353). -/
structure SavedCore where
  core : Core
  deriving DecidableEq, Repr

/-- The membership of a context in a job (R364). -/
structure Job where
  id : Nat
  count : Nat
  index : Nat
  since : Nat
  cmd : CmdRef
  /-- members known to have joined, by member index: the module and the context -/
  members : Tab (Nat × Nat) := []
  joined : Bool := false
  deriving DecidableEq, Repr

/-- A namespace binding (R438). -/
structure Bind where
  nsid : Nat
  writable : Bool
  deriving DecidableEq, Repr

/-- A lent staging range (R438, R439). -/
structure Lend where
  windowOffset : Nat
  first : Nat
  count : Nat
  deriving DecidableEq, Repr

/-- A context. -/
structure Ctx where
  phase : CtxPhase := .free
  cls : CtxClass := .lc
  gran : Nat := 0
  ncores : Nat := 0
  hold : Bool := false
  port : Nat := 0
  image : Image := {}
  binds : Tab Bind := []
  lends : List Lend := []
  /-- device-memory page numbers by window page -/
  pages : List Nat := []
  savePages : List Nat := []
  openCmd : Option CmdRef := none
  openSince : Nat := 0
  pagesWanted : Nat := 0
  closeCmd : Option CmdRef := none
  /-- the context closes once its run has gone (R357, R423, R443) -/
  closing : Bool := false
  /-- aborts that complete once the run has been torn down, with their DW0 (R443, R448) -/
  aborts : List (CmdRef × Nat) := []
  job : Option Job := none
  queue : List ComputeCmd := []
  run : Option Run := none
  saved : Tab Core := []
  /-- saved slices: by cluster index of the run and slice, the bytes -/
  savedSlices : Tab Mem := []
  /-- the cluster index of each rank at the save -/
  savedClu : Tab Nat := []
  /-- bytes that the save wrote, which the restore reads back (R371, statistic 9) -/
  savedBytes : Nat := 0
  /-- cores kept between runs by HOLD -/
  heldCores : List Nat := []
  copies : List Copy := []
  insts : List Inst := []
  /-- the iteration marks (R322) -/
  marks : Tab Nat := []
  /-- by deciding share, the end of the instances that are within LEAD for a TIE_LEAD_MAX that has been replaced (R335) -/
  leadSeen : Tab Nat := []
  /-- failure words of tensors of MIRAGE entries whose fill failed (R328) -/
  failedMir : Tab Word := []
  /-- search context of an attached index (R277) -/
  search : Bool := false
  deriving DecidableEq, Repr

end Sys2Proof.Machine
end

