-- ==== Sys2Proof/Machine/ControlState.lean ====
section
/-! DEFINITION. ControlState: the state of a control-space page (R41 to R70) and the kinds of pages (R36). -/
namespace Sys2Proof.Machine

/-- The blocks that have pages (R36). -/
inductive PageKind where
  | cor
  | clu
  | rgn
  | tie
  | dmm
  | chk
  | nve
  | onf
  | aup
  | pwr
  | thm
  | hub
  | med
  | dsp
  | stu
  | mgr
  | cfl
  | opt
  deriving DecidableEq, Repr

/-- SERVICE.STATE (R53). -/
inductive SvcState where
  | inService
  | draining
  | fenced
  | testing
  | lehr
  | retired
  | spared
  deriving DecidableEq, Repr

/-- What an access to the control space answers: a posted write nothing, a read of the window its value of a size, the access of a
Context Control command its command, and a peer's read its module, as the tag names it. -/
inductive Reply where
  | posted
  | bus (size : Nat)
  | ctxRead (cmd : CmdRef)
  | ctxWrite (cmd : CmdRef)
  | peer (via : Option Nat) (tag size : Nat)
  deriving DecidableEq, Repr

/-- A block-specific access that waits for the zeroise of its page to end (R57), with the value that a write writes. -/
structure HeldAccess where
  w : Writer
  off : Nat
  value : Word
  reply : Reply
  deriving DecidableEq, Repr

/-- One page: its common header, its live statistics, and its stored block registers by offset. A statistic or register that
is not listed has its reset value. -/
structure Page where
  owner : Word := 0
  gen : Word := 0
  ctl : BitVec 24 := 0
  irqStatus : Word := 0
  irqEnable : Word := 0
  errFirst : Word := 0
  errCount : Word := 0
  epoch : Word := 0xFFFFFFFF
  service : SvcState := .inService
  result : Nat := 0
  conflict : Word := 0
  zeroising : Bool := false
  shadowValid : Bool := false
  shadow : Tab DWord := []
  live : Tab DWord := []
  /-- the snapshot slot of each master, by master code: the offset of the high word, and the word (R65) -/
  snaps : Tab (Nat × Word) := []
  regs : Tab Word := []
  held : List HeldAccess := []
  deriving DecidableEq, Repr

end Sys2Proof.Machine
end

