-- ==== Sys2Proof/Machine/EventState.lean ====
section
/-! DEFINITION. EventState: what the module sends out (R433, R445, R455, R496), and the events and logs of a controller
(R445, R455, R469). -/
namespace Sys2Proof.Machine

/-- A frame of the Aupen links (R496). -/
structure Frame where
  type : Nat
  vc : Nat
  layer : Nat := 0
  linkLocal : Bool := false
  dst : Nat
  src : Nat
  gen : Nat := 0
  sseq : Nat := 0
  spec : Nat := 0
  payload : List Byte := []
  deriving DecidableEq, Repr

/-- The pins that the module drives, but for the bus of the sideband (R652). -/
inductive PinName where
  | pwrgood
  | removeOk
  | thermtrip
  | leak
  | smbAlert
  | wake (port : Nat)
  deriving DecidableEq, Repr

/-- What the module sends to the world outside it, in order (log entry 4). -/
inductive Output where
  /-- a control-space or staging-window read completes with a value of a size in bytes -/
  | readData (w : Writer) (addr size value : Nat)
  /-- a read completes with Unsupported Request (R34), or with poisoned data (R562) -/
  | readError (w : Writer) (addr : Nat) (poisoned : Bool)
  /-- bytes written into the host buffer of a command at an offset -/
  | hostData (cmd : CmdRef) (off : Nat) (bytes : List Byte)
  /-- bytes of a command's host buffer that are undefined (R562) -/
  | hostUndefined (cmd : CmdRef) (off len : Nat)
  /-- a completion-queue entry: DW0, DW1, status field -/
  | completion (cmd : CmdRef) (dw0 dw1 status : Nat)
  /-- an MSI-X write of a controller's vector -/
  | msix (ctrl vector : Nat)
  /-- a power-management event message of a port (R456) -/
  | pme (port : Nat)
  /-- an event of a page that MM owns or that no one owns (R47) -/
  | mmEvent (page : Nat) (bits : Word)
  /-- a value that returned to the module manager from its READ of a peer: tag and value (R497) -/
  | mmCompletion (module tag value : Nat)
  /-- a frame of the module manager to a module on a VC failed; a READ that failed returns no value (R510) -/
  | mmFailure (module vc : Nat)
  /-- a block of 640 bytes sent on a link (R490) -/
  | block (link : Nat) (bytes : List Byte)
  /-- a sideband response: status and data -/
  | miResponse (status : Nat) (data : List Byte)
  deriving DecidableEq, Repr

/-- An asynchronous event: type, information, log page (R469). -/
structure AEvent where
  type : Nat
  info : Nat
  log : Nat
  deriving DecidableEq, Repr

/-- An entry of logs 0xC1, 0xC2 and 0xC4: two u16, a u32 and the system time (R445, R455). -/
structure LogRec where
  a : Nat
  b : Nat
  bits : Nat
  time : Nat
  deriving DecidableEq, Repr

/-- A controller's asynchronous events and logs. -/
structure EventPort where
  /-- outstanding asynchronous event requests, oldest first -/
  aers : List CmdRef := []
  /-- events raised and not yet reported for want of a request -/
  queued : List AEvent := []
  /-- events reported and not yet re-armed by a read of their log -/
  reported : List AEvent := []
  /-- feature 0x0B: the events that are enabled; every event at first (log entry 14) -/
  config : Word := 0xFFFFFFFF
  pageLog : List LogRec := []
  ctxLog : List LogRec := []
  wakeLog : List LogRec := []
  deriving DecidableEq, Repr

/-- A queued write-back of a corrected device-memory line or SRAM word: what it writes to, and whether a write came between. -/
structure WriteBack where
  line : Nat
  stale : Bool := false
  deriving DecidableEq, Repr

end Sys2Proof.Machine
end

