-- ==== Sys2Proof/Machine/HostState.lean ====
section
/-! DEFINITION. HostState: the controllers of the host ports (R420 to R456), their queues, tags, features and staging pages, and
what becomes of the program pages of device memory (R331, R437). -/
namespace Sys2Proof.Machine

/-- A submission queue (R429): its size, completion queue, priority class, the entries that its doorbells have made available, and
its head. -/
structure SubQ where
  size : Nat
  cq : Nat
  prio : Nat := 0
  tail : Nat := 0
  head : Nat := 0
  deriving DecidableEq, Repr

/-- A completion entry: command, DW0, DW1, status field. -/
structure Entry where
  cmd : CmdRef
  dw0 : Nat
  dw1 : Nat
  status : Nat
  deriving DecidableEq, Repr

/-- A completion queue: its size, interrupt vector, head, the entries that the host has not freed, and the entries that wait for
room. -/
structure CompQ where
  size : Nat
  vector : Nat := 0
  ien : Bool := true
  head : Nat := 0
  used : Nat := 0
  waiting : List Entry := []
  deriving DecidableEq, Repr

/-- How far a fetched command has got (R448). -/
inductive CmdStage where
  /-- fetched; its effect has not begun -/
  | fetched
  /-- it has begun to act, or waits for what completes it -/
  | begun
  deriving DecidableEq, Repr

/-- A fetched command, which holds a tag until it completes (R431). -/
structure Fetched where
  cmd : CmdRef
  stage : CmdStage := .fetched
  /-- its opcode, and HUB_MODE_SEARCH when it was fetched (R648) -/
  op : Nat := 0
  caps : Nat := 0
  deriving DecidableEq, Repr

/-- One port with its controller. -/
structure Controller where
  /-- PERST# of the port is released, and the link has trained: rate code, lanes, Flit mode -/
  released : Bool := false
  rate : Nat := 0
  width : Nat := 0
  flit : Bool := false
  dstate : PowerD := .d0
  pmeEn : Bool := false
  pmeStatus : Bool := false
  /-- CC.EN, CSTS.RDY and CSTS.PP -/
  en : Bool := false
  rdy : Bool := false
  pp : Bool := false
  sqs : Tab SubQ := []
  cqs : Tab CompQ := []
  cmds : List Fetched := []
  /-- arbitration (R430): commands left to each class in this round, the queue that each class served last, the queue that is served
  and the commands left of its burst -/
  credits : Tab Nat := []
  lastSq : Tab Nat := []
  burstSq : Nat := 0
  burstLeft : Nat := 0
  /-- since when I/O fetch has been stopped for want of a tag (R431) -/
  stalledSince : Option Nat := none
  /-- entries posted to a vector since its last interrupt, while they coalesce (R433) -/
  coalescing : Tab Nat := []
  /-- features of controller scope by FID: current and saved values; vectors with coalescing disabled (R471) -/
  feats : Tab Nat := []
  savedFeats : Tab Nat := []
  vecNoCoalesce : List Nat := []
  hostId : Nat := 0
  /-- Doorbell Buffer Config is in force (R424) -/
  shadowDoorbells : Bool := false
  /-- device-memory page by staging index (R437) -/
  staging : Tab Nat := []
  /-- target of a window page of BAR4 (R35, R437) -/
  map : Tab Nat := []
  /-- firmware download: pieces by offset (R476) -/
  download : Tab (List Byte) := []
  /-- namespaces attached to the controller, and those whose change the Changed Namespace List shows -/
  attached : List Nat := []
  changed : List Nat := []
  /-- the Reservation Notification log (R469): count, type, namespace -/
  resvLog : List (Nat × Nat × Nat) := []
  resvCount : Nat := 0
  deriving DecidableEq, Repr

/-- What becomes of a program page (R331, R570). A page not listed waits to be zeroised. -/
inductive PageUse where
  | dirty
  | clean
  | used
  | heldOut
  deriving DecidableEq, Repr

end Sys2Proof.Machine
end

