-- ==== Sys2Proof/Machine/LinkState.lean ====
section
/-! DEFINITION. LinkState: the Aupen links (R485 to R523), the router and the streams, and the system time unit (R524 to R544). -/
namespace Sys2Proof.Machine

/-- AUP_LINK_STATUS.STATE (R521). -/
inductive LinkSt where
  | down
  | search
  | negotiate
  | quarantine
  | active
  | retrain
  | draining
  deriving DecidableEq, Repr

/-- A receiving lane: whether it is locked, the LANE that its peer sends on it, the next CWCNT, consecutive bad codewords, the boundary
at which the last codeword decoded instead, slips, retirement, disabling, and trainings in a row at which it did not lock (R486 to
R489, R518). -/
structure LaneRx where
  locked : Bool := false
  field : Nat := 0
  cw : Nat := 0
  bad : Nat := 0
  shift : Option Int := none
  slips : Nat := 0
  retired : Bool := false
  disabled : Bool := false
  fails : Nat := 0
  deriving DecidableEq, Repr

/-- A DATA block in the replay buffer: its cells, the index of the first that begins a frame, the frames that have cells in it, and
when it was last sent (R492). -/
structure HeldBlock where
  seq : Nat
  cells : List Byte
  first : Nat
  frames : List Frame
  sent : Nat
  deriving DecidableEq, Repr

/-- A time exchange of a requester (R530): its number, t1, and t2 and t4 once the RESPONSE is there with the time that it came. -/
structure Exchange where
  num : Nat
  t1 : Nat
  answer : Option (Nat × Nat × Nat) := none
  deriving DecidableEq, Repr

/-- What the latest TIME frame over a link said (R529): hops, grandmaster's PRIORITY, flags, domain, grandmaster. -/
structure Heard where
  hops : Nat
  prio : Nat
  flags : Nat
  domain : Nat
  gm : Nat
  deriving DecidableEq, Repr

/-- A link. -/
structure Link where
  st : LinkSt := .down
  reason : Nat := 0
  version : Nat := 0
  width : Nat := 0
  /-- the last agreed width -/
  lastWidth : Nat := 0
  rate : Nat := 0
  lane0 : LaneRx := {}
  lane1 : LaneRx := {}
  /-- the far end's module and link; this side's training phase (R514); the ACK_SEQ of the far end's READY -/
  peer : Option (Nat × Nat) := none
  phase : Nat := 0
  peerReady : Option Nat := none
  /-- the state before RETRAIN, and consecutive retrains that failed (R493) -/
  prev : LinkSt := .down
  retrains : Nat := 0
  /-- frames that wait, by selector VC × 2 + layer; the layer last served, by VC; the rest of a frame that is partly sent -/
  queue : Tab (List Frame) := []
  served : Tab Nat := []
  tail : List Byte := []
  tailFrame : Option Frame := none
  /-- sender: next sequence number, replay buffer, replays since ACK advanced -/
  nextSeq : Nat := 0
  replay : List HeldBlock := []
  tries : Nat := 0
  /-- receiver: the sequence number expected, whether it discards until a replay, a NAK to send, a frame partly received -/
  expect : Nat := 0
  discard : Bool := false
  nak : Bool := false
  partly : List Byte := []
  /-- cells sent, cells that the peer freed as it last said, cells freed here, by selector; the selector that the next block carries -/
  sent : Tab Nat := []
  peerFreed : Tab Nat := []
  freed : Tab Nat := []
  turn : Nat := 0
  /-- since when a VC has had frames waiting and no credit -/
  starved : Option Nat := none
  /-- time over the link: what it carries, an exchange in progress, the next NUM, when the last REQUEST was sent, the last θ -/
  heard : Option Heard := none
  exch : Option Exchange := none
  num : Nat := 0
  asked : Nat := 0
  theta : Option Int := none
  deriving DecidableEq, Repr

/-- A frame at the router or delivered, with the link that it came through; none for one of this module. -/
structure Routed where
  via : Option Nat
  frame : Frame
  deriving DecidableEq, Repr

/-- What a stream frame belongs to at its source (R510). -/
inductive Initiator where
  /-- the n-th SYSTEM collective of a job -/
  | coll (job n : Nat)
  /-- the module manager, and answers to a peer's READ -/
  | mm
  deriving DecidableEq, Repr

/-- A frame that no SACK covers yet. -/
structure TxFrame where
  gen : Nat
  sseq : Nat
  sent : Nat
  init : Initiator
  deriving DecidableEq, Repr

/-- The source of a stream (R501): generation, next SSEQ, NEXT of the latest SACK, frames that it does not cover, when a GAP_CHECK was
last sent, and frames that wait for the window. -/
structure TxStream where
  gen : Nat := 0
  next : Nat := 0
  base : Nat := 0
  frames : List TxFrame := []
  checked : Nat := 0
  waiting : List (Frame × Initiator) := []
  deriving DecidableEq, Repr

/-- The destination of a stream (R502 to R504): generation, expected SSEQ, poison, frames held with the time since which each is, frames
applied since the last SACK and when the first of them was, and the POISON notice: when it was last sent, and whether a frame came
since. -/
structure RxStream where
  gen : Nat := 0
  expect : Nat := 0
  poison : Bool := false
  held : List (Nat × Routed) := []
  applied : Nat := 0
  appliedAt : Nat := 0
  noticeAt : Nat := 0
  again : Bool := false
  deriving DecidableEq, Repr

/-- STATUS.BLOCK.STATE of the STU (R527). -/
inductive StuSt where
  | free
  | locking
  | locked
  | holdover
  deriving DecidableEq, Repr

/-- An action slot (R536 to R538): its state (0 IDLE, 1 ARMED, 2 FIRED, 3 LATE, 4 CANCELLED, 5 SKIPPED, 6 REJECTED), the master that
armed it, whether it is an EPOCH slot, target, value, time. -/
structure Slot where
  st : Nat := 0
  by_ : Writer := ⟨.none, 0⟩
  epoch : Bool := false
  target : Word := 0
  value : Word := 0
  time : Nat := 0
  deriving DecidableEq, Repr

/-- The system time unit. -/
structure StuState where
  st : StuSt := .free
  /-- fraction of the time, in 1/65,536 ns (R524) -/
  frac : Nat := 0
  /-- this module is grandmaster; the grandmaster has claimed its role; its PRIORITY -/
  gm : Bool := false
  claimed : Bool := false
  gmPrio : Nat := 255
  /-- domain number and grandmaster -/
  domain : Option (Nat × Nat) := none
  parent : Option Nat := none
  hops : Nat := 0
  /-- the grandmaster's announcement count, and when it last advanced -/
  announce : Nat := 0
  announceAt : Nat := 0
  /-- the end of a claim wait (R528) -/
  claimDue : Option Nat := none
  /-- when the links began to train -/
  since : Nat := 0
  /-- a step is due with the next exchange (R531); the last values of θ; it has been LOCKED in this domain -/
  step : Bool := false
  thetas : List Int := []
  wasLocked : Bool := false
  exchAt : Nat := 0
  offset : Int := 0
  delay : Int := 0
  foreign : Bool := false
  /-- when the time in LOCKED or HOLDOVER was last counted (R544) -/
  mark : Nat := 0
  slots : Tab Slot := []
  /-- epochs: current number, the number for the next boundary, the latest boundary, the next one of the schedule (R539, R540) -/
  epoch : Nat := 0
  nextNo : Option Nat := none
  last : Option Nat := none
  sched : Option Nat := none
  /-- times of due actions for which wake cause 2 has been raised -/
  woken : List Nat := []
  deriving DecidableEq, Repr

end Sys2Proof.Machine
end

