-- ==== Sys2Proof/Machine/SearchState.lean ====
section
/-! DEFINITION. SearchState: an attached index, its lists, drift list and tombstones, its batch windows, merges and rebuild (R277 to
R305, R436, R441, R442). -/
namespace Sys2Proof.Machine

/-- The shape of an index: the fields of its header that the create command fixes (R278). -/
structure IShape where
  metric : Nat := 0
  codeBits : Nat := 8
  dim : Nat := 8
  m : Nat := 1
  nlist : Nat := 1
  centFmt : Nat := 0x20
  rawFmt : Nat := 0x20
  rawKind : Nat := 0
  mergeAt : Nat := 100
  rawBase : Nat := 0
  rawNs : Nat := 0
  rawStride : Nat := 0
  driftCap : Nat := 1024
  tombCap : Nat := 1024
  deriving DecidableEq, Repr

/-- An entry of a list version: identifier, slot, code by sub-space (R281). -/
structure IEntry where
  id : Nat
  slot : Nat
  code : List Nat
  deriving DecidableEq, Repr

/-- A list as it stands (R280): where its payload lies in device memory, and what it holds. -/
structure IList where
  version : Nat := 0
  cut : Nat := 0
  offset : Nat := 0
  entries : List IEntry := []
  deriving DecidableEq, Repr

/-- A drift entry (R298). -/
structure Drift where
  seq : Nat
  list : Nat
  entry : IEntry
  deriving DecidableEq, Repr

/-- A drift page (R298): its index and the entries it holds. -/
structure DriftPage where
  index : Nat
  entries : List Drift
  deriving DecidableEq, Repr

/-- What a window sees (R295): lists, drift entries with the pages they lie in by list, tombstones (identifier, sequence number), and the
shape and tables it scores by. -/
structure IView where
  shape : IShape := {}
  centroids : List Nat := []
  codebooks : List Nat := []
  lists : Tab IList := []
  drift : List Drift := []
  chains : Tab (List DriftPage) := []
  tombs : List (Nat × Nat) := []
  deriving DecidableEq, Repr

/-- A query in a window: its command, its place in the command, its parameters (R287), its vector as given and as it is scored (R285,
R286). -/
structure IQuery where
  cmd : CmdRef
  idx : Nat
  nprobe : Nat
  k : Nat
  rerank : Nat
  range : Bool
  exact : Bool
  thresh : Nat
  given : List Nat
  vec : List Nat
  deriving DecidableEq, Repr

/-- A search command in progress: where each query's result block lies, and the queries not yet answered. -/
structure ISearch where
  cmd : CmdRef
  offsets : List Nat
  left : List Nat
  /-- the window of one of its queries has closed (R448) -/
  closed : Bool := false
  deriving DecidableEq, Repr

/-- A window: when it opened, its queries; closed ones with the time of the close and what they see. -/
structure IWindow where
  opened : Nat
  queries : List IQuery
  closed : Nat := 0
  view : IView := {}
  deriving DecidableEq, Repr

/-- The parameters of a rebuild (R442). -/
structure IRebuildParams where
  nlist : Nat
  m : Nat
  codeBits : Nat
  sample : Nat
  iterations : Nat
  seed : Nat
  deriving DecidableEq, Repr

/-- A rebuild in progress (R304, R305): its command and parameters; its cut, once a window close has set it, the entries visible there with
their raw vectors, and the inserts recorded since. -/
structure IRebuild where
  cmd : CmdRef
  params : IRebuildParams
  cut : Option Nat := none
  entries : List (IEntry × List Nat) := []
  inserts : List (Drift × List Nat) := []
  deriving DecidableEq, Repr

/-- An attached index. -/
structure SIndex where
  nsid : Nat
  view : IView := {}
  seq : Nat := 1
  mergeFloor : Nat := 0
  visible : Nat := 0
  capacity : Nat := 0
  /-- window length in µs, and queries per window -/
  window : Nat := 0
  batchMax : Nat := 1
  /-- where the centroids, the codebooks and the directory lie in device memory, and the bytes of the raw store there (R278, R282) -/
  cent : Nat := 0
  book : Nat := 0
  dir : Nat := 0
  rawLen : Nat := 0
  /-- stretches of device memory that old versions take, and folded drift entries, until every window that saw them has finished (R302) -/
  olds : List (Nat × Nat) := []
  folded : Nat := 0
  openWin : Option IWindow := none
  scanning : Option IWindow := none
  /-- queries that wait for a window with room -/
  waiting : List IQuery := []
  searches : List ISearch := []
  /-- merges in progress: the cut by list; merge commands with the cut they wait for -/
  merging : Tab Nat := []
  mergeCmds : List (CmdRef × Nat) := []
  /-- slots of dropped entries, not yet free -/
  retired : List Nat := []
  rebuild : Option IRebuild := none
  deriving DecidableEq, Repr

end Sys2Proof.Machine
end

