-- ==== Sys2Proof/Machine/MediaState.lean ====
section
/-! DEFINITION. MediaState: namespaces, where the data of their blocks lies, the flash dies, channels, stripes and bands, and the
state of the protected write buffer and its hold-up (R372 to R420). -/
namespace Sys2Proof.Machine

/-- Where the data of a logical block lies (R376, R381 to R386): in the protected write buffer, on a die of a gather stripe, or in a band,
by the physical address of its indirection unit as the map names it: die × 2^23 + index within the die. -/
inductive FLoc where
  | buffer
  | gather (stripe die : Nat)
  | band (band iu : Nat)
  deriving DecidableEq, Repr

/-- A logical block that the map does not hold as deallocated: data and metadata with their place and order of writing, a block of a
ZEROED unit, or an unrecoverable one (R376, R393, R405). -/
inductive Blk where
  | data (bytes md : List Byte) (loc : FLoc) (seq : Nat)
  | zeroed
  | lost
  deriving DecidableEq, Repr

/-- A registrant of a namespace: host identifier and key (R424). -/
structure Registrant where
  host : Nat
  ctrl : Nat
  key : Nat
  deriving DecidableEq, Repr

/-- A namespace: its size in logical blocks, its format (R425), its features (R472), its reservation, its key's number (R408) and
its blocks. -/
structure Namespace where
  blocks : Nat
  lba : Nat
  mdBytes : Nat := 0
  extended : Bool := false
  /-- protection type 0 to 3; 1: the protection fields are the first 8 bytes of the metadata -/
  prot : Nat := 0
  protFirst : Bool := false
  formatIdx : Nat := 0
  shared : Bool := false
  dulbe : Bool := false
  tler : Nat := 0
  savedRecovery : Nat := 0
  resvMask : Nat := 0
  ptpl : Bool := false
  savedResvMask : Nat := 0
  registrants : List Registrant := []
  /-- the holder's host identifier and the reservation type -/
  holder : Option (Nat × Nat) := none
  resvGen : Nat := 0
  key : Nat := 0
  store : Tab Blk := []
  /-- inserts and deletes that the update journal of an index namespace holds (R436; log entry 33) -/
  drifts : List Drift := []
  tombs : List (Nat × Nat) := []
  idxSeq : Nat := 0
  deriving DecidableEq, Repr

/-- States of a flash die (R418). -/
inductive DieState where
  | inService
  | spare
  | evacuating
  | fenced
  | retired
  | testing
  deriving DecidableEq, Repr

/-- A flash die: state, parity group, retired plane-blocks and when they were retired, and its reads and soft decodes of the present
24 hours (R399). -/
structure FlashDie where
  state : DieState := .inService
  group : Option Nat := none
  bad : Nat := 0
  retiredAt : List Nat := []
  dayStart : Nat := 0
  dayReads : Nat := 0
  daySoft : Nat := 0
  /-- the state before a test -/
  wasSpare : Bool := false
  deriving DecidableEq, Repr

/-- A flash channel: training and temperature (R375, R417). -/
structure Channel where
  trained : Bool := false
  retrains : Nat := 0
  trainTemp : Nat := 0
  hotPos : Nat := 0
  hot : Nat := 0
  paced : Bool := false
  deriving DecidableEq, Repr

/-- A programmed gather stripe (R382). -/
structure Stripe where
  group : Nat
  parity : Nat
  /-- the dies it lies on, the parity's among them -/
  members : List Nat := []
  /-- reads since it was programmed, and when that was (R398) -/
  reads : Nat := 0
  since : Nat := 0
  deriving DecidableEq, Repr

/-- States of a band (R387). -/
inductive BandState where
  | opened
  | closed
  | verifying
  | verified
  | released
  deriving DecidableEq, Repr

/-- A band (R386): its group, its block of every plane of every member, its members, when it closed; by die, wordlines programmed and
reads. -/
structure Band where
  group : Nat
  block : Fin 1024 := 0
  members : List Nat
  state : BandState := .opened
  opened : Nat := 0
  closedAt : Nat := 0
  wordlines : Tab Nat := []
  reads : Tab Nat := []
  deriving DecidableEq, Repr

/-- A deferred error record (R394, R446). -/
structure Deferred where
  record : Nat
  nsid : Nat
  slba : Nat
  nlb : Nat
  time : Nat
  reported : Bool := false
  deriving DecidableEq, Repr

/-- An entry of the lost-block list (R470). -/
structure LostEntry where
  nsid : Nat
  cause : Nat
  slba : Nat
  nlb : Nat
  time : Nat
  deriving DecidableEq, Repr

/-- A write that completes when its blocks have left the buffer (R381): its command, or nothing for one that was discarded. -/
structure PendWrite where
  cmd : CmdRef
  nsid : Nat
  slba : Nat
  nlb : Nat
  dw0 : Nat := 0
  /-- the status it completes with, and the sequence numbers of an insert in an index: the context, the first and the last (R295, R299) -/
  st : Nat := 0
  seqs : Option (Nat × Nat × Nat) := none
  deriving DecidableEq, Repr

/-- What a command that waits for a channel does with the blocks it reads. -/
inductive PendOp where
  | read
  | compare (data : List Byte)
  | verify
  deriving DecidableEq, Repr

/-- A read that waits for a fenced channel (R395): since when, and how long it may wait. -/
structure PendRead where
  cmd : CmdRef
  since : Nat
  limit : Nat
  span : LbaSpan
  pr : PrInfo
  decodes : Decodes
  op : PendOp := .read
  deriving DecidableEq, Repr

/-- The media. -/
structure Media where
  /-- writes so far: the order of the blocks' data -/
  seq : Nat := 0
  stripes : Tab Stripe := []
  nextStripe : Nat := 0
  bands : Tab Band := []
  nextBand : Nat := 0
  /-- pages that were reconstructed and have not been relocated yet (R390): place, and half of an indirection unit in a band -/
  queued : List (FLoc × Nat) := []
  /-- dies that left service and found no spare (R399, R464) -/
  unspared : Nat := 0
  /-- group, block and die of the blocks that failed their band's latest verification (R397) -/
  failedOnce : List (Nat × Nat × Nat) := []
  dies : Tab FlashDie := []
  chans : Tab Channel := []
  /-- the gather size in effect, in GB; it survives every reset (R623, R646) -/
  gatherGB : Nat := 512
  holdupOk : Bool := false
  holdupUs : Nat := 0
  holdupAt : Option Nat := none
  testing : Bool := false
  /-- the hold-up bank's thermal action is in force (R664) -/
  bankHot : Bool := false
  recovered : Bool := false
  shutdown : Bool := true
  readOnly : Bool := false
  poolPm : Nat := 1000
  wearMax : Nat := 0
  wearMean : Nat := 0
  deferred : List Deferred := []
  nextRecord : Nat := 1
  lost : List LostEntry := []
  lostOverflow : Bool := false
  pendWrites : List PendWrite := []
  pendReads : List PendRead := []
  /-- the writes that had not completed when the bank failed in a power loss: what the buffer holds of them survives (R412) -/
  halfDone : List LbaSpan := []
  /-- keys generated so far (R409) -/
  keys : Nat := 0
  sanitizes : Nat := 0
  deriving DecidableEq, Repr

end Sys2Proof.Machine
end

