-- ==== Sys2Proof/Machine/StartState.lean ====
section
/-! DEFINITION. StartState: the state of a start and of a removal (R610 to R624, R641), and the option area as loaded (R597 to
R604, R609). -/
namespace Sys2Proof.Machine

/-- HUB_REMOVE.STATE (R644). -/
inductive RemoveState where
  | serving
  | preparing
  | ready
  deriving DecidableEq, Repr

/-- Where the module stands between power and service (R613, R614). -/
inductive StartPhase where
  /-- main input absent, or a thermal trip holds the module off -/
  | off
  /-- held at step 8 of R613 while the reset input stays asserted -/
  | held
  /-- released from reset: steps 2 to 12 of R614 run or are done -/
  | started
  deriving DecidableEq, Repr

/-- The hub's state. -/
structure HubState where
  phase : StartPhase := .off
  /-- AUX is present -/
  aux : Bool := true
  /-- the parts of HUB_READY that are done: bits 0 to 5, and 7 (R624) -/
  ready : Nat := 0
  /-- HUB_RESET_CAUSE, HUB_START_TIME, HUB_SELFTEST (R624) -/
  cause : Word := 0
  startTime : Nat := 0
  selftest : Word := 0
  remove : RemoveState := .serving
  /-- the writer of a CANCEL written while PREPARING (R641) -/
  cancelled : Option Nat := none
  /-- the reset input is held low; a removal request waits for the module manager (R613, R667) -/
  mrst : Bool := false
  removeReq : Bool := false
  /-- the thermal trip that holds the module off, and since when main input has been absent (R665) -/
  tripped : Bool := false
  mainLost : Option Nat := none
  deriving DecidableEq, Repr

/-- The hand-over of a core to its cluster's spare (R631): whether the copy is done. -/
structure Handover where
  copied : Bool := false
  deriving DecidableEq, Repr

/-- What the power governor and the thermal actions hold (R645, R664, R665, R669, R671). -/
structure PowerState where
  /-- mean and hottest sensor of each junction group, by THM page; the hottest reading is with the module manager's temperatures -/
  mean : Tab Int := []
  sensor : Tab Nat := []
  /-- when the governor last changed a die's supply; since when a die's supply has been below its target -/
  changed : Tab Nat := []
  below : Tab Nat := []
  /-- dies whose supply is lowered for their junction, and dies whose admission is held -/
  limited : List Nat := []
  admitHeld : List Nat := []
  /-- since when a junction has been at 115 °C or more -/
  hot : Tab Nat := []
  /-- since when the inlet has been at 50 °C or more, or below 45 °C while its cap is in force; that cap -/
  inletSince : Option Nat := none
  inletCap : Bool := false
  /-- the outlet's cap in W, and since when the outlet has been at or below 60 °C -/
  outletCap : Option Nat := none
  outletCool : Option Nat := none
  /-- moisture is sensed -/
  leak : Bool := false
  /-- since when some action of R664 has been in force, by THM page; since when a stack has been throttled -/
  acting : Tab Nat := []
  throttled : Tab Nat := []
  /-- THM_TRIP_LAST as the record journal holds it, with the system time of the trip, and a trip that no start has followed yet -/
  tripLast : Word := 0
  tripTime : Nat := 0
  tripNew : Bool := false
  deriving DecidableEq, Repr

/-- The option area (R597 to R604). -/
structure OptState where
  /-- the record in force, 512 bytes as loaded; empty with defaults -/
  inforce : List Byte := []
  loadedSeq : Word := 0
  source : Nat := 0
  committedSeq : Word := 0
  fieldErr : Word := 0
  /-- the latest committed record -/
  committed : List Byte := []
  stage : List Byte := []
  stageBase : Word := 0
  unlocked : Bool := false
  /-- the password whose digest the journal holds (R597) -/
  password : Option DWord := none
  pwLo : Word := 0
  pwHi : Word := 0
  failed : Nat := 0
  /-- when the latest mismatch was -/
  lastFail : Option Nat := none
  result : Nat := 0
  /-- a commit in progress: the record it writes -/
  committing : Option (List Byte) := none
  deriving DecidableEq, Repr

/-- An operation of the code-flash controller (R586, R606): 1 program a row, 2 erase a sector, 3 verify a sector. -/
structure CflOp where
  cmd : Nat
  bank : Nat
  sector : Nat
  row : Nat
  data : List Byte
  deriving DecidableEq, Repr

/-- What a lockstep pair of the module manager holds of the code flash (R584), by line number: the prefetch buffer, and the branch cache
by its sets, most recently used line first. -/
structure FetchPair where
  prefetch : List Nat := []
  branch : Tab (List Nat) := []
  deriving DecidableEq, Repr

/-- The code-flash controller (R579 to R608). -/
structure CflState where
  /-- bytes by flash address (bank × 64 MiB + offset), where they have been programmed outside the firmware slots; erased bytes are 0xFF -/
  mem : Mem := []
  /-- operations in order; the first runs -/
  ops : List CflOp := []
  suspended : Bool := false
  resumedAt : Nat := 0
  /-- operations begun so far -/
  opSeq : Nat := 0
  /-- erases by sector, bank × 1,024 + sector -/
  wear : Tab Nat := []
  /-- sectors of the running slot whose refresh is deferred (R593) -/
  refresh : List Nat := []
  /-- an uncorrectable word was read in the running slot, or in both copies of a factory word (R581, R591) -/
  damaged : Bool := false
  factoryBad : Bool := false
  /-- the buffers of the module manager's pairs (R584) -/
  pairA : FetchPair := {}
  pairB : FetchPair := {}
  deriving DecidableEq, Repr

end Sys2Proof.Machine
end

