-- ==== Sys2Proof/Machine/Block.lean ====
section
/-! DEFINITION. Block: everything the spec gives the module, but for the queue of waiting commands. -/
namespace Sys2Proof.Machine

structure Block where
  now : Nat := 0
  fresh : Nat := 0
  pages : Tab Page := []
  blank : Page := {}
  cores : Tab Core := []
  /-- cluster stores, by cluster -/
  cs : Tab Mem := []
  /-- device memory, by physical address: page number × 2 MiB + offset -/
  dm : Mem := []
  ctxs : Tab Ctx := []
  /-- cores set aside for the run that caused a preemption: its context by core (R352) -/
  aside : Tab Nat := []
  out : List Output := []
  /-- collectives that some member has contributed to and not every member has finished (R246 to R249) -/
  colls : List Coll := []
  /-- the number of the next posted instruction (R221), and of the next compute command (R348) -/
  nextPost : Nat := 0
  nextCompute : Nat := 0
  /-- the controllers, by port; the controller that the NVMe engine serves next (R430) -/
  ctls : Tab Controller := []
  nextCtl : Nat := 0
  /-- commands left of that controller's burst -/
  ctlBurst : Nat := 0
  /-- program pages of device memory, and the stack where the next round-robin page goes (R331, R332) -/
  pageUse : Tab PageUse := []
  rr : Nat := 0
  /-- registers that hold one value for each master, by 8 × register + master: 0 DSP_CTX_SELECT, 1 AUP_ROUTE_INDEX, 2 STU_ACT_INDEX,
  3 CFL_RADDR, 4 CFL_RRESULT (R370, R521, R543, R606) -/
  sel : Tab Word := []
  /-- the namespaces, by NSID -/
  nss : Tab Namespace := []
  med : Media := {}
  /-- attached indexes, by handle (R277) -/
  idxs : Tab SIndex := []
  evts : Tab EventPort := []
  /-- this module's number, as AUP_SELF shows it (R521) -/
  self : Nat := 0
  /-- the links (R485); frames that wait at the router for FRAME_FORWARD, frames that it has delivered to this module, and the route
  table (R498) -/
  links : Tab Link := []
  routerIn : List Routed := []
  inbox : List Routed := []
  routes : Tab Word := []
  /-- sources and destinations of streams, by module × 4 + VC (R501, R502) -/
  txs : Tab TxStream := []
  rxs : Tab RxStream := []
  /-- the system time unit (R524); its count of nanoseconds is now -/
  stu : StuState := {}
  /-- the low-power state LOW (R453), and the wake causes raised in it and not yet delivered -/
  low : Bool := false
  /-- since when LOW has been counted (R625, HUB statistic 7) -/
  lowSince : Nat := 0
  wakes : List LogRec := []
  /-- the wake arbiter (R456): a host resume that it has yet to see, a resume in progress, and whether a PME was sent for the causes
  that are pending -/
  hostResume : Bool := false
  resuming : Bool := false
  pmeSent : Bool := false
  /-- the module manager: pairs, firmware, calibration, temperatures, error log (R457 to R484) -/
  adm : AdminState := {}
  /-- symbols in error standing in device-memory codewords, by line number: physical address / 64 (R556) -/
  dmErr : Tab (List Nat) := []
  /-- Critical Warning (R464), its bits 1 and 2 whose log has been read since they were set, and the counts over the module's life (R463, R468) -/
  crit : Nat := 0
  critRead : List Nat := []
  life : Tab Nat := []
  /-- the supply of each compute die in mV, 700 at first, and the pace of each region in steps per microsecond, 2,000 at first
  (R7, R8; log entry 3) -/
  supply : Tab Nat := []
  pace : Tab Nat := []
  /-- the end of the last pace window read, by region, in µs; the epochs that a region has yet to close, and their ends (R90, R112) -/
  paceEnd : Tab Nat := []
  rgnLatch : Tab (List (Nat × Nat)) := []
  /-- queued write-backs of corrected device-memory lines (R558) -/
  dmWb : List WriteBack := []
  /-- codewords corrected by die in the present millisecond window, by stack × 16 + die, and that window (R557) -/
  dmCount : Tab Nat := []
  dmWindow : Nat := 0
  /-- bits in error standing in SRAM words: by word number, local stores first, then cluster stores (R564) -/
  sramErr : Tab Nat := []
  sramWb : List WriteBack := []
  /-- scrub: lines read in the present pass, by stack; free pages zeroised again for a line that was uncorrectable, with that line
  (R568, R570) -/
  scrubbed : Tab Nat := []
  suspect : Tab Nat := []
  /-- check-value units (R547) -/
  chks : Tab ChkUnit := []
  /-- low words of 64-bit pairs whose high word has yet to be written, by (page × 4096 + offset) × 8 + master (R543, R574) -/
  lows : Tab Word := []
  hub : HubState := {}
  power : PowerState := {}
  /-- hand-overs in progress, by core number; core numbers whose replaced core is in a lehr (R631, R633) -/
  handovers : Tab Handover := []
  readmits : List Nat := []
  /-- pages of units that a fault has fenced and that have yet to drain, and of retired units as the record journal lists them (R617,
  R629) -/
  faultFenced : List Nat := []
  retired : List Nat := []
  opt : OptState := {}
  cfl : CflState := {}
  deriving DecidableEq, Repr

end Sys2Proof.Machine
end

