-- ==== Sys2Proof/Machine/Flags.lean ====
section
/-! DEFINITION. Flags: the format status flags of R153 and values that carry the flags their making sets. -/
namespace Sys2Proof.Machine

/-! The flags of R153, as bits of the status word. -/
def flagNV : BitVec 16 := 0x0001
def flagOF : BitVec 16 := 0x0002
def flagUF : BitVec 16 := 0x0004
def flagSAT : BitVec 16 := 0x0008
def flagNANIN : BitVec 16 := 0x0010
def flagINFIN : BitVec 16 := 0x0020

/-- A value with the flags its making sets. -/
structure Flagged (α : Type) where
  val : α
  fl : BitVec 16
  deriving DecidableEq, Repr

/-- Flags of a list of flagged values together: a bit that any of them sets is set. -/
def flagsOf {α : Type} (l : List (Flagged α)) : BitVec 16 := l.foldl (fun a x => a ||| x.fl) 0

/-- MTS writes the defined bits of the status word (R153, R171). -/
def fstatMask : BitVec 16 := 0x003F

end Sys2Proof.Machine
end

