-- ==== Sys2Proof/Machine/Float.lean ====
section
/-! DEFINITION. Float: the FP arithmetic of the module (R152, R184): exact results rounded once, to nearest with ties to
even, subnormals kept, one canonical NaN; and the format status flags of R153. -/
namespace Sys2Proof.Machine

/-- The FP formats of R141. -/
inductive FFmt where
  | fp32
  | bf16
  | fp16
  deriving DecidableEq, Repr

/-- Exponent bits of a format. -/
def FFmt.ebits : FFmt → Nat
  | .fp32 => 8
  | .bf16 => 8
  | .fp16 => 5

/-- Stored significand bits of a format. -/
def FFmt.mbits : FFmt → Nat
  | .fp32 => 23
  | .bf16 => 7
  | .fp16 => 10

/-- Exponent bias of a format. -/
def FFmt.bias (f : FFmt) : Nat := 2 ^ (f.ebits - 1) - 1

/-- The canonical quiet NaN of a format (R152). -/
def FFmt.nan : FFmt → Nat
  | .fp32 => 0x7FC00000
  | .bf16 => 0x7FC0
  | .fp16 => 0x7E00

/-- Infinity of a format. -/
def FFmt.inf (f : FFmt) (neg : Bool) : Nat :=
  boolNat neg * 2 ^ (f.ebits + f.mbits) + (2 ^ f.ebits - 1) * 2 ^ f.mbits

/-- Zero of a format. -/
def FFmt.zero (f : FFmt) (neg : Bool) : Nat := boolNat neg * 2 ^ (f.ebits + f.mbits)

/-- The largest finite value of a format, positive. -/
def FFmt.maxFinite (f : FFmt) : Nat := (2 ^ f.ebits - 1) * 2 ^ f.mbits - 1

/-- An FP value: NaN, an infinity, or plus or minus m × 2^e. -/
inductive FVal where
  | nan
  | inf (neg : Bool)
  | fin (neg : Bool) (m : Nat) (e : Int)
  deriving DecidableEq, Repr

/-- The value an encoding stands for. -/
def fdecode (f : FFmt) (x : Nat) : FVal :=
  let neg := natBit x (f.ebits + f.mbits)
  let ex := natBits x f.mbits f.ebits
  let m := natBits x 0 f.mbits
  if ex = 2 ^ f.ebits - 1 then (if m = 0 then .inf neg else .nan)
  else if ex = 0 then .fin neg m (1 - (f.bias : Int) - f.mbits)
  else .fin neg (2 ^ f.mbits + m) ((ex : Int) - f.bias - f.mbits)

/-- 2 to an integer power, as numerator and denominator. -/
def pow2Num (e : Int) : Nat := 2 ^ e.toNat
def pow2Den (e : Int) : Nat := 2 ^ (-e).toNat

/-- Floor of the base-2 logarithm of n / d, for n and d above zero. -/
def log2Ratio (n d : Nat) : Int :=
  let g : Int := (Nat.log2 n : Int) - Nat.log2 d
  -- n / d lies between 2 ^ (g - 1) and 2 ^ (g + 1)
  if d * pow2Num g ≤ n * pow2Den g then g else g - 1

/-- The ways of rounding: to nearest with ties to even, or toward plus infinity (R159). -/
inductive Rounding where
  | near
  | up
  deriving DecidableEq, Repr

/-- n / d rounded to an integer, of a value whose sign is neg. -/
def roundQ (r : Rounding) (neg : Bool) (n d : Nat) : Nat :=
  let q := n / d
  let rem := n % d
  match r with
  | .near => if 2 * rem < d then q else if d < 2 * rem then q + 1 else if q % 2 = 0 then q else q + 1
  | .up => if rem = 0 || neg then q else q + 1

/-- n / d × 2^e rounded to an integer multiple of 2^q: the multiple. -/
def quantum (r : Rounding) (neg : Bool) (n d : Nat) (e q : Int) : Nat :=
  roundQ r neg (n * pow2Num (e - q)) (d * pow2Den (e - q))

/-- Whether n / d × 2^e is no multiple of 2^q. -/
def inexact (n d : Nat) (e q : Int) : Bool := (n * pow2Num (e - q)) % (d * pow2Den (e - q)) ≠ 0

/-- Plus or minus n / d × 2^e rounded once into a format, with OF and UF as R152 gives them. -/
def fround (f : FFmt) (r : Rounding) (neg : Bool) (n d : Nat) (e : Int) : Flagged Nat :=
  if n = 0 then ⟨f.zero neg, 0⟩
  else
    let emin : Int := 1 - f.bias
    let k := log2Ratio n d + e
    let qn := k - f.mbits
    let q := max qn (emin - f.mbits)
    let m := quantum r neg n d e q
    -- m × 2^q; the significand may have reached 2^(mbits+1)
    let mn := quantum r neg n d e qn
    -- tiny: rounded to the precision with an unbounded exponent range it lies below the least normal value
    let tiny := if k < emin then decide (¬ (k = emin - 1 ∧ mn = 2 ^ (f.mbits + 1))) else false
    let uf := if tiny && inexact n d e q then flagUF else 0
    let sgn := boolNat neg * 2 ^ (f.ebits + f.mbits)
    let top := m = 2 ^ (f.mbits + 1)
    let m' := if top then 2 ^ f.mbits else m
    let q' := if top then q + 1 else q
    if m' < 2 ^ f.mbits then ⟨sgn + m', uf⟩
    else
      let ex : Int := q' + f.mbits + f.bias
      if (2 ^ f.ebits - 1 : Nat) ≤ ex then ⟨f.inf neg, flagOF⟩
      else ⟨sgn + ex.toNat * 2 ^ f.mbits + (m' - 2 ^ f.mbits), uf⟩

/-- A value rounded to nearest into a format. -/
def fencode (f : FFmt) : FVal → Flagged Nat
  | .nan => ⟨f.nan, 0⟩
  | .inf neg => ⟨f.inf neg, 0⟩
  | .fin neg m e => fround f .near neg m 1 e

/-- The signed integer m × 2^(e - lo) of a finite value, exact for lo at most e. -/
def scaled (neg : Bool) (m : Nat) (e lo : Int) : Int :=
  let v : Int := ((m * 2 ^ (e - lo).toNat : Nat) : Int)
  if neg then -v else v

/-- A finite value from a signed integer times 2^e; an exact zero takes the sign given. -/
def ofScaled (v : Int) (e : Int) (zneg : Bool) : FVal :=
  if v = 0 then .fin zneg 0 e else .fin (decide (v < 0)) v.natAbs e

/-- Exact sum of two values, with NV for infinities of unlike sign; the sum of +0 and -0 is +0. -/
def vadd : FVal → FVal → Flagged FVal
  | .nan, _ => ⟨.nan, 0⟩
  | _, .nan => ⟨.nan, 0⟩
  | .inf a, .inf b => if a = b then ⟨.inf a, 0⟩ else ⟨.nan, flagNV⟩
  | .inf a, .fin _ _ _ => ⟨.inf a, 0⟩
  | .fin _ _ _, .inf b => ⟨.inf b, 0⟩
  | .fin na ma ea, .fin nb mb eb =>
    let lo := min ea eb
    ⟨ofScaled (scaled na ma ea lo + scaled nb mb eb lo) lo (na && nb), 0⟩

/-- Exact product of two values, with NV for infinity times zero. -/
def vmul : FVal → FVal → Flagged FVal
  | .nan, _ => ⟨.nan, 0⟩
  | _, .nan => ⟨.nan, 0⟩
  | .inf a, .inf b => ⟨.inf (a != b), 0⟩
  | .inf a, .fin nb mb _ => if mb = 0 then ⟨.nan, flagNV⟩ else ⟨.inf (a != nb), 0⟩
  | .fin na ma _, .inf b => if ma = 0 then ⟨.nan, flagNV⟩ else ⟨.inf (na != b), 0⟩
  | .fin na ma ea, .fin nb mb eb => ⟨.fin (na != nb) (ma * mb) (ea + eb), 0⟩

/-- Negation. -/
def vneg : FVal → FVal
  | .nan => .nan
  | .inf n => .inf (!n)
  | .fin n m e => .fin (!n) m e

/-- A flagged exact value rounded once. -/
def froundF (f : FFmt) (x : Flagged FVal) : Flagged Nat :=
  let r := fencode f x.val
  ⟨r.val, x.fl ||| r.fl⟩

/-- a + b with one rounding. -/
def fadd (f : FFmt) (a b : Nat) : Flagged Nat := froundF f (vadd (fdecode f a) (fdecode f b))
/-- a - b with one rounding. -/
def fsub (f : FFmt) (a b : Nat) : Flagged Nat := froundF f (vadd (fdecode f a) (vneg (fdecode f b)))
/-- a × b with one rounding. -/
def fmul (f : FFmt) (a b : Nat) : Flagged Nat := froundF f (vmul (fdecode f a) (fdecode f b))
/-- a × b + c with one rounding; infinity times zero sets NV whatever c is (R152, R184). -/
def ffma (f : FFmt) (a b c : Nat) : Flagged Nat :=
  let p := vmul (fdecode f a) (fdecode f b)
  let s := vadd p.val (fdecode f c)
  froundF f ⟨s.val, p.fl ||| s.fl⟩

/-- Whether an encoding is a NaN. -/
def fisNan (f : FFmt) (x : Nat) : Bool := fdecode f x == .nan
/-- Whether an encoding is an infinity. -/
def fisInf (f : FFmt) (x : Nat) : Bool :=
  match fdecode f x with
  | .inf _ => true
  | _ => false
/-- The sign bit. -/
def fsign (f : FFmt) (x : Nat) : Bool := natBit x (f.ebits + f.mbits)

/-- a < b of two values that are no NaN; minus zero and plus zero are equal. -/
def vlt : FVal → FVal → Bool
  | .nan, _ => false
  | _, .nan => false
  | .inf a, .inf b => a && !b
  | .inf a, .fin _ _ _ => a
  | .fin _ _ _, .inf b => !b
  | .fin na ma ea, .fin nb mb eb =>
    let lo := min ea eb
    decide (scaled na ma ea lo < scaled nb mb eb lo)

/-- a = b as values; a NaN equals nothing. -/
def veq : FVal → FVal → Bool
  | .nan, _ => false
  | _, .nan => false
  | .inf a, .inf b => a == b
  | .inf _, .fin _ _ _ => false
  | .fin _ _ _, .inf _ => false
  | .fin na ma ea, .fin nb mb eb =>
    let lo := min ea eb
    decide (scaled na ma ea lo = scaled nb mb eb lo)

def flt (f : FFmt) (a b : Nat) : Bool := vlt (fdecode f a) (fdecode f b)
def feq (f : FFmt) (a b : Nat) : Bool := veq (fdecode f a) (fdecode f b)
def fle (f : FFmt) (a b : Nat) : Bool := flt f a b || feq f a b

/-- VMIN: a NaN operand gives the canonical NaN; of -0 and +0 the result is -0 (R184). -/
def fmin (f : FFmt) (a b : Nat) : Nat :=
  if fisNan f a || fisNan f b then f.nan
  else if flt f a b then a else if flt f b a then b
  else if fsign f a then a else b
/-- VMAX: of -0 and +0 the result is +0 (R184). -/
def fmax (f : FFmt) (a b : Nat) : Nat :=
  if fisNan f a || fisNan f b then f.nan
  else if flt f a b then b else if flt f b a then a
  else if fsign f a then b else a

/-- An encoding of one format as one of another, with one rounding. -/
def fconvert (src dst : FFmt) (x : Nat) : Flagged Nat := fencode dst (fdecode src x)
/-- BF16 or FP16 widened to FP32, exact but for the canonical NaN. -/
def fwiden (src : FFmt) (x : Nat) : Nat := (fconvert src .fp32 x).val

/-- A conversion between FP formats as an instruction or the drain makes it: a NaN or infinite input sets NANIN or INFIN (R153, R155; log
entry 132). -/
def fconvertIn (src dst : FFmt) (x : Nat) : Flagged Nat :=
  let r := fconvert src dst x
  ⟨r.val, r.fl ||| (if fisNan src x then flagNANIN else 0) ||| (if fisInf src x then flagINFIN else 0)⟩

/-- An integer rounded into a format. -/
def fofInt (f : FFmt) (i : Int) : Flagged Nat := fround f .near (decide (i < 0)) i.natAbs 1 0

/-- The nearest integer of a finite value, ties to even. -/
def rneInt (neg : Bool) (m : Nat) (e : Int) : Int :=
  let v : Int := (roundQ .near neg (m * pow2Num e) (pow2Den e) : Nat)
  if neg then -v else v

/-- The nearest integer of n / d, ties to even. -/
def rneQ (n : Int) (d : Nat) : Int :=
  let v : Int := (roundQ .near false n.natAbs d : Nat)
  if n < 0 then -v else v

/-- FP32 to S32 (R155): nearest, clamped with SAT; a NaN gives 0 with NANIN. -/
def ftoS32 (x : Nat) : Flagged Int :=
  match fdecode .fp32 x with
  | .nan => ⟨0, flagNANIN⟩
  | .inf neg => ⟨if neg then -2147483648 else 2147483647, flagSAT ||| flagINFIN⟩
  | .fin neg m e =>
    let i := rneInt neg m e
    if i < -2147483648 then ⟨-2147483648, flagSAT⟩
    else if 2147483647 < i then ⟨2147483647, flagSAT⟩
    else ⟨i, 0⟩

/-- The numerator and denominator of the magnitude of a finite value. -/
def magNum (m : Nat) (e : Int) : Nat := m * pow2Num e
def magDen (e : Int) : Nat := pow2Den e

/-! The transcendental functions (R184). Each has one fixed method that the spec does not state, with a bound in units of
the last place. The model takes the nearest value (or a value enclosed to 2^-60) and lets a free offset of Config move it
by whole units of the last place as far as the bound allows. -/

/-- The FP32 encoding k units of the last place away from x in magnitude, x finite; none below zero or beyond the largest finite value. -/
def ulpStep (x : Nat) (k : Int) : Option Nat :=
  let s := x / 2 ^ 31 * 2 ^ 31
  let m : Int := ((x % 2 ^ 31 : Nat) : Int) + k
  if m < 0 then none else if (FFmt.fp32.maxFinite : Int) < m then none else some (s + m.toNat)

/-- Whether the FP32 magnitude of x lies within b units of the last place (of the rounded value r) of n / d. -/
def withinUlp (x r n d b : Nat) : Bool :=
  match fdecode .fp32 (x % 2 ^ 31), fdecode .fp32 (r % 2 ^ 31) with
  | .fin _ m e, .fin _ _ u =>
    -- |m 2^e - n/d| ≤ b 2^u, with everything over the denominator d 2^150
    let a : Int := (m * pow2Num (e + 150) * d : Nat)
    let c : Int := (n * 2 ^ 150 : Nat)
    decide ((a - c).natAbs ≤ b * pow2Num (u + 150) * d)
  | _, _ => false

/-- Whether an FP32 encoding lies below the least normal value in magnitude. -/
def belowNormal (x : Nat) : Bool := decide (x % 2 ^ 31 < 2 ^ 23)

/-- The nearest FP32 value of plus or minus n / d moved by the free offset as far as b units of the last place allow. A value that has
moved is inexact: below the least normal value it sets UF (R152). -/
def approx (b : Nat) (pick : Nat) (neg : Bool) (n d : Nat) : Flagged Nat :=
  let r := fround .fp32 .near neg n d 0
  let k : Int := ((pick % (2 * b + 1) : Nat) : Int) - b
  if fisInf .fp32 r.val then r
  else
    match ulpStep r.val k with
    | none => r
    | some x => if withinUlp x r.val n d b && x != r.val then ⟨x, if belowNormal x then flagUF else 0⟩ else r

/-- The integer square root of n from its bits, by fuel rounds of digit recurrence. -/
def isqrtFuel : Nat → Nat → Nat → Nat
  | 0, _, acc => acc
  | k + 1, n, acc =>
    let t := acc + 2 ^ k
    isqrtFuel k n (if t * t ≤ n then t else acc)
def isqrt (n : Nat) : Nat := isqrtFuel (Nat.log2 n / 2 + 1) n 0

/-- VRCP (R184): within 1 unit of the last place. -/
def frcp (x : Nat) : Flagged Nat :=
  match fdecode .fp32 x with
  | .nan => ⟨FFmt.fp32.nan, 0⟩
  | .inf neg => ⟨FFmt.fp32.zero neg, 0⟩
  | .fin neg m e =>
    if m = 0 then ⟨FFmt.fp32.inf neg, 0⟩
    else approx 1 (Config.rcpPick (BitVec.ofNat 32 x)) neg (magDen e) (magNum m e)

/-- VRSQ (R184): within 1 unit of the last place; the root is enclosed to 2^-100 before it is rounded. -/
def frsq (x : Nat) : Flagged Nat :=
  match fdecode .fp32 x with
  | .nan => ⟨FFmt.fp32.nan, 0⟩
  | .inf neg => if neg then ⟨FFmt.fp32.nan, flagNV⟩ else ⟨FFmt.fp32.zero false, 0⟩
  | .fin neg m e =>
    if m = 0 then ⟨FFmt.fp32.inf neg, 0⟩
    else if neg then ⟨FFmt.fp32.nan, flagNV⟩
    else
      -- 1 / √(n/d) = √(d/n): √(d n 2^400) / (n 2^200)
      let n := magNum m e
      let d := magDen e
      approx 1 (Config.rsqPick (BitVec.ofNat 32 x)) false (isqrt (d * n * 2 ^ 400)) (n * 2 ^ 200)

/-- Terms of the series of e^y, y = a / 2^96 with y below 1, over 2^96. -/
def expSeries : Nat → Nat → Nat → Nat → Nat → Nat
  | 0, _, _, _, acc => acc
  | k + 1, i, a, term, acc => expSeries k (i + 1) a (term * a / 2 ^ 96 / (i + 1)) (acc + term * a / 2 ^ 96 / (i + 1))

/-- ln 2 × 2^96, truncated. -/
def ln2Fix : Nat := 54916777467707473351141471128

/-- 2^y × 2^96 for y = a / 2^96 with y below 1. -/
def exp2Frac (a : Nat) : Nat := expSeries 40 0 (a * ln2Fix / 2 ^ 96) (2 ^ 96) (2 ^ 96)

/-- 2^v for a finite value v, as numerator and denominator; v between -2^20 and 2^20. -/
def exp2Val (neg : Bool) (m : Nat) (e : Int) : Nat × Nat :=
  -- v = i + a / 2^96 with i the floor
  let s : Int := scaled neg (m * pow2Num (e + 96) / pow2Den (e + 96)) 0 0
  let i := s / (2 ^ 96 : Nat)
  let a := (s - i * (2 ^ 96 : Nat)).toNat
  (exp2Frac a * pow2Num i, 2 ^ 96 * pow2Den i)

/-- VEXP2 (R184): within 2 units of the last place; beyond range +∞ with OF, or a subnormal or +0 with UF. -/
def fexp2 (x : Nat) : Flagged Nat :=
  match fdecode .fp32 x with
  | .nan => ⟨FFmt.fp32.nan, 0⟩
  | .inf neg => if neg then ⟨FFmt.fp32.zero false, 0⟩ else ⟨FFmt.fp32.inf false, 0⟩
  | .fin neg m e =>
    if m = 0 then ⟨0x3F800000, 0⟩
    else if 1024 * magDen e ≤ magNum m e then
      (if neg then ⟨FFmt.fp32.zero false, flagUF⟩ else ⟨FFmt.fp32.inf false, flagOF⟩)
    else
      let r := exp2Val neg m e
      let q := approx 2 (Config.exp2Pick (BitVec.ofNat 32 x)) false r.1 r.2
      -- a subnormal result is beyond range, and sets UF even where it is exact
      ⟨q.val, if belowNormal q.val then q.fl ||| flagUF else q.fl⟩

/-- The fraction bits of log2 of a number a / 2^96 from 1 to 2, by repeated squaring, over 2^k. -/
def log2Bits : Nat → Nat → Nat → Nat
  | 0, _, acc => acc
  | k + 1, a, acc =>
    let s := a * a / 2 ^ 96
    if 2 ^ 97 ≤ s then log2Bits k (s / 2) (2 * acc + 1) else log2Bits k s (2 * acc)

/-- VLOG2 (R184): within 2 units of the last place. -/
def flog2 (x : Nat) : Flagged Nat :=
  match fdecode .fp32 x with
  | .nan => ⟨FFmt.fp32.nan, 0⟩
  | .inf neg => if neg then ⟨FFmt.fp32.nan, flagNV⟩ else ⟨FFmt.fp32.inf false, 0⟩
  | .fin neg m e =>
    if m = 0 then ⟨FFmt.fp32.inf true, 0⟩
    else if neg then ⟨FFmt.fp32.nan, flagNV⟩
    else
      let k : Int := (Nat.log2 m : Int) + e
      let a := m * 2 ^ 96 / 2 ^ Nat.log2 m
      let v : Int := k * (2 ^ 80 : Nat) + (log2Bits 80 a 0 : Nat)
      if v = 0 then ⟨0, 0⟩
      else approx 2 (Config.log2Pick (BitVec.ofNat 32 x)) (decide (v < 0)) v.natAbs (2 ^ 80)

/-- log2 e × 2^96, truncated. -/
def log2eFix : Nat := 114302077158074026402637675936

/-- VTANH (R184): within 2 units of the last place; an odd function with limit 1. -/
def ftanh (x : Nat) : Flagged Nat :=
  match fdecode .fp32 x with
  | .nan => ⟨FFmt.fp32.nan, 0⟩
  | .inf neg => ⟨boolNat neg * 2 ^ 31 + 0x3F800000, 0⟩
  | .fin neg m e =>
    if m = 0 then ⟨FFmt.fp32.zero neg, 0⟩
    else if 16 * magDen e ≤ magNum m e then
      approx 2 (Config.tanhPick (BitVec.ofNat 32 x)) neg (2 ^ 60 - 1) (2 ^ 60)
    else if magNum m e * 2 ^ 12 < magDen e then
      -- y - y^3 / 3 for small y = n / d
      let n := magNum m e
      let d := magDen e
      approx 2 (Config.tanhPick (BitVec.ofNat 32 x)) neg (3 * n * d * d - n * n * n) (3 * d * d * d)
    else
      -- (E - 1) / (E + 1) with E = 2^(2 y log2 e), over 2^96
      let y := 2 * (magNum m e * 2 ^ 96 / magDen e) * log2eFix / 2 ^ 96
      let E := exp2Frac (y % 2 ^ 96) * 2 ^ (y / 2 ^ 96)
      approx 2 (Config.tanhPick (BitVec.ofNat 32 x)) neg (E - 2 ^ 96) (E + 2 ^ 96)

end Sys2Proof.Machine
end

