-- ==== Sys2Proof/Machine/CoreOps.lean ====
section
/-! DEFINITION. CoreOps: the named operations over a core's registers, over the three windows a program addresses (R76, R77),
and over issue, sequencing and faults (R173, R176, R191, R192, R196, R203) that every instruction of a core uses. -/
namespace Sys2Proof.Machine

/-! Pages and their live statistics. -/

/-- A page as a reset leaves it: the module manager owns the page of a cluster that no context holds alone (R81; log entry 120). -/
def firstPage (p : Nat) (g : Page) : Page := if 0x3000 ≤ p ∧ p < 0x3300 then { g with owner := 5 } else g

/-- The page of an index, as it stands. -/
def getPage (s : Block) (p : Nat) : Page := tabGet (firstPage p s.blank) s.pages p
/-- Replaces a page. -/
def setPage (s : Block) (p : Nat) (g : Page) : Block := { s with pages := tabSet s.pages p g }
/-- Changes a page. -/
def updPage (s : Block) (p : Nat) (f : Page → Page) : Block := setPage s p (f (getPage s p))

/-- The page index of a core, cluster, region, tier-engine share and stack (R36). -/
def pgCor (c : Nat) : Nat := c
def pgClu (g : Nat) : Nat := 0x3000 + g
def pgRgn (r : Nat) : Nat := 0x3300 + r
def pgTie (d : Nat) : Nat := 0x3400 + d
def pgDmm (k : Nat) : Nat := 0x3500 + k
def pgChk (i : Nat) : Nat := 0x3600 + i
def pgNve (p : Nat) : Nat := 0x3700 + p
def pgOnf (c : Nat) : Nat := 0x3800 + c
def pgAup (l : Nat) : Nat := 0x3900 + l
def pgPwr (d : Nat) : Nat := 0x3A00 + d
def pgThm (d : Nat) : Nat := 0x3B00 + d
def pgHub : Nat := 0x3F00
def pgMed : Nat := 0x3F01
def pgDsp : Nat := 0x3F02
def pgStu : Nat := 0x3F03
def pgMgr : Nat := 0x3F04
def pgCfl : Nat := 0x3F05
def pgOpt : Nat := 0x3F06

/-- Adds n to live statistic i of a page (R70, R96). -/
def bump (s : Block) (p i n : Nat) : Block :=
  updPage s p (fun g => { g with live := tabSet g.live i (tabGet 0 g.live i + BitVec.ofNat 64 n) })

/-- Raises live statistic i of a page to n if it is below (a largest-value statistic). -/
def bumpMax (s : Block) (p i n : Nat) : Block :=
  updPage s p (fun g => { g with live := tabSet g.live i (BitVec.ofNat 64 (max (tabGet 0 g.live i).toNat n)) })

/-- A stored block register, by offset; rst is its reset value. -/
def getRegD (s : Block) (p off : Nat) (rst : Word) : Word := tabGet rst (getPage s p).regs off
def setReg (s : Block) (p off : Nat) (v : Word) : Block :=
  updPage s p (fun g => { g with regs := tabSet g.regs off v })

/-- Draws the number of a free value (log entry 2). -/
def drawFresh (s : Block) : Block := { s with fresh := s.fresh + 1 }

/-- Moves system time on to t, never back (log entry 6). -/
def atTime (s : Block) (t : Nat) : Block := { s with now := max s.now t }

/-! Cores and contexts. -/

def getCore (s : Block) (c : Nat) : Core := tabGet {} s.cores c
def setCore (s : Block) (c : Nat) (k : Core) : Block := { s with cores := tabSet s.cores c k }
def updCore (s : Block) (c : Nat) (f : Core → Core) : Block := setCore s c (f (getCore s c))

def getCtx (s : Block) (x : Nat) : Ctx := tabGet {} s.ctxs x
def setCtx (s : Block) (x : Nat) (k : Ctx) : Block := { s with ctxs := tabSet s.ctxs x k }
def updCtx (s : Block) (x : Nat) (f : Ctx → Ctx) : Block := setCtx s x (f (getCtx s x))

/-- The compute die, region page slot and cluster of a core (R5, R36). -/
def dieOfCore (c : Nat) : Nat := c / 3072
def rgnOfCore (c : Nat) : Nat := c / 256
def cluOfCore (c : Nat) : Nat := c / 16

/-- The context placed on a core, and its number; an unplaced core has an empty one. -/
def ctxNoOf (k : Core) : Nat := (k.placed.map (·.ctx)).getD 0
def rankOf (k : Core) : Nat := (k.placed.map (·.rank)).getD 0
def ctxOf (s : Block) (k : Core) : Ctx := getCtx s (ctxNoOf k)
/-- The level the core executes (R206). -/
def levelOf (s : Block) (k : Core) : Nat := (ctxOf s k).image.level
/-- The length of CODE. -/
def codeLen (s : Block) (k : Core) : Nat := (ctxOf s k).image.code.length

/-! Registers (R169, R170). -/

def getS (k : Core) (n : Nat) : DWord := if n = 0 then 0 else tabGet 0 k.s n
def setS (k : Core) (n : Nat) (v : DWord) : Core := if n = 0 then k else { k with s := tabSet k.s n v }
def getA (k : Core) (n : Nat) : AReg := tabGet {} k.a n
def setA (k : Core) (n : Nat) (v : AReg) : Core := { k with a := tabSet k.a n v }
def getV (k : Core) (n : Nat) : BitVec 1024 := tabGet 0 k.v n
def setV (k : Core) (n : Nat) (v : BitVec 1024) : Core := { k with v := tabSet k.v n v }
def getP (k : Core) (n : Nat) : DWord := if n = 0 then 0xFFFFFFFFFFFFFFFF else tabGet 0 k.p n
def setP (k : Core) (n : Nat) (v : DWord) : Core := if n = 0 then k else { k with p := tabSet k.p n v }
def getT (k : Core) (n : Nat) : BitVec 256 := tabGet 0 k.t n
def setT (k : Core) (n : Nat) (v : BitVec 256) : Core := { k with t := tabSet k.t n v }
def getLC (k : Core) (n : Nat) : DWord := tabGet 0 k.lc n
def setLC (k : Core) (n : Nat) (v : DWord) : Core := { k with lc := tabSet k.lc n v }
def getSet (k : Core) (n : Nat) : CSet := tabGet {} k.sets n
def putSet (k : Core) (n : Nat) (v : CSet) : Core := { k with sets := tabSet k.sets n v }
/-- Sets flags of FSTAT (R153). -/
def addFlags (k : Core) (f : BitVec 16) : Core := { k with fstat := k.fstat ||| f }

/-! Windows (R76, R77). -/

/-- The local store present for a context: LOCAL_BYTES rounded up to 4 KiB. -/
def presentLocal (x : Ctx) : Nat := roundUp x.image.localBytes 4096

/-- CLU_SLICE_OWNER of slice i of cluster g (R107). -/
def sliceOwner (s : Block) (g i : Nat) : Word := getRegD s (pgClu g) (0x140 + 4 * i) 0

/-- The slices that context x owns in cluster g, ascending (R80). -/
def slicesHeld (s : Block) (g x : Nat) : List Nat :=
  (List.range 16).filter (fun i => natBit (sliceOwner s g i).toNat 31 && (bvBits (sliceOwner s g i) 0 15 == x))

/-- Where a byte of a program address lies: in the core's own local store, in its cluster store, in device memory. -/
inductive Loc where
  | ls (a : Nat)
  | cs (a : Nat)
  | dm (a : Nat)
  deriving DecidableEq, Repr

/-- The window bases of R76. -/
def csBase : Nat := 0x1000000
def csEnd : Nat := 0x2000000
def dmBase : Nat := 0x10000000000
def dmEnd : Nat := 0x16000000000
def pageBytes : Nat := 0x200000
def sliceBytes : Nat := 0x100000

/-- The place of one program address of core c, or the kind of address fault it meets: 1 reserved range, 2 not present. Of the last page
of device memory only the bytes below DEVMEM_BYTES are present (R76; log entry 142). -/
def locate (s : Block) (c : Nat) (a : Nat) : Loc ⊕ Nat :=
  let k := getCore s c
  let x := ctxOf s k
  if a < 0x100000 then (if a < presentLocal x then .inl (.ls a) else .inr 2)
  else if a < csBase then .inr 1
  else if a < csEnd then
    let held := slicesHeld s (cluOfCore c) (ctxNoOf k)
    let o := a - csBase
    match held[o / sliceBytes]? with
    | some i => .inl (.cs (i * sliceBytes + o % sliceBytes))
    | none => .inr 2
  else if a < dmBase then .inr 1
  else if a < dmEnd then
    let o := a - dmBase
    if x.image.devBytes ≤ o then .inr 2
    else
      match x.pages[o / pageBytes]? with
      | some p => .inl (.dm (p * pageBytes + o % pageBytes))
      | none => .inr 2
  else .inr 1

def getLs (s : Block) (c a : Nat) : Byte := memGet 0 (getCore s c).ls a
def getCs (s : Block) (g a : Nat) : Byte := memGet 0 (tabGet [] s.cs g) a
def getDm (s : Block) (a : Nat) : Byte := memGet 0 s.dm a
def setLs (s : Block) (c a : Nat) (b : Byte) : Block := updCore s c (fun k => { k with ls := memSet 0 k.ls a b })
def setCs (s : Block) (g a : Nat) (b : Byte) : Block :=
  { s with cs := tabSet s.cs g (memSet 0 (tabGet [] s.cs g) a b) }
def setDm (s : Block) (a : Nat) (b : Byte) : Block := { s with dm := memSet 0 s.dm a b }

/-- Reads one byte at a place of core c. -/
def readLoc (s : Block) (c : Nat) : Loc → Byte
  | .ls a => getLs s c a
  | .cs a => getCs s (cluOfCore c) a
  | .dm a => getDm s a

/-- Writes one byte at a place of core c. -/
def writeLoc (s : Block) (c : Nat) (l : Loc) (b : Byte) : Block :=
  match l with
  | .ls a => setLs s c a b
  | .cs a => setCs s (cluOfCore c) a b
  | .dm a => setDm s a b

/-- The places of n bytes from a program address, or the first fault: its kind and the address of its byte (R77). -/
def locateAll (s : Block) (c : Nat) (a : Nat) : Nat → List Loc ⊕ (Nat × Nat)
  | 0 => .inl []
  | n + 1 =>
    match locate s c a with
    | .inr kind => .inr (kind, a)
    | .inl l =>
      match locateAll s c (a + 1) n with
      | .inr e => .inr e
      | .inl ls => .inl (l :: ls)

/-- Bytes of core c at a program address of a window that is present; 0 where it is not. -/
def readProg (s : Block) (c : Nat) (a : Nat) : Nat → List Byte
  | 0 => []
  | n + 1 =>
    (match locate s c a with
     | .inl l => readLoc s c l
     | .inr _ => 0) :: readProg s c (a + 1) n

/-- Writes bytes at a program address of core c, where present. -/
def writeProg (s : Block) (c : Nat) (a : Nat) : List Byte → Block
  | [] => s
  | b :: bs =>
    let s' := match locate s c a with
      | .inl l => writeLoc s c l b
      | .inr _ => s
    writeProg s' c (a + 1) bs

/-- The runs of consecutive addresses of a list: first address and length. -/
def addrRuns : List Nat → List (Nat × Nat)
  | [] => []
  | a :: as =>
    match addrRuns as with
    | [] => [(a, 1)]
    | (b, n) :: rs => if a + 1 = b then (a, n + 1) :: rs else (a, 1) :: (b, n) :: rs

/-- Writes bytes at given places. -/
def writeLocs (s : Block) (c : Nat) : List Loc → List Byte → Block
  | l :: ls, b :: bs => writeLocs (writeLoc s c l b) c ls bs
  | _, _ => s

/-- The window that an extent [lo, hi) of program addresses lies wholly in, with its present part: 0 local store,
1 cluster store, 2 device memory; none if it lies wholly in no present window. -/
def windowOf (s : Block) (c lo hi : Nat) : Option Nat :=
  let k := getCore s c
  let x := ctxOf s k
  let csLen := (slicesHeld s (cluOfCore c) (ctxNoOf k)).length * sliceBytes
  if hi ≤ presentLocal x then some 0
  else if csBase ≤ lo ∧ hi ≤ csBase + csLen then some 1
  else if dmBase ≤ lo ∧ hi ≤ dmBase + x.image.devBytes then some 2
  else none

/-- Whether two ranges [lo, hi) share a byte. -/
def overlaps (a b : Nat × Nat) : Bool := decide (a.1 < b.2) && decide (b.1 < a.2)

/-! Faults (R203). -/

/-- The fault word of a class and detail. -/
def faultWord (cls detail : Nat) : Word := BitVec.ofNat 32 (cls * 2 ^ 24 + detail % 2 ^ 24)
/-- DETAIL of a kind and the low 20 bits of an address or offset. -/
def detail20 (kind a : Nat) : Nat := kind * 2 ^ 20 + a % 2 ^ 20

/-- The incomplete long instructions, the older first. -/
def longs (k : Core) : List Long := k.drains ++ k.det.toList

/-- FUSE of a PQSCAN: a fused one fills the live list (R243). -/
def pqFuse (opt : Nat) : Nat := natBits opt 0 2

/-- Whether a long instruction is one that fills the live list (R262, R269). -/
def fillsList (l : Long) : Bool :=
  l.kind == .selt || l.kind == .topk || (l.kind == .pqscan && pqFuse l.x.opt.toNat != 0)

/-- Whether a core has an incomplete long instruction that fills the live list. -/
def selecting (k : Core) : Bool := (longs k).any fillsList

/-- A wait for admission, or for operands that were not resident, ends: its time is counted (R103, statistics 6 and 7). -/
def countWait (s : Block) (c : Nat) : Block :=
  let k := getCore s c
  match k.asked with
  | some t => bump s (pgCor c) 6 (s.now - t)
  | none =>
    if k.run == .operandWait && !k.resident && (k.waiting.isSome || k.det.any (fun l => l.parked)) then bump s (pgCor c) 7 (s.now - k.since)
    else s

/-- A fault of a core: the core executes no further, COR_FAULT and FAULT_OFFSET are set, and the fault is noted for its run, unless the
core's TEARDOWN has arrived (R359). -/
def faultCore (s : Block) (c : Nat) (cls detail off : Nat) : Block :=
  let s := countWait s c
  let k := getCore s c
  let w := faultWord cls detail
  let s := setCore s c { k with
    run := .faulted, fault := w, faultOff := BitVec.ofNat 32 off,
    waiting := none, postWait := none, twait := none, endWait := false, gate := none, timed := none, asked := none, det := none,
    drains := [], live := if selecting k then [] else k.live }
  if k.stop = some .teardown then s
  else
    updCtx s (ctxNoOf k) (fun x => { x with
      run := x.run.map (fun r => { r with faults := r.faults ++ [⟨s.now, rankOf k, w, BitVec.ofNat 32 off⟩] }) })

/-! Issue and sequencing. -/

/-- Whether the core can issue an instruction (R196): it runs, nothing before it holds issue back, no stop is asked for. -/
def canIssue (k : Core) : Bool :=
  k.placed.isSome && (k.run == .running) && k.waiting.isNone && k.postWait.isNone && k.twait.isNone &&
    !k.endWait && !k.ended && k.stop.isNone && k.gate.isNone && !(k.det.any (fun l => l.parked))

/-- Whether a load that has not returned writes one of these scalar or vector registers (R196). -/
def loadPending (k : Core) (sr vr : List Nat) : Bool :=
  k.loads.any (fun l => match l.dst with
    | .scalar sd _ => sr.contains sd
    | .vector vd => vr.contains vd
    | .gather vd _ => vr.contains vd)

/-- Whether a load that has not returned is still to step the BASE of A register n (R180, R196). -/
def baseBusy (k : Core) (n : Nat) : Bool := k.loads.any (fun l => l.step == some n)

/-- Adds STRIDE to BASE of an A register, if one is named: what mode 1 does after the access (R180). -/
def stepBase (k : Core) (an : Option Nat) : Core :=
  match an with
  | none => k
  | some n =>
    let r := getA k n
    setA k n { r with base := r.base + r.stride.signExtend 64 }

/-- The scalar registers that an incomplete CHKV or TPACK writes: no younger instruction reads them before completion (R196,
R232, R244). -/
def longDst (k : Core) : List Nat :=
  (longs k).flatMap (fun l => match l.kind with
    | .chkv => [l.x.sd.val]
    | .tpack => [l.x.sd.val]
    | _ => [])

/-- Adds LSTEP n to the BASE of every A register (R191). -/
def applyLstep (k : Core) (n : Nat) : Core :=
  { k with a := tabMap (fun _ (r : AReg) =>
      { r with base := r.base + (match n with
        | 0 => r.lstep0
        | 1 => r.lstep1
        | 2 => r.lstep2
        | _ => r.lstep3).signExtend 64 }) k.a }

/-- The end of the iterations whose body ends at the offset pc, innermost first (R191): the core and the offset to go on at. -/
def loopEnd (fuel : Nat) (k : Core) (pc : Nat) : Core × Nat :=
  match fuel, k.loops with
  | 0, _ => (k, pc)
  | _, [] => (k, pc)
  | n + 1, l :: ls =>
    if l.past = pc then
      let k := applyLstep k l.lc
      if (getLC k l.lc).toNat ≤ 1 then
        loopEnd n { setLC k l.lc 0 with loops := ls } pc
      else (setLC k l.lc (getLC k l.lc - 1), l.first)
    else (k, pc)

/-- A taken branch to t ends every loop whose body t lies outside, and the loops inside it (R192). -/
def loopsAfterJump (t : Nat) : List LoopRec → List LoopRec
  | [] => []
  | l :: ls =>
    let out := loopsAfterJump t ls
    -- an outer loop that ends takes the inner ones with it
    if out.length < ls.length then out
    else if l.first ≤ t ∧ t < l.past then l :: ls else ls

/-- What an instruction does once it issues. -/
inductive Exec where
  /-- completes and goes on in sequence -/
  | done (s : Block)
  /-- completes and goes on at a target -/
  | jump (s : Block) (target : Nat)
  /-- faults with a class and detail, without effect -/
  | fault (cls detail : Nat)
  /-- issues, and takes a state that has set the core's pc itself -/
  | stay (s : Block)
  /-- cannot issue yet: nothing changes -/
  | wait

/-- The free part of the steps an instruction takes (R171 STEPS; R103, statistic 2; log entry 7). -/
def countSteps (s : Block) (c : Nat) : Block :=
  let n := 1 + (Config.freeWord s.fresh).toNat
  let s := updCore (drawFresh s) c (fun k => { k with steps := k.steps + BitVec.ofNat 64 n })
  bump s (pgCor c) 2 n

/-- The waiting steps of one requester that asks for the words at some addresses in one step: the bank that is asked for most words
serves one a step (R72, R73, R79). -/
def bankWaits (banks : Nat) (addrs : List Nat) : Nat :=
  let words := (addrs.map (· / 8)).eraseDups
  (words.map (fun w => (words.filter (fun v => v % banks == w % banks)).length)).foldl max 1 - 1

/-- Whether the tier engine may want the general port of core c's local store (R73): for a fill, or a posted instruction of the
context. -/
def tierAtPort (s : Block) (c : Nat) : Bool :=
  let k := getCore s c
  (ctxOf s k).copies.any (fun y => y.state == .filling) ||
    s.cores.any (fun e => ctxNoOf e.2 == ctxNoOf k && e.2.placed.isSome && !e.2.posted.isEmpty)

/-- Whether another requester may want the port beside a load or store of the core. -/
def portShared (s : Block) (c : Nat) : Bool := !(longs (getCore s c)).isEmpty || tierAtPort s c

/-- The steps that requesters of a port wait for each other, in a statistic of a page: a free number, none where no two can meet (log
entry 49). -/
def contend (s : Block) (p i : Nat) (shared : Bool) : Block :=
  if shared then bump (drawFresh s) p i (Config.freeWord s.fresh).toNat else s

/-- The work of a long instruction through the general port may wait for others there, and they for it (R73). -/
def longAtPort (s : Block) (c : Nat) : Block :=
  contend s (pgCor c) 8 (decide (2 ≤ (longs (getCore s c)).length) || tierAtPort s c)

/-- Whether another requester may want cluster store g beside one that uses it (R79): a second core of the cluster with a context, or the
region's network, with a fill or a posted instruction. -/
def cluShared (s : Block) (g : Nat) : Bool :=
  decide (2 ≤ (s.cores.filter (fun e => cluOfCore e.1 == g && e.2.placed.isSome)).length) ||
    s.ctxs.any (fun e => e.2.copies.any (fun y => y.state == .filling)) || s.cores.any (fun e => !e.2.posted.isEmpty)

/-- Counts n bytes that cluster store g is read or written, in statistic i, and the steps in which its requesters wait for each other (R108;
log entry 49). -/
def countClu (s : Block) (g i n : Nat) : Block :=
  if n = 0 then s else contend (bump s (pgClu g) i n) (pgClu g) 6 (cluShared s g)

/-- Counts n bytes that leave region r through its links, or enter it, in statistics 6 and 7, and the steps in which they wait for link credit
in statistic 8, of which the spec says no more (R112; log entry 49). -/
def countRgn (s : Block) (r i n : Nat) : Block :=
  if n = 0 then s else contend (bump s (pgRgn r) i n) (pgRgn r) 8 true

/-- Traffic of a region whose amount the spec does not state. -/
def freeTraffic (s : Block) (r : Nat) : Block :=
  let n := (Config.freeWord s.fresh).toNat
  let m := (Config.freeWord (s.fresh + 1)).toNat
  countRgn (countRgn (drawFresh (drawFresh s)) r 6 n) r 7 m

/-- The numbers from a to b, either way. -/
def fromTo (a b : Nat) : List Nat := if a ≤ b then List.range' a (b + 1 - a) else (List.range' b (a + 1 - b)).reverse

/-- The regions of a route on one die, both ends among them: along the row of the mesh first, then along the column; region r lies in column
r mod 4 and row r / 4 (R87). -/
def meshRoute (a b : Nat) : List Nat :=
  let x := a % 12
  let y := b % 12
  ((fromTo (x % 4) (y % 4)).map (fun c => x / 4 * 4 + c) ++ ((fromTo (x / 4) (y / 4)).drop 1).map (fun r => r * 4 + y % 4)).map
    (fun r => a / 12 * 12 + r)

/-- Counts n bytes that pass from region a to region b: each region of the route that they leave, and each that they enter (R87, R112). Between
dies they leave the one and enter the other; where the package fabric meets the mesh the spec does not say (log entry 139). -/
def countRoute (s : Block) (a b n : Nat) : Block :=
  if a = b then s
  else
    let l := if a / 12 = b / 12 then meshRoute a b else [a, b]
    (l.drop 1).foldl (fun s r => countRgn s r 7 n) (l.dropLast.foldl (fun s r => countRgn s r 6 n) s)

/-- Counts n bytes between two places, each a region or outside every region. -/
def countPath (s : Block) (src dst : Option Nat) (n : Nat) : Block :=
  match src, dst with
  | some a, some b => countRoute s a b n
  | some a, none => countRgn s a 6 n
  | none, some b => countRgn s b 7 n
  | none, none => s

/-- The layers whose ranks include the core's rank and whose GATE is the core's pc (R317). -/
def gatesAt (s : Block) (k : Core) : List Nat :=
  let ls := (ctxOf s k).image.layers
  (List.range ls.length).filter (fun i => match ls[i]? with
    | some l => l.gate == k.pc && decide (l.firstRank ≤ rankOf k) && decide (rankOf k < l.firstRank + l.rankCount)
    | none => false)

/-- Whether the next instruction of the core is a gated one whose gate it has not passed (R317). -/
def gateShut (s : Block) (k : Core) : Bool := !k.gateOpen && !(gatesAt s k).isEmpty

/-- Notes that a rank has left a layer instance (R317). -/
def leaveInst (x : Ctx) (g : GateWait) (rank : Nat) : Ctx :=
  { x with insts := x.insts.map (fun i =>
      if i.layer = g.layer ∧ i.iter = g.iter ∧ !i.left.contains rank then { i with left := i.left ++ [rank] } else i) }

/-- The core issues the instruction at its pc: it leaves the layer instances whose END that is (R317). -/
def noteIssue (s : Block) (c : Nat) : Block :=
  let k := getCore s c
  let ls := (ctxOf s k).image.layers
  let gone := k.inLayers.filter (fun g => match ls[g.layer]? with
    | some l => l.endOff == k.pc
    | none => false)
  if gone.isEmpty then s
  else
    let s := setCore s c { k with inLayers := k.inLayers.filter (fun g => !gone.contains g) }
    updCtx s (ctxNoOf k) (fun x => gone.foldl (fun x g => leaveInst x g (rankOf k)) x)

/-- Puts the core's pc at an offset; a gate there has yet to be passed. -/
def setPc (k : Core) (pc : Nat) : Core := { k with pc := pc, gateOpen := false }

/-- Goes on in sequence past an instruction of len bytes (R173, R191): faults when execution passes beyond CODE. -/
def advance (s : Block) (c len : Nat) : Block :=
  let k := getCore s c
  let r := loopEnd 4 k (k.pc + len)
  let s := setCore s c (setPc r.1 r.2)
  if codeLen s k ≤ r.2 then faultCore s c 1 (detail20 6 r.2) r.2 else s

/-- The ILLEGAL kinds in the order in which R176 reports them. -/
def illegalOrder : List Nat := [1, 2, 4, 3, 5, 6]

/-- The first of the ILLEGAL kinds that applies. -/
def illegalKind (kinds : List Nat) : Option Nat := illegalOrder.find? (fun k => kinds.contains k)

/-- Decode of an instruction of len bytes at the core's pc: the fault it meets, if any. kinds: the ILLEGAL kinds of its word. A LOOP
fault of kind 5 is at the 64-bit instruction (R195; log entry 156). -/
def decodeFault (s : Block) (c len : Nat) (kinds : List Nat) : Option (Nat × Nat × Nat) :=
  let k := getCore s c
  let kinds := kinds ++ (if codeLen s k < k.pc + len then [6] else [])
  match illegalKind kinds with
  | some 6 => some (1, detail20 6 (codeLen s k), k.pc)
  | some n => some (1, detail20 n k.pc, k.pc)
  | none =>
    if len = 8 ∧ k.loops.any (fun l => l.past = k.pc + 4) then some (3, detail20 5 0, k.pc) else none

/-- The kind-4 element: a K2 element at level 1 (R207). -/
def k2 (s : Block) (c : Nat) (b : Bool) : List Nat := if b && levelOf s (getCore s c) == 1 then [4] else []
/-- A field that must be zero (R176). -/
def mustZero (b : Bool) : List Nat := if b then [] else [3]

/-- The issue of a short instruction of len bytes on core c. kinds: the ILLEGAL kinds of its word; sr, vr: the scalar and
vector registers it reads or writes; f: what it does. A core that cannot issue it yet keeps it waiting (log entry 5). A short
instruction behind a TAT is ILLEGAL kind 3 (R250). -/
def issueShort (s : Block) (c len : Nat) (kinds sr vr : List Nat) (f : Block → Exec) : Block :=
  let k := getCore s c
  if !canIssue k || gateShut s k then s
  else
    match decodeFault s c len (kinds ++ (if k.timed.isSome then [3] else [])) with
    | some (cls, d, off) => faultCore s c cls d off
    | none =>
      if loadPending k sr vr || (longDst k).any (fun r => sr.contains r) then s
      else
        match f (noteIssue s c) with
        | .done s' => advance (countSteps s' c) c len
        | .jump s' t =>
          updCore (countSteps s' c) c (fun k => { setPc k t with loops := loopsAfterJump t k.loops })
        | .fault cls d => faultCore s c cls d k.pc
        | .stay s' => countSteps s' c
        | .wait => s

/-- A change of core c alone. -/
def onCore (c : Nat) (f : Core → Core) (s : Block) : Exec := .done (updCore s c f)

/-- A jump of the instruction at pc to t: a target that is no multiple of 4 or lies outside CODE faults (R189). -/
def jumpTo (s : Block) (c : Nat) (t : Nat) : Exec :=
  if t % 4 = 0 ∧ t < codeLen s (getCore s c) then .jump s t else .fault 1 (detail20 6 t)

end Sys2Proof.Machine
end

