-- ==== Sys2Proof/Machine/Ops.lean ====
section
/-! DEFINITION. Ops: the named operations over pages and events that every unit uses: masters and owners (R54, R55), errors
and rejections (R49 to R52, R62), interrupts and where they are delivered (R47, R363, R445, R509), wake causes (R454),
asynchronous events (R469), and the device-memory and SRAM codes (R556 to R565). -/
namespace Sys2Proof.Machine

/-- Appends to what the module sends. -/
def emit (s : Block) (o : Output) : Block := { s with out := s.out ++ [o] }

/-! Counts over the module's life, which survive power loss (R463, R468). -/

def lifeMediaErrors : Nat := 0
def lifeDramCorrected : Nat := 1
def lifeDramUncorrectable : Nat := 2
def lifeDeferredRecords : Nat := 3
def lifeHostBytesWritten : Nat := 4
def lifeGatherBytes : Nat := 5
def lifeFoldBytes : Nat := 6
def lifeReconstructed : Nat := 7
def lifeFlashCorrected : Nat := 8
def lifeFlashSoft : Nat := 9
def lifeFlashUncorrectable : Nat := 10
def lifeCoresSpared : Nat := 11
def lifeCoresRetired : Nat := 12
def lifeLanesRetired : Nat := 13
def lifeDramDiesFailed : Nat := 14
def lifeHandovers : Nat := 15
def lifePowerCycles : Nat := 16
def lifePowerOnHours : Nat := 17
def lifeUnsafeShutdowns : Nat := 18
def lifeErrorEntries : Nat := 19
def lifeReadBytes : Nat := 20
def lifeWriteBytes : Nat := 21
def lifeReadCommands : Nat := 22
def lifeWriteCommands : Nat := 23
def lifeBusyMinutes : Nat := 24
def lifeWarmMinutes : Nat := 25
def lifeHotMinutes : Nat := 26

/-- Adds n to a count of the module's life. -/
def lifeBump (s : Block) (i n : Nat) : Block := { s with life := tabSet s.life i (tabGet 0 s.life i + n) }

/-! Masters and owners. -/

/-- The code of a master (R54). -/
def masterCode : Master → Nat
  | .none => 0
  | .h0 => 1
  | .h1 => 2
  | .h2 => 3
  | .h3 => 4
  | .mm => 5
  | .pk => 6
  | .pe => 7

/-- The master of a code; codes 0x8 to 0xF are reserved. -/
def masterOfCode : Nat → Option Master
  | 0 => some .none
  | 1 => some .h0
  | 2 => some .h1
  | 3 => some .h2
  | 4 => some .h3
  | 5 => some .mm
  | 6 => some .pk
  | 7 => some .pe
  | _ => none

/-- The host port of a master. -/
def portOfMaster : Master → Option Nat
  | .h0 => some 0
  | .h1 => some 1
  | .h2 => some 2
  | .h3 => some 3
  | _ => none

/-- The master of a host port. -/
def masterOfPort (p : Nat) : Master := ((masterOfCode (p + 1)).getD .none)

def isHost (m : Master) : Bool := (portOfMaster m).isSome

/-- OWNER.MASTER and OWNER.TAG (R55). -/
def ownerMaster (g : Page) : Nat := bvBits g.owner 0 4
def ownerTag (g : Page) : Nat := bvBits g.owner 4 15
/-- An OWNER value. -/
def ownerWord (m tag : Nat) : Word := BitVec.ofNat 32 (tag % 2 ^ 15 * 16 + m % 16)

/-- Whether a writer is the owner of a page: MASTER is its code and, for PK and PE, TAG its own context or module. -/
def isOwner (g : Page) (w : Writer) : Bool :=
  w.master != .none && ownerMaster g == masterCode w.master &&
    (if w.master == .pk || w.master == .pe then ownerTag g == w.tag.toNat else true)

/-! Asynchronous events (R445, R469). -/

def getEvt (s : Block) (p : Nat) : EventPort := tabGet {} s.evts p
def updEvt (s : Block) (p : Nat) (f : EventPort → EventPort) : Block := { s with evts := tabSet s.evts p (f (getEvt s p)) }

/-- The bit of feature 0x0B that enables an event other than a critical warning, whose bit is the warning's own
(R469; the places of the bits are presumed, log entry 14). -/
def eventBit (e : AEvent) : Nat := if e.type = 2 then 8 + e.info else 16 + e.info

/-- Dword 0 of the completion of an asynchronous event request. -/
def eventDw0 (e : AEvent) : Nat := e.type + 2 ^ 8 * e.info + 2 ^ 16 * e.log

/-! Controllers and completions (R431, R433). -/

def getCtl (s : Block) (p : Nat) : Controller := tabGet {} s.ctls p
def updCtl (s : Block) (p : Nat) (f : Controller → Controller) : Block := { s with ctls := tabSet s.ctls p (f (getCtl s p)) }

/-- The number that stands for the sideband where a command names a controller. -/
def sideband : Nat := 4

/-- The completion queue of a submission queue; none once the queue has been deleted. -/
def cqOf (c : Controller) (sq : Nat) : Option Nat := if sq = 0 then some 0 else (tabFind c.sqs sq).map (·.cq)

/-- An entry has been posted to a completion queue: its interrupt follows, at once, or when the threshold of feature 0x08 is
reached; admin entries never coalesce (R433). -/
def interruptFor (s : Block) (p q : Nat) (cq : CompQ) : Block :=
  if !cq.ien then s
  else
    let c := getCtl s p
    let f := tabGet 0 c.feats 0x08
    if q = 0 ∨ natBits f 8 8 = 0 ∨ c.vecNoCoalesce.contains cq.vector then emit s (.msix p cq.vector)
    else
      let n := tabGet 0 c.coalescing cq.vector + 1
      if natBits f 0 8 + 1 ≤ n then emit (updCtl s p (fun c => { c with coalescing := tabErase c.coalescing cq.vector })) (.msix p cq.vector)
      else updCtl s p (fun c => { c with coalescing := tabSet c.coalescing cq.vector n })

/-- An entry joins the error log, which holds the latest 256 (R460, R469; log entry 35). -/
def logError (s : Block) (cmd : Option CmdRef) (st : Nat) (vendor : Word) : Block :=
  let s := lifeBump s lifeErrorEntries 1
  let e : ErrRec := ⟨tabGet 0 s.life lifeErrorEntries, cmd, st, vendor⟩
  let l := s.adm.errLog ++ [e]
  { s with adm := { s.adm with errLog := l.drop (l.length - 256) } }

/-- A completion entry goes to the queue of its command, or waits there for room. A sideband request gets its response. -/
def postEntry (s : Block) (e : Entry) : Block :=
  let p := e.cmd.ctrl
  if p = sideband then emit s (.miResponse e.status (leBytes 4 e.dw0))
  else
    let c := getCtl s p
    match cqOf c e.cmd.sqid, (cqOf c e.cmd.sqid).bind (tabFind c.cqs) with
    | none, _ => s
    | _, none => s
    | some q, some cq =>
      if cq.used + 1 < cq.size ∧ cq.waiting.isEmpty then
        let cq := { cq with used := cq.used + 1 }
        let s := updCtl s p (fun c => { c with cqs := tabSet c.cqs q cq })
        let s := bump (bump (emit s (.completion e.cmd e.dw0 e.dw1 e.status)) (pgNve p) 3 1) (pgNve p) 4 16
        interruptFor s p q cq
      else updCtl s p (fun c => { c with cqs := tabSet c.cqs q { cq with waiting := cq.waiting ++ [e] } })

/-- Whether a command is fetched and has not completed, and whether it has yet to act. -/
def isOutstanding (s : Block) (cmd : CmdRef) : Bool :=
  decide (cmd.ctrl = sideband) || (getCtl s cmd.ctrl).cmds.any (fun f => f.cmd == cmd)
def isFetched (s : Block) (cmd : CmdRef) : Bool :=
  decide (cmd.ctrl = sideband) || (getCtl s cmd.ctrl).cmds.any (fun f => f.cmd == cmd && f.stage == .fetched)
/-- A command begins to act. -/
def beginCmd (s : Block) (cmd : CmdRef) : Block :=
  updCtl s cmd.ctrl (fun c => { c with cmds := c.cmds.map (fun f => if f.cmd = cmd then { f with stage := .begun } else f) })

/-- A command completes: its tag is free, its entry is posted. -/
def complete (s : Block) (cmd : CmdRef) (dw0 dw1 status : Nat) : Block :=
  if !isOutstanding s cmd then s
  else
    let s := updCtl s cmd.ctrl (fun c => { c with
      cmds := c.cmds.filter (fun f => f.cmd ≠ cmd) })
    let s := if cmd.sqid = 0 ∧ cmd.ctrl ≠ sideband then bump s pgMgr 4 1 else if cmd.ctrl = sideband then bump s pgMgr 5 1 else s
    postEntry (if status = 0 then s else logError s (some cmd) status 0) ⟨cmd, dw0, dw1, status⟩

/-- Data of a command goes to its host buffer before its entry (R433). -/
def sendData (s : Block) (cmd : CmdRef) (off : Nat) (b : List Byte) : Block :=
  if b.isEmpty then s
  else if cmd.ctrl = sideband then emit s (.miResponse 0 b)
  else bump (emit s (.hostData cmd off b)) (pgNve cmd.ctrl) 4 b.length

/-- Data of a command has come from its host buffer (R434). -/
def takeData (s : Block) (cmd : CmdRef) (n : Nat) : Block := if n = 0 ∨ cmd.ctrl = sideband then s else bump s (pgNve cmd.ctrl) 5 n

/-- Statuses: the code, its type in bits [10:8] and DNR in bit 14. -/
def status (sct sc dnr : Nat) : Nat := sc + sct * 2 ^ 8 + dnr * 2 ^ 14

/-! Asynchronous events (R445, R469). -/

/-- Raises an asynchronous event on a controller: it completes an outstanding request, or waits for one; an event that has been
reported is not reported again until a read of its log has re-armed it. -/
def postRaw (s : Block) (ctrl : Nat) (e : AEvent) : Block :=
  let q := getEvt s ctrl
  if q.reported.contains e || q.queued.contains e then s
  else
    match q.aers with
    | a :: rest =>
      let s := updEvt s ctrl (fun q => { q with aers := rest, reported := q.reported ++ [e] })
      bump (complete s a (eventDw0 e) 0 0) (pgNve ctrl) 7 1
    | [] => updEvt s ctrl (fun q => { q with queued := q.queued ++ [e] })

/-- Raises an asynchronous event that a bit of feature 0x0B enables. -/
def postEventBy (s : Block) (ctrl bit : Nat) (e : AEvent) : Block :=
  if natBit (getEvt s ctrl).config.toNat bit then postRaw s ctrl e else s

/-- Raises an asynchronous event by the bit of its type and information. -/
def postEvent (s : Block) (ctrl : Nat) (e : AEvent) : Block := postEventBy s ctrl (eventBit e) e

/-- Appends an entry to a log that holds the latest 256; one that overwrites sets a bit of itself (R445, R455). -/
def logPush (l : List LogRec) (e : LogRec) (mark : LogRec → LogRec) : List LogRec :=
  if l.length < 256 then l ++ [e] else l.drop 1 ++ [mark e]

/-- Raises a wake cause in LOW (R454, R455): it enters the wake logs and waits for delivery. -/
def wakeCause (s : Block) (cause context detail : Nat) : Block :=
  if !s.low then s
  else
    let e : LogRec := ⟨cause, context, detail, s.now⟩
    let s := { s with wakes := s.wakes ++ [e] }
    let s := (List.range 4).foldl (fun s p => updEvt s p (fun q =>
      { q with wakeLog := logPush q.wakeLog e (fun r => { r with a := r.a + 2 ^ 15 }) })) s
    bump s pgHub 6 1

/-! The low-power state (R453). -/

/-- Active ports: what the port split gives (R420). -/
def activePorts (s : Block) : Nat := min 4 (2 ^ (byteAt s.opt.inforce 0x10).toNat)

/-- The power state that feature 0x02 sets (R453). -/
def powerState (c : Controller) : Nat := natBits (tabGet 0 c.feats 0x02) 0 2

/-- Whether a port's host has suspended it. -/
def suspended (c : Controller) : Bool := powerState c == 3 || c.dstate != .d0

/-- The module enters LOW when every active port is suspended and no run is placed. -/
def settleLow (s : Block) : Block :=
  if s.low || s.resuming then s
  else if (List.range (activePorts s)).all (fun p => suspended (getCtl s p)) &&
      s.cores.all (fun e => e.2.placed.isNone) then { s with low := true, lowSince := s.now }
  else s

/-! Statistics that count nanoseconds (R337, R434, R625, R670, R672). -/

/-- What has run since the moments listed is counted up to now, in statistic i of the pages. -/
def countRunning (s : Block) (page : Nat → Nat) (i : Nat) (t : Tab Nat) : Block :=
  t.foldl (fun s e => bump s (page e.1) i (s.now - e.2)) s

/-- What runs on is counted up to now: the nanoseconds of HUB 7, NVE 6, PWR 3, THM 3, DMM 7 and AUP 13, and the energy of PWR 2, which is free
(log entry 48). -/
def accountTimes (s : Block) : Block :=
  let upTo (t : Tab Nat) : Tab Nat := tabMap (fun _ _ => s.now) t
  let w := s.power
  let s := countRunning (countRunning (countRunning s pgPwr 3 w.below) pgThm 3 w.acting) pgDmm 7 w.throttled
  let s := { s with power := { w with below := upTo w.below, acting := upTo w.acting, throttled := upTo w.throttled } }
  let s := (List.range 4).foldl (fun s p => match (getCtl s p).stalledSince with
    | some t => updCtl (bump s (pgNve p) 6 (s.now - t)) p (fun c => { c with stalledSince := some s.now })
    | none => s) s
  let s := countRunning s (fun l => 0x3900 + l) 13 (s.links.filterMap (fun e => e.2.starved.map (fun t => (e.1, t))))
  let s := { s with links := tabMap (fun _ k => { k with starved := k.starved.map (fun _ => s.now) }) s.links }
  let s := if s.low then { bump s pgHub 7 (s.now - s.lowSince) with lowSince := s.now } else s
  (List.range 5).foldl (fun s d =>
    if d == 4 || natBit s.hub.ready 3 then bump (drawFresh s) (pgPwr d) 2 (Config.meter (8 * d + 4) s.fresh).toNat else s) s
  |> refreshCommands
where
  /-- The refresh-management commands of each stack, DMM statistic 6, whose rate the spec does not fix (log entry 49). -/
  refreshCommands (s : Block) : Block :=
    if natBit s.hub.ready 3 then
      (List.range 8).foldl (fun s k => bump (drawFresh s) (pgDmm k) 6 (Config.freeWord s.fresh).toNat) s
    else s

/-! Critical warnings (R464). -/

/-- The asynchronous event information of a critical warning bit (R469). -/
def critInfo (bit : Nat) : Nat := if bit = 0 then 2 else if bit = 1 then 1 else 0

/-- A critical warning changes: an NVMe-MI health status change is pending (R652; log entry 41). -/
def healthChanged (s : Block) : Block := { s with adm := { s.adm with healthChange := s.adm.healthChange ||| 2 ^ 12 } }

/-- Sets a critical warning bit: when it becomes 1 the event is raised on every controller, and it is a wake cause. -/
def raiseCrit (s : Block) (bit : Nat) : Block :=
  if natBit s.crit bit then s
  else
    let s := healthChanged { s with crit := s.crit + 2 ^ bit, critRead := s.critRead.filter (fun b => b ≠ bit) }
    let s := (List.range 4).foldl (fun s p => postEventBy s p bit ⟨1, critInfo bit, 2⟩) s
    wakeCause s 3 0 s.crit

/-- Clears a critical warning bit. -/
def clearCrit (s : Block) (bit : Nat) : Block :=
  if natBit s.crit bit then healthChanged { s with crit := s.crit - 2 ^ bit } else s

/-! Interrupts (R47). -/

/-- The NOTICE frame of an event of a page that a peer module owns (R507, R509). -/
def eventNotice (self tag page : Nat) (bits : Word) : Frame :=
  { type := 0x06, vc := 2, dst := tag, src := self,
    payload := leBytes 1 4 ++ leBytes 1 0 ++ leBytes 1 0 ++ leBytes 1 0 ++ leBytes 2 page ++ leBytes 2 self ++
      leBytes 2 tag ++ leBytes 4 bits.toNat ++ zeroBytes 2 }

/-- Delivers the event of a page to its owner, or to the module manager while it has none. -/
def signal (s : Block) (p : Nat) (bits : Word) : Block :=
  let g := getPage s p
  match masterOfCode (ownerMaster g) with
  | some .pk =>
    let x := ownerTag g
    let port := (getCtx s x).port
    let s := updCtx s x (fun k => { k with run := k.run.map (fun r => { r with events := satAdd 0xFFFF r.events 1 }) })
    let s := updEvt s port (fun q => { q with
      ctxLog := logPush q.ctxLog ⟨p, x, bits.toNat, s.now⟩ (fun r => { r with bits := r.bits % 2 ^ 31 + 2 ^ 31 }) })
    let s := postEvent s port ⟨7, 2, 0xC2⟩
    wakeCause s 5 x p
  | some .pe => { s with routerIn := s.routerIn ++ [⟨none, eventNotice s.self (ownerTag g) p bits⟩] }
  | some m =>
    match portOfMaster m with
    | some port =>
      let s := updEvt s port (fun q => { q with
        pageLog := logPush q.pageLog ⟨p, 0, bits.toNat, s.now⟩ (fun r => { r with bits := r.bits % 2 ^ 31 + 2 ^ 31 }) })
      postEvent s port ⟨7, 1, 0xC1⟩
    | none => emit s (.mmEvent p bits)
  | none => emit s (.mmEvent p bits)

/-- Sets a bit of IRQ_STATUS; it is signalled when it becomes 1 in IRQ_STATUS AND IRQ_ENABLE (R47). -/
def raiseIrq (s : Block) (p bit : Nat) : Block :=
  let g := getPage s p
  let b : Word := BitVec.ofNat 32 (2 ^ bit)
  let s' := setPage s p { g with irqStatus := g.irqStatus ||| b }
  if natBit g.irqStatus.toNat bit || !natBit g.irqEnable.toNat bit then s'
  else signal s' p ((g.irqStatus ||| b) &&& g.irqEnable)

/-! Errors and rejections (R49 to R52, R62). -/

/-- Records an error: ERR_FIRST if it was zero, ERR_COUNT, IRQ_STATUS.ERR, statistic 0. master 0 is an internal error, which enters the Error
Information log too; of a rejected write nothing else tells (R62, R469). -/
def recordError (s : Block) (p master code detail : Nat) : Block :=
  let s := updPage s p (fun g => { g with
    errFirst := (if g.errFirst = 0 then BitVec.ofNat 32 (master * 2 ^ 28 + code * 2 ^ 16 + detail % 2 ^ 16) else g.errFirst),
    errCount := (if g.errCount = 0xFFFFFFFF then g.errCount else g.errCount + 1) })
  raiseIrq (bump (if master = 0 then logError s none 0 (getPage s p).errFirst else s) p 0 1) p 0

/-- An error of a link or of the router, for which the spec gives no code: its code is one of the block's own, and its detail is free (R50, R499,
R523; log entry 137). -/
def linkError (s : Block) (p : Nat) : Block :=
  recordError (drawFresh s) p 0 (0x80 + (Config.freeWord s.fresh).toNat / 2 ^ 16 % 128) (Config.freeWord s.fresh).toNat

/-- The common error codes (R50). -/
def eGuard : Nat := 1
def eNotOwner : Nat := 2
def eNotPermitted : Nat := 3
def eBadSize : Nat := 4
def eNotInService : Nat := 5
def eBadValue : Nat := 6

/-- A rejected write (R62): recorded as an error, in CONFLICT for GUARD, NOT_OWNER and NOT_PERMITTED (R52), in
IRQ_STATUS.CONFLICT and in statistic 1. -/
def rejectWrite (s : Block) (p : Nat) (w : Writer) (code off : Nat) : Block :=
  let s := recordError s p (masterCode w.master) code off
  let s :=
    if code = eGuard ∨ code = eNotOwner ∨ code = eNotPermitted then
      updPage s p (fun g =>
        let v := g.gen.toNat % 256 * 2 ^ 24 + ownerMaster g * 2 ^ 20 + masterCode w.master * 2 ^ 16 +
          satAdd 0xFFFF (g.conflict.toNat % 2 ^ 16) 1
        { g with conflict := BitVec.ofNat 32 v })
    else s
  raiseIrq (bump s p 1 1) p 1

/-- GEN increments and wraps (R59). -/
def incGen (s : Block) (p : Nat) : Block := updPage s p (fun g => { g with gen := g.gen + 1 })

/-! Device memory and its symbol code (R555 to R562). -/

/-- Program pages of one stack (R331). -/
def pagesPerStack : Nat := 24576
/-- Lines of the reserve of one stack: an eighth of 25.6 GiB, in whole lines (R19, R331). -/
def reserveLines : Nat := 53687091
/-- Lines of one stack, the reserve included: an eighth of the 409.6 GiB of protected capacity (R19, R568). -/
def linesPerStack : Nat := pagesPerStack * 32768 + reserveLines
/-- The stack of a physical device-memory address, and the byte address within it; the reserves of the stacks lie above the program
pages (log entry 11). -/
def stackOf (a : Nat) : Nat :=
  let n := pagesPerStack * pageBytes
  if a < 8 * n then a / n else (a - 8 * n) / (64 * reserveLines)
def inStack (a : Nat) : Nat :=
  let n := pagesPerStack * pageBytes
  if a < 8 * n then a % n else n + (a - 8 * n) % (64 * reserveLines)

/-- The DRAM die of symbol y of the line with index n (R555). -/
def symbolDie (y n : Nat) : Nat := ((if y < 24 then y / 3 else 8 + (y - 24) / 2) + n) % 16

/-- The marked die of a stack (R557, R577). -/
def dmMark (s : Block) (k : Nat) : Option Nat :=
  let v := getRegD s (pgChk k) 0x200 0
  if natBit v.toNat 31 then some (v.toNat % 16) else none

/-- What the decoder makes of a line (R556): no error, corrected, or uncorrectable. -/
inductive Decoded where
  | clean
  | corrected
  | uncorrectable
  deriving DecidableEq, Repr

/-- The symbols in error of a line as it stands. -/
def lineSyms (s : Block) (line : Nat) : List Nat := tabGet [] s.dmErr line

/-- The dies that symbols of a line lie on. -/
def symDies (line : Nat) (ys : List Nat) : List Nat := (ys.map (fun y => symbolDie y (inStack (line * 64) / 64))).eraseDups

/-- The decoder of the line's stack, in unmarked or marked mode, on a codeword with the symbols ys in error. -/
def decodeSyms (s : Block) (line : Nat) (ys : List Nat) : Decoded :=
  if ys.isEmpty then .clean
  else
    match dmMark s (stackOf (line * 64)) with
    | none => if (symDies line ys).length ≤ 1 then .corrected else .uncorrectable
    | some d =>
      if (ys.filter (fun y => symbolDie y (inStack (line * 64) / 64) ≠ d)).length ≤ 2 then .corrected else .uncorrectable

/-- The decoder on a line as it stands. -/
def decodeLine (s : Block) (line : Nat) : Decoded := decodeSyms s line (lineSyms s line)

/-- The readers of CHK_DM_UE_INFO (R577). -/
structure Reader where
  source : Nat
  ctx : Option Nat
  deriving DecidableEq, Repr

/-- An uncorrectable line is detected (R561): counted, shown, signalled. -/
def dmUncorrectable (s : Block) (line : Nat) (r : Reader) : Block :=
  let k := stackOf (line * 64)
  let a := inStack (line * 64)
  let s := bump (bump s (pgChk k) 6 1) (pgDmm k) 5 1
  let s := lifeBump (lifeBump s lifeDramUncorrectable 1) lifeMediaErrors 1
  let s := setReg (setReg s (pgChk k) 0x208 (BitVec.ofNat 32 a)) (pgChk k) 0x20C (BitVec.ofNat 32 (a / 2 ^ 32))
  let s := setReg s (pgChk k) 0x210 (BitVec.ofNat 32 (r.source * 2 ^ 28 + (match r.ctx with
    | some x => 2 ^ 15 + x
    | none => 0)))
  raiseIrq s (pgChk k) 18

/-- Marks a die of a stack (R557): at most one, until MM clears the mark. The mark goes into media metadata. -/
def markDie (s : Block) (k d : Nat) : Block :=
  match dmMark s k with
  | some _ => s
  | none =>
    let s := setReg s (pgChk k) 0x200 (BitVec.ofNat 32 (2 ^ 31 + d))
    let s := raiseIrq (lifeBump s lifeDramDiesFailed 1) (pgChk k) 19
    raiseCrit s 2

/-- The correction of a codeword (R556, R557) read with the symbols ys in error: counted by mode and die, the dies shown, and a die
that reaches the threshold within the millisecond window marked. -/
def countCorrected (s : Block) (line : Nat) (ys : List Nat) : Block :=
  let k := stackOf (line * 64)
  let w := s.now / 1000000
  let s := if s.dmWindow = w then s else { s with dmWindow := w, dmCount := [] }
  let dies := symDies line ys
  let s := bump (bump s (pgChk k) (if (dmMark s k).isSome then 5 else 4) 1) (pgDmm k) 4 1
  let s := lifeBump s lifeDramCorrected 1
  let s := setReg s (pgChk k) 0x214 (dies.foldl (fun v d => v ||| BitVec.ofNat 32 (2 ^ d)) (getRegD s (pgChk k) 0x214 0))
  let s := { s with dmCount := dies.foldl (fun t d => tabSet t (k * 16 + d) (tabGet 0 t (k * 16 + d) + 1)) s.dmCount }
  let thresh := (getRegD s (pgChk k) 0x204 0x100).toNat % 2 ^ 16
  dies.foldl (fun s d => if thresh ≤ tabGet 0 s.dmCount (k * 16 + d) then markDie s k d else s) s

/-- A corrected codeword that is read (R558): its write-back is queued, stale if a write came between. -/
def dmCorrected (s : Block) (line : Nat) (ys : List Nat) : Block :=
  let s := countCorrected s line ys
  { s with dmWb := s.dmWb ++ [⟨line, decide (lineSyms s line ≠ ys)⟩] }

/-- The lines of a range of physical addresses. -/
def linesOf (a n : Nat) : List Nat := if n = 0 then [] else (List.range ((a + n - 1) / 64 - a / 64 + 1)).map (fun i => a / 64 + i)

/-- Reads codewords of device memory, each with its symbols in error: the state after counting and correction, and the first
line that was uncorrectable. -/
def dmReadSyms (s : Block) (lines : List (Nat × List Nat)) (r : Reader) : Block × Option Nat :=
  lines.foldl (fun (s, bad) l =>
    let s := bump s (pgDmm (stackOf (l.1 * 64))) 2 64
    match decodeSyms s l.1 l.2 with
    | .clean => (s, bad)
    | .corrected => (dmCorrected s l.1 l.2, bad)
    | .uncorrectable => (dmUncorrectable s l.1 r, bad.or (some l.1))) (s, none)

/-- Reads lines of device memory as they stand. -/
def dmReadLines (s : Block) (lines : List Nat) (r : Reader) : Block × Option Nat :=
  dmReadSyms s (lines.map (fun l => (l, lineSyms s l))) r

/-- A write of a line makes queued write-backs of it stale (R559). -/
def staleWb (l : List WriteBack) (line : Nat) : List WriteBack :=
  l.map (fun w => if w.line = line then { w with stale := true } else w)

/-- A whole-line write encodes the line afresh (R559, R561); a narrower one merges into the corrected line and needs no write-back
(R333, R560). -/
def dmNoteWrite (s : Block) (line : Nat) (whole : Bool) : Block :=
  let k := stackOf (line * 64)
  let ys := lineSyms s line
  let s := if !whole && !ys.isEmpty then countCorrected s line ys else s
  let s := bump (if whole then s else bump s (pgDmm k) 9 1) (pgDmm k) 3 64
  { s with dmErr := tabErase s.dmErr line, dmWb := staleWb s.dmWb line }

/-- Writes bytes to physical addresses of device memory; a narrower write of an uncorrectable line leaves that line unchanged,
and the answer names the first such line (R562). -/
def dmWriteBytes (s : Block) (a : Nat) (b : List Byte) (r : Reader) : Block × Option Nat :=
  (linesOf a b.length).foldl (fun (s, bad) line =>
    let lo := max a (line * 64)
    let hi := min (a + b.length) (line * 64 + 64)
    let whole := decide (lo = line * 64) && decide (hi = line * 64 + 64)
    if !whole && decodeLine s line == .uncorrectable then (dmUncorrectable s line r, bad.or (some line))
    else
      let s := dmNoteWrite s line whole
      ({ s with dm := memPut 0 s.dm lo ((b.drop (lo - a)).take (hi - lo)) }, bad)) (s, none)

/-! SRAM words and their code (R564, R565). -/

/-- The number of a word of the local store of core c, and of the cluster store g. -/
def wordLs (c a : Nat) : Nat := c * 131072 + a / 8
def wordCs (g a : Nat) : Nat := 12288 * 131072 + g * 2097152 + a / 8
/-- The check-value page that reports the SRAM of a core's or cluster's die (R573). -/
def pgSram (die : Nat) : Nat := pgChk (8 + die)

/-- Reads SRAM words: corrected single bits are counted and their write-back queued, an uncorrectable word is shown and
signalled; the answer is the first uncorrectable one. kind 1 is a local store, 2 a cluster store. -/
def sramRead (s : Block) (kind unit : Nat) (words : List Nat) : Block × Option Nat :=
  let die := if kind = 1 then dieOfCore unit else unit / 192
  let base := if kind = 1 then wordLs unit 0 else wordCs unit 0
  words.foldl (fun (s, bad) w =>
    let n := tabGet 0 s.sramErr (base + w)
    if n = 0 then (s, bad)
    else if n = 1 then
      let s := bump s (pgSram die) 10 1
      ({ s with sramWb := s.sramWb ++ [⟨base + w, false⟩] }, bad)
    else
      let s := bump s (pgSram die) 11 1
      let s := setReg s (pgSram die) 0x220 (BitVec.ofNat 32 (kind * 2 ^ 30 + unit))
      let s := setReg s (pgSram die) 0x224 (BitVec.ofNat 32 (w * 8))
      (raiseIrq s (pgSram die) 20, bad.or (some (w * 8)))) (s, none)

/-- The words of a range of byte addresses. -/
def wordsOf (a n : Nat) : List Nat := if n = 0 then [] else (List.range ((a + n - 1) / 8 - a / 8 + 1)).map (fun i => a / 8 + i)

/-- Writes of SRAM words: a whole word is encoded afresh; every write makes a queued write-back stale. -/
def sramNoteWrite (s : Block) (base a n : Nat) : Block :=
  (wordsOf a n).foldl (fun s w =>
    let whole := decide (a ≤ w * 8) && decide (w * 8 + 8 ≤ a + n)
    let one := tabGet 0 s.sramErr (base + w)
    { s with
      sramErr := (if whole || one = 1 then tabErase s.sramErr (base + w) else s.sramErr),
      sramWb := staleWb s.sramWb (base + w) }) s

end Sys2Proof.Machine
end

