-- ==== Sys2Proof/Machine/Control.lean ====
section
/-! DEFINITION. Control: the control space (R36 to R65): which page is which, who answers it, the judgement of writes by right,
guard and value, ownership and its change, and the zeroise that follows it (R92 to R94). -/
namespace Sys2Proof.Machine

/-! The pages (R36, R38). -/

/-- The kind and instance of a page; none for a reserved page or slot. -/
def pageOf (p : Nat) : Option (PageKind × Nat) :=
  let slot := p % 256
  if p < 0x3000 then some (.cor, p)
  else if p < 0x3300 then some (.clu, p - 0x3000)
  else
    match p / 256 with
    | 0x33 => if slot < 48 then some (.rgn, slot) else none
    | 0x34 => if slot < 4 then some (.tie, slot) else none
    | 0x35 => if slot < 8 then some (.dmm, slot) else none
    | 0x36 => if slot < 16 then some (.chk, slot) else none
    | 0x37 => if slot < 4 then some (.nve, slot) else none
    | 0x38 => if slot < 32 then some (.onf, slot) else none
    | 0x39 => if slot < 24 then some (.aup, slot) else none
    | 0x3A => if slot < 5 then some (.pwr, slot) else none
    | 0x3B => if slot < 5 then some (.thm, slot) else none
    | 0x3F =>
      (match slot with
       | 0 => some (.hub, 0)
       | 1 => some (.med, 0)
       | 2 => some (.dsp, 0)
       | 3 => some (.stu, 0)
       | 4 => some (.mgr, 0)
       | 5 => some (.cfl, 0)
       | 6 => some (.opt, 0)
       | _ => none)
    | _ => none

/-- The block kind codes of R36. -/
def kindCode : PageKind → Nat
  | .hub => 0x01
  | .nve => 0x02
  | .med => 0x03
  | .onf => 0x04
  | .tie => 0x05
  | .dmm => 0x06
  | .chk => 0x07
  | .cfl => 0x08
  | .opt => 0x09
  | .aup => 0x0A
  | .stu => 0x0B
  | .dsp => 0x0C
  | .rgn => 0x0D
  | .clu => 0x0E
  | .cor => 0x0F
  | .pwr => 0x10
  | .thm => 0x11
  | .mgr => 0x12

/-- STAT_COUNT, the flags of CAPS [4:0], and CAPS.BLOCK of a page (R44, R95, R334, R368, R414, R434, R484, R520, R542, R573, R605,
R625, R668). -/
def capsParts (k : PageKind) (i : Nat) : Nat × Nat × Nat :=
  match k with
  | .cor => (9, 0x17, 0)
  | .clu => (8, 0x13, 0)
  | .rgn => (9, 0x03, 0)
  | .tie => (12, 0, 0)
  | .dmm => (10, 0, 0)
  | .chk => (12, 0x13, if i < 8 then 3 else if i < 12 then 5 else 1)
  | .nve => (10, 0, 0)
  | .onf => (12, 0x03, 0)
  | .aup => (14, 0x0B, 0x2012)
  | .pwr => (5, 0, 0)
  | .thm => (4, 0, 0)
  | .hub => (8, 0, 0)
  | .med => (14, 0, 0)
  | .dsp => (12, 0, 0)
  | .stu => (10, 0, 0)
  | .mgr => (8, 0, 0)
  | .cfl => (12, 0, 0)
  | .opt => (4, 0x10, 0)

def statCount (k : PageKind) : Nat := (capsParts k 0).1
def capFence (k : PageKind) : Bool := natBit (capsParts k 0).2.1 0
def capSpare (k : PageKind) : Bool := natBit (capsParts k 0).2.1 2
def capHostService (k : PageKind) : Bool := natBit (capsParts k 0).2.1 3
def capBuffers (k : PageKind) : Bool := natBit (capsParts k 0).2.1 4

/-- CAPS (R44). -/
def capsWord (k : PageKind) (i : Nat) : Word :=
  let c := capsParts k i
  BitVec.ofNat 32 (c.2.2 * 2 ^ 16 + c.1 * 2 ^ 8 + c.2.1)
/-- ID (R42). -/
def idWord (k : PageKind) (i : Nat) : Word := BitVec.ofNat 32 (kindCode k * 2 ^ 24 + i)
/-- VERSION (R43): MAJOR 0x02 and MINOR 0x00 on every page; BUILD reads 0 (log entry 21). -/
def versionWord : Word := 0x02000000

/-- The compute die that a page belongs to; none for a hub-die page (R39). -/
def pageDie (k : PageKind) (i : Nat) : Option Nat :=
  match k with
  | .cor => some (i / 3072)
  | .clu => some (i / 192)
  | .rgn => some (i / 12)
  | .tie => some i
  | .dmm => some (i / 2)
  | .pwr => if i < 4 then some i else none
  | .thm => if i < 4 then some i else none
  | _ => none

/-- Whether a page's own unit answers it; else the hub answers its header alone (R39, R619, R641). -/
def pageAnswers (s : Block) (k : PageKind) (i : Nat) : Bool :=
  s.hub.phase == .started && s.hub.remove != .ready && natBit s.hub.ready 0 &&
    (match pageDie k i with
     | some _ => natBit s.hub.ready 3
     | none => true)

/-- Whether a page's block is ready, zeroising apart (R46, R619, R623). A port that the split leaves inactive has a page that is
not (R434). -/
def pageReady (s : Block) (k : PageKind) (i : Nat) : Bool :=
  pageAnswers s k i &&
    (match k with
     | .dsp => natBit s.hub.ready 4
     | .med => natBit s.hub.ready 5
     | .mgr => natBit s.hub.ready 1
     | .nve => decide (i < 2 ^ (byteAt s.opt.inforce 0x10).toNat)
     | _ => true)

/-- The bits of IRQ_STATUS and IRQ_ENABLE that a page has (R47, R415, R521, R543, R575, R607, R609, R671). -/
def irqMask (k : PageKind) (i : Nat) : Word :=
  0x1F ||| (match k with
    | .stu => 0x1F0000
    | .med => 0xF0000
    | .aup => 0x1F0000
    | .chk => 0x1F0000
    | .cfl => 0x70000
    | .opt => 0x10000
    | .thm => if i = 4 then 0x70000 else 0x30000
    | _ => 0)

/-- The bits of CTL.BLOCK that a page keeps (R98, R335, R337, R369, R415, R521, R543). -/
def ctlMask (k : PageKind) : Nat :=
  match k with
  | .cor => 1
  | .tie => 3
  | .dmm => 0xF
  | .dsp => 3
  | .stu => 0xFF1F00
  | .med => 1
  | .aup => 0xFF000D
  | _ => 0

/-! Rights (R56, R58, R519, R627). -/

/-- Whether the option record forbids peer access (R519, R601). -/
def peerForbidden (s : Block) : Bool := natBit (byteAt s.opt.inforce 0x13).toNat 0

/-- The code that refuses a write of CTL, IRQ registers or a block register that is the owner's and MM's to write. -/
def ownerRight (g : Page) (w : Writer) : Option Nat :=
  if w.master == .mm || isOwner g w then none
  else if w.master == .pk || w.master == .pe then some eNotPermitted
  else some eNotOwner

/-- The code that refuses a write which only MM may make. -/
def mmRight (w : Writer) : Option Nat := if w.master == .mm then none else some eNotPermitted

/-- The code that refuses a write of SERVICE. -/
def serviceRight (k : PageKind) (g : Page) (w : Writer) : Option Nat :=
  if w.master == .mm then none
  else if w.master == .pk || w.master == .pe || !capHostService k then some eNotPermitted
  else if isOwner g w then none
  else some eNotOwner

/-- The code that refuses a write of OWNER (R56). -/
def ownerWriteRight (g : Page) (w : Writer) (value : Word) : Option Nat :=
  let m := bvBits value 0 4
  let tag := bvBits value 4 15
  if w.master == .mm then none
  else if w.master == .pk || w.master == .pe then some eNotPermitted
  else if (m ≠ 0 && m ≠ masterCode w.master) || tag ≠ 0 then some eNotPermitted
  else if ownerMaster g ≠ 0 ∧ ownerMaster g ≠ masterCode w.master then some eNotOwner
  else none

/-! The guard (R60). -/

/-- A guarded write: right, guard, then value; an accepted one takes effect and increments GEN. -/
def guardedWrite (s : Block) (p off : Nat) (w : Writer) (value : Word) (right bad : Option Nat) (f : Block → Block) : Block :=
  match right with
  | some code => rejectWrite s p w code off
  | none =>
    if bvBits value 24 8 ≠ (getPage s p).gen.toNat % 256 then rejectWrite s p w eGuard off
    else
      match bad with
      | some code => rejectWrite s p w code off
      | none => f (incGen s p)

/-- An unguarded write: right, then value. -/
def plainWrite (s : Block) (p off : Nat) (w : Writer) (right bad : Option Nat) (f : Block → Block) : Block :=
  match right with
  | some code => rejectWrite s p w code off
  | none =>
    match bad with
    | some code => rejectWrite s p w code off
    | none => f s

/-- BAD_VALUE if a value is out of range. -/
def badIf (b : Bool) : Option Nat := if b then some eBadValue else none

/-- Sets CTL.BLOCK to what the page keeps of a value (R45). -/
def setCtl (s : Block) (p : Nat) (k : PageKind) (v : Nat) : Block :=
  updPage s p (fun g => { g with ctl := BitVec.ofNat 24 v &&& BitVec.ofNat 24 (ctlMask k) })

/-! The low words of 64-bit pairs (R543, R550, R574). -/

/-- The place of a master's low word of a pair. -/
def lowKey (p off : Nat) (w : Writer) : Nat := (p * 4096 + off) * 8 + masterCode w.master
/-- Keeps a low word until the high word is written. -/
def putLow (s : Block) (p off : Nat) (w : Writer) (v : Word) : Block := { s with lows := tabSet s.lows (lowKey p off w) v }
/-- The low word that a master wrote last. -/
def getLow (s : Block) (p off : Nat) (w : Writer) : Option Word := tabFind s.lows (lowKey p off w)
/-- Forgets the low words of a range of offsets of a page. -/
def dropLows (s : Block) (p lo hi : Nat) : Block :=
  { s with lows := s.lows.filter (fun e => !(decide ((p * 4096 + lo) * 8 ≤ e.1) && decide (e.1 < (p * 4096 + hi) * 8))) }

/-! Zeroising (R57, R92 to R94, R574, R605). -/

/-- Takes the error marks of a range of SRAM words away: a zeroise writes every word. -/
def cleanSram (s : Block) (lo n : Nat) : Block :=
  { s with
    sramErr := s.sramErr.filter (fun e => !(decide (lo ≤ e.1) && decide (e.1 < lo + n))),
    sramWb := s.sramWb.map (fun w => if lo ≤ w.line ∧ w.line < lo + n then { w with stale := true } else w) }

/-- A page's zeroise begins, unless one runs. A core that is zeroised executes nothing; a check-value unit and the option page lose
what their owner put there at once. -/
def beginZeroise (s : Block) (p : Nat) : Block :=
  if (getPage s p).zeroising then s
  else
    let s := updPage s p (fun g => { g with zeroising := true })
    match pageOf p with
    | some (.cor, c) => updCore s c (fun k => { k with run := .zeroising })
    | some (.chk, u) =>
      let s := updPage s p (fun g => { g with regs := g.regs.filter (fun e => decide (0x160 ≤ e.1)) })
      dropLows { s with chks := tabErase s.chks u } p 0x100 0x160
    | some (.opt, _) => { s with opt := { s.opt with stage := [], unlocked := false } }
    | _ => s

/-- A core as zeroise leaves it; the context that the dispatcher has placed stays placed. -/
def zeroisedCore (k : Core) : Core := { placed := k.placed, nextLayer := 0 }

/-- The buffers of a page are zero at the end of its zeroise. -/
def clearBuffers (s : Block) (p : Nat) : Block :=
  match pageOf p with
  | some (.cor, c) => cleanSram (updCore s c zeroisedCore) (wordLs c 0) 131072
  | some (.clu, g) => cleanSram { s with cs := tabErase s.cs g } (wordCs g 0) 2097152
  | _ => s

/-! Ownership (R55 to R57). -/

/-- A change of owner: the displaced owner is told if it asked to be, the event registers clear, the buffers are zeroised. -/
def changeOwner (s : Block) (p : Nat) (owner : Word) : Block :=
  let g := getPage s p
  if g.owner = owner then s
  else
    let s := if ownerMaster g ≠ 0 ∧ natBit g.irqEnable.toNat 2 then signal s p 4 else s
    let s := updPage s p (fun g => { g with owner := owner, irqStatus := 0, irqEnable := 0 })
    match pageOf p with
    | some (k, _) => if capBuffers k then beginZeroise s p else s
    | none => s

/-- The dispatcher or the module manager, acting as MM, gives a page to an owner (R56). -/
def giveOwner (s : Block) (p m tag : Nat) : Block := changeOwner (incGen s p) p (ownerWord m tag)

/-- The judged write of OWNER. -/
def writeOwner (s : Block) (p : Nat) (w : Writer) (value : Word) : Block :=
  guardedWrite s p 0x00C w value (ownerWriteRight (getPage s p) w value) (badIf (decide (8 ≤ bvBits value 0 4)))
    (fun s => changeOwner s p (ownerWord (bvBits value 0 4) (bvBits value 4 15)))

/-! Entry of a write to the control space (R38, R39, R57, R61, R519). -/

/-- Whether a write waits for the zeroise of its page: one of the new owner's to a block register, one of MM's to a unit whose
buffers are being cleared, or one behind a write of the same master that waits. -/
def holdsWrite (g : Page) (k : PageKind) (w : Writer) (off : Nat) : Bool :=
  g.zeroising && ((decide (0x100 ≤ off) && (isOwner g w || (w.master == .mm && (k == .chk || k == .opt)))) ||
    g.held.any (fun h => h.w == w))

/-- Whether SERVICE.STATE forbids a block-specific write: the unit is out of service. The route table is no link's own, and the
symbol-code state stays in force (R50, R628, R630; log entry 22). -/
def serviceForbids (g : Page) (k : PageKind) (off : Nat) : Bool :=
  decide (0x100 ≤ off) &&
    (match g.service with
     | .fenced => true
     | .testing => true
     | .lehr => true
     | .retired => true
     | _ => false) &&
    !(k == .aup && (off == 0x118 || off == 0x11C)) && !(k == .chk && decide (0x200 ≤ off)) && !(k == .onf)

/-- A 4-byte write enters the control space: dropped where there is no page, refused where the unit does not answer, kept until a
zeroise ends, or judged by f. Whether the unit is in service is judged before the writer's right (R50; log entry 152). A module that is
not started has no control space. -/
def enterWrite (s : Block) (p : Nat) (w : Writer) (off : Nat) (value : Word) (f : PageKind → Nat → Block → Block) : Block :=
  if s.hub.phase ≠ .started then s else
  match pageOf p with
  | none => bump s pgHub 2 1
  | some (k, i) =>
    let g := getPage s p
    if w.master == .pe && peerForbidden s then rejectWrite s p w eNotPermitted off
    else if !pageAnswers s k i && off ≠ 0x030 then rejectWrite s p w eNotInService off
    else if holdsWrite g k w off then updPage s p (fun g => { g with held := g.held ++ [⟨w, off, value, .posted⟩] })
    else if serviceForbids g k off then rejectWrite s p w eNotInService off
    else f k i s

/-- OWNER_WRITE (R56): a master's write of OWNER with its guard. -/
def doOwnerWrite (w : Writer) (p : PageNo) (value : Word) (s : Block) : Block :=
  enterWrite s p w 0x00C value (fun _ _ s => writeOwner s p w value)

/-! The event registers (R47, R48). -/

/-- The judged write of IRQ_STATUS: each 1 clears its bit. -/
def writeIrqStatus (s : Block) (p : Nat) (w : Writer) (value : Word) : Block :=
  plainWrite s p 0x01C w (ownerRight (getPage s p) w) none
    (fun s => updPage s p (fun g => { g with irqStatus := g.irqStatus &&& ~~~value }))

/-- The judged write of IRQ_ENABLE: a pending event that becomes enabled is signalled. -/
def writeIrqEnable (s : Block) (p : Nat) (k : PageKind) (i : Nat) (w : Writer) (value : Word) : Block :=
  plainWrite s p 0x020 w (ownerRight (getPage s p) w) none (fun s =>
    let g := getPage s p
    let e := value &&& irqMask k i
    let s := setPage s p { g with irqEnable := e }
    if g.irqStatus &&& e &&& ~~~g.irqEnable = 0 then s else signal s p (g.irqStatus &&& e))

/-! SERVICE.STATE (R53, R59, R627). -/

/-- SERVICE.STATE changes, with RESULT, as one value; GEN increments and the event is set. A region out of service reports no pace (R90). -/
def setService (s : Block) (p : Nat) (st : SvcState) (result : Option Nat) : Block :=
  if (getPage s p).service = st then
    updPage s p (fun g => { g with result := result.getD g.result })
  else
    let s := updPage (incGen s p) p (fun g => { g with service := st, result := result.getD g.result })
    let s := if 0x3300 ≤ p ∧ p < 0x3330 ∧ st ≠ .inService then setReg s p 0x100 0 else s
    raiseIrq s p 3

/-- A reset of one block, narrower than module reset: its errors, its conflicts and its statistics start again, and GEN increments (R51, R52,
R59, R70, R610; log entry 138). -/
def resetUnit (s : Block) (p : Nat) : Block :=
  updPage (incGen s p) p (fun g => { g with errCount := 0, conflict := 0, live := [], shadow := [], shadowValid := false })

/-- A fence comes to its end in a state: RESULT shows the command done, unless a fault raised the fence (R629 to R631). -/
def fenceEnds (s : Block) (p : Nat) (st : SvcState) : Block :=
  let byFault := s.faultFenced.contains p
  setService { s with faultFenced := s.faultFenced.filter (fun q => q ≠ p) } p st (if byFault then none else some 1)

/-- A unit has drained: it is FENCED (R630). -/
def drained (s : Block) (p : Nat) : Block := fenceEnds s p .fenced

/-- RESULT of a command that is refused. -/
def refuseService (s : Block) (p : Nat) : Block := updPage s p (fun g => { g with result := 2 })

def svcCode : SvcState → Nat
  | .inService => 0
  | .draining => 1
  | .fenced => 2
  | .testing => 3
  | .lehr => 4
  | .retired => 5
  | .spared => 6

end Sys2Proof.Machine
end

