-- ==== Sys2Proof/Machine/MediaOps.lean ====
section
/-! DEFINITION. MediaOps: the shared operations of the media: dies and groups (R372, R373), the read of a logical block with its
error handling (R390 to R395), protection information (R406, R407), the write of logical blocks into the protected write buffer
(R377, R381), deallocation (R402 to R405), and the lost-block list (R470). -/
namespace Sys2Proof.Machine

/-! Dies and channels. -/

/-- A die as it starts: in its group by position, or a spare at position 15 of every fourth channel. -/
def freshDie (d : Nat) : FlashDie :=
  if d % 16 = 15 ∧ d / 16 % 4 = 0 then { state := .spare } else { group := some (d % 16) }
def getDie (s : Block) (d : Nat) : FlashDie := tabGet (freshDie d) s.med.dies d
def updDie (s : Block) (d : Nat) (f : FlashDie → FlashDie) : Block :=
  { s with med := { s.med with dies := tabSet s.med.dies d (f (getDie s d)) } }
def getChan (s : Block) (c : Nat) : Channel := tabGet {} s.med.chans c
def updChan (s : Block) (c : Nat) (f : Channel → Channel) : Block :=
  { s with med := { s.med with chans := tabSet s.med.chans c (f (getChan s c)) } }

/-- The dies of a parity group that are in service (R373). -/
def groupDies (s : Block) (g : Nat) : List Nat :=
  (List.range 512).filter (fun d => (getDie s d).group == some g &&
    (match (getDie s d).state with
     | .inService => true
     | .evacuating => true
     | _ => false))

/-- Whether reads of a die are cut off: its channel or the die itself is out of service. -/
def dieCut (s : Block) (d : Nat) : Bool :=
  (match (getPage s (pgOnf (d / 16))).service with
   | .fenced => true
   | .testing => true
   | .lehr => true
   | .retired => true
   | _ => false) ||
  (match (getDie s d).state with
   | .fenced => true
   | .retired => true
   | _ => false)

def updMed (s : Block) (f : Media → Media) : Block := { s with med := f s.med }
def getNs (s : Block) (n : Nat) : Option Namespace := tabFind s.nss n
def updNs (s : Block) (n : Nat) (f : Namespace → Namespace) : Block :=
  match tabFind s.nss n with
  | some x => { s with nss := tabSet s.nss n (f x) }
  | none => s

/-- Bytes of one indirection unit (R376), and of a grain of the gather region (R377). -/
def iuBytes : Nat := 32768
def grainBytes : Nat := 4096
/-- Bytes of a page, and the raw bytes that a codeword crosses the channel with: data, metadata and check bytes (R372). A page is four
codewords. -/
def flashPage : Nat := 16384
def codewordRaw : Nat := 4648
/-- Indirection units of a die of 2^38 bytes, and of a 4-plane wordline and of a block of all planes (R372, R376). -/
def dieIus : Nat := 8388608
def wordlineIus : Nat := 8
def blockIus : Nat := 8192
/-- Logical blocks of an indirection unit of a namespace. -/
def iuBlocks (n : Namespace) : Nat := iuBytes / max 1 n.lba

/-- User capacity in bytes (R376). -/
def userBytes : Nat := 120000000000000

/-- The division of the device memory that is reserved for media management (R376): the map of the user capacity, the gather map for 1,024 GB
in grains, the protected write buffer, the journal buffer; the rest holds the band, block, wear and lost-block tables. -/
def mapSize : Nat := 4 * ((userBytes + iuBytes - 1) / iuBytes)
def gatherMapBytes : Nat := 8 * (1024000000000 / grainBytes)
def writeBufferBytes : Nat := 2147483648
def journalBufferBytes : Nat := 268435456
def tableBytes : Nat := 8 * 64 * reserveLines - (mapSize + gatherMapBytes + writeBufferBytes + journalBufferBytes)

/-! The lost-block list (R470). -/

/-- A range joins the list, the oldest entry leaving a full one; the event is raised. -/
def lostAdd (s : Block) (cause nsid slba nlb : Nat) : Block :=
  let full := decide (4096 ≤ s.med.lost.length)
  let s := updMed s (fun m => { m with
    lost := (if full then m.lost.drop 1 else m.lost) ++ [⟨nsid, cause, slba, nlb, s.now⟩], lostOverflow := m.lostOverflow || full })
  let s := bump (lifeBump s lifeMediaErrors 1) pgMed 11 nlb
  (List.range 4).foldl (fun s p => postEvent s p ⟨7, 5, 0xC5⟩) s

/-- A block whose stored protection fields do not fit is listed, once (R406). -/
def listFailed (s : Block) (nsid lba : Nat) : Block :=
  if s.med.lost.any (fun e => e.nsid == nsid && Nat.ble e.slba lba && Nat.blt lba (e.slba + e.nlb)) then s else lostAdd s 4 nsid lba 1

/-- Blocks leave their entries when they are written or deallocated. -/
def lostDrop (s : Block) (nsid slba nlb : Nat) : Block :=
  updMed s (fun m => { m with
    lost := m.lost.flatMap (fun e =>
      if e.nsid ≠ nsid ∨ e.slba + e.nlb ≤ slba ∨ slba + nlb ≤ e.slba then [e]
      else
        (if e.slba < slba then [{ e with nlb := slba - e.slba }] else []) ++
          (if slba + nlb < e.slba + e.nlb then [{ e with slba := slba + nlb, nlb := e.slba + e.nlb - (slba + nlb) }] else [])) })

/-! Protection information (R406, R407, R427). -/

/-- The 16-bit guard, and the 64-bit guard, of NVMe (presumed, log entry 24). -/
def crc16t10 : CrcMode := ⟨16, 0x8BB7, 0, false, false, false⟩
def crc64nvme : CrcMode := ⟨64, 0xAD93D23594C93659, 0xFFFFFFFFFFFFFFFF, true, true, true⟩

/-- Bytes of the protection fields: 8 with the 16-bit guard, 16 with the 64-bit guard, which is that of format 4 (R425). -/
def piBytes (n : Namespace) : Nat := if n.formatIdx = 4 then 16 else 8
/-- Where the protection fields begin in the metadata. -/
def piAt (n : Namespace) : Nat := if n.protFirst then 0 else n.mdBytes - piBytes n

/-- The guard over a block's data, and the metadata before the fields. -/
def piGuard (n : Namespace) (data md : List Byte) : Nat :=
  let l := data ++ md.take (piAt n)
  if piBytes n = 16 then crcFinish crc64nvme (crcBytes crc64nvme crc64nvme.init l) else crcFinish crc16t10 (crcBytes crc16t10 crc16t10.init l)

/-- Big-endian bytes, as protection fields are stored. -/
def beBytes (n v : Nat) : List Byte := (leBytes n v).reverse
def beNat (l : List Byte) : Nat := leNat l.reverse

/-- Guard, application tag and reference tag of stored metadata. -/
def piFields (n : Namespace) (md : List Byte) : Nat × Nat × Nat :=
  let f := (md.drop (piAt n)).take (piBytes n)
  if piBytes n = 16 then (beNat (f.take 8), beNat ((f.drop 8).take 2), beNat (f.drop 10)) else
    (beNat (f.take 2), beNat ((f.drop 2).take 2), beNat (f.drop 4))

/-- Bits of a reference tag. -/
def refBits (n : Namespace) : Nat := if piBytes n = 16 then 48 else 32

/-- Metadata with generated protection fields: guard over the data, application tag, reference tag. -/
def piMake (n : Namespace) (data md : List Byte) (app ref : Nat) : List Byte :=
  let g := piGuard n data md
  let f := if piBytes n = 16 then beBytes 8 g ++ beBytes 2 app ++ beBytes 6 ref else beBytes 2 g ++ beBytes 2 app ++ beBytes 4 ref
  padTo n.mdBytes (md.take (piAt n) ++ f ++ md.drop (piAt n + piBytes n))

/-- The reference tag that a block has by its address (R407). -/
def refOf (n : Namespace) (lba : Nat) : Nat := if n.prot = 3 then 0 else lba % 2 ^ refBits n

/-- Whether stored fields disable their check: all ones in the application tag, and for type 3 in the reference tag as well. -/
def piOff (n : Namespace) (app ref : Nat) : Bool := app == 0xFFFF && (n.prot != 3 || ref == 2 ^ refBits n - 1)

/-- What a check of the stored fields finds: 0 good, 0x82 guard, 0x84 reference tag. -/
def piCheck (n : Namespace) (lba : Nat) (data md : List Byte) : Nat :=
  if n.prot = 0 then 0
  else
    let f := piFields n md
    if piOff n f.2.1 f.2.2 then 0
    else if f.1 ≠ piGuard n data md then 0x82
    else if n.prot ≠ 3 ∧ f.2.2 ≠ refOf n lba then 0x84
    else 0

/-! Reading a logical block (R379, R390 to R395). -/

/-- What a read of a logical block gives. -/
inductive BlkRead where
  | ok (data md : List Byte)
  /-- deallocated or zeroed; whether the whole unit is DEALLOCATED -/
  | zeros (data md : List Byte) (dealloc : Bool)
  /-- unrecoverable; whether it has just been found so -/
  | lost (fresh : Bool)
  /-- a stored protection field does not fit: its status code -/
  | pi (code : Nat)
  /-- data on a fenced channel that cannot be reconstructed -/
  | waits
  deriving DecidableEq, Repr

/-- Whether data lies where parity still covers it: a gather stripe, or a band that is not released. -/
def covered (s : Block) : FLoc → Bool
  | .buffer => true
  | .gather _ _ => true
  | .band b _ => match tabFind s.med.bands b with
    | some x => x.state != .released
    | none => false

/-- The die of a place in flash. -/
def locDie : FLoc → Option Nat
  | .buffer => none
  | .gather _ d => some d
  | .band _ iu => some (iu / dieIus)

/-- Whether a die has failed or left service for good, so that its pages are lost. -/
def dieGone (s : Block) (d : Nat) : Bool :=
  match (getDie s d).state with
  | .fenced => true
  | .retired => true
  | _ => false

/-- The other dies on which the stripe of a place lies. -/
def locMates (s : Block) (l : FLoc) : List Nat :=
  match l with
  | .buffer => []
  | .gather g d => ((tabFind s.med.stripes g).map (fun x => x.members.filter (fun e => e != d))).getD []
  | .band b iu => ((tabFind s.med.bands b).map (fun x => x.members.filter (fun e => e != iu / dieIus))).getD []

/-- Whether a page can be reconstructed now: parity covers it, and every other member can be read (R390, R391). -/
def mendable (s : Block) (l : FLoc) : Bool := covered s l && (locMates s l).all (fun d => !dieCut s d)

/-- Whether a page that is lost stays lost: no parity covers it, or another page of its stripe is lost too (R391, R393). -/
def beyondMend (s : Block) (l : FLoc) : Bool := !covered s l || (locMates s l).any (dieGone s)

/-- Page reads of a die, with the codewords that crossed the channel by how they decode: by hard decision, with retry or soft decode, not
at all (R399, R419). -/
def noteDieRead (s : Block) (d pages hard soft bad : Nat) : Block :=
  let p := pgOnf (d / 16)
  let s := bump (bump s p 3 (codewordRaw * (hard + soft + bad))) p 4 pages
  let s := bump (bump (bump s p 7 hard) p 8 soft) p 9 bad
  let s := lifeBump (lifeBump (lifeBump s lifeFlashCorrected hard) lifeFlashSoft soft) lifeFlashUncorrectable bad
  updDie s d (fun x =>
    let x := if s.now < x.dayStart + 86400000000000 then x else { x with dayStart := s.now, dayReads := 0, daySoft := 0 }
    { x with dayReads := x.dayReads + pages, daySoft := x.daySoft + soft })

/-- Reads that disturb the blocks of a band on a die, or of a stripe, count towards their limit (R398). -/
def noteDisturb (s : Block) (l : FLoc) (pages : Nat) : Block :=
  match l with
  | .band b iu => updMed s (fun m => { m with
      bands := tabMap (fun k x => if k = b then { x with reads := tabSet x.reads (iu / dieIus) (tabGet 0 x.reads (iu / dieIus) + pages) } else x)
        m.bands })
  | .gather g _ => updMed s (fun m => { m with
      stripes := tabMap (fun k x => if k = g then { x with reads := x.reads + pages } else x) m.stripes })
  | .buffer => s

/-- Whether a block, read after those from first on, lies in a unit of the page's or the codeword's size with the block before it. -/
def joined (n : Namespace) (first lba : Nat) (loc : FLoc) (unit : Nat) : Bool :=
  decide (first < lba) && (lba - 1) * n.lba / unit == lba * n.lba / unit &&
    (match tabFind n.store (lba - 1) with
     | some (.data _ _ l _) => l == loc
     | _ => false)

/-- A logical block is read where it lies on a die; blocks that share a page or a codeword share its read. grade: how its codeword
decodes: 0 by hard decision, 1 with retry or soft decode, 2 not at all. -/
def noteBlockRead (s : Block) (n : Namespace) (first lba : Nat) (loc : FLoc) (grade : Nat) : Block :=
  match locDie loc with
  | none => s
  | some d =>
    let pages := boolNat (!joined n first lba loc flashPage)
    let words := boolNat (!joined n first lba loc grainBytes)
    noteDisturb (noteDieRead s d pages (if grade = 0 then words else 0) (if grade = 1 then words else 0) (if 2 ≤ grade then words else 0)) loc pages

/-- The page of a stored block: its place, and which half of its indirection unit in a band. -/
def flashPageOf (n : Namespace) (lba : Nat) (loc : FLoc) : FLoc × Nat :=
  match loc with
  | .band _ _ => (loc, lba * n.lba % iuBytes / flashPage)
  | _ => (loc, 0)

/-- Where a page is reconstructed from, but for the other members: the die on which the parity of a band's page lies, in one of the 16
plane-blocks that hold it; a free choice (R386). A stripe's parity lies on a member. -/
def parityOf : FLoc × Nat → List Nat
  | (.band b iu, h) => [(Config.parityDie b ((iu % blockIus * 2 + h) / 1024)).val]
  | _ => []

/-- A page is reconstructed from the same page of every other member and the parity; it is queued for relocation (R390). -/
def noteMend (s : Block) (q : FLoc × Nat) : Block :=
  let s := (locMates s q.1 ++ parityOf q).foldl (fun s d => noteDieRead s d 1 4 0 0) s
  let s := lifeBump (bump s pgMed 9 1) lifeReconstructed 1
  if s.med.queued.contains q then s else updMed s (fun m => { m with queued := m.queued ++ [q] })

/-- The blocks that a namespace holds of an indirection unit. -/
def iuHeld (n : Namespace) (iu : Nat) : List Blk := (List.range (iuBlocks n)).filterMap (fun i => tabFind n.store (iu * iuBlocks n + i))

/-- The map's entry of an indirection unit, 32 bits (R376): the physical address of its copy in a band, ZEROED, or DEALLOCATED. Data in the
gather region and in the buffer is not named by it. -/
def mapEntry (n : Namespace) (iu : Nat) : Nat :=
  match (iuHeld n iu).findSome? (fun b => match b with
    | .data _ _ (.band _ e) _ => some e
    | .zeroed => some 0xFFFFFFFE
    | _ => none) with
  | some e => e
  | none => 0xFFFFFFFF

/-- Whether a block's unit is DEALLOCATED: its entry says so, and neither the gather region nor the buffer holds a block of it. -/
def iuDealloc (n : Namespace) (lba : Nat) : Bool :=
  mapEntry n (lba / iuBlocks n) == 0xFFFFFFFF && (iuHeld n (lba / iuBlocks n)).isEmpty

/-- The read of one logical block, in a read of blocks from first on. grade: how its codeword decodes. A codeword that no stage corrects,
and a page that its channel's fence cuts off, are reconstructed while parity covers them and the other members can be read (R390, R391,
R395). -/
def readBlk (s : Block) (nsid first lba grade : Nat) : Block × BlkRead :=
  match getNs s nsid with
  | none => (s, .lost false)
  | some n =>
    match tabFind n.store lba with
    | none => (s, .zeros (zeroBytes n.lba) (List.replicate n.mdBytes 0xFF) (iuDealloc n lba))
    | some .zeroed =>
      let z := zeroBytes n.lba
      (s, .zeros z (if n.prot = 0 then zeroBytes n.mdBytes else piMake n z (zeroBytes n.mdBytes) 0 (refOf n lba)) false)
    | some .lost => (s, .lost false)
    | some (.data d m loc _) =>
      let out := match piCheck n lba d m with
        | 0 => BlkRead.ok d m
        | code => .pi code
      match locDie loc with
      | none => (s, out)
      | some die =>
        let served (s : Block) : Block × BlkRead := (bump s pgMed 4 n.lba, out)
        if dieCut s die then
          if mendable s loc then served (if joined n first lba loc flashPage then s else noteMend s (flashPageOf n lba loc)) else (s, .waits)
        else
          let s := noteBlockRead s n first lba loc grade
          if grade ≤ 1 then served s
          else if mendable s loc then served (if joined n first lba loc grainBytes then s else noteMend s (flashPageOf n lba loc))
          else if beyondMend s loc then (s, .lost true)
          else (s, .waits)

/-- Marks blocks unrecoverable and lists them (R393, R470). -/
def loseBlocks (s : Block) (cause nsid slba nlb : Nat) : Block :=
  let s := updNs s nsid (fun n => { n with store := (List.range nlb).foldl (fun t i => tabSet t (slba + i) Blk.lost) n.store })
  lostAdd s cause nsid slba nlb

/-- Makes a deferred error record; the blocks become unrecoverable. Records stay until they have been reported, and the latest 256 for their
log (R446, R447). -/
def deferError (s : Block) (nsid slba nlb : Nat) : Block :=
  let s := loseBlocks s 2 nsid slba nlb
  let s := updMed s (fun m => { m with
    deferred := (m.deferred.zipIdx.filter (fun e => !e.1.reported || decide (m.deferred.length < e.2 + 256))).map (·.1) ++
      [⟨m.nextRecord, nsid, slba, nlb, s.now, false⟩]
    nextRecord := m.nextRecord + 1 })
  let s := raiseIrq (lifeBump s lifeDeferredRecords 1) pgMed 18
  let s := (List.range 4).foldl (fun s p => postEvent s p ⟨7, 3, 0xC3⟩) s
  wakeCause s 4 0 (s.med.nextRecord - 1)

/-- A read finds a block unrecoverable: a deferred error if its data lay in a gather stripe (R393, R394). -/
def loseRead (s : Block) (nsid lba : Nat) : Block :=
  match (getNs s nsid).bind (fun n => tabFind n.store lba) with
  | some (.data _ _ (.gather _ _) _) => deferError s nsid lba 1
  | _ => loseBlocks s 1 nsid lba 1

/-- Whether a read of a range of blocks would wait for a fenced channel: some of them lie on it and cannot be reconstructed (R395). -/
def mediaWaits (s : Block) (nsid slba nlb : Nat) : Bool :=
  match getNs s nsid with
  | none => false
  | some n => (List.range nlb).any (fun i => match tabFind n.store (slba + i) with
    | some (.data _ _ loc _) => (match locDie loc with
      | some d => dieCut s d && !mendable s loc
      | none => false)
    | _ => false)

/-- Reads n logical blocks for the module's own use: their data, or the offset of the first that cannot be had; bad lists the
blocks whose codewords no stage corrects. Newly lost blocks, and blocks whose stored fields fail, are listed as lost. -/
def readData (s : Block) (nsid slba : Nat) (bad : List Nat) : Nat → Block × (List Byte ⊕ Nat)
  | 0 => (s, .inl [])
  | k + 1 =>
    let r := readBlk s nsid slba (slba + k) (if bad.contains (slba + k) then 2 else 0)
    let rest := readData r.1 nsid slba bad k
    match rest.2 with
    | .inr i => (rest.1, .inr i)
    | .inl l =>
      match r.2 with
      | .ok d _ => (rest.1, .inl (l ++ d))
      | .zeros d _ _ => (rest.1, .inl (l ++ d))
      | .lost true => (loseRead rest.1 nsid (slba + k), .inr k)
      | .lost false => (rest.1, .inr k)
      | .pi _ => (listFailed rest.1 nsid (slba + k), .inr k)
      | .waits => (rest.1, .inr k)

/-! Writing (R377, R379, R381). -/

/-- Puts the blocks of a write into the protected write buffer and the map, all of them in one step (R27; log entry 151). -/
def putBlocks (s : Block) (nsid slba : Nat) (l : List (List Byte × List Byte)) : Block :=
  let q := s.med.seq
  let s := updNs s nsid (fun n => { n with store := (l.zipIdx).foldl (fun t e =>
    tabSet t (slba + e.2) (.data e.1.1 e.1.2 .buffer q)) n.store })
  lostDrop (updMed s (fun m => { m with seq := m.seq + 1 })) nsid slba l.length

/-- Whether writes complete from the buffer: the hold-up is proven and nothing asks for write-through (R381, R411, R415, R664). -/
def writeThrough (s : Block) : Bool := !s.med.holdupOk || natBit (getPage s pgMed).ctl.toNat 0 || s.med.bankHot

/-- Whether any of a range of blocks is still in the buffer. -/
def buffered (s : Block) (nsid slba nlb : Nat) : Bool :=
  match getNs s nsid with
  | none => false
  | some n => (List.range nlb).any (fun i => match tabFind n.store (slba + i) with
    | some (.data _ _ .buffer _) => true
    | _ => false)

/-- Data that a program writes, as blocks with generated metadata (R407). -/
def programBlocks (n : Namespace) (slba : Nat) (b : List Byte) : List (List Byte × List Byte) :=
  (List.range (b.length / max 1 n.lba)).map (fun i =>
    let d := bytesAt b (i * n.lba) n.lba
    (d, if n.prot = 0 then zeroBytes n.mdBytes else piMake n d (zeroBytes n.mdBytes) 0 (refOf n (slba + i))))

/-! Deallocation (R402, R405). -/

/-- Units that a range touches. -/
def touchedUnits (n : Namespace) (slba nlb : Nat) : Nat :=
  let k := max 1 (iuBlocks n)
  if nlb = 0 then 0 else (slba + nlb + k - 1) / k - slba / k

/-- Deallocates the whole units of a range; the blocks of units that it covers only in part stay, and those units are counted (R402,
R416). -/
def deallocRange (s : Block) (nsid slba nlb : Nat) : Block :=
  match getNs s nsid with
  | none => s
  | some n =>
    let k := max 1 (iuBlocks n)
    let lo := roundUp slba k
    let hi := (slba + nlb) / k * k
    let whole := hi / k - lo / k
    let s := bump s pgMed 13 (touchedUnits n slba nlb - whole)
    if hi ≤ lo then s
    else
      let s := updNs s nsid (fun n => { n with store := n.store.filter (fun e => decide (e.1 < lo) || decide (hi ≤ e.1)) })
      bump (lostDrop s nsid lo (hi - lo)) pgMed 12 whole

/-- Zeroes a range: whole units become ZEROED, the other blocks are written with zeros. -/
def zeroRange (s : Block) (nsid slba nlb : Nat) (md : Nat → List Byte) : Block :=
  match getNs s nsid with
  | none => s
  | some n =>
    let k := max 1 (iuBlocks n)
    let lo := roundUp slba k
    let hi := max lo ((slba + nlb) / k * k)
    let q := s.med.seq
    let s := updNs s nsid (fun n => { n with store := (List.range nlb).foldl (fun t i =>
      let a := slba + i
      tabSet t a (if lo ≤ a ∧ a < hi then Blk.zeroed else .data (zeroBytes n.lba) (md a) .buffer q)) n.store })
    lostDrop (updMed s (fun m => { m with seq := m.seq + 1 })) nsid slba nlb

end Sys2Proof.Machine
end

