-- ==== Sys2Proof/Machine/CheckUnit.lean ====
section
/-! DEFINITION. CheckUnit: the check-value units (R545 to R553, R573 to R576): commands, sized writes, scans. -/
namespace Sys2Proof.Machine

/-- The 64-bit value of a stored pair. -/
def pairValue (s : Block) (p off : Nat) : Nat := (getRegD s p off 0).toNat + (getRegD s p (off + 4) 0).toNat * 2 ^ 32

/-- A write of one word of a stored 64-bit pair: the low word waits, the high word makes both take effect. -/
def writePair (s : Block) (p base off : Nat) (w : Writer) (v : Word) : Block :=
  if off = base then putLow s p base w v
  else setReg (setReg s p base ((getLow s p base w).getD (getRegD s p base 0))) p (base + 4) v

/-! The unit. -/

def getChk (s : Block) (u : Nat) : ChkUnit := tabGet {} s.chks u
def updChk (s : Block) (u : Nat) (f : ChkUnit → ChkUnit) : Block := { s with chks := tabSet s.chks u (f (getChk s u)) }

/-- The block-specific error codes (R575). -/
def eChkBusy : Nat := 0x80
def eNotStarted : Nat := 0x81
def eScanData : Nat := 0x82
def eScanRange : Nat := 0x83

/-- The mode that the unit's registers spell (R576). -/
def chkMode (s : Block) (u : Nat) : CrcMode :=
  let m := getRegD s (pgChk u) 0x100 0
  ⟨bvBits m 0 7, pairValue s (pgChk u) 0x108, pairValue s (pgChk u) 0x110, bvBits m 8 1 == 1, bvBits m 9 1 == 1, bvBits m 10 1 == 1⟩

/-- FOLD_BYTES and CHAIN. -/
def chkFold (s : Block) (u : Nat) : Nat := bvBits (getRegD s (pgChk u) 0x100 0) 16 4
def chkChain (s : Block) (u : Nat) : Bool := bvBits (getRegD s (pgChk u) 0x100 0) 20 1 == 1

/-- Whether START finds the mode in order (R548). -/
def chkModeOk (s : Block) (u : Nat) : Bool :=
  let m := chkMode s u
  decide (1 ≤ m.width) && decide (m.width ≤ 64) && decide (chkFold s u ≤ 8) &&
    decide (m.poly < 2 ^ m.width) && decide (m.init < 2 ^ m.width)

/-- START (R545, R548, R549): the register from INIT with the fold bytes, or from a previous result. -/
def chkStart (s : Block) (u : Nat) : Block :=
  let old := getChk s u
  let m := chkMode s u
  let fold := leBytes (chkFold s u) (pairValue s (pgChk u) 0x118)
  let s := if old.st = 1 ∧ 0 < old.count then bump s (pgChk u) 3 1 else s
  let s := if chkChain s u then s else bump s (pgChk u) 2 (chkFold s u)
  let r := if chkChain s u then crcUnwind m m.init else crcBytes m m.init fold
  dropLows (updChk s u (fun _ => { st := 1, mode := m, crc := r })) (pgChk u) 0x140 0x144

/-- Bytes are taken in. -/
def chkTake (s : Block) (u : Nat) (b : List Byte) : Block :=
  bump (updChk s u (fun c => { c with crc := crcBytes c.mode c.crc b, count := c.count + b.length })) (pgChk u) 2 b.length

/-- CHK_CRC_RESULT (R553). -/
def chkResult (s : Block) (u : Nat) : Nat := let c := getChk s u; crcFinish c.mode c.crc

/-! Scans (R551 to R553). -/

/-- The scan that the scan registers name. -/
def chkScanOf (s : Block) (u : Nat) : ChkScan :=
  let p := pgChk u
  { kind := bvBits (getRegD s p 0x148 0) 28 4, port := ownerMaster (getPage s p) - 1, id := (getRegD s p 0x14C 0).toNat,
    start := pairValue s p 0x150, len := pairValue s p 0x158 }

/-- The staging page that a byte of a staging scan lies in, and its offset there. -/
def scanPlace (s : Block) (c : ChkScan) (i : Nat) : Option (Nat × Nat) :=
  let a := c.start + i
  (tabFind (getCtl s c.port).staging (c.id + a / pageBytes)).map (fun g => (g, a % pageBytes))

/-- The staging indexes that a scan reads. -/
def scanIndexes (c : ChkScan) : List Nat :=
  let lo := c.start / pageBytes
  (List.range ((c.start + c.len - 1) / pageBytes - lo + 1)).map (fun j => c.id + lo + j)

/-- Whether a scan may begin: its source is there, is permitted to the owner, and holds the range (R552). -/
def scanOk (s : Block) (u : Nat) : Bool :=
  let c := chkScanOf s u
  let m := masterOfCode (ownerMaster (getPage s (pgChk u)))
  let host := (m.bind portOfMaster).isSome
  if c.kind = 1 then
    host && decide (1 ≤ c.len) && decide (c.len ≤ 2 ^ 40) &&
      (scanIndexes c).all (fun i => (tabFind (getCtl s c.port).staging i).isSome)
  else if c.kind = 2 then
    match getNs s c.id with
    | none => false
    | some n =>
      (if host then (getCtl s c.port).attached.contains c.id else m == some .mm || m == some .none) &&
        decide (1 ≤ c.len) && decide (c.len % max 1 n.lba = 0) && decide (c.start + c.len / max 1 n.lba ≤ n.blocks)
  else false

/-- Bytes of a staging page from an offset, up to the first line that is uncorrectable; whether one was met. -/
def scanStage (s : Block) (a n : Nat) : Block × List Byte × Bool :=
  let ls := linesOf a n
  match ls.find? (fun l => decodeLine s l == .uncorrectable) with
  | none =>
    let r := dmReadLines s ls ⟨8, none⟩
    (r.1, memBytes 0 r.1.dm a n, false)
  | some l =>
    let r := dmReadLines s (ls.filter (fun x => decide (x ≤ l))) ⟨8, none⟩
    (r.1, memBytes 0 r.1.dm a (l * 64 - a), true)

/-- Bytes of a staging scan from position i: page by page. -/
def scanStages (s : Block) (c : ChkScan) (i n : Nat) : Nat → Block × List Byte × Bool
  | 0 => (s, [], false)
  | fuel + 1 =>
    if n = 0 then (s, [], false)
    else
      match scanPlace s c i with
      | none => (s, [], true)
      | some (g, o) =>
        let k := min n (pageBytes - o)
        let r := scanStage s (g * pageBytes + o) k
        if r.2.2 then r
        else
          let t := scanStages r.1 c (i + k) (n - k) fuel
          (t.1, r.2.1 ++ t.2.1, t.2.2)

/-- Data of logical blocks up to the first that cannot be read; whether one was met. bad lists the blocks that no stage corrects. -/
def scanBlocks (s : Block) (nsid first lba : Nat) (bad : List Nat) : Nat → Block × List Byte × Bool
  | 0 => (s, [], false)
  | n + 1 =>
    let r := readBlk s nsid first lba (if bad.contains lba then 2 else 0)
    let more (d : List Byte) : Block × List Byte × Bool :=
      let t := scanBlocks r.1 nsid first (lba + 1) bad n
      (t.1, d ++ t.2.1, t.2.2)
    match r.2 with
    | .ok d _ => more d
    | .zeros d _ _ => more d
    | .lost true => (loseRead r.1 nsid lba, [], true)
    | .lost false => (r.1, [], true)
    | .pi _ => (listFailed r.1 nsid lba, [], true)
    | .waits => (r.1, [], true)

/-- Bytes of a scan from position i. -/
def scanBytes (s : Block) (c : ChkScan) (i n : Nat) (bad : List Nat) : Block × List Byte × Bool :=
  if n = 0 then (s, [], false)
  else if c.kind = 1 then scanStages s c i n (n / pageBytes + 2)
  else
    match getNs s c.id with
    | none => (s, [], true)
    | some ns =>
      let b := max 1 ns.lba
      let r := scanBlocks s c.id (c.start + i / b) (c.start + i / b) bad ((i + n - 1) / b - i / b + 1)
      (r.1, (r.2.1.drop (i % b)).take n, r.2.2)

/-- A scan stops with SCAN_DATA (R552). -/
def scanFail (s : Block) (u : Nat) : Block :=
  let s := updChk s u (fun c => { c with st := 1, failed := true, scan := none })
  raiseIrq (recordError s (pgChk u) 0 eScanData 0) (pgChk u) 17

/-- A scan goes on to position i. -/
def scanTo (s : Block) (u i : Nat) (bad : List Nat) : Block :=
  match (getChk s u).scan with
  | none => s
  | some c =>
    let r := scanBytes s c c.done (min i c.len - c.done) bad
    let s := updChk (chkTake r.1 u r.2.1) u (fun x => { x with scan := some { c with done := c.done + r.2.1.length } })
    if r.2.2 then scanFail s u else s

/-- A scan has gone on by an amount that nothing fixes when it is looked at (R553, R66). -/
def scanSome (s : Block) (u : Nat) : Block :=
  match (getChk s u).scan with
  | none => s
  | some c => scanTo (drawFresh s) u (c.done + Config.scanProgress s.fresh % (c.len - c.done + 1)) []

/-- Pages of a port are released: scans that read them stop (R552). -/
def cutScans (s : Block) (p : Nat) (l : List Nat) : Block :=
  (List.range 16).foldl (fun s u =>
    match (getChk s u).scan with
    | some c =>
      if c.kind = 1 ∧ c.port = p ∧ (scanIndexes c).any (fun i => l.contains i) then
        (let s := scanSome s u
         if (getChk s u).scan.isSome then scanFail s u else s)
      else s
    | none => s) s

/-! CTL (R547, R548). -/

/-- The code that refuses the commands of a write of CTL, judged one after the other: START, SCAN, ABORT, FINISH. -/
def chkCtlBad (s : Block) (u v : Nat) : Option Nat :=
  let st := (getChk s u).st
  let start := natBit v 0
  let st1 := if start then 1 else st
  if start && st == 2 then some eChkBusy
  else if start && !chkModeOk s u then some eBadValue
  else if natBit v 1 && st1 != 1 then some eChkBusy
  else if natBit v 1 && !scanOk s u then some eScanRange
  else
    let st2 := if natBit v 1 then 2 else st1
    if natBit v 2 && st2 != 2 then some eChkBusy
    else
      let st3 := if natBit v 2 then 1 else st2
      if natBit v 3 && st3 != 1 then some eChkBusy else none

/-- The judged write of CTL. taken: the bytes that a scan has taken in by the time an ABORT stops it. -/
def writeChkCtl (s : Block) (u : Nat) (w : Writer) (value : Word) (taken : Nat) : Block :=
  let p := pgChk u
  let v := value.toNat
  guardedWrite s p 0x014 w value (ownerRight (getPage s p) w) (chkCtlBad s u v) (fun s =>
    let s := if natBit v 0 then chkStart s u else s
    let s := if natBit v 1 then updChk s u (fun c => { c with st := 2, scan := some (chkScanOf s u) }) else s
    let s :=
      if natBit v 2 then
        (let s := scanTo s u taken []
         if (getChk s u).scan.isSome then updChk s u (fun c => { c with st := 1, scan := none }) else s)
      else s
    if natBit v 3 then bump (updChk s u (fun c => { c with st := 0 })) p 3 1 else s)

/-! Block registers (R550, R574). -/

/-- The code that refuses a write of a register that only IDLE accepts, and of a sized write. -/
def chkIdleBad (s : Block) (u : Nat) : Option Nat := if (getChk s u).st = 0 then none else some eChkBusy
def chkDataBad (s : Block) (u : Nat) : Option Nat :=
  if (getChk s u).st = 1 then none else if (getChk s u).st = 0 then some eNotStarted else some eChkBusy

/-- The bytes that a write of a data register takes in. -/
def chkDataBytes (s : Block) (u off : Nat) (w : Writer) (v : Word) : List Byte :=
  if off = 0x130 then leBytes 1 v.toNat
  else if off = 0x134 then leBytes 2 v.toNat
  else if off = 0x138 then leBytes 4 v.toNat
  else leBytes 4 ((getLow s (pgChk u) 0x140 w).getD 0).toNat ++ leBytes 4 v.toNat

/-- The judged write of a register of the unit; none for an offset that is not one of them. -/
def writeChkReg (s : Block) (u off : Nat) (w : Writer) (v : Word) : Option Block :=
  let p := pgChk u
  let right := ownerRight (getPage s p) w
  let idleWrite (f : Block → Block) : Option Block := some (plainWrite s p off w right (chkIdleBad s u) f)
  let pair (base : Nat) : Option Block := idleWrite (fun s => writePair s p base off w v)
  if off = 0x100 then idleWrite (fun s => setReg s p off (v &&& 0x001F077F))
  else if off = 0x108 ∨ off = 0x10C then pair 0x108
  else if off = 0x110 ∨ off = 0x114 then pair 0x110
  else if off = 0x118 ∨ off = 0x11C then pair 0x118
  else if off = 0x148 then idleWrite (fun s => setReg s p off (v &&& 0xF0000000))
  else if off = 0x14C then idleWrite (fun s => setReg s p off v)
  else if off = 0x150 ∨ off = 0x154 then pair 0x150
  else if off = 0x158 ∨ off = 0x15C then pair 0x158
  else if off = 0x130 ∨ off = 0x134 ∨ off = 0x138 ∨ off = 0x144 then
    some (plainWrite s p off w right (chkDataBad s u) (fun s => chkTake s u (chkDataBytes s u off w v)))
  else if off = 0x140 then some (plainWrite s p off w right (chkDataBad s u) (fun s => putLow s p 0x140 w v))
  else none

/-- A sized write enters the control space. -/
def chkData (s : Block) (u off : Nat) (w : Writer) (v : Word) : Block :=
  enterWrite s (pgChk u) w off v (fun _ _ s => (writeChkReg s u off w v).getD s)

/-- A command in CTL enters the control space. -/
def chkCommand (s : Block) (u : Nat) (w : Writer) (guard : Byte) (bits taken : Nat) : Block :=
  let value := BitVec.ofNat 32 (guard.toNat * 2 ^ 24 + bits)
  enterWrite s (pgChk u) w 0x014 value (fun _ _ s => writeChkCtl s u w value taken)

/-- STATUS.BLOCK of a check-value page (R575). -/
def chkStatus (s : Block) (u : Nat) : Nat :=
  let c := getChk s u
  c.st * 2 ^ 16 + boolNat c.failed * 2 ^ 18 + boolNat (decide (u < 8) && (dmMark s u).isSome) * 2 ^ 19

/-- The page's computed registers (R574); none for a stored one. -/
def chkValue (s : Block) (u off : Nat) : Option Word :=
  if off = 0x120 then some (BitVec.ofNat 32 (chkResult s u))
  else if off = 0x124 then some (BitVec.ofNat 32 (chkResult s u / 2 ^ 32))
  else if off = 0x128 then some (BitVec.ofNat 32 (getChk s u).count)
  else if off = 0x12C then some (BitVec.ofNat 32 ((getChk s u).count / 2 ^ 32))
  else none

/-! The commands. -/

/-- CHK_START (R548): with scan, a SCAN in the same write. -/
def doChkStart (w : Writer) (u : ChkNo) (guard : Byte) (scan : Bool) (s : Block) : Block :=
  chkCommand s u w guard (1 + 2 * boolNat scan) 0
/-- CHK_SCAN (R551). -/
def doChkScan (w : Writer) (u : ChkNo) (guard : Byte) (s : Block) : Block := chkCommand s u w guard 2 0
/-- CHK_ABORT (R553): taken is how many bytes the scan has taken in when it stops. -/
def doChkAbort (w : Writer) (u : ChkNo) (guard : Byte) (taken : Nat) (s : Block) : Block := chkCommand s u w guard 4 taken
/-- CHK_FINISH (R553). -/
def doChkFinish (w : Writer) (u : ChkNo) (guard : Byte) (s : Block) : Block := chkCommand s u w guard 8 0

/-- CHK_DATA8 (R550). -/
def doChkData8 (w : Writer) (u : ChkNo) (value : Word) (s : Block) : Block := chkData s u 0x130 w value
/-- CHK_DATA16 (R550). -/
def doChkData16 (w : Writer) (u : ChkNo) (value : Word) (s : Block) : Block := chkData s u 0x134 w value
/-- CHK_DATA32 (R550). -/
def doChkData32 (w : Writer) (u : ChkNo) (value : Word) (s : Block) : Block := chkData s u 0x138 w value
/-- CHK_DATA64 (R550): an 8-byte write, or the high word alone. -/
def doChkData64 (w : Writer) (u : ChkNo) (lo : Option Word) (hi : Word) (s : Block) : Block :=
  let s := match lo with
    | some v => chkData s u 0x140 w v
    | none => s
  chkData s u 0x144 w hi

/-- CHK_SCAN_DONE (R553): the scan has taken in every byte. A scan that would wait for a fenced channel waits. -/
def doChkScanDone (u : ChkNo) (s : Block) : Block :=
  match (getChk s u).scan with
  | none => s
  | some c =>
    if c.kind = 2 ∧ mediaWaits s c.id c.start (c.len / max 1 (((getNs s c.id).map (·.lba)).getD 1)) then s
    else
      let s := scanTo s u c.len []
      if (getChk s u).scan.isSome then raiseIrq (updChk s u (fun c => { c with st := 1, scan := none })) (pgChk u) 16 else s

/-- CHK_SCAN_FAILURE (R552): the scan comes to a byte that cannot be read; bad lists the blocks that no stage corrects. -/
def doChkScanFailure (u : ChkNo) (bad : List Nat) (s : Block) : Block :=
  match (getChk s u).scan with
  | none => s
  | some c =>
    let t := scanTo s u c.len bad
    if (getChk t u).scan.isSome then s else t

end Sys2Proof.Machine
end

