-- ==== Sys2Proof/Machine/Special.lean ====
section
/-! DEFINITION. Special: the instructions of major 0x01 (R189): NOP, END and its end, TRAP, the special registers (R171, R172),
PROG (R201), QCAP (R204, R205). -/
namespace Sys2Proof.Machine

/-- KIND of PROG by the detached instruction (R201). -/
def progKind : LongKind → Nat
  | .amul => 1
  | .range => 2
  | .qconv => 2
  | .dqconv => 2
  | .tpack => 2
  | .selt => 3
  | .topk => 3
  | .pqload => 4
  | .pqscan => 4
  | .chkv => 5

/-- PROG: 0 while no long instruction is detached, which it is from its issue point (R201; log entry 157). -/
def progValue (k : Core) : DWord :=
  match k.det with
  | none => 0
  | some l => BitVec.ofNat 64 (2 ^ 63 + progKind l.kind * 2 ^ 60 + l.pass % 2 ^ 16 * 2 ^ 40 + l.unit % 2 ^ 40)

/-- A special register's value (R171); none for a number that is not in the table. -/
def specialRead (s : Block) (c n : Nat) : Option DWord :=
  let k := getCore s c
  let x := ctxOf s k
  match n with
  | 0x000 => some (BitVec.ofNat 64 (rankOf k))
  | 0x001 => some (BitVec.ofNat 64 x.ncores)
  | 0x002 => some (BitVec.ofNat 64 (ctxNoOf k))
  | 0x003 => some (if x.cls = .lc then 0 else 1)
  | 0x004 => some (BitVec.ofNat 64 x.image.level)
  | 0x008 => some (progValue k)
  | 0x009 => some (k.fstat.zeroExtend 64)
  | 0x00A => some k.steps
  | 0x00B => some (BitVec.ofNat 64 s.now)
  | 0x010 => some (getLC k 0)
  | 0x011 => some (getLC k 1)
  | 0x012 => some (getLC k 2)
  | 0x013 => some (getLC k 3)
  | 0x018 => if x.image.level = 1 then none else some k.mirage
  | _ => none

/-- The reserved bits of MIRAGE read zero (R326). -/
def mirageMask : DWord := 0xF000FFFFFFFFFFFF

/-- A write of a special register: none where the number is reserved or read only (R171). -/
def specialWrite (s : Block) (c n : Nat) (v : DWord) : Option Core :=
  let k := getCore s c
  match n with
  | 0x009 => some { k with fstat := v.truncate 16 &&& fstatMask }
  | 0x010 => some (setLC k 0 v)
  | 0x011 => some (setLC k 1 v)
  | 0x012 => some (setLC k 2 v)
  | 0x013 => some (setLC k 3 v)
  | 0x018 => if levelOf s k = 1 then none else some { k with mirage := v &&& mirageMask }
  | _ => none

/-- NOP: every field zero. -/
def doNop (c : CoreNo) (x : SY) (s : Block) : Block :=
  issueShort s c 4 (mustZero (x.sd.val == 0 && x.sa.val == 0 && x.imm11 == 0)) [] [] (onCore c (fun k => k))

/-- TRAP: class TRAP with imm11 (R203). -/
def doTrap (c : CoreNo) (x : SY) (s : Block) : Block :=
  issueShort s c 4 (mustZero (x.sd.val == 0 && x.sa.val == 0)) [] [] (fun _ => .fault 0x0C x.imm11.toNat)

/-- MFS: a number that is not in the table is ILLEGAL kind 5. -/
def doMfs (c : CoreNo) (x : SY) (s : Block) : Block :=
  let v := specialRead s c x.imm11.toNat
  issueShort s c 4 (mustZero (x.sa.val == 0) ++ (if v.isNone then [5] else [])) [x.sd.val] []
    (fun s => .done (updCore s c (fun k => setS k x.sd.val ((specialRead s c x.imm11.toNat).getD 0))))

/-- MTS: a reserved number or a read-only register is ILLEGAL kind 5. -/
def doMts (c : CoreNo) (x : SY) (s : Block) : Block :=
  issueShort s c 4 (mustZero (x.sd.val == 0) ++ (if (specialWrite s c x.imm11.toNat 0).isNone then [5] else [])) [x.sa.val] []
    (fun s => .done (updCore s c (fun k => (specialWrite s c x.imm11.toNat (getS k x.sa.val)).getD k)))

/-- The items of QCAP (R204, R205). -/
def qcapItem (s : Block) (c n : Nat) : Nat :=
  let k := getCore s c
  let x := ctxOf s k
  match n with
  | 0x000 => 0x01D
  | 0x001 => x.image.level
  | 0x002 => 0x8424
  | 0x003 => x.ncores
  | 0x004 => 64
  | 0x005 => 64
  | 0x006 => 64
  | 0x007 => 2
  | 0x008 => 7
  | 0x009 => 1048576
  | 0x00A => 64
  | 0x00B => 8
  | 0x00C => 1048576
  | 0x00D => (slicesHeld s (cluOfCore c) (ctxNoOf k)).length
  | 0x00E => 32
  | 0x00F => 64
  | 0x010 => 4
  | 0x011 => 8
  | 0x012 => 64
  | 0x013 => 4096
  | 0x014 => 32768
  | 0x015 => 65536
  | 0x016 => 16777216
  | 0x017 => 16
  | 0x018 => 1
  | 0x019 => 512
  | 0x01A => 128
  | 0x01B => 65536
  | 0x01C => x.image.devBytes
  | _ => 0

/-- QCAP: item S[sa] + imm11. -/
def doQcap (c : CoreNo) (x : SY) (s : Block) : Block :=
  issueShort s c 4 [] [x.sd.val, x.sa.val] [] (fun s =>
    .done (updCore s c (fun k => setS k x.sd.val (BitVec.ofNat 64
      (qcapItem s c (getS k x.sa.val + x.imm11.zeroExtend 64).toNat)))))

/-! END (R189, R224). -/

/-- Everything that the core has issued has completed: loads, the detached instruction, posted instructions. -/
def allDone (k : Core) : Bool := k.loads.isEmpty && k.det.isNone && k.drains.isEmpty && k.posted.isEmpty

/-- The lowest-numbered completion set among those given that holds a failure word, and the word (R223, R224). -/
def failedSet (k : Core) (sets : List Nat) : Option (Nat × Word) :=
  (sets.find? (fun i => (getSet k i).word ≠ 0)).map (fun i => (i, (getSet k i).word))

/-- The end of a core's program: it faults with the lowest failing set's word, or stops for good, which its run notes. -/
def finishEnd (s : Block) (c : Nat) : Block :=
  let k := getCore s c
  match failedSet k (List.range 8) with
  | some (_, w) =>
    faultCore (setCore s c { k with endWait := false }) c (bvBits w 24 8) (bvBits w 0 24) k.pc
  | none =>
    let s := setCore s c { k with endWait := false, ended := true, run := .idle }
    updCtx s (ctxNoOf k) (fun x => { x with
      run := x.run.map (fun r => { r with endedRanks := r.endedRanks ++ [rankOf k] }) })

/-- END: every field zero. It waits for what the core has issued; the core's pc stays at END (END_DONE ends the wait). -/
def doEnd (c : CoreNo) (x : SY) (s : Block) : Block :=
  issueShort s c 4 (mustZero (x.sd.val == 0 && x.sa.val == 0 && x.imm11 == 0)) [] [] (fun s =>
    let k := getCore s c
    if allDone k then .stay (finishEnd s c) else .stay (setCore s c { k with endWait := true }))

/-- END_DONE (R224): the work that END waited for has finished. -/
def doEndDone (c : CoreNo) (s : Block) : Block :=
  let k := getCore s c
  if k.endWait && allDone k && k.stop.isNone && k.run == .running then finishEnd s c else s

end Sys2Proof.Machine
end

