-- ==== Sys2Proof/Machine/Tensor.lean ====
section
/-! DEFINITION. Tensor: tensor descriptors (R211 to R213), number formats (R141), element access, the decode checks that
concern descriptors (R217, R218), the extents of long and posted instructions and residency (R309, R222). -/
namespace Sys2Proof.Machine

/-! Format codes (R141). -/

def fmtWint (f : Nat) : Bool := decide (1 ≤ f) && decide (f ≤ 8)
def fmtAct (f : Nat) : Bool := f == 0x10 || f == 0x11 || f == 0x12 || f == 0x18 || f == 0x19 || f == 0x1A
def fmtFp (f : Nat) : Bool := f == 0x20 || f == 0x21 || f == 0x22
def fmtInt (f : Nat) : Bool := fmtWint f || fmtAct f
/-- A code of the table; E8, SINT16 and UINT16 are reserved at level 1 (R207). -/
def fmtKnown (level f : Nat) : Bool :=
  if level = 1 ∧ (f = 0x23 ∨ f = 0x12 ∨ f = 0x1A) then false
  else fmtWint f || fmtAct f || fmtFp f || f == 0x23 || f == 0x30 || f == 0x31
/-- The container width in bits. -/
def fmtContainer (f : Nat) : Nat :=
  if f ≤ 4 then 4 else if f ≤ 8 then 8
  else if f = 0x10 ∨ f = 0x18 then 4 else if f = 0x11 ∨ f = 0x19 then 8 else if f = 0x12 ∨ f = 0x1A then 16
  else if f = 0x20 ∨ f = 0x31 then 32 else if f = 0x21 ∨ f = 0x22 ∨ f = 0x30 then 16 else 8
/-- The width e of an integer code. -/
def fmtWidth (f : Nat) : Nat := if f ≤ 8 then f else fmtContainer f
/-- Whether the codes are signed. -/
def fmtSigned (f : Nat) : Bool := !(f == 0x18 || f == 0x19 || f == 0x1A)
/-- The limits lo and hi of an integer format for conversions (R141, R154). -/
def fmtLo (f : Nat) : Int :=
  if fmtWint f then (if f = 1 then -1 else -((2 ^ (f - 1) - 1 : Nat) : Int))
  else if fmtSigned f then -((2 ^ (fmtWidth f - 1) : Nat) : Int) else 0
def fmtHi (f : Nat) : Int :=
  if fmtWint f then ((2 ^ (f - 1) - 1 : Nat) : Int)
  else if fmtSigned f then ((2 ^ (fmtWidth f - 1) - 1 : Nat) : Int) else ((2 ^ fmtWidth f - 1 : Nat) : Int)
/-- The FP format of a code. -/
def fmtFF (f : Nat) : FFmt := if f = 0x21 then .bf16 else if f = 0x22 then .fp16 else .fp32
/-- The value of a stored code of an integer format: WINTe takes its low e bits (R141). -/
def fmtValue (f v : Nat) : Int := if fmtSigned f then signedOf (fmtWidth f) v else (v : Int)

/-! Descriptors (R211, R212). -/

structure Desc where
  addr : Nat
  fmt : Nat
  kind : Nat
  flags : Nat
  d0 : Nat
  d1 : Nat
  d2 : Nat
  s1 : Nat
  s2 : Nat
  rsv : Nat
  deriving DecidableEq, Repr

/-- The fields of a descriptor, word 0 lowest. -/
def descOf (v : BitVec 256) : Desc :=
  ⟨bvBits v 0 48, bvBits v 48 8, bvBits v 56 4, bvBits v 60 4, bvBits v 64 32, bvBits v 96 32, bvBits v 128 32,
   bvBits v 160 32, bvBits v 192 48, bvBits v 240 16⟩

def kDense : Nat := 0
def kTiled : Nat := 1
def kList : Nat := 2
def kScales : Nat := 3

/-- PAIRS of a LIST. -/
def dPairs (d : Desc) : Bool := natBit d.flags 0
/-- ZP, APG and the group size of a SCALES descriptor (R226). -/
def dZp (d : Desc) : Bool := natBit d.flags 0
def dApg (d : Desc) : Bool := natBit d.flags 1
def dG (d : Desc) : Nat := d.flags / 4
/-- The group size of a code 0 to 2. -/
def groupSize (g : Nat) : Nat := if g = 0 then 32 else if g = 1 then 64 else 128
/-- Row bytes of a DENSE tensor. -/
def rowBytes (d : Desc) : Nat := (d.d0 * fmtContainer d.fmt + 7) / 8
/-- Length in bytes of the extent. -/
def extentLen (d : Desc) : Nat :=
  if d.kind = kDense then (d.d2 - 1) * d.s2 + (d.d1 - 1) * d.s1 + rowBytes d
  else if d.kind = kList then 32 + d.d0 * (if dPairs d then 8 else 4)
  else d.s1
/-- The extent [lo, hi). -/
def extent (d : Desc) : Nat × Nat := (d.addr, d.addr + extentLen d)
/-- The number of elements. -/
def elemCount (d : Desc) : Nat := d.d0 * d.d1 * d.d2

/-- The bit address, relative to the tensor's first byte, of the element of a linear index of a DENSE tensor. -/
def elemBit (d : Desc) (i : Nat) : Nat :=
  let i0 := i % d.d0
  let i1 := i / d.d0 % d.d1
  let i2 := i / d.d0 / d.d1
  8 * (i2 * d.s2 + i1 * d.s1) + i0 * fmtContainer d.fmt

/-- The stored element of a linear index, as a number, in the local store of core c. -/
def readElem (s : Block) (c : Nat) (d : Desc) (i : Nat) : Nat :=
  let b := elemBit d i
  let a := d.addr + b / 8
  let w := fmtContainer d.fmt
  if w = 4 then (getLs s c a).toNat / 2 ^ (b % 8) % 16
  else leNat (memBytes 0 (getCore s c).ls a (w / 8))

/-- Writes bytes to the local store of core c; the words written get fresh check bits (R564). -/
def writeLsBytes (s : Block) (c a : Nat) (b : List Byte) : Block :=
  updCore (sramNoteWrite s (wordLs c 0) a b.length) c (fun k => { k with ls := memPut 0 k.ls a b })

/-- Reads and writes little-endian numbers of n bytes in the local store of core c. -/
def readLsNat (s : Block) (c a n : Nat) : Nat := leNat (memBytes 0 (getCore s c).ls a n)
def writeLsNat (s : Block) (c a n v : Nat) : Block := writeLsBytes s c a (leBytes n v)

/-- Writes an element. -/
def writeElem (s : Block) (c : Nat) (d : Desc) (i v : Nat) : Block :=
  let b := elemBit d i
  let a := d.addr + b / 8
  let w := fmtContainer d.fmt
  if w = 4 then
    let old := (getLs s c a).toNat
    writeLsNat s c a 1 (if b % 8 = 0 then old / 16 * 16 + v % 16 else old % 16 + 16 * (v % 16))
  else writeLsNat s c a (w / 8) v

/-! Decode checks of descriptors (R213, R217, R218). A check answers the class, kind, operand and low bits of the fault. -/

/-- Fault detail of R252: kind in [23:20], operand in [19:18], the rest below. -/
def detailOp (kind op rest : Nat) : Nat := kind * 2 ^ 20 + op * 2 ^ 18 + rest % 2 ^ 18

/-- A decode fault: class and DETAIL. -/
abbrev DFault := Option (Nat × Nat)

/-- The first fault of a list of checks. -/
def firstFault (l : List DFault) : DFault := l.findSome? id

/-- A check that must hold, with the fault it gives. -/
def need (b : Bool) (cls detail : Nat) : DFault := if b then none else some (cls, detail)

/-- FLAGS bits and fields that the kind fixes at zero (R213, R226); G = 3 of SCALES is reserved too. -/
def reservedOk (d : Desc) : Bool :=
  d.rsv == 0 &&
  (if d.kind = kDense then d.flags == 0
   else if d.kind = kTiled then d.flags == 0 && d.s2 == 0
   else if d.kind = kList then decide (d.flags ≤ 1) && d.s1 == 0 && d.s2 == 0
   else d.s2 == 0 && decide (dG d ≠ 3) && (dZp d || (d.d0 == 0 && d.d2 == 0)))

/-- Dimensions (R212, R213). -/
def dimsOk (d : Desc) : Bool :=
  if d.kind = kDense then decide (1 ≤ d.d0) && decide (1 ≤ d.d1) && decide (1 ≤ d.d2)
  else if d.kind = kTiled then decide (1 ≤ d.d0) && decide (1 ≤ d.d1) && d.d2 == 1
  else if d.kind = kList then d.d1 == 1 && d.d2 == 1
  else true

/-- Strides of a DENSE tensor. -/
def stridesOk (d : Desc) : Bool :=
  if d.kind = kDense then
    let w := max 1 (fmtContainer d.fmt / 8)
    (d.d1 == 1 || decide (rowBytes d ≤ d.s1)) && (d.d2 == 1 || decide ((d.d1 - 1) * d.s1 + rowBytes d ≤ d.s2)) &&
      d.s1 % w == 0 && d.s2 % w == 0
  else true

/-- Alignment of ADDR and, of SCALES, of its offsets. -/
def alignOk (d : Desc) : Bool :=
  if d.kind = kDense then d.addr % max 1 (fmtContainer d.fmt / 8) == 0
  else if d.kind = kTiled then d.addr % 512 == 0
  else if d.kind = kList then d.addr % 32 == 0
  else d.addr % 4 == 0 && d.d0 % 4 == 0 && d.d1 % 4 == 0 && d.d2 % 4 == 0

/-- The first checks of step 2 for operand op: its kind and the fields that are zero. -/
def checkKind (op : Nat) (d : Desc) (kindOk : Bool) : DFault :=
  firstFault [need (decide (d.kind ≤ 3) && kindOk) 5 (detailOp 1 op 0), need (reservedOk d) 5 (detailOp 2 op 0)]

/-- The descriptor checks of step 2 of R218 for operand op, of the kinds accepted; local: the operand of a long instruction
must lie in the local store (cls 6 for AMUL, else 5); a REMOTE destination is judged in the local store as well. -/
def checkDesc (s : Block) (c op : Nat) (d : Desc) (kindOk : Bool) (formatMatters : Bool) (isLocal : Bool) (notLocalCls : Nat) : DFault :=
  firstFault [
    checkKind op d kindOk,
    need (!formatMatters || fmtKnown (levelOf s (getCore s c)) d.fmt) 4 (detailOp 1 op d.fmt),
    need (dimsOk d) 5 (detailOp 3 op 0),
    need (stridesOk d) 5 (detailOp 4 op 0),
    need (alignOk d) 5 (detailOp 5 op 0),
    (match windowOf s c (extent d).1 (extent d).2 with
     | none => some (5, detailOp 6 op 0)
     | some w =>
       if isLocal && w != 0 then some (if notLocalCls = 6 then (6, 3 * 2 ^ 20) else (5, detailOp 7 op 0)) else none)]

/-- A format outside those the instruction accepts (R218 step 3). -/
def checkFmt (op f : Nat) (ok : Bool) : DFault := need ok 4 (detailOp 2 op f)

/-- A local-store address taken from a scalar register (R217): aligned, and all n bytes present in the local store. -/
def checkLsAddr (s : Block) (c a n align : Nat) : DFault :=
  let p := presentLocal (ctxOf s (getCore s c))
  if a % align ≠ 0 then some (2, detail20 3 a)
  else if p < a + n then some (2, detail20 2 (max a p))
  else none

/-- Overlap of a destination extent with an input extent (R217). -/
def overlapDesc (a b : Desc) : Bool := overlaps (extent a) (extent b)

/-! Extents of long and posted instructions, for waits, pins and residency. -/

/-- Whether QCONV writes weight sums for a destination (R230). -/
def wsumTarget (td : Desc) : Bool := decide (2 ≤ td.fmt) && decide (td.fmt ≤ 8)
/-- The group size of the weight sums of QCONV: that of the conversion, or a free one per tensor (log entry 16). -/
def wsumGroupSize (opt : Nat) : Nat := groupSize (if natBit opt 1 then natBits opt 2 2 else Config.wsumGroup.val)
/-- Bytes of the weight sums that QCONV writes. -/
def wsumBytes (td : Desc) (opt : Nat) : Nat :=
  2 * (td.d1 * td.d2) * ((td.d0 + wsumGroupSize opt - 1) / wsumGroupSize opt)

/-- The destination extents of a long instruction in the core's local store. -/
def longDestExtents (l : Long) : List (Nat × Nat) :=
  let td := descOf l.td
  let tb := descOf l.tb
  let tc := descOf l.tc
  match l.kind with
  | .chkv => []
  | .pqload => []
  | .range => [extent td, extent tb, (l.sa.toNat, l.sa.toNat + 32)] ++ (if natBit l.x.opt.toNat 0 then [extent tc] else [])
  | .qconv => [extent td] ++ (if natBit l.x.opt.toNat 4 && wsumTarget td then
      [(l.sa.toNat, l.sa.toNat + wsumBytes td l.x.opt.toNat)] else [])
  | _ => [extent td]

/-- The input extents of a long instruction. -/
def longSrcExtents (l : Long) : List (Nat × Nat) :=
  let ta := descOf l.ta
  let tb := descOf l.tb
  let tc := descOf l.tc
  match l.kind with
  | .amul => [extent ta, extent tb, extent tc]
  | .qconv => [extent ta, extent tb] ++ (if natBit l.x.opt.toNat 0 then [extent tc] else [])
  | .dqconv => [extent ta, extent tb] ++ (if natBit l.x.opt.toNat 0 then [extent tc] else [])
  | .chkv => [extent ta, (l.sa.toNat, l.sa.toNat + 32)]
  | _ => [extent ta]

/-- OPT[0] of a MOVE: its destination lies with another rank of the context (R234). -/
def moveRemote (x : XT) : Bool := natBit x.opt.toNat 0

/-- The destination extent of a posted instruction on its own core, in program addresses; none where it writes elsewhere. -/
def postDest (p : Posted) : List (Nat × Nat) :=
  match p.kind with
  | .mwr => []
  | .cbar => []
  | .move => if moveRemote p.x then [] else [extent (descOf p.td)]
  | .mrd => [extent (descOf p.td)]
  | _ => if p.td = 0 then [] else [extent (descOf p.td)]

/-- The source extent of a posted instruction. -/
def postSrc (p : Posted) : List (Nat × Nat) :=
  match p.kind with
  | .mrd => []
  | .cbar => []
  | .mwr => [extent (descOf p.td)]
  | _ => [extent (descOf p.ta)]

/-- The destination extent of a REMOTE move of core c in the core's own program addresses: of a destination in device memory, in a cluster
store that both cores use, or in its own store. -/
def remoteHere (s : Block) (c : Nat) (p : Posted) : List (Nat × Nat) :=
  let e := extent (descOf p.td)
  let k := getCore s c
  if p.kind != .move || !moveRemote p.x then []
  else if dmBase ≤ e.1 ∨ p.sa.toNat = rankOf k ∨
      (csBase ≤ e.1 ∧ ((ctxOf s k).run.bind (fun r => r.cores[p.sa.toNat]?)).map cluOfCore = some (cluOfCore c)) then [e]
  else []

/-- The declared tensors' copies that lie in the local store of core c. -/
def localCopies (s : Block) (c : Nat) : List Copy :=
  let k := getCore s c
  (ctxOf s k).copies.filter (fun y => !y.cluster && y.place == rankOf k)

/-- Whether an extent of core c's local store is resident (R309). -/
def residentExt (s : Block) (c : Nat) (e : Nat × Nat) : Bool :=
  let k := getCore s c
  k.posted.all (fun p => (postDest p).all (fun d => !overlaps d e)) &&
    (localCopies s c).all (fun y => y.state == .resident || !overlaps (y.lo, y.lo + y.bytes) e) &&
    -- REMOTE moves of other cores of the context into this core's local store
    s.cores.all (fun o => o.2.posted.all (fun p =>
      !(p.kind == .move && moveRemote p.x && ctxNoOf o.2 == ctxNoOf k && o.2.placed.isSome &&
        p.sa.toNat == rankOf k && overlaps (extent (descOf p.td)) e)))

/-- Whether a load or store of core c to [lo, hi) must wait (R196, R222, R311). -/
def accessWaits (s : Block) (c : Nat) (e : Nat × Nat) (isStore : Bool) : Bool :=
  let k := getCore s c
  (longs k).any (fun l => (longDestExtents l).any (fun d => overlaps d e)) ||
  k.posted.any (fun p => (postDest p ++ remoteHere s c p).any (fun d => overlaps d e) || (isStore && (postSrc p).any (fun d => overlaps d e))) ||
  (localCopies s c).any (fun y => y.state == .filling && overlaps (y.lo, y.lo + y.bytes) e) ||
  (ctxOf s k).copies.any (fun y => y.cluster && y.place == cluOfCore c && y.state == .filling &&
    overlaps (y.lo, y.lo + y.bytes) e)

/-! The descriptor instructions (R214). Unused fields must be zero (R176). -/

/-- The fields of XT that are not in the list given are zero: t the T fields used, r the scalar fields used, o the OPT bits used. -/
def xtUnused (x : XT) (td ta tb tc set sa sb sd : Bool) (optMask : Nat) : List Nat :=
  mustZero ((td || x.td.val == 0) && (ta || x.ta.val == 0) && (tb || x.tb.val == 0) && (tc || x.tc.val == 0) &&
    (set || x.set.val == 0) && (sa || x.sa.val == 0) && (sb || x.sb.val == 0) && (sd || x.sd.val == 0) &&
    (x.opt.toNat &&& (0x3FFF - optMask)) == 0)

/-- A descriptor as bytes, word 0 lowest. -/
def descBytes (v : BitVec 256) : List Byte := leBytes 32 v.toNat

def doTld (c : CoreNo) (x : XT) (s : Block) : Block :=
  issueShort s c 8 (xtUnused x true false false false false true false false 0) [x.sa.val] [] (fun s =>
    let a := (getS (getCore s c) x.sa.val).toNat
    match checkLsAddr s c a 32 32 with
    | some (cls, d) => .fault cls d
    | none =>
      if accessWaits s c (a, a + 32) false then .wait
      else .done (updCore s c (fun k => setT k x.td.val (BitVec.ofNat 256 (leNat (memBytes 0 k.ls a 32))))))

def doTst (c : CoreNo) (x : XT) (s : Block) : Block :=
  issueShort s c 8 (xtUnused x true false false false false true false false 0) [x.sa.val] [] (fun s =>
    let a := (getS (getCore s c) x.sa.val).toNat
    match checkLsAddr s c a 32 32 with
    | some (cls, d) => .fault cls d
    | none =>
      if accessWaits s c (a, a + 32) true then .wait
      else .done (writeLsBytes s c a (descBytes (getT (getCore s c) x.td.val))))

def doTmov (c : CoreNo) (x : XT) (s : Block) : Block :=
  issueShort s c 8 (xtUnused x true true false false false false false false 0) [] []
    (onCore c (fun k => setT k x.td.val (getT k x.ta.val)))

def doTaddr (c : CoreNo) (x : XT) (s : Block) : Block :=
  issueShort s c 8 (xtUnused x true false false false false true false false 0) [x.sa.val] []
    (onCore c (fun k => setT k x.td.val (bvPut (getT k x.td.val) 0 48 (getS k x.sa.val).toNat)))

/-- The place and width of descriptor field f (R214). -/
def descField (f : Nat) : Nat × Nat :=
  match f with
  | 0 => (64, 32)
  | 1 => (96, 32)
  | 2 => (128, 32)
  | 3 => (160, 32)
  | 4 => (192, 48)
  | 5 => (0, 48)
  | _ => (0, 64)

/-- TSETF: f of 5 to 7 is ILLEGAL (kind 3, a reserved field value). -/
def doTsetf (c : CoreNo) (x : XT) (s : Block) : Block :=
  let f := natBits x.opt.toNat 0 3
  issueShort s c 8 (xtUnused x true false false false false true false false 7 ++ mustZero (decide (f ≤ 4))) [x.sa.val] []
    (onCore c (fun k => setT k x.td.val (bvPut (getT k x.td.val) (descField f).1 (descField f).2 (getS k x.sa.val).toNat)))

/-- TGETF: f of 7 is ILLEGAL. -/
def doTgetf (c : CoreNo) (x : XT) (s : Block) : Block :=
  let f := natBits x.opt.toNat 0 3
  issueShort s c 8 (xtUnused x false true false false false false false true 7 ++ mustZero (decide (f ≤ 6))) [x.sd.val] []
    (onCore c (fun k => setS k x.sd.val (BitVec.ofNat 64 (bvBits (getT k x.ta.val) (descField f).1 (descField f).2))))

end Sys2Proof.Machine
end

