-- ==== Sys2Proof/Machine/Long.lean ====
section
/-! DEFINITION. Long: what the long instructions have in common (R196, R197, R217, R219): decode, the wait for operands, the
admission of array work (R29, R30), timed launch (R250, R251) and the issue point (R128). -/
namespace Sys2Proof.Machine

/-! Admission (R29, R30). -/

/-- The accounted draw of an array state at NC, in units of 10 µW. -/
def arrayDraw : ArrayMode → Nat
  | .idle => 1953
  | .hold => 7324
  | .stream => 20345

/-- The supply of a die in mV and the pace of a region in steps per microsecond. -/
def supplyOf (s : Block) (die : Nat) : Nat := tabGet 700 s.supply die
def paceOf (s : Block) (rgn : Nat) : Nat := tabGet 2000 s.pace rgn

/-- Whether a unit is under test, alone or in a lehr (R635, R637). -/
def unitTested (s : Block) (p : Nat) : Bool := (getPage s p).service == .testing || (getPage s p).service == .lehr

/-- Whether a cluster or region keeps its cores powered: it is neither fenced nor retired. -/
def unitPowered (s : Block) (p : Nat) : Bool := (getPage s p).service != .fenced && (getPage s p).service != .retired

/-- Whether the array test runs on core c: on the core, or on all cores of its cluster or region (R635). -/
def coreTested (s : Block) (c : Nat) : Bool :=
  unitTested s (pgCor c) || unitTested s (pgClu (cluOfCore c)) || unitTested s (pgRgn (rgnOfCore c))

/-- Whether core number c is served, by its own core or by a stand-in, or is under test, and so accounted. -/
def coreServed (s : Block) (c : Nat) : Bool :=
  coreTested s c ||
    ((getPage s (pgCor c)).service != .fenced && (getPage s (pgCor c)).service != .retired &&
      unitPowered s (pgClu (cluOfCore c)) && unitPowered s (pgRgn (rgnOfCore c)))

/-- The array state that the test of a physical core uses. -/
def testArray (n : Nat) : ArrayMode :=
  match Config.testMode n with
  | 0 => .idle
  | 1 => .hold
  | 2 => .stream

/-- The array state that core c is accounted in: that of its running or ramping instruction, or what a test uses. -/
def accounted (s : Block) (c : Nat) : ArrayMode := if coreTested s c then testArray c else (getCore s c).array

/-- The scale of a core's draw: the square of its die's supply times its region's pace. -/
def drawScale (s : Block) (c : Nat) : Nat := supplyOf s (dieOfCore c) ^ 2 * paceOf s (rgnOfCore c)

/-- The cores that serve no number and whose arrays a test runs: the seventeenth core of each cluster under test, numbered from 12,288 on,
and the replaced cores in their lehr, from 16,384 on; each with a core number of its cluster. -/
def testedBeside (s : Block) : List (Nat × Nat) :=
  ((List.range 768).filter (fun g => unitTested s (pgClu g) || unitTested s (pgRgn (g / 16)))).map (fun g => (12288 + g, 16 * g)) ++
    s.readmits.map (fun c => (16384 + c, c))

/-- The accounted total of the module, in 10 µW × mV² × steps/µs. -/
def accountedTotal (s : Block) : Nat :=
  ((List.range 12288).filter (coreServed s)).foldl (fun t c => t + arrayDraw (accounted s c) * drawScale s c) 0 +
    sumNat ((testedBeside s).map (fun e => arrayDraw (testArray e.1) * drawScale s e.2))

/-- The stream allowance of 1,100 W in the same units. -/
def allowance : Nat := 110000000 * (700 ^ 2 * 2000)

/-- The array state that an instruction asks for. -/
def modeOf (l : Long) : ArrayMode := if natBit l.x.opt.toNat 0 then .stream else .hold

/-- Whether a core's move to a state raises the accounted total. -/
def raises (s : Block) (c : Nat) (m : ArrayMode) : Bool := decide (arrayDraw (accounted s c) < arrayDraw m)

/-- The accounted total after core c moves to a state. -/
def totalWith (s : Block) (c : Nat) (m : ArrayMode) : Nat :=
  accountedTotal s + arrayDraw m * drawScale s c - arrayDraw (accounted s c) * drawScale s c

/-- The long instruction of a core that has yet to pass an issue point: the one that waits, or a parked one (R200). -/
def toIssue (k : Core) : Option Long :=
  match k.det with
  | some l => if l.parked then some l else k.waiting
  | none => k.waiting

/-- The rank of a request: class, time, core number (R30). -/
def reqBefore (s : Block) (a b : Nat × Nat) : Bool :=
  let ca := if (ctxOf s (getCore s a.1)).cls = .lc then 0 else 1
  let cb := if (ctxOf s (getCore s b.1)).cls = .lc then 0 else 1
  decide (ca < cb) || (ca == cb && (decide (a.2 < b.2) || (a.2 == b.2 && decide (a.1 < b.1))))

/-- The cores that wait for admission, with the times of their requests. -/
def requests (s : Block) : List (Nat × Nat) :=
  s.cores.filterMap (fun e => if e.2.run == .admitWait then e.2.asked.map (fun t => (e.1, t)) else none)

/-- Whether the thermal action of R664 holds new array instructions of core c's die. -/
def admitHeld (s : Block) (c : Nat) : Bool := s.power.admitHeld.contains (dieOfCore c)

/-- Whether core c, whose request dates from t, may be admitted now: its die is not held, and its move does not raise the total, or every
request ranked before it has been admitted and the total stays within the allowance (R30). -/
def mayAdmit (s : Block) (c t : Nat) (m : ArrayMode) : Bool :=
  !admitHeld s c && (!raises s c m ||
    ((requests s).all (fun r => r.1 == c || !reqBefore s r (c, t)) && decide (totalWith s c m ≤ allowance)))

/-! Residency and the wait for it (R128, R217, R309). -/

/-- Whether the operands of a long instruction are resident: no incomplete older long instruction, posted instruction or fill
still writes them. -/
def operandsResident (s : Block) (c : Nat) (l : Long) : Bool :=
  (longSrcExtents l ++ longDestExtents l).all (fun e =>
    residentExt s c e && (longs (getCore s c)).all (fun o => o == l || (longDestExtents o).all (fun d => !overlaps d e)))

/-- A long instruction as its descriptors and scalars stand in the core. -/
def capture (k : Core) (l : Long) : Long :=
  if l.parked then l
  else { l with
    td := getT k l.x.td.val, ta := getT k l.x.ta.val, tb := getT k l.x.tb.val, tc := getT k l.x.tc.val,
    sa := getS k l.x.sa.val, sb := getS k l.x.sb.val, sd := getS k l.x.sd.val }

/-! Timed launch (R250, R251, R535). -/

/-- Counts a late launch (R535). -/
def lateLaunch (s : Block) (ctx lateness : Nat) : Block :=
  let s := bump s pgStu 7 1
  let s := setReg s pgStu 0x168 (BitVec.ofNat 32 (min lateness 0xFFFF * 2 ^ 16 + ctx % 2 ^ 15))
  raiseIrq s pgStu 19

/-- Whether the launch time has come. -/
def launchDue (s : Block) (t : Option Timed) : Bool := t.all (fun t => decide (t.time ≤ s.now))
/-- Whether a launch now would be more than 50 ns late. -/
def launchLate (s : Block) (t : Option Timed) : Bool := t.any (fun t => decide (t.time + 50 < s.now))
/-- Whether a late launch is dropped. -/
def launchDropped (s : Block) (t : Option Timed) : Bool := launchLate s t && t.any (fun t => t.drop)

/-- Counts lateness and writes the outcome to S[SD]: 1 skipped, 0 issued or accepted. -/
def launchOutcome (s : Block) (c : Nat) (t : Option Timed) : Block :=
  match t with
  | none => s
  | some t =>
    let s := if launchLate s (some t) then lateLaunch s (ctxNoOf (getCore s c)) (s.now - t.time) else s
    updCore s c (fun k => setS k t.sd (if launchDropped s (some t) then 1 else 0))

/-- Whether a long instruction reads the live list (R219). -/
def readsList (l : Long) : Bool := l.kind == .amul && natBits l.x.opt.toNat 2 2 != 0

/-- Whether nothing but admission keeps the instruction l of core c from its issue point: its operands are resident, its launch time has
come, the real work of the one before has ended, and the live list it reads is complete (R31, R128, R197, R219). -/
def atIssue (s : Block) (c : Nat) (l : Long) : Bool :=
  let k := getCore s c
  k.stop.isNone && operandsResident s c (capture k l) && launchDue s l.timed && (l.parked || k.det.all (fun d => d.ended)) &&
    (!readsList l || l.parked || !selecting k)

/-- An array instruction that could issue but for the allowance waits for admission from now on (R30, R128; COR statistic 5). -/
def askAdmission (s : Block) (c : Nat) : Block :=
  updCore (bump s (pgCor c) 5 1) c (fun k => { k with asked := some s.now, run := .admitWait })

/-- Brings the wait of core c up to date. Operands that have become resident end the wait for them; operands that have not stayed so begin
a new one; an array instruction that could issue but for the allowance seeks admission (R30, R128; COR statistics 5 to 7). -/
def refreshWait (s : Block) (c : Nat) : Block :=
  let k := getCore s c
  match toIssue k with
  | none => s
  | some l =>
    if k.run = .operandWait then
      if operandsResident s c (capture k l) then
        let s := updCore (countWait s c) c (fun k => { k with resident := true })
        if l.kind = .amul && atIssue s c l && !mayAdmit s c s.now (modeOf l) then askAdmission s c else s
      else if k.resident then setCore s c { k with resident := false, since := s.now }
      else s
    else if k.run = .admitWait && !operandsResident s c (capture k l) then
      updCore (countWait s c) c (fun k => { k with run := .operandWait, asked := none, resident := false, since := s.now })
    else s

/-- Brings the waits of every core up to date. -/
def refreshWaits (s : Block) : Block := (tabKeys s.cores).foldl refreshWait s

/-! Decode (R218). -/

/-- The decode of a long instruction: the encoding first, then the descriptors and limits in the order of R218; an instruction
that passes waits for its operands. checks: the faults of steps 2 to 4. -/
def decodeLong (s : Block) (c : Nat) (kind : LongKind) (x : XT) (kinds : List Nat) (timedOk : Bool)
    (checks : Block → DFault) : Block :=
  let k := getCore s c
  if !canIssue k || gateShut s k then s
  else
    match decodeFault s c 8 (kinds ++ (if k.timed.isSome && !timedOk then [3] else [])) with
    | some (cls, d, off) => faultCore s c cls d off
    | none =>
      let regs := [x.sa.val, x.sb.val, x.sd.val]
      if loadPending k regs [] || (longDst k).any (fun r => regs.contains r) then s
      else
        match checks s with
        | some (cls, d) => faultCore s c cls d k.pc
        | none =>
          let l : Long := { kind := kind, x := x, off := k.pc, timed := k.timed }
          refreshWait (setCore s c { k with
            waiting := some l, timed := none, run := .operandWait, asked := none, resident := false, since := s.now }) c

/-! The issue point (R128, R197). -/

/-- Whether core c's waiting or parked long instruction, an array instruction or another, can pass its issue point now, but for
admission. -/
def issueReady (s : Block) (c : Nat) (array : Bool) : Bool :=
  let k := getCore s c
  match toIssue k with
  | none => false
  | some l => (l.kind == .amul) == array && k.run == .operandWait && atIssue s c l

/-- The words of the operands' extents that are in error (R565). -/
def operandWords (s : Block) (c : Nat) (l : Long) : List Nat :=
  (s.sramErr.filter (fun e => (longSrcExtents l).any (fun x =>
    decide (wordLs c (x.1) ≤ e.1) && decide (e.1 < wordLs c (x.2 + 7))))).map (fun e => e.1 - wordLs c 0)

/-- Whether a core has faulted. -/
def hasFaulted (s : Block) (c : Nat) : Bool := (getCore s c).run == .faulted

/-- A long instruction no longer waits. -/
def waitOver (k : Core) : Core := { k with run := .running, asked := none, resident := false }

/-- The waiting instruction detaches with what it captured: the core goes on behind it, and leaves the layer instances whose END it is. A
late launch that drops it skips it. start: what the instruction does at its issue point. -/
def passIssue (s : Block) (c : Nat) (start : Block → Long → Block) : Block :=
  match toIssue (getCore s c) with
  | none => s
  | some l =>
    let s := countWait s c
    if l.parked then
      let l := { l with parked := false, pinned := true, moved := false, fed := false }
      start (updCore s c (fun k => { waitOver k with det := some l })) l
    else
      let s := launchOutcome (noteIssue s c) c l.timed
      if launchDropped s l.timed then advance (updCore s c (fun k => { waitOver k with waiting := none })) c 8
      else
        let k := getCore s c
        let l := { capture k l with list := if readsList l then k.live else [], pinned := true }
        let s := setCore s c { waitOver k with waiting := none, drains := k.drains ++ k.det.toList, det := some l }
        let r := sramRead s 1 c (operandWords s c l)
        match r.2 with
        | some w => faultCore r.1 c 0x0B (detail20 3 w) l.off
        | none =>
          let s := start (countSteps r.1 c) l
          if hasFaulted s c then s else advance s c 8

/-- The oldest incomplete long instruction of a core has completed. -/
def oldestDone (k : Core) : Core :=
  match k.drains with
  | _ :: ds => { k with drains := ds }
  | [] => { k with det := none }

/-- Writes the detached instruction back. -/
def putDet (s : Block) (c : Nat) (l : Long) : Block := updCore s c (fun k => { k with det := some l })

/-- A fault of the detached instruction of core c: FAULT_OFFSET names it. -/
def faultDet (s : Block) (c : Nat) (cls detail : Nat) : Block :=
  faultCore s c cls detail ((getCore s c).det.map (·.off) |>.getD 0)

end Sys2Proof.Machine
end

