-- ==== Sys2Proof/Machine/Array.lean ====
section
/-! DEFINITION. Array: the bit-serial array (chapters Bit-Serial Array and Number Formats): AMUL's checks (R225 to R228), the
weight tiles (R123 to R126), the exact group sums and their rescale (R149 to R152), passes and resumable points (R138, R227),
the drain and the ramp (R135, R136). -/
namespace Sys2Proof.Machine

/-! Operands of an AMUL. -/

def amulStream (x : XT) : Bool := natBit x.opt.toNat 0
def amulAcc (x : XT) : Bool := natBit x.opt.toNat 1
def amulList (x : XT) : Nat := natBits x.opt.toNat 2 2
def amulSpan (x : XT) : Nat := natBits x.opt.toNat 4 3

/-- Tiles that n inputs or outputs take. -/
def tilesOf (n : Nat) : Nat := (n + 63) / 64
/-- Groups of size g over k inputs. -/
def groupsOf (k g : Nat) : Nat := (k + g - 1) / g
/-- Bytes of the tile map of P × Q tiles. -/
def mapBytes (p q : Nat) : Nat := 8 * ((p * q + 63) / 64)

/-- The sub-arrays of a SCALES descriptor for K inputs, N outputs and V vectors (R146, R226): offset and length. -/
def scaleParts (d : Desc) (k n v : Nat) : List (Nat × Nat) :=
  let g := groupsOf k (groupSize (dG d))
  let w := if d.fmt = 0x23 then 1 else 2
  let a := if dApg d then v * g else 1
  [(0, g * n * w), (d.d1, 4 * a)] ++ (if dZp d then [(d.d0, 2 * (g * n)), (d.d2, 4 * a)] else [])

/-- Ranges of which no two share a byte. -/
def disjointParts : List (Nat × Nat) → Bool
  | [] => true
  | x :: xs => xs.all (fun y => !overlaps (x.1, x.1 + x.2) (y.1, y.1 + y.2)) && disjointParts xs

/-- The output tiles to compute, each with the tile position of its destination (R228). -/
def outTiles (l : Long) : List (Nat × Nat) :=
  let p := tilesOf (descOf l.ta).d1
  if amulList l.x = 2 then
    let u := 2 ^ amulSpan l.x
    (l.list.zipIdx).flatMap (fun e =>
      ((List.range u).map (fun i => (e.1.toNat * u + i, e.2 * u + i))).filter (fun t => decide (t.1 < p)))
  else (List.range p).map (fun i => (i, i))

/-- A pass: its output tiles, its first vector and the number of its vectors. -/
structure Pass where
  tiles : List (Nat × Nat)
  v0 : Nat
  n : Nat
  deriving DecidableEq, Repr

/-- A list cut into pieces of at most 64. -/
def blocks64 {α : Type} (fuel : Nat) (l : List α) : List (List α) :=
  match fuel with
  | 0 => []
  | f + 1 => if l.isEmpty then [] else l.take 64 :: blocks64 f (l.drop 64)

/-- The chunks of v vectors by at most n: first vector and count. -/
def vecChunks (v n : Nat) : List (Nat × Nat) :=
  (List.range ((v + n - 1) / n)).map (fun i => (i * n, min n (v - i * n)))

/-- The passes of an AMUL in the order of their numbers (R227). -/
def amulPasses (l : Long) : List Pass :=
  let ts := outTiles l
  let v := (descOf l.tb).d1
  (blocks64 (ts.length + 1) ts).flatMap (fun b =>
    (vecChunks v (if amulStream l.x then 1 else max 1 (64 / b.length))).map (fun c => ⟨b, c.1, c.2⟩))

/-- The number of passes for a number of output tiles (R227). -/
def passCount (stream : Bool) (tiles v : Nat) : Nat :=
  let full := tiles / 64
  let rest := tiles % 64
  let per (b : Nat) : Nat := if stream then v else (v + 64 / b - 1) / (64 / b)
  full * per 64 + (if rest = 0 then 0 else per rest)

/-- The checks of steps 2 to 4 of R218 for AMUL. -/
def amulChecks (x : XT) (c : Nat) (s : Block) : DFault :=
  let k := getCore s c
  let td := descOf (getT k x.td.val)
  let ta := descOf (getT k x.ta.val)
  let tb := descOf (getT k x.tb.val)
  let tc := descOf (getT k x.tc.val)
  firstFault [
    checkDesc s c 0 td (td.kind == kDense) true true 6,
    checkDesc s c 1 ta (ta.kind == kTiled) true true 6,
    checkDesc s c 2 tb (tb.kind == kDense) true true 6,
    checkDesc s c 3 tc (tc.kind == kScales) true true 6,
    checkFmt 0 td.fmt (td.fmt == 0x20 || td.fmt == 0x21),
    checkFmt 1 ta.fmt (fmtWint ta.fmt),
    checkFmt 2 tb.fmt (fmtAct tb.fmt),
    checkFmt 3 tc.fmt (tc.fmt == 0x22 || tc.fmt == 0x23),
    need (td.d1 == tb.d1 && td.d2 == 1 && (amulList x == 2 || decide (ta.d1 ≤ td.d0))) 5 (detailOp 8 0 0),
    need (decide (mapBytes (tilesOf ta.d1) (tilesOf ta.d0) ≤ ta.s1)) 5 (detailOp 8 1 0),
    need (tb.d0 == ta.d0 && tb.d2 == 1) 5 (detailOp 8 2 0),
    (let ps := scaleParts tc ta.d0 ta.d1 tb.d1
     need (ps.all (fun p => decide (p.1 + p.2 ≤ tc.s1)) && disjointParts ps) 5 (detailOp 8 3 0)),
    need (amulList x == 2 || decide (passCount (amulStream x) (tilesOf ta.d1) tb.d1 ≤ 65535)) 5 (detailOp 9 0 0),
    need (!(overlapDesc td ta || overlapDesc td tb || overlapDesc td tc)) 6 (4 * 2 ^ 20)]

/-- The ILLEGAL kinds of an AMUL word: LIST = 3 and unused fields; stream mode and group size 32 are K2 (R207, R226). -/
def amulKinds (s : Block) (c : Nat) (x : XT) : List Nat :=
  let tc := descOf (getT (getCore s c) x.tc.val)
  xtUnused x true true true true false false false false 0x7F ++
    mustZero (decide (amulList x ≠ 3)) ++ mustZero (decide (amulList x ≠ 0) || amulSpan x == 0) ++
    k2 s c (amulStream x || (tc.kind == kScales && dG tc == 0))

/-- AMUL (R225): decodes, is checked, and waits for residency and admission. -/
def doAmul (c : CoreNo) (x : XT) (s : Block) : Block :=
  decodeLong s c .amul x (amulKinds s c x) true (amulChecks x c)

/-! Weight tiles (R123 to R126). -/

/-- What the feeder knows of the weight tensor: base, tiles across and down, length, format width. -/
structure Weights where
  base : Nat
  p : Nat
  q : Nat
  len : Nat
  e : Nat
  deriving DecidableEq, Repr

def weightsOf (d : Desc) : Weights := ⟨d.addr, tilesOf d.d1, tilesOf d.d0, d.s1, d.fmt⟩

/-- Whether the tile with a map index is present. -/
def tilePresent (s : Block) (c : Nat) (w : Weights) (i : Nat) : Bool := natBit (getLs s c (w.base + i / 8)).toNat (i % 8)
/-- The number of present tiles below a map index. -/
def tilesBelow (s : Block) (c : Nat) (w : Weights) (i : Nat) : Nat := ((List.range i).filter (tilePresent s c w)).length
/-- The header of the n-th present tile. -/
def tileHeader (s : Block) (c : Nat) (w : Weights) (n : Nat) : Nat := readLsNat s c (w.base + mapBytes w.p w.q + 8 * n) 8

def hdrTag (h : Nat) : Nat := natBits h 48 16
def hdrUnits (h : Nat) : Nat := natBits h 32 8
def hdrBlocks (h : Nat) : Nat := natBits h 16 16
def hdrPlanes (h : Nat) : Nat := natBits h 8 8
def hdrEbits (h : Nat) : Nat := natBits h 0 4

/-- Bits set in the low n bits of a number. -/
def onesBelow (v n : Nat) : Nat := ((List.range n).filter (natBit v)).length

/-- A tile as the feeder reaches it: its planes, blocks, width and the address of its payload. -/
structure Tile where
  planes : Nat
  blocks : Nat
  ebits : Nat
  addr : Nat
  deriving DecidableEq, Repr

/-- The tile with a map index: absent, or the tile, or the kind of fault its header meets (R125, R140): 1 TILE_FORMAT, 2 TILE_TAG. -/
def fetchTile (s : Block) (c : Nat) (w : Weights) (i : Nat) : Option Tile ⊕ Nat :=
  if !tilePresent s c w i then .inl none
  else
    let n := tilesBelow s c w i
    let total := tilesBelow s c w (w.p * w.q)
    let h := tileHeader s c w n
    let before := sumNat ((List.range n).map (fun j => hdrUnits (tileHeader s c w j)))
    let pay := roundUp (mapBytes w.p w.q + 8 * total) 512 + 32 * before
    let inLen := decide (mapBytes w.p w.q + 8 * n + 8 ≤ w.len)
    let ok := inLen && decide (1 ≤ hdrEbits h) && decide (hdrEbits h ≤ w.e) && hdrPlanes h != 0 &&
      decide (hdrPlanes h < 2 ^ hdrEbits h) && hdrBlocks h != 0 &&
      hdrUnits h == onesBelow (hdrPlanes h) 8 * onesBelow (hdrBlocks h) 16 &&
      decide (pay + 32 * hdrUnits h ≤ w.len) && natBits h 40 8 == 0 && natBits h 4 4 == 0
    if !ok then .inr 1
    else if hdrTag h ≠ i % 2 ^ 16 then .inr 2
    else .inl (some ⟨hdrPlanes h, hdrBlocks h, hdrEbits h, w.base + pay⟩)

/-- The code of a cell of a tile (R122, R126): the sign plane is EBITS - 1; a block or plane that is not stored is zero. -/
def tileCode (s : Block) (c : Nat) (t : Tile) (row col : Nat) : Int :=
  let b := row / 16 * 4 + col / 16
  if !natBit t.blocks b then 0
  else
    let nb := onesBelow t.blocks 16
    let pos := row % 16 * 16 + col % 16
    (List.range 8).foldl (fun (v : Int) pl =>
      if !natBit t.planes pl then v
      else
        let a := t.addr + (onesBelow t.planes pl * nb + onesBelow t.blocks b) * 32 + pos / 8
        if natBit (getLs s c a).toNat (pos % 8) then
          (if pl + 1 = t.ebits then v - ((2 ^ pl : Nat) : Int) else v + ((2 ^ pl : Nat) : Int))
        else v) 0

/-! Group sums and rescale. -/

/-- Whether the product uses input tile q (R228). -/
def inputListed (l : Long) (q : Nat) : Bool :=
  amulList l.x ≠ 1 || l.list.any (fun u => u.toNat == q / 2 ^ amulSpan l.x)

/-- The activation code of input i of vector v. -/
def actCode (s : Block) (c : Nat) (tb : Desc) (i v : Nat) : Int := fmtValue tb.fmt (readElem s c tb (i + tb.d0 * v))

/-- The exact sum of the products of group j for output column col of tile p and vector v (R114, R149): the tiles are given by
input tile, absent ones left out. -/
def groupSum (s : Block) (c : Nat) (l : Long) (tiles : List (Nat × Tile)) (g j v col : Nat) : Int :=
  let tb := descOf l.tb
  (List.range g).foldl (fun (acc : Int) r =>
    let i := j * g + r
    if tb.d0 ≤ i then acc
    else
      match tiles.find? (fun t => t.1 == i / 64) with
      | some t => acc + tileCode s c t.2 (i % 64) col * actCode s c tb i v
      | none => acc) 0

/-- A weight scale as FP32 (R146, R148). -/
def weightScale (s : Block) (c : Nat) (tc : Desc) (idx : Nat) : Nat :=
  if tc.fmt = 0x23 then
    let b := readLsNat s c (tc.addr + idx) 1
    if b = 0 then 0 else if b = 0xFF then FFmt.fp32.nan else b * 2 ^ 23
  else fwiden .fp16 (readLsNat s c (tc.addr + 2 * idx) 2)

/-- One rescale of an accumulator entry at the end of group j (R149): i the exact integer, after the zero-point correction. -/
def rescale (i : Int) (wscale ascale acc : Nat) : Flagged Nat :=
  if i = 0 then ⟨acc, 0⟩
  else
    let m := fmul .fp32 wscale ascale
    let f := fofInt .fp32 i
    let r := ffma .fp32 f.val m.val acc
    ⟨r.val, m.fl ||| f.fl ||| r.fl⟩

/-- The number of an accumulator entry of a column (R113). -/
def accIdx (col entry : Nat) : Nat := col * 64 + entry
def getAcc (k : Core) (col entry : Nat) : Nat := (tabGet 0 k.acc (accIdx col entry)).toNat

/-- The entries of a pass: vector of the chunk, position of its tile in the block, output tile, destination tile (R115, R119). -/
def passEntries (p : Pass) : List (Nat × Nat × Nat × Nat) :=
  (List.range p.n).flatMap (fun v => (p.tiles.zipIdx).map (fun t => (v, t.2, t.1.1, t.1.2)))

/-- The accumulators at the start of a pass: zero, or the destination widened (R152, R225). -/
def initAcc (s : Block) (c : Nat) (l : Long) (p : Pass) : Block :=
  let td := descOf l.td
  let n := (descOf l.ta).d1
  let acc := (passEntries p).foldl (fun (t : Tab Word) e =>
    (List.range 64).foldl (fun t col =>
      if amulAcc l.x && decide (e.2.2.1 * 64 + col < n) then
        let v := readElem s c td (e.2.2.2 * 64 + col + td.d0 * (p.v0 + e.1))
        tabSet t (accIdx col (e.1 * p.tiles.length + e.2.1))
          (BitVec.ofNat 32 (if td.fmt = 0x21 then fwiden .bf16 v else v))
      else t) t) []
  updCore s c (fun k => { k with acc := acc })

/-- Fetches the tiles of one input tile for the output tiles of a pass, in order: the fault of the first that breaks its format,
with its map index. -/
def fetchTiles (s : Block) (c : Nat) (w : Weights) (q : Nat) : List (Nat × Nat) → List (Nat × Option Tile) ⊕ (Nat × Nat)
  | [] => .inl []
  | t :: ts =>
    match fetchTile s c w (q * w.p + t.1) with
    | .inr kind => .inr (kind, q * w.p + t.1)
    | .inl o =>
      match fetchTiles s c w q ts with
      | .inr e => .inr e
      | .inl r => .inl ((t.1, o) :: r)

/-- The tiles of several input tiles, with their input tile. -/
def fetchInputs (s : Block) (c : Nat) (w : Weights) (p : Pass) (l : Long) : List Nat → List (Nat × Nat × Tile) ⊕ (Nat × Nat)
  | [] => .inl []
  | q :: qs =>
    match (if inputListed l q then fetchTiles s c w q p.tiles else .inl []) with
    | .inr e => .inr e
    | .inl r =>
      match fetchInputs s c w p l qs with
      | .inr e => .inr e
      | .inl rs => .inl ((r.filterMap (fun t => t.2.map (fun tl => (q, t.1, tl)))) ++ rs)

/-- Planes that a slab of 64 codes needs (R116, R117): w is the least width in which the codes are representable. -/
def slabPlanes (signed : Bool) (bits : Nat) (codes : List Nat) : Nat :=
  let fits (w : Nat) : Bool := codes.all (fun v =>
    if signed then signedOf bits v == signedOf (max w 1) v && (w ≠ 0 || v == 0) else decide (v < 2 ^ w))
  let w := ((List.range (bits + 1)).find? fits).getD bits
  max 1 ((List.range w).filter (fun b => codes.any (fun v => natBit v b))).length

/-- The steps in which the planes of a slab stream: a 16-bit slab takes two passes. -/
def slabSteps (s : Block) (c : Nat) (tb : Desc) (q v : Nat) : Nat :=
  let codes := ((List.range 64).filter (fun r => decide (q * 64 + r < tb.d0))).map (fun r => readElem s c tb (q * 64 + r + tb.d0 * v))
  let w := fmtContainer tb.fmt
  if w = 16 then slabPlanes false 8 (codes.map (· % 256)) + slabPlanes (fmtSigned tb.fmt) 8 (codes.map (· / 256))
  else slabPlanes (fmtSigned tb.fmt) w codes

/-- The map index of the first present tile of the passes given, each with the input tiles that are left of it: the tile whose load
overlaps the last tile before them (R118). -/
def nextTile (s : Block) (c : Nat) (w : Weights) (l : Long) : List (Pass × List Nat) → Option Nat
  | [] => none
  | (p, qs) :: rest =>
    match ((qs.filter (inputListed l)).flatMap (fun q => p.tiles.map (fun t => q * w.p + t.1))).find? (tilePresent s c w) with
    | some i => some i
    | none => nextTile s c w l rest

/-- What is left of an instruction behind the input tiles qs of its present pass p. -/
def restOf (l : Long) (w : Weights) (p : Pass) (qs : List Nat) : List (Pass × List Nat) :=
  let q0 := (qs.getLast?.map (· + 1)).getD 0
  (p, (List.range (w.q - q0)).map (· + q0)) :: ((amulPasses l).drop (l.pass + 1)).map (fun p => (p, List.range w.q))

/-- The input tiles among qs that have a present tile. -/
def inputsWith (tiles : List (Nat × Nat × Tile)) (qs : List Nat) : List Nat := qs.filter (fun q => tiles.any (fun t => t.1 == q))

/-- Real-work steps of some input tiles of a pass (R118 to R120), for COR statistics 3 and 4. The first slab fetch since the issue point
is not among them (R132, R133; log entry 131), nor is any load behind the last tile of the instruction. -/
def workSteps (s : Block) (c : Nat) (l : Long) (p : Pass) (tiles : List (Nat × Nat × Tile)) (qs : List Nat) : Nat :=
  let tb := descOf l.tb
  let w := weightsOf (descOf l.ta)
  let wide := fmtContainer tb.fmt == 16
  let planes (t : Nat × Nat × Tile) : Nat := onesBelow t.2.2.planes 8
  sumNat (qs.map (fun q =>
    let here := tiles.filter (fun t => t.1 == q)
    if here.isEmpty then 0
    else if amulStream l.x then (if wide then 2 else 1) * (1 + sumNat (here.map planes))
    else
      let fetch := if !l.fed && (inputsWith tiles qs).head? == some q then 0 else (p.n * (if wide then 128 else 64) + 511) / 512
      let stream := sumNat ((List.range p.n).map (fun v => slabSteps s c tb q (p.v0 + v)))
      let loads := ((tiles.filter (fun t => decide (q ≤ t.1))).drop 1).map planes ++
        (nextTile s c w l (restOf l w p qs)).toList.map (fun i => onesBelow (hdrPlanes (tileHeader s c w (tilesBelow s c w i))) 8)
      fetch + sumNat ((here.zipIdx).map (fun t => max stream ((loads[t.2]?).getD 0)))))

/-- The rescale of every entry of a pass at the end of group j: the accumulators and the flags. An entry whose tiles of the group are
all absent is left unchanged, whatever weight sums are stored (R150). The group registers are zero afterwards (R149). -/
def rescaleAll (s : Block) (c : Nat) (l : Long) (p : Pass) (tiles : List (Nat × Nat × Tile)) (g j : Nat) : Block :=
  let ta := descOf l.ta
  let tc := descOf l.tc
  let gn := groupsOf ta.d0 g
  let k := getCore s c
  let r := (passEntries p).foldl (fun (r : Tab Word × BitVec 16) e =>
    let mine := (tiles.filter (fun t => t.2.1 == e.2.2.1)).map (fun t => (t.1, t.2.2))
    let v := p.v0 + e.1
    let ai := if dApg tc then v * gn + j else 0
    let ascale := readLsNat s c (tc.addr + tc.d1 + 4 * ai) 4
    let zp := if dZp tc then signedOf 32 (readLsNat s c (tc.addr + tc.d2 + 4 * ai) 4) else 0
    (List.range 64).foldl (fun r col =>
      let n := e.2.2.1 * 64 + col
      if mine.isEmpty || decide (ta.d1 ≤ n) then r
      else
        let ws := if dZp tc then signedOf 16 (readLsNat s c (tc.addr + tc.d0 + 2 * (j * ta.d1 + n)) 2) else 0
        let i := groupSum s c l mine g j v col - zp * ws
        let a := accIdx col (e.1 * p.tiles.length + e.2.1)
        let q := rescale i (weightScale s c tc (j * ta.d1 + n)) ascale (tabGet 0 r.1 a).toNat
        (tabSet r.1 a (BitVec.ofNat 32 q.val), r.2 ||| q.fl)) r) (k.acc, 0)
  updCore s c (fun k => addFlags { k with acc := r.1, parts := { k.parts with groups := [] } } r.2)

/-- The bytes of the slab of vector v and input tile q: a code in 1 byte, or 2 for INT16; codes beyond the tensor are ignored (R114). -/
def slabBytes (s : Block) (c : Nat) (tb : Desc) (q v : Nat) : List Byte :=
  (List.range 64).flatMap (fun r =>
    leBytes (if fmtContainer tb.fmt = 16 then 2 else 1) (if q * 64 + r < tb.d0 then readElem s c tb (q * 64 + r + tb.d0 * v) else 0))

/-- The codes that the cells of each row hold in stream mode: 4-bit codes extended to 8 bits, of INT16 the high byte last (R119, R120). -/
def cellCodes (s : Block) (c : Nat) (tb : Desc) (q v : Nat) : List Byte :=
  (List.range 64).map (fun r =>
    let code : Int := if q * 64 + r < tb.d0 then actCode s c tb (q * 64 + r) v else 0
    BitVec.ofInt 8 (if fmtContainer tb.fmt = 16 then code / 256 else code))

/-- The weights of a tile by row and column, as the latches hold them. -/
def tileCodes (s : Block) (c : Nat) (t : Tile) : List Byte :=
  (List.range 4096).map (fun i => BitVec.ofInt 8 (tileCode s c t (i / 64) (i % 64)))

/-- What the cells, latches and slab buffer hold once the input tiles qs of a pass have been worked through (R113, R118, R119). -/
def noteParts (s : Block) (c : Nat) (l : Long) (p : Pass) (tiles : List (Nat × Nat × Tile)) (qs : List Nat) : Block :=
  let tb := descOf l.tb
  let w := weightsOf (descOf l.ta)
  match (inputsWith tiles qs).getLast? with
  | none => s
  | some q =>
    if amulStream l.x then
      let cells := cellCodes s c tb q p.v0
      updCore s c (fun k => { k with parts := { k.parts with cells := cells } })
    else
      let slabs := (List.range p.n).flatMap (fun v => slabBytes s c tb q (p.v0 + v))
      let latch := (tiles.getLast?.map (fun t => tileCodes s c t.2.2)).getD []
      let spare := (nextTile s c w l (restOf l w p qs)).bind (fun i => match fetchTile s c w i with
        | .inl (some t) => some (tileCodes s c t)
        | _ => none)
      updCore s c (fun k => { k with parts := { k.parts with slabs := slabs, latch := latch, spare := spare.getD k.parts.spare } })

/-- The drain of a pass: every output within the tensor, as FP32 or as BF16 rounded (R152, R155). -/
def drainPass (s : Block) (c : Nat) (l : Long) (p : Pass) : Block :=
  let td := descOf l.td
  let n := (descOf l.ta).d1
  let k := getCore s c
  (passEntries p).foldl (fun s e =>
    (List.range 64).foldl (fun s col =>
      if n ≤ e.2.2.1 * 64 + col then s
      else
        let a := getAcc k col (e.1 * p.tiles.length + e.2.1)
        let r := if td.fmt = 0x21 then fconvertIn .fp32 .bf16 a else ⟨a, 0⟩
        updCore (writeElem s c td (e.2.2.2 * 64 + col + td.d0 * (p.v0 + e.1)) r.val) c (fun k => addFlags k r.fl)) s) s

/-- The checks of a listed product on the captured list (R218, R228). -/
def listChecks (l : Long) : DFault :=
  let ta := descOf l.ta
  let u := 2 ^ amulSpan l.x
  let tiles := if amulList l.x = 1 then tilesOf ta.d0 else tilesOf ta.d1
  let bad := firstIdx (fun (e : Word) => decide (tiles ≤ e.toNat * u)) l.list
  firstFault [
    bad.map (fun i => (6, 6 * 2 ^ 20 + i)),
    need (amulList l.x ≠ 2 || decide (l.list.length * 64 * u ≤ (descOf l.td).d0)) 5 (detailOp 8 0 0),
    need (amulList l.x ≠ 2 || decide (passCount (amulStream l.x) (outTiles l).length (descOf l.tb).d1 ≤ 65535)) 5 (detailOp 9 0 0)]

/-- What an AMUL does at its issue point: the checks on the captured list, the state its mode is accounted in, the first pass's
accumulators. One with no output tile to compute completes here, without a ramp. A parked one continues where it stopped. -/
def startAmul (c : Nat) (s : Block) (l : Long) : Block :=
  if l.unit ≠ 0 ∨ l.pass ≠ 0 then updCore s c (fun k => { k with array := modeOf l, ramping := true })
  else
    match (if amulList l.x = 0 then none else listChecks l) with
    | some (cls, d) => faultDet s c cls d
    | none =>
      match (amulPasses l)[0]? with
      | none => updCore s c (fun k => { k with det := none })
      | some p => initAcc (updCore s c (fun k => { k with array := modeOf l, ramping := true })) c l p

/-- ARRAY_ISSUE_POINT (R128). -/
def doArrayIssuePoint (c : CoreNo) (s : Block) : Block :=
  if !issueReady s c true then s
  else
    match toIssue (getCore s c) with
    | none => s
    | some l => if mayAdmit s c s.now (modeOf l) then passIssue s c (startAmul c) else askAdmission s c

/-- ADMISSION_GRANT (R30): a waiting array instruction is admitted in rank order once the total allows it. That is its issue point
(R128). -/
def doAdmissionGrant (c : CoreNo) (s : Block) : Block :=
  let k := getCore s c
  match toIssue k, k.asked with
  | some l, some t =>
    if k.run = .admitWait && l.kind == .amul && atIssue s c l && mayAdmit s c t (modeOf l) then passIssue s c (startAmul c) else s
  | _, _ => s

/-- ARRAY_RESUMABLE_POINT (R138, R227): the array completes the groups up to the next group boundary of the input dimension,
rescales them, and at the end of a pass drains it; PROG shows the position. A tile that breaks R125 faults, and leaves the
destination of the pass in use unchanged (R140). -/
def doArrayResumablePoint (c : CoreNo) (s : Block) : Block :=
  let k := getCore s c
  match k.det with
  | none => s
  | some l =>
    if l.kind ≠ .amul ∨ l.parked ∨ l.ended then s
    else
      match (amulPasses l)[l.pass]? with
      | none => s
      | some p =>
        let ta := descOf l.ta
        let w := weightsOf ta
        let g := groupSize (dG (descOf l.tc))
        let gn := groupsOf ta.d0 g
        -- the groups of one boundary: two halves of a tile for g = 32, else one group
        let js := (List.range (if g = 32 then 2 else 1)).map (· + l.unit)
        let qs := if g = 128 then [2 * l.unit, 2 * l.unit + 1].filter (fun q => decide (q < w.q)) else [l.unit * g / 64]
        match fetchInputs s c w p l qs with
        | .inr (kind, i) => faultDet s c 6 (kind * 2 ^ 20 + i % 2 ^ 20)
        | .inl tiles =>
          let s := bump s (pgCor c) (if amulStream l.x then 4 else 3) (workSteps s c l p tiles qs)
          let s := (js.filter (fun j => decide (j < gn))).foldl (fun s j => rescaleAll s c l p tiles g j) s
          let s := noteParts s c l p tiles qs
          let l := { l with moved := true, fed := l.fed || !(inputsWith tiles qs).isEmpty }
          let unit := l.unit + js.length
          if unit < gn then putDet s c { l with unit := unit }
          else
            let s := longAtPort (drainPass s c l p) c
            let s := updCore s c (fun k => { k with parts := { k.parts with other := k.acc } })
            let l' := { l with pass := l.pass + 1, unit := 0 }
            match (amulPasses l)[l'.pass]? with
            | some p' => putDet (initAcc s c l p') c l'
            | none => putDet s c { l' with ended := true }

/-- ARRAY_RESULT_READY (R132): the result is marked resident for dependent instructions and the pins drop. -/
def doArrayResultReady (c : CoreNo) (s : Block) : Block :=
  let k := getCore s c
  match longs k with
  | [] => s
  | l :: _ =>
    if l.kind ≠ .amul ∨ !l.ended then s
    else refreshWaits (setCore s c (oldestDone k))

/-- ARRAY_RAMP_DOWN_END (R136): with no array instruction in real work the ramp-down ends and the core is accounted as idle. -/
def doArrayRampDownEnd (c : CoreNo) (s : Block) : Block :=
  let k := getCore s c
  if k.ramping && !(k.det.any (fun l => l.kind == .amul && !l.ended && !l.parked)) then
    setCore s c { k with ramping := false, array := .idle }
  else s

end Sys2Proof.Machine
end

