-- ==== Sys2Proof/Machine/Convert.lean ====
section
/-! DEFINITION. Convert: the range pass and the conversions of tensors (R154 to R162, R229 to R233). -/
namespace Sys2Proof.Machine

/-- Options PG and G of RANGE, QCONV and DQCONV: G is unused and zero when PG = 0, 3 is a reserved value, 0 is K2 (R229). -/
def groupKinds (s : Block) (c : Nat) (opt : Nat) : List Nat :=
  if natBit opt 1 then mustZero (natBits opt 2 2 != 3) ++ k2 s c (natBits opt 2 2 == 0) else mustZero (natBits opt 2 2 == 0)

/-- Rows of a source, and groups along a row: one per row group, or one for the tensor (R229). -/
def cvRows (ta : Desc) : Nat := ta.d1 * ta.d2
def cvGroup (opt : Nat) : Nat := groupSize (natBits opt 2 2)
def cvGroups (ta : Desc) (opt : Nat) : Nat := if natBit opt 1 then (ta.d0 + cvGroup opt - 1) / cvGroup opt else 1
/-- The number of scales. -/
def cvCount (ta : Desc) (opt : Nat) : Nat := if natBit opt 1 then cvGroups ta opt * cvRows ta else 1
/-- The index of the scale of group j of row n: weights j × N + n, activations v × G + j (R146, R229). -/
def cvIndex (weight : Bool) (ta : Desc) (opt j n : Nat) : Nat :=
  if natBit opt 1 then (if weight then j * cvRows ta + n else n * cvGroups ta opt + j) else 0

/-- FP sources of RANGE and QCONV. -/
def checkSrcFp (op f : Nat) : DFault := checkFmt op f (fmtFp f)

/-! RANGE. -/

def rangeAsym (opt : Nat) : Bool := natBit opt 0
def rangeTarget (opt : Nat) : Nat := natBits opt 4 8
/-- q of R159. -/
def rangeQ (opt : Nat) : Nat :=
  let w := fmtWidth (rangeTarget opt)
  if rangeAsym opt then 2 ^ w - 1 else 2 ^ (w - 1) - 1
/-- The clip factor lies in (0, 1]. -/
def clipOk (v : Nat) : Bool := flt .fp32 0 v && fle .fp32 v 0x3F800000

/-- A reserved code as the target (R141). -/
def targetReserved (level opt : Nat) : DFault := need (fmtKnown level (rangeTarget opt)) 4 (detailOp 1 0 (rangeTarget opt))

/-- The target's check of step 3: a code that the mode does not admit (R143, R159, R229). -/
def targetCheck (opt : Nat) : DFault :=
  let t := rangeTarget opt
  (need (if rangeAsym opt then t == 0x18 || t == 0x19 || t == 0x1A
      else (fmtWint t && t != 1) || t == 0x10 || t == 0x11 || t == 0x12) 4 (detailOp 2 0 t))

def rangeChecks (x : XT) (c : Nat) (s : Block) : DFault :=
  let k := getCore s c
  let opt := x.opt.toNat
  let td := descOf (getT k x.td.val)
  let ta := descOf (getT k x.ta.val)
  let tb := descOf (getT k x.tb.val)
  let tc := descOf (getT k x.tc.val)
  let asym := rangeAsym opt
  let rec_ := (getS k x.sa.val).toNat
  let n := cvCount ta opt
  firstFault [
    -- a reserved code of the target comes with the first code of step 2, before any check that needs a width (R141; log entry 134)
    checkKind 0 td (td.kind == kDense),
    targetReserved (levelOf s k) opt,
    checkDesc s c 0 td (td.kind == kDense) true true 5,
    checkDesc s c 1 ta (ta.kind == kDense) true true 5,
    checkDesc s c 2 tb (tb.kind == kDense) true true 5,
    (if asym then checkDesc s c 3 tc (tc.kind == kDense) true true 5 else none),
    targetCheck opt,
    checkFmt 0 td.fmt (if fmtWint (rangeTarget opt) then td.fmt == 0x22 || td.fmt == 0x23 else td.fmt == 0x20),
    checkSrcFp 1 ta.fmt,
    checkFmt 2 tb.fmt (tb.fmt == 0x20),
    (if asym then checkFmt 3 tc.fmt (tc.fmt == 0x31) else none),
    need (clipOk ((getS k x.sb.val).toNat % 2 ^ 32)) 4 (detailOp 3 0 0),
    need (decide (n ≤ elemCount td)) 5 (detailOp 8 0 0),
    need (decide (n ≤ elemCount tb)) 5 (detailOp 8 2 0),
    need (!asym || decide (n ≤ elemCount tc)) 5 (detailOp 8 3 0),
    checkLsAddr s c rec_ 32 32,
    need (!(overlapDesc td ta || overlaps (rec_, rec_ + 32) (extent ta))) 5 (detailOp 0xA 0 0),
    need (!overlapDesc tb ta) 5 (detailOp 0xA 2 0),
    need (!asym || !overlapDesc tc ta) 5 (detailOp 0xA 3 0)]

def doRange (c : CoreNo) (x : XT) (s : Block) : Block :=
  decodeLong s c .range x
    (xtUnused x true true true (rangeAsym x.opt.toNat) false true true false 0xFFF ++ groupKinds s c x.opt.toNat) true
    (rangeChecks x c)

/-- What the range pass finds over elements (R159, R161): all as FP32 encodings and counts. -/
structure RangeAcc where
  nan : Nat := 0
  pinf : Nat := 0
  ninf : Nat := 0
  lo : Nat := 0
  hi : Nat := 0
  fl : BitVec 16 := 0
  deriving DecidableEq, Repr

/-- Takes one FP32 value into the range. -/
def rangeStep (a : RangeAcc) (x : Nat) : RangeAcc :=
  match fdecode .fp32 x with
  | .nan => { a with nan := a.nan + 1, fl := a.fl ||| flagNANIN }
  | .inf neg => { a with pinf := a.pinf + boolNat (!neg), ninf := a.ninf + boolNat neg, fl := a.fl ||| flagINFIN }
  | .fin _ _ _ =>
    { a with lo := if flt .fp32 x a.lo then x else a.lo, hi := if flt .fp32 a.hi x then x else a.hi }

/-- A source element as FP32. -/
def srcFp32 (s : Block) (c : Nat) (ta : Desc) (i : Nat) : Nat := fwiden (fmtFF ta.fmt) (readElem s c ta i)

/-- The signed value of a finite FP32 encoding as an integer multiple of 2^-149; zero for what is not finite. -/
def fixed149 (x : Nat) : Int :=
  match fdecode .fp32 x with
  | .fin neg m e => scaled neg m e (-149)
  | _ => 0

/-- up() of R159: n / d × 2^-149 rounded once toward plus infinity into a scale format, held to its finite and positive values
(R160); raising an E8 scale to 2^-126 sets UF (log entry 154). -/
def scaleUp (fmt : Nat) (n d : Nat) : Flagged Nat :=
  if fmt = 0x23 then
    -- the least power of two that is not below the value
    let e := log2Ratio n d
    let k : Int := e - 149 + (if n * pow2Den e = d * pow2Num e then 0 else 1)
    if 127 < k then ⟨0xFE, flagOF⟩ else if k < -126 then ⟨1, flagUF⟩ else ⟨(k + 127).toNat, 0⟩
  else
    let f := fmtFF fmt
    let r := fround f .up false n d (-149)
    if r.val = f.inf false then ⟨f.maxFinite, flagOF⟩ else r

/-- The value of a positive scale, as m × 2^e. -/
def scaleVal (fmt v : Nat) : Nat × Int :=
  if fmt = 0x23 then (1, (v : Int) - 127)
  else
    match fdecode (fmtFF fmt) v with
    | .fin _ m e => (m, e)
    | _ => (1, 0)

/-- The scale, reciprocal and zero point of a range (R159). -/
structure RangeOut where
  scale : Nat
  recip : Nat
  zp : Nat
  zero : Bool
  fl : BitVec 16
  deriving DecidableEq, Repr

def rangeOut (fmt q clip : Nat) (asym : Bool) (lo hi : Nat) : RangeOut :=
  let l := fmul .fp32 lo clip
  let h := fmul .fp32 hi clip
  let lv := fixed149 l.val
  let hv := fixed149 h.val
  let a : Nat := if asym then (hv - lv).toNat else max (-lv).toNat hv.toNat
  if a = 0 then
    let one := if fmt = 0x23 then 0x7F else if fmt = 0x22 then 0x3C00 else 0x3F800000
    ⟨one, 0x3F800000, 0, true, l.fl ||| h.fl⟩
  else
    let sc := scaleUp fmt a q
    let sv := scaleVal fmt sc.val
    let r := fround .fp32 .near false 1 sv.1 (-sv.2)
    -- -lo / s with lo in units of 2^-149
    let e : Int := -149 - sv.2
    let z : Int := rneQ (((-lv).toNat * pow2Num e : Nat) : Int) (sv.1 * pow2Den e)
    ⟨sc.val, r.val, if asym then (min z q).toNat else 0, false, l.fl ||| h.fl ||| sc.fl ||| r.fl⟩

/-- Writes the scale, reciprocal and zero point of a scale index, and the flags. -/
def writeRange (s : Block) (c : Nat) (l : Long) (idx : Nat) (o : RangeOut) : Block :=
  let s := writeElem s c (descOf l.td) idx o.scale
  let s := writeElem s c (descOf l.tb) idx o.recip
  let s := if rangeAsym l.x.opt.toNat then writeElem s c (descOf l.tc) idx o.zp else s
  updCore s c (fun k => addFlags k o.fl)

/-- Adds to a saturating u32 of the local store. -/
def addLs32 (s : Block) (c a n : Nat) : Block := writeLsNat s c a 4 (satAdd 0xFFFFFFFF (readLsNat s c a 4) n)

/-- The record at the issue point of RANGE: all zero (R161, R233). -/
def startRange (c : Nat) (s : Block) (l : Long) : Block :=
  if l.unit ≠ 0 then s else writeLsBytes s c l.sa.toNat (zeroBytes 32)

/-- Two parts of one range together. -/
def rangeJoin (a b : RangeAcc) : RangeAcc :=
  { nan := a.nan + b.nan, pinf := a.pinf + b.pinf, ninf := a.ninf + b.ninf,
    lo := if flt .fp32 b.lo a.lo then b.lo else a.lo, hi := if flt .fp32 a.hi b.hi then b.hi else a.hi, fl := a.fl ||| b.fl }

/-- The least and greatest element so far of the group that a resumable point falls into, as a partly done RANGE keeps them. -/
def rangeOpen (l : Long) : RangeAcc := { lo := (l.scratch[0]?).getD 0, hi := (l.scratch[1]?).getD 0 }

/-- The first element of the group that contains element i: of a row group, or of the tensor. -/
def groupStart (ta : Desc) (opt i : Nat) : Nat :=
  if natBit opt 1 then i / ta.d0 * ta.d0 + i % ta.d0 / cvGroup opt * cvGroup opt else 0

/-- The groups of a row-grouped source that end in (lo, hi]: their row, number, first and past element. -/
def groupsEnding (ta : Desc) (g lo hi : Nat) : List (Nat × Nat × Nat × Nat) :=
  ((List.range (cvRows ta)).flatMap (fun n =>
    (List.range ((ta.d0 + g - 1) / g)).map (fun j =>
      (n, j, n * ta.d0 + j * g, n * ta.d0 + min ta.d0 ((j + 1) * g))))).filter (fun e => decide (lo < e.2.2.2) && decide (e.2.2.2 ≤ hi))

/-- RANGE over elements lo to hi - 1: the record takes their counts, minimum and maximum, and every group that ends there gets
its scale (R159, R161, R233). Each element is read once: a group that began before lo has its range so far in the instruction (R22). -/
def rangeChunk (s : Block) (c : Nat) (l : Long) (lo hi : Nat) : Block :=
  let ta := descOf l.ta
  let opt := l.x.opt.toNat
  let r := l.sa.toNat
  let w := fmtWint (rangeTarget opt)
  let part (a b : Nat) : RangeAcc := ((List.range (b - a)).map (fun i => srcFp32 s c ta (a + i))).foldl rangeStep {}
  let whole (a b : Nat) : RangeAcc := if a < lo then rangeJoin (rangeOpen l) (part lo b) else part a b
  let acc := part lo hi
  let clip := l.sb.toNat % 2 ^ 32
  let fmt := (descOf l.td).fmt
  let outs : List (Nat × RangeOut) :=
    if natBit opt 1 then
      (groupsEnding ta (cvGroup opt) lo hi).map (fun e =>
        let a := whole e.2.2.1 e.2.2.2
        (cvIndex w ta opt e.2.1 e.1, rangeOut fmt (rangeQ opt) clip (rangeAsym opt) a.lo a.hi))
    else if hi = elemCount ta then
      let a := whole 0 hi
      [(0, rangeOut fmt (rangeQ opt) clip (rangeAsym opt) a.lo a.hi)]
    else []
  let s := addLs32 (addLs32 (addLs32 s c r acc.nan) c (r + 4) acc.pinf) c (r + 8) acc.ninf
  let s := addLs32 (addLs32 s c (r + 0xC) outs.length) c (r + 0x18) (outs.filter (fun o => o.2.zero)).length
  let mn := readLsNat s c (r + 0x10) 4
  let mx := readLsNat s c (r + 0x14) 4
  let s := writeLsNat s c (r + 0x10) 4 (if flt .fp32 acc.lo mn then acc.lo else mn)
  let s := writeLsNat s c (r + 0x14) 4 (if flt .fp32 mx acc.hi then acc.hi else mx)
  let s := updCore s c (fun k => addFlags k acc.fl)
  let s := outs.foldl (fun s o => writeRange s c l o.1 o.2) s
  let still := whole (groupStart ta opt hi) hi
  putDet s c { l with unit := hi, ended := decide (hi = elemCount ta), scratch := [still.lo, still.hi] }

/-! QCONV and DQCONV. -/

/-- Quantisation of an FP32 value (R154): the code and the flags. -/
def quantise (x r : Nat) (z lo hi : Int) : Flagged Int :=
  if fisNan .fp32 x then ⟨z, flagNANIN⟩
  else if fisInf .fp32 x then ⟨if fsign .fp32 x then lo else hi, flagINFIN ||| flagSAT⟩
  else
    let t := fmul .fp32 x r
    match fdecode .fp32 t.val with
    | .nan => ⟨z, t.fl ||| (if fisNan .fp32 r then flagNANIN else 0)⟩
    | .inf neg => ⟨if neg then lo else hi, t.fl ||| flagSAT⟩
    | .fin neg m e =>
      let q := rneInt neg m e + z
      if q < lo then ⟨lo, t.fl ||| flagSAT⟩ else if hi < q then ⟨hi, t.fl ||| flagSAT⟩ else ⟨q, t.fl⟩

/-- Whether QCONV names a weight-sum destination. -/
def qconvWsum (x : XT) : Bool := natBit x.opt.toNat 4

def qconvChecks (x : XT) (c : Nat) (s : Block) : DFault :=
  let k := getCore s c
  let opt := x.opt.toNat
  let td := descOf (getT k x.td.val)
  let ta := descOf (getT k x.ta.val)
  let tb := descOf (getT k x.tb.val)
  let tc := descOf (getT k x.tc.val)
  let zp := natBit opt 0
  let n := cvCount ta opt
  let ws := qconvWsum x && wsumTarget td
  let wa := (getS k x.sa.val).toNat
  let wr := (wa, wa + wsumBytes td opt)
  let inputs := [(1, ta), (2, tb)] ++ (if zp then [(3, tc)] else [])
  firstFault [
    checkDesc s c 0 td (td.kind == kDense) true true 5,
    checkDesc s c 1 ta (ta.kind == kDense) true true 5,
    checkDesc s c 2 tb (tb.kind == kDense) true true 5,
    (if zp then checkDesc s c 3 tc (tc.kind == kDense) true true 5 else none),
    checkFmt 0 td.fmt (fmtInt td.fmt && td.fmt != 1),
    checkSrcFp 1 ta.fmt,
    checkFmt 2 tb.fmt (tb.fmt == 0x20),
    (if zp then checkFmt 3 tc.fmt (tc.fmt == 0x31) else none),
    need (td.d0 == ta.d0 && td.d1 == ta.d1 && td.d2 == ta.d2) 5 (detailOp 8 0 0),
    need (decide (n ≤ elemCount tb)) 5 (detailOp 8 2 0),
    need (!zp || decide (n ≤ elemCount tc)) 5 (detailOp 8 3 0),
    (if ws then checkLsAddr s c wa (wsumBytes td opt) 2 else none),
    need (inputs.all (fun i => !overlapDesc td i.2 && !(ws && overlaps wr (extent i.2)))) 5 (detailOp 0xA 0 0)]

def doQconv (c : CoreNo) (x : XT) (s : Block) : Block :=
  decodeLong s c .qconv x
    (xtUnused x true true true (natBit x.opt.toNat 0) false (qconvWsum x) false false 0x1F ++ groupKinds s c x.opt.toNat) true
    (qconvChecks x c)

/-- The zero point of a scale index, 0 where none is in use. -/
def cvZp (s : Block) (c : Nat) (l : Long) (idx : Nat) : Int :=
  if natBit l.x.opt.toNat 0 then signedOf 32 (readElem s c (descOf l.tc) idx) else 0

/-- QCONV over elements lo to hi - 1, then the weight sums of the groups that end there, from the codes written (R154, R158). -/
def qconvChunk (s : Block) (c : Nat) (l : Long) (lo hi : Nat) : Block :=
  let ta := descOf l.ta
  let td := descOf l.td
  let tb := descOf l.tb
  let opt := l.x.opt.toNat
  let w := fmtWint td.fmt
  let s := (List.range (hi - lo)).foldl (fun s o =>
    let i := lo + o
    let idx := cvIndex w ta opt (i % ta.d0 / cvGroup opt) (i / ta.d0)
    let q := quantise (srcFp32 s c ta i) (readElem s c tb idx) (cvZp s c l idx) (fmtLo td.fmt) (fmtHi td.fmt)
    updCore (writeElem s c td i (narrowInt (fmtContainer td.fmt) q.val)) c (fun k => addFlags k q.fl)) s
  if qconvWsum l.x && wsumTarget td then
    (groupsEnding ta (wsumGroupSize opt) lo hi).foldl (fun s e =>
      let sum := (List.range (e.2.2.2 - e.2.2.1)).foldl (fun (t : Int) i => t + fmtValue td.fmt (readElem s c td (e.2.2.1 + i))) 0
      writeLsNat s c (l.sa.toNat + 2 * (e.2.1 * cvRows ta + e.1)) 2 (narrowInt 16 sum)) s
  else s

def dqconvChecks (x : XT) (c : Nat) (s : Block) : DFault :=
  let k := getCore s c
  let opt := x.opt.toNat
  let td := descOf (getT k x.td.val)
  let ta := descOf (getT k x.ta.val)
  let tb := descOf (getT k x.tb.val)
  let tc := descOf (getT k x.tc.val)
  let zp := natBit opt 0
  let n := cvCount ta opt
  firstFault [
    checkDesc s c 0 td (td.kind == kDense) true true 5,
    checkDesc s c 1 ta (ta.kind == kDense) true true 5,
    checkDesc s c 2 tb (tb.kind == kDense) true true 5,
    (if zp then checkDesc s c 3 tc (tc.kind == kDense) true true 5 else none),
    checkFmt 0 td.fmt (td.fmt == 0x20 || td.fmt == 0x21),
    checkFmt 1 ta.fmt (fmtInt ta.fmt),
    checkFmt 2 tb.fmt (tb.fmt == 0x20 || tb.fmt == 0x22 || tb.fmt == 0x23),
    (if zp then checkFmt 3 tc.fmt (tc.fmt == 0x31) else none),
    need (td.d0 == ta.d0 && td.d1 == ta.d1 && td.d2 == ta.d2) 5 (detailOp 8 0 0),
    need (decide (n ≤ elemCount tb)) 5 (detailOp 8 2 0),
    need (!zp || decide (n ≤ elemCount tc)) 5 (detailOp 8 3 0),
    need (!(overlapDesc td ta || overlapDesc td tb || (zp && overlapDesc td tc))) 5 (detailOp 0xA 0 0)]

def doDqconv (c : CoreNo) (x : XT) (s : Block) : Block :=
  decodeLong s c .dqconv x
    (xtUnused x true true true (natBit x.opt.toNat 0) false false false false 0xF ++ groupKinds s c x.opt.toNat) true
    (dqconvChecks x c)

/-- A scale of DQCONV as FP32. -/
def dqScale (s : Block) (c : Nat) (tb : Desc) (idx : Nat) : Nat :=
  let v := readElem s c tb idx
  if tb.fmt = 0x23 then (if v = 0 then 0 else if v = 0xFF then FFmt.fp32.nan else v * 2 ^ 23)
  else fwiden (fmtFF tb.fmt) v

/-- A code times its scale (R155): to FP32 the rounded difference times the scale, to BF16 the exact product rounded once. -/
def dequantise (bf : Bool) (d : Int) (scale : Nat) : Flagged Nat :=
  if bf then froundF .bf16 (vmul (.fin (decide (d < 0)) d.natAbs 0) (fdecode .fp32 scale))
  else
    let f := fofInt .fp32 d
    let r := fmul .fp32 f.val scale
    ⟨r.val, f.fl ||| r.fl⟩

def dqconvChunk (s : Block) (c : Nat) (l : Long) (lo hi : Nat) : Block :=
  let ta := descOf l.ta
  let td := descOf l.td
  let opt := l.x.opt.toNat
  let w := fmtWint ta.fmt
  (List.range (hi - lo)).foldl (fun s o =>
    let i := lo + o
    let idx := cvIndex w ta opt (i % ta.d0 / cvGroup opt) (i / ta.d0)
    let q := dequantise (td.fmt == 0x21) (fmtValue ta.fmt (readElem s c ta i) - cvZp s c l idx) (dqScale s c (descOf l.tb) idx)
    updCore (writeElem s c td i q.val) c (fun k => addFlags k q.fl)) s

/-! TPACK (R232). -/

def tpackChecks (x : XT) (c : Nat) (s : Block) : DFault :=
  let k := getCore s c
  let td := descOf (getT k x.td.val)
  let ta := descOf (getT k x.ta.val)
  firstFault [
    checkDesc s c 0 td (td.kind == kTiled) true true 5,
    checkDesc s c 1 ta (ta.kind == kDense) true true 5,
    checkFmt 0 td.fmt (fmtWint td.fmt),
    checkFmt 1 ta.fmt (ta.fmt == td.fmt),
    need (decide (8 * (((td.d1 + 63) / 64 * ((td.d0 + 63) / 64) + 63) / 64) ≤ td.s1)) 5 (detailOp 8 0 0),
    need (ta.d0 == td.d0 && ta.d1 == td.d1 && ta.d2 == 1) 5 (detailOp 8 1 0),
    need (!overlapDesc td ta) 5 (detailOp 0xA 0 0)]

def doTpack (c : CoreNo) (x : XT) (s : Block) : Block :=
  decodeLong s c .tpack x (xtUnused x true true false false false false false true 1) true (tpackChecks x c)

/-- A packed tile: planes, blocks, width, payload. -/
structure Packed where
  planes : Nat
  blocks : Nat
  ebits : Nat
  payload : List Byte
  deriving DecidableEq, Repr

/-- The code of a cell as the tile stores it; zero outside the tensor. -/
def cellCode (s : Block) (c : Nat) (ta : Desc) (p q row col : Nat) : Int :=
  let k := q * 64 + row
  let n := p * 64 + col
  if k < ta.d0 ∧ n < ta.d1 then fmtValue ta.fmt (readElem s c ta (k + ta.d0 * n)) else 0

/-- Packs a tile of dense codes; none for an absent tile (R126, R232). -/
def packTile (s : Block) (c : Nat) (ta : Desc) (full : Bool) (p q : Nat) : Option Packed :=
  let cells := (List.range 4096).map (fun i => (i / 64, i % 64, cellCode s c ta p q (i / 64) (i % 64)))
  if !full && cells.all (fun x => x.2.2 == 0) then none
  else
    let e := if full then ta.fmt
      else ((List.range 9).find? (fun w => decide (1 ≤ w) && cells.all (fun x => signedOf w (narrowInt w x.2.2) == x.2.2))).getD 8
    let planeSet (b : Nat) : Bool := cells.any (fun x => natBit (narrowInt 8 x.2.2) b)
    let planes := (List.range e).filter (fun b => full || planeSet b)
    let blocks := (List.range 16).filter (fun b =>
      full || cells.any (fun x => x.1 / 16 * 4 + x.2.1 / 16 == b && x.2.2 != 0))
    let payload := planes.flatMap (fun pl => blocks.flatMap (fun b =>
      leBytes 32 (sumNat ((List.range 256).map (fun i =>
        let code := cellCode s c ta p q (b / 4 * 16 + i / 16) (b % 4 * 16 + i % 16)
        if natBit (narrowInt 8 code) pl then 2 ^ i else 0)))))
    some ⟨sumNat (planes.map (2 ^ ·)), sumNat (blocks.map (2 ^ ·)), e, payload⟩

/-- The header of a packed tile (R124). -/
def packHeader (idx : Nat) (t : Packed) : Nat :=
  idx % 2 ^ 16 * 2 ^ 48 + t.payload.length / 32 * 2 ^ 32 + t.blocks * 2 ^ 16 + t.planes * 2 ^ 8 + t.ebits

/-- The parts of the tiled layout of the source: the map and the headers, the offset of the payload, the payload (R123). -/
def packAll (s : Block) (c : Nat) (l : Long) : List Byte × Nat × List Byte :=
  let ta := descOf l.ta
  let pn := (ta.d1 + 63) / 64
  let qn := (ta.d0 + 63) / 64
  let tiles := (List.range (pn * qn)).map (fun i => (i, packTile s c ta (natBit l.x.opt.toNat 0) (i % pn) (i / pn)))
  let present := tiles.filterMap (fun t => t.2.map (fun x => (t.1, x)))
  let map := leBytes (8 * ((pn * qn + 63) / 64)) (sumNat (present.map (fun t => 2 ^ t.1)))
  let head := map ++ present.flatMap (fun t => leBytes 8 (packHeader t.1 t.2))
  if present.isEmpty then (head, head.length, [])
  else (head, roundUp head.length 512, present.flatMap (fun t => t.2.payload))

/-- The bits of the map for the tiles whose codes have all been read once the first n elements have been: the part of Td that is written at
a resumable point (R233; log entry 135). -/
def packMapSoFar (s : Block) (c : Nat) (l : Long) (n : Nat) : List Byte :=
  let ta := descOf l.ta
  let pn := (ta.d1 + 63) / 64
  let qn := (ta.d0 + 63) / 64
  let read (p : Nat) : Bool := decide (min ta.d1 (64 * (p + 1)) * ta.d0 ≤ n)
  leBytes (8 * ((pn * qn + 63) / 64)) (sumNat (((List.range (pn * qn)).filter (fun i =>
    read (i % pn) && (packTile s c ta (natBit l.x.opt.toNat 0) (i % pn) (i / pn)).isSome)).map (2 ^ ·)))

/-- TPACK over the first hi elements of its source, which are not all. -/
def tpackChunk (s : Block) (c : Nat) (l : Long) (hi : Nat) : Block :=
  putDet (writeLsBytes s c (descOf l.td).addr (packMapSoFar s c l hi)) c { l with unit := hi }

/-- TPACK at the end of its source: the map, the headers and the payload are written as far as they fit; beyond LENGTH it faults with
LIMIT (R232). -/
def tpackEnd (s : Block) (c : Nat) (l : Long) : Block :=
  let td := descOf l.td
  let b := packAll s c l
  let used := b.2.1 + b.2.2.length
  let s := writeLsBytes s c td.addr (b.1.take td.s1)
  let s := writeLsBytes s c (td.addr + b.2.1) (b.2.2.take (td.s1 - b.2.1))
  if td.s1 < used then faultDet s c 5 (detailOp 9 0 0)
  else putDet s c { l with unit := elemCount (descOf l.ta), ended := true, scratch := [used] }

end Sys2Proof.Machine
end

