-- ==== Sys2Proof/Machine/Select.lean ====
section
/-! DEFINITION. Select: threshold compaction and top-k (R238 to R241, R253 to R267), the product-code engine (R242, R243, R264)
and check values over tensors (R244). -/
namespace Sys2Proof.Machine

/-! Order of values (R253 to R256). Values are carried in the 32-bit form of R253. -/

/-- The domains of comparison. -/
inductive SelDom where
  | fp
  | int
  deriving DecidableEq, Repr

def selDom (fmt : Nat) : SelDom := if fmt = 0x31 then .int else .fp

/-- The 32-bit form of a stored value. -/
def selForm (fmt v : Nat) : Nat := if fmt = 0x21 then v * 2 ^ 16 else v

def selNan (d : SelDom) (v : Nat) : Bool := d == .fp && fisNan .fp32 v
def selEq (d : SelDom) (a b : Nat) : Bool := if d = .int then a == b else feq .fp32 a b
def selLt (d : SelDom) (a b : Nat) : Bool := if d = .int then decide (signedOf 32 a < signedOf 32 b) else flt .fp32 a b

/-- Whether an element passes a threshold (R255). -/
def passes (d : SelDom) (x t : Nat) (orEqual : Bool) : Bool :=
  if selNan d x || selNan d t then false else selLt d t x || (orEqual && selEq d x t)

/-- Whether one element ranks before another (R256). -/
def before (d : SelDom) (smallest : Bool) (a ia b ib : Nat) : Bool :=
  if selEq d a b then decide (ia < ib) else if smallest then selLt d a b else selLt d b a

/-- The threshold of a source format: the low half for BF16 (R253). -/
def thresholdOf (fmt : Nat) (v : DWord) : Nat := if fmt = 0x21 then v.toNat % 2 ^ 16 * 2 ^ 16 else v.toNat % 2 ^ 32

/-! Checks. -/

def checkSelSrc (op f : Nat) : DFault := checkFmt op f (f == 0x20 || f == 0x21 || f == 0x31)
/-- A LIST without or with PAIRS (R213, kind KIND). -/
def listKind (d : Desc) (pairs : Bool) : Bool := d.kind == kList && dPairs d == pairs

def seltChecks (x : XT) (c : Nat) (s : Block) : DFault :=
  let k := getCore s c
  let td := descOf (getT k x.td.val)
  let ta := descOf (getT k x.ta.val)
  firstFault [
    checkDesc s c 0 td (listKind td false) true true 5,
    checkDesc s c 1 ta (ta.kind == kDense) true true 5,
    checkFmt 0 td.fmt (td.fmt == 0x31),
    checkSelSrc 1 ta.fmt,
    need (td.d0 != 0) 7 (detailOp 1 0 0),
    need (!overlapDesc td ta) 5 (detailOp 0xA 0 0)]

/-- SELT (R239): OPT[0] CMP, OPT[1] SUMS (K2). -/
def doSelt (c : CoreNo) (x : XT) (s : Block) : Block :=
  decodeLong s c .selt x (xtUnused x true true false false false true true false 3 ++ k2 s c (natBit x.opt.toNat 1)) false
    (seltChecks x c)

def topkChecks (x : XT) (c : Nat) (s : Block) : DFault :=
  let k := getCore s c
  let td := descOf (getT k x.td.val)
  let ta := descOf (getT k x.ta.val)
  let n := natBits x.opt.toNat 0 4
  firstFault [
    checkDesc s c 0 td (listKind td true) true true 5,
    checkDesc s c 1 ta (ta.kind == kDense) true true 5,
    checkFmt 0 td.fmt (td.fmt == 0x31),
    checkSelSrc 1 ta.fmt,
    need (decide (1 ≤ n) && decide (n ≤ 8) && decide (n ≤ td.d0)) 7 (detailOp 2 0 n),
    need (!overlapDesc td ta) 5 (detailOp 0xA 0 0)]

/-- TOPK (R240): k = OPT[3:0], OPT[4] DIR. -/
def doTopk (c : CoreNo) (x : XT) (s : Block) : Block :=
  decodeLong s c .topk x (xtUnused x true true false false false false true false 0x1F) false (topkChecks x c)

def pqloadChecks (x : XT) (c : Nat) (s : Block) : DFault :=
  let ta := descOf (getT (getCore s c) x.ta.val)
  firstFault [
    checkDesc s c 1 ta (ta.kind == kDense) true true 5,
    checkFmt 1 ta.fmt (ta.fmt == 0x20),
    need ((ta.d0 == 256 || ta.d0 == 16) && ta.d2 == 1) 5 (detailOp 8 1 0),
    need (decide (ta.d0 * ta.d1 * 4 ≤ 32768)) 5 (detailOp 9 1 0)]

/-- PQLOAD (R242). -/
def doPqload (c : CoreNo) (x : XT) (s : Block) : Block :=
  decodeLong s c .pqload x (xtUnused x false true false false false false false false 0) false (pqloadChecks x c)

/-- Whether the core has a PQLOAD that has not completed: a younger PQSCAN is judged against the table that it loads (R196, R242, R243). -/
def pqLoading (k : Core) : Bool := (longs k).any (fun l => l.kind == .pqload)

def pqscanChecks (x : XT) (c : Nat) (s : Block) : DFault :=
  let k := getCore s c
  let opt := x.opt.toNat
  let td := descOf (getT k x.td.val)
  let ta := descOf (getT k x.ta.val)
  let kk := natBits opt 3 4
  let tabOk := match k.pq with
    | some t => (t.d0 == 256 && ta.fmt == 0x19 && ta.d0 == t.m) || (t.d0 == 16 && ta.fmt == 0x18 && ta.d0 == t.m)
    | none => false
  firstFault [
    checkDesc s c 0 td (if pqFuse opt = 0 then td.kind == kDense else listKind td (pqFuse opt == 2)) true true 5,
    checkDesc s c 1 ta (ta.kind == kDense) true true 5,
    checkFmt 0 td.fmt (if pqFuse opt = 0 then td.fmt == 0x20 else td.fmt == 0x31),
    need (pqFuse opt != 0 || decide (ta.d1 * ta.d2 ≤ elemCount td)) 5 (detailOp 8 0 0),
    need tabOk 5 (detailOp 8 1 0),
    need (pqFuse opt != 1 || td.d0 != 0) 7 (detailOp 1 0 0),
    need (pqFuse opt != 2 || (decide (1 ≤ kk) && decide (kk ≤ 8) && decide (kk ≤ td.d0))) 7 (detailOp 2 0 kk),
    need (!overlapDesc td ta) 5 (detailOp 0xA 0 0)]

/-- PQSCAN (R243): FUSE = 3 is reserved; SB, SD, CMP, k and DIR are used by the forms that name them. -/
def doPqscan (c : CoreNo) (x : XT) (s : Block) : Block :=
  let f := pqFuse x.opt.toNat
  let mask := 3 + (if f = 1 then 4 else 0) + (if f = 2 then 0xF8 else 0)
  if pqLoading (getCore s c) then s
  else decodeLong s c .pqscan x
    (xtUnused x true true false false false true (decide (f ≠ 0)) (f == 1) mask ++ mustZero (decide (f ≠ 3))) false
    (pqscanChecks x c)

/-! Runs of the selection unit. -/

/-- Writes the header of a list (R238). -/
def writeListHeader (s : Block) (c a count total nan flags sel rej thr : Nat) : Block :=
  writeLsBytes s c a (leBytes 4 count ++ leBytes 4 total ++ leBytes 4 nan ++ leBytes 4 flags ++ leBytes 4 sel ++ leBytes 4 rej ++
    leBytes 4 thr ++ zeroBytes 4)

/-- The state of a compaction: count, examined, NaN, the two sums, and what it has put into the live list. -/
structure SelAcc where
  count : Nat
  total : Nat
  nan : Nat
  sel : Nat
  rej : Nat
  fl : BitVec 16
  live : List Word
  /-- entries to write: position and index -/
  out : List (Nat × Nat)
  deriving DecidableEq, Repr

/-- One element of a compaction with capacity cap (R258 to R260). -/
def selStep (d : SelDom) (thr : Nat) (cmp sums : Bool) (cap : Nat) (a : SelAcc) (v index : Nat) : SelAcc :=
  let a := { a with total := satAdd 0xFFFFFFFF a.total 1 }
  if selNan d v then { a with nan := satAdd 0xFFFFFFFF a.nan 1 }
  else
    let f := if d = .int then fofInt .fp32 (signedOf 32 v) else ⟨v, 0⟩
    if passes d v thr cmp then
      let r := fadd .fp32 a.sel f.val
      { a with
        count := satAdd 0xFFFFFFFF a.count 1,
        sel := if sums then r.val else a.sel,
        fl := if sums then a.fl ||| f.fl ||| r.fl else a.fl,
        live := if a.live.length < 1024 then a.live ++ [BitVec.ofNat 32 index] else a.live,
        out := if a.count < cap then a.out ++ [(a.count, index % 2 ^ 32)] else a.out }
    else
      let r := fadd .fp32 a.rej f.val
      { a with rej := if sums then r.val else a.rej, fl := if sums then a.fl ||| f.fl ||| r.fl else a.fl }

/-- A compaction over the values of positions lo to hi - 1: the header in Td carries the running state (R261). -/
def compactChunk (s : Block) (c : Nat) (l : Long) (d : SelDom) (thr : Nat) (cmp sums : Bool) (val : Nat → Nat)
    (lo hi : Nat) : Block :=
  let td := descOf l.td
  let h (o : Nat) : Nat := if lo = 0 then 0 else readLsNat s c (td.addr + o) 4
  let a0 : SelAcc := ⟨h 0, h 4, h 8, h 0x10, h 0x14, 0, (getCore s c).live, []⟩
  let a := (List.range (hi - lo)).foldl (fun a i =>
    selStep d thr cmp sums td.d0 a (val (lo + i)) (l.sb.toNat + lo + i)) a0
  let s := a.out.foldl (fun s e => writeLsNat s c (td.addr + 32 + 4 * e.1) 4 e.2) s
  let s := writeListHeader s c td.addr a.count a.total a.nan
    ((if td.d0 < a.count then 1 else 0) + (if sums then 4 else 0)) a.sel a.rej thr
  updCore s c (fun k => { addFlags k a.fl with live := a.live })

/-- Puts a candidate into the best k so far, best first. -/
def topInsert (d : SelDom) (smallest : Bool) (k : Nat) (l : List (Nat × Nat)) (v i : Nat) : List (Nat × Nat) :=
  (l.takeWhile (fun e => before d smallest e.1 e.2 v i) ++ (v, i) :: l.dropWhile (fun e => before d smallest e.1 e.2 v i)).take k

/-- Pairs as a flat list of numbers, and back: the form in which a partly done top-k keeps its candidates. -/
def flatPairs (l : List (Nat × Nat)) : List Nat := l.flatMap (fun e => [e.1, e.2])
def unflatPairs : List Nat → List (Nat × Nat)
  | a :: b :: r => (a, b) :: unflatPairs r
  | _ => []

/-- A top-k list has been written at an address of core c. -/
def noteTopList (s : Block) (c a : Nat) (int : Bool) (bytes : List Byte) : Block :=
  updCore s c (fun k => { k with topLists := tabSet k.topLists a (int, bytes) })

/-- A top-k over positions lo to hi - 1: the header in Td carries the running state (R241), and the entries are written at the end (R265).
The scratch holds the candidates, pairs of value and linear index. -/
def topkChunk (s : Block) (c : Nat) (l : Long) (d : SelDom) (k : Nat) (smallest : Bool) (val : Nat → Nat) (lo hi total : Nat) :
    Block :=
  let a := (descOf l.td).addr
  let nan0 := if lo = 0 then 0 else readLsNat s c (a + 8) 4
  let best0 := unflatPairs l.scratch
  let r := (List.range (hi - lo)).foldl (fun (r : Nat × List (Nat × Nat)) i =>
    let v := val (lo + i)
    if selNan d v then (satAdd 0xFFFFFFFF r.1 1, r.2) else (r.1, topInsert d smallest k r.2 v (lo + i))) (nan0, best0)
  let idx (i : Nat) : Nat := (l.sb.toNat + i) % 2 ^ 32
  let live := r.2.map (fun e => BitVec.ofNat 32 (idx e.2))
  let s := updCore s c (fun k => { k with live := live })
  let done := decide (hi = total)
  let s := writeListHeader s c a r.2.length (min hi 0xFFFFFFFF) r.1 2 0 0 0
  let s := if done then
      let s := (r.2.zipIdx).foldl (fun s e => writeLsBytes s c (a + 32 + 8 * e.2) (leBytes 4 (idx e.1.2) ++ leBytes 4 e.1.1)) s
      noteTopList s c a (d == .int) (memBytes 0 (getCore s c).ls a (32 + 8 * r.2.length))
    else s
  putDet s c { l with unit := hi, ended := done, scratch := flatPairs r.2 }

/-- The value of an element of a selection source in its 32-bit form. -/
def selValue (s : Block) (c : Nat) (ta : Desc) (i : Nat) : Nat := selForm ta.fmt (readElem s c ta i)

/-- SELT over elements lo to hi - 1. -/
def seltChunk (s : Block) (c : Nat) (l : Long) (lo hi : Nat) : Block :=
  let ta := descOf l.ta
  compactChunk s c l (selDom ta.fmt) (thresholdOf ta.fmt l.sa) (natBit l.x.opt.toNat 0) (natBit l.x.opt.toNat 1)
    (selValue s c ta) lo hi

/-! The product-code engine. -/

/-- PQLOAD at its end: the whole table is replaced (R242). -/
def pqloadEnd (s : Block) (c : Nat) (l : Long) : Block :=
  let ta := descOf l.ta
  let t := (List.range (ta.d0 * ta.d1)).map (fun i => BitVec.ofNat 32 (readElem s c ta i))
  updCore s c (fun k => { k with pq := some ⟨ta.d0, ta.d1, t⟩ })

/-- The distance of code i (R243): the table entries added in ascending sub-space, then the bias; with the flags. -/
def pqDistance (s : Block) (c : Nat) (l : Long) (i : Nat) : Flagged Nat :=
  let ta := descOf l.ta
  match (getCore s c).pq with
  | none => ⟨0, 0⟩
  | some t =>
    let add (a : Flagged Nat) (b : Nat) : Flagged Nat :=
      let r := fadd .fp32 a.val b
      ⟨r.val, a.fl ||| r.fl⟩
    let d := (List.range t.m).foldl (fun a m =>
      add a (((t.tab[readElem s c ta (m + ta.d0 * i) + t.d0 * m]?).getD 0).toNat)) ⟨0, 0⟩
    add d (l.sa.toNat % 2 ^ 32)

/-- Codes between resumable points (R243). -/
def pqChunk (l : Long) : Nat := 2048 / max 1 ((rowBytes (descOf l.ta) + 7) / 8)

/-- PQSCAN over codes lo to hi - 1 of total. -/
def pqscanRun (s : Block) (c : Nat) (l : Long) (lo hi total : Nat) : Block :=
  let opt := l.x.opt.toNat
  let fl := (List.range (hi - lo)).foldl (fun (f : BitVec 16) i => f ||| (pqDistance s c l (lo + i)).fl) 0
  let val (i : Nat) : Nat := (pqDistance s c l i).val
  let s0 := updCore s c (fun k => addFlags k fl)
  if pqFuse opt = 0 then
    let td := descOf l.td
    let s := (List.range (hi - lo)).foldl (fun s' i => writeElem s' c td (lo + i) (val (lo + i))) s0
    putDet s c { l with unit := hi, ended := decide (hi = total) }
  else if pqFuse opt = 1 then
    let s := compactChunk s0 c l .fp (l.sd.toNat % 2 ^ 32) (natBit opt 2) false val lo hi
    putDet s c { l with unit := hi, ended := decide (hi = total) }
  else topkChunk s0 c l .fp (natBits opt 3 4) (natBit opt 7) val lo hi total

/-! CHKV (R244). -/

/-- The record of a CHKV: its mode, or none where it breaks the table. -/
def chkvRecord (b : List Byte) : Option CrcMode :=
  let w := fieldAt b 0 1
  let f := fieldAt b 1 1
  if w = 0 ∨ 64 < w ∨ 8 ≤ f ∨ fieldAt b 2 6 ≠ 0 ∨ fieldAt b 0x18 8 ≠ 0 ∨ 2 ^ w ≤ fieldAt b 8 8 ∨ 2 ^ w ≤ fieldAt b 0x10 8 then none
  else some ⟨w, fieldAt b 8 8, fieldAt b 0x10 8, natBit f 0, natBit f 1, natBit f 2⟩

def chkvChecks (x : XT) (c : Nat) (s : Block) : DFault :=
  let k := getCore s c
  let ta := descOf (getT k x.ta.val)
  let a := (getS k x.sa.val).toNat
  firstFault [
    checkDesc s c 1 ta (ta.kind == kDense) true true 5,
    -- the record can be judged only where it can be read
    (match checkLsAddr s c a 32 32 with
     | some _ => none
     | none => need (chkvRecord (memBytes 0 (getCore s c).ls a 32)).isSome 0x0A (1 * 2 ^ 20)),
    checkLsAddr s c a 32 32]

/-- CHKV: OPT[0] FOLD uses S[SB], OPT[1] CHAIN. -/
def doChkv (c : CoreNo) (x : XT) (s : Block) : Block :=
  decodeLong s c .chkv x (xtUnused x false true false false false true (natBit x.opt.toNat 0) true 3) false (chkvChecks x c)

/-- Bytes of the rows of a tensor, row by row. -/
def rowData (s : Block) (c : Nat) (d : Desc) : List Byte :=
  (List.range (d.d1 * d.d2)).flatMap (fun r =>
    memBytes 0 (getCore s c).ls (d.addr + r / d.d1 * d.s2 + r % d.d1 * d.s1) (rowBytes d))

/-- CHKV at its issue point: the record is read, the register starts, and S[SD] keeps the running value. -/
def startChkv (c : Nat) (s : Block) (l : Long) : Block :=
  if l.unit ≠ 0 then s
  else
    match chkvRecord (memBytes 0 (getCore s c).ls l.sa.toNat 32) with
    | none => faultDet s c 0x0A (1 * 2 ^ 20)
    | some m =>
      let r := if natBit l.x.opt.toNat 1 then crcUnwind m (l.sd.toNat % 2 ^ m.width)
        else if natBit l.x.opt.toNat 0 then crcBytes m m.init (leBytes 8 l.sb.toNat)
        else m.init
      putDet s c { l with scratch := [r, m.width, m.poly, m.init, boolNat m.refin, boolNat m.refout, boolNat m.invert] }

/-- The mode that a running CHKV has kept. -/
def chkvMode (l : Long) : CrcMode :=
  let g (i : Nat) : Nat := (l.scratch[i]?).getD 0
  ⟨g 1, g 2, g 3, g 4 == 1, g 5 == 1, g 6 == 1⟩

/-- CHKV over bytes lo to hi - 1 of its data. -/
def chkvRun (s : Block) (c : Nat) (l : Long) (lo hi total : Nat) : Block :=
  let m := chkvMode l
  let r := crcBytes m ((l.scratch.head?).getD 0) (((rowData s c (descOf l.ta)).drop lo).take (hi - lo))
  let s := updCore s c (fun k => setS k l.x.sd.val (BitVec.ofNat 64 (crcFinish m r)))
  putDet s c { l with unit := hi, ended := decide (hi = total), scratch := r :: l.scratch.drop 1 }

end Sys2Proof.Machine
end

