-- ==== Sys2Proof/Machine/LongRun.lean ====
section
/-! DEFINITION. LongRun: issue point, resumable points and completion of the long instructions other than AMUL (R196, R197, R233,
R241, R243, R244, R262). -/
namespace Sys2Proof.Machine

/-- What a long instruction does at its issue point: a selection empties the live list, RANGE its record (R262, R233). -/
def startLong (c : Nat) (s : Block) (l : Long) : Block :=
  if l.unit ≠ 0 then s
  else
    match l.kind with
    | .amul => s
    | .range => startRange c s l
    | .qconv => s
    | .dqconv => s
    | .tpack => s
    | .selt => updCore s c (fun k => { k with live := [] })
    | .topk => updCore s c (fun k => { k with live := [] })
    | .pqload => s
    | .pqscan => if pqFuse l.x.opt.toNat = 0 then s else updCore s c (fun k => { k with live := [] })
    | .chkv => startChkv c s l

/-- LONG_ISSUE_POINT (R197). -/
def doLongIssuePoint (c : CoreNo) (s : Block) : Block :=
  if issueReady s c false then passIssue s c (startLong c) else s

/-- LONG_RESUMABLE_POINT: the instruction runs to its next resumable point, or to the end of its real work (R233, R241, R243,
R244). -/
def doLongResumablePoint (c : CoreNo) (s : Block) : Block :=
  match (getCore s c).det with
  | none => s
  | some l =>
    if l.parked ∨ l.ended then s
    else
      let l := { l with moved := true }
      let s := longAtPort s c
      let total := elemCount (descOf l.ta)
      let hi := min total (l.unit + 16384)
      let step (s' : Block) : Block := putDet s' c { l with unit := hi, ended := decide (hi = total) }
      match l.kind with
      | .amul => s
      | .range => rangeChunk s c l l.unit hi
      | .qconv => step (qconvChunk s c l l.unit hi)
      | .dqconv => step (dqconvChunk s c l l.unit hi)
      | .tpack => if hi = total then tpackEnd s c l else tpackChunk s c l hi
      | .selt => step (seltChunk s c l l.unit hi)
      | .topk =>
        let ta := descOf l.ta
        topkChunk s c l (selDom ta.fmt) (natBits l.x.opt.toNat 0 4) (natBit l.x.opt.toNat 4) (selValue s c ta) l.unit hi total
      | .pqload => s
      | .pqscan =>
        let codes := (descOf l.ta).d1 * (descOf l.ta).d2
        pqscanRun s c l l.unit (min codes (l.unit + pqChunk l)) codes
      | .chkv =>
        let ta := descOf l.ta
        let bytes := rowBytes ta * (ta.d1 * ta.d2)
        chkvRun s c l l.unit (min bytes (l.unit + 65536)) bytes

/-- The final results of a long instruction: PQLOAD's table, the length that TPACK used. -/
def finishLong (s : Block) (c : Nat) (l : Long) : Block :=
  match l.kind with
  | .pqload => pqloadEnd s c l
  | .tpack => updCore s c (fun k => setS k l.x.sd.val (BitVec.ofNat 64 ((l.scratch.head?).getD 0)))
  | _ => s

/-- LONG_COMPLETE: the oldest long instruction whose real work has ended completes and unpins its operands; PQLOAD has no
resumable point, and ends here. -/
def doLongComplete (c : CoreNo) (s : Block) : Block :=
  let k := getCore s c
  match longs k with
  | [] => s
  | l :: _ =>
    if l.kind == .amul || l.parked || !(l.ended || l.kind == .pqload) then s
    else
      let s := finishLong s c l
      refreshWaits (updCore s c oldestDone)

end Sys2Proof.Machine
end

