-- ==== Sys2Proof/Machine/Vector.lean ====
section
/-! DEFINITION. Vector: the vector instructions of R183 to R185. A lane result carries the FSTAT flags that it sets. -/
namespace Sys2Proof.Machine

/-- Lane i of w bits of a vector register. -/
def laneOf (w : Nat) (v : BitVec 1024) (i : Nat) : Nat := bvBits v (w * i) w
/-- The lane width of a type, and the number of lanes. -/
def laneW (bf : Bool) : Nat := if bf then 16 else 32
def laneN (bf : Bool) : Nat := if bf then 64 else 32
/-- The FP format of the lanes of a type. -/
def laneF (bf : Bool) : FFmt := if bf then .bf16 else .fp32

/-- The lanes of n that predicate p has active. -/
def activeLanes (k : Core) (p n : Nat) : List Nat := (List.range n).filter (fun i => (getP k p).getLsbD i)

/-- Writes the active lanes of n lanes of w bits of vector register vd, and the flags of what was written: an inactive lane
keeps its value and raises no flag (R185). -/
def writeLanes (k : Core) (vd p w n : Nat) (f : Nat → Flagged Nat) : Core :=
  let rs := (activeLanes k p n).map (fun i => (i, f i))
  let v := rs.foldl (fun v r => bvPut v (w * r.1) w r.2.val) (getV k vd)
  addFlags (setV k vd v) (flagsOf (rs.map (·.2)))

/-- Makes a value with no flags. -/
def plain (v : Nat) : Flagged Nat := ⟨v, 0⟩

/-- The ILLEGAL kinds of a vector instruction: BF16 lanes and K2 functions at level 1, a type that the function does not have,
an operand field it does not use. -/
def vKinds (s : Block) (c : Nat) (x : VV) (k2Fn : Bool) (typeOk vbUsed : Bool) : List Nat :=
  k2 s c (x.bf16 || k2Fn) ++ mustZero typeOk ++ mustZero (vbUsed || x.vb.val == 0)

/-- An instruction on the lanes of both types with two vector operands. -/
def vec2 (s : Block) (c : Nat) (x : VV) (f : FFmt → Nat → Nat → Flagged Nat) : Block :=
  issueShort s c 4 (vKinds s c x false true true) [] [x.vd.val, x.va.val, x.vb.val] (onCore c (fun k =>
    let w := laneW x.bf16
    writeLanes k x.vd.val x.pred.val w (laneN x.bf16)
      (fun i => f (laneF x.bf16) (laneOf w (getV k x.va.val) i) (laneOf w (getV k x.vb.val) i))))

/-- An instruction on the lanes of both types with one vector operand. -/
def vec1 (s : Block) (c : Nat) (x : VV) (k2Fn : Bool) (f : FFmt → Nat → Flagged Nat) : Block :=
  issueShort s c 4 (vKinds s c x k2Fn true false) [] [x.vd.val, x.va.val] (onCore c (fun k =>
    let w := laneW x.bf16
    writeLanes k x.vd.val x.pred.val w (laneN x.bf16) (fun i => f (laneF x.bf16) (laneOf w (getV k x.va.val) i))))

/-- An instruction on S32 lanes with two operands, or with one. -/
def vecI2 (s : Block) (c : Nat) (x : VV) (f : Word → Word → Word) : Block :=
  issueShort s c 4 (vKinds s c x false (!x.bf16) true) [] [x.vd.val, x.va.val, x.vb.val] (onCore c (fun k =>
    writeLanes k x.vd.val x.pred.val 32 32 (fun i =>
      plain (f (BitVec.ofNat 32 (laneOf 32 (getV k x.va.val) i)) (BitVec.ofNat 32 (laneOf 32 (getV k x.vb.val) i))).toNat)))
def vecI1 (s : Block) (c : Nat) (x : VV) (f : Nat → Flagged Nat) : Block :=
  issueShort s c 4 (vKinds s c x false (!x.bf16) false) [] [x.vd.val, x.va.val] (onCore c (fun k =>
    writeLanes k x.vd.val x.pred.val 32 32 (fun i => f (laneOf 32 (getV k x.va.val) i))))

/-- A transcendental of BF16 lanes is computed as FP32 and then rounded to BF16 (R184). -/
def transc (g : Nat → Flagged Nat) (f : FFmt) (v : Nat) : Flagged Nat :=
  match f with
  | .bf16 =>
    let r := g (fwiden .bf16 v)
    let q := fconvert .fp32 .bf16 r.val
    ⟨q.val, r.fl ||| q.fl⟩
  | _ => g v

/-- The sign bit of a lane. -/
def signBit (f : FFmt) : Nat := 2 ^ (f.ebits + f.mbits)

def doVadd (c : CoreNo) (x : VV) (s : Block) : Block := vec2 s c x fadd
def doVsub (c : CoreNo) (x : VV) (s : Block) : Block := vec2 s c x fsub
def doVmul (c : CoreNo) (x : VV) (s : Block) : Block := vec2 s c x fmul
def doVmin (c : CoreNo) (x : VV) (s : Block) : Block := vec2 s c x (fun f a b => plain (fmin f a b))
def doVmax (c : CoreNo) (x : VV) (s : Block) : Block := vec2 s c x (fun f a b => plain (fmax f a b))
def doVabs (c : CoreNo) (x : VV) (s : Block) : Block := vec1 s c x false (fun f a => plain (a % signBit f))
def doVneg (c : CoreNo) (x : VV) (s : Block) : Block :=
  vec1 s c x false (fun f a => plain (if signBit f ≤ a then a - signBit f else a + signBit f))
def doVrcp (c : CoreNo) (x : VV) (s : Block) : Block := vec1 s c x false (transc frcp)
def doVrsq (c : CoreNo) (x : VV) (s : Block) : Block := vec1 s c x false (transc frsq)
def doVexp2 (c : CoreNo) (x : VV) (s : Block) : Block := vec1 s c x false (transc fexp2)
def doVlog2 (c : CoreNo) (x : VV) (s : Block) : Block := vec1 s c x false (transc flog2)
def doVtanh (c : CoreNo) (x : VV) (s : Block) : Block := vec1 s c x true (transc ftanh)

/-- VSEL: lane i from va or vb by bit i of the predicate; not masked. -/
def doVsel (c : CoreNo) (x : VV) (s : Block) : Block :=
  issueShort s c 4 (vKinds s c x false true true) [] [x.vd.val, x.va.val, x.vb.val] (onCore c (fun k =>
    let w := laneW x.bf16
    let v := (List.range (laneN x.bf16)).foldl (fun v i =>
      bvPut v (w * i) w (laneOf w (if (getP k x.pred.val).getLsbD i then getV k x.va.val else getV k x.vb.val) i)) (0 : BitVec 1024)
    setV k x.vd.val v))

/-- One level of the tree of R83: neighbours in pairs; a side that takes no part passes its sibling up. -/
def treeLevel {α : Type} (f : α → α → α) : List (Option α) → List (Option α)
  | a :: b :: r =>
    (match a, b with
     | some x, some y => some (f x y)
     | some x, none => some x
     | none, y => y) :: treeLevel f r
  | r => r

/-- The fixed binary tree over leaves (R83, R184). -/
def treeFold {α : Type} (f : α → α → α) : Nat → List (Option α) → Option α
  | 0, l => (l.head?).join
  | n + 1, l => treeFold f n (treeLevel f l)

/-- VRSUM (R184): each addition rounds to FP32; BF16 lanes are widened, and the sum rounded once to BF16. No active lane: +0. -/
def doVrsum (c : CoreNo) (x : VV) (s : Block) : Block :=
  issueShort s c 4 (vKinds s c x false true false) [] [x.vd.val, x.va.val] (onCore c (fun k =>
    let w := laneW x.bf16
    let n := laneN x.bf16
    let leaf (i : Nat) : Option (Flagged Nat) :=
      if (getP k x.pred.val).getLsbD i then some (plain (fwiden (laneF x.bf16) (laneOf w (getV k x.va.val) i))) else none
    let add (a b : Flagged Nat) : Flagged Nat :=
      let r := fadd .fp32 a.val b.val
      ⟨r.val, a.fl ||| b.fl ||| r.fl⟩
    let r := (treeFold add 6 ((List.range n).map leaf)).getD (plain 0)
    let q := if x.bf16 then fconvert .fp32 .bf16 r.val else plain r.val
    addFlags (setV k x.vd.val (BitVec.ofNat 1024 q.val)) (r.fl ||| q.fl)))

/-- VRMAX (R184): the maximum of the active lanes; with none active, -∞. -/
def doVrmax (c : CoreNo) (x : VV) (s : Block) : Block :=
  issueShort s c 4 (vKinds s c x false true false) [] [x.vd.val, x.va.val] (onCore c (fun k =>
    let w := laneW x.bf16
    let f := laneF x.bf16
    let leaf (i : Nat) : Option Nat :=
      if (getP k x.pred.val).getLsbD i then some (laneOf w (getV k x.va.val) i) else none
    let r := (treeFold (fmax f) 6 ((List.range (laneN x.bf16)).map leaf)).getD (f.inf true)
    setV k x.vd.val (BitVec.ofNat 1024 (if fisNan f r then f.nan else r))))

/-- VBCAST: the low lane bits of S[va field] into every active lane. -/
def doVbcast (c : CoreNo) (x : VV) (s : Block) : Block :=
  issueShort s c 4 (vKinds s c x false true false) [x.va.val] [x.vd.val] (onCore c (fun k =>
    let w := laneW x.bf16
    writeLanes k x.vd.val x.pred.val w (laneN x.bf16) (fun _ => plain ((getS k x.va.val).toNat % 2 ^ w))))

/-- VEXTR: S[vd field] = lane (S[vb field] mod lanes) of va; the pred field is unused. -/
def doVextr (c : CoreNo) (x : VV) (s : Block) : Block :=
  issueShort s c 4 (vKinds s c x false true true ++ mustZero (x.pred.val == 0)) [x.vd.val, x.vb.val] [x.va.val]
    (onCore c (fun k => setS k x.vd.val (BitVec.ofNat 64
      (laneOf (laneW x.bf16) (getV k x.va.val) ((getS k x.vb.val).toNat % laneN x.bf16)))))

def doViadd (c : CoreNo) (x : VV) (s : Block) : Block := vecI2 s c x (fun a b => a + b)
def doVisub (c : CoreNo) (x : VV) (s : Block) : Block := vecI2 s c x (fun a b => a - b)
def doVimul (c : CoreNo) (x : VV) (s : Block) : Block := vecI2 s c x (fun a b => a * b)
def doVand (c : CoreNo) (x : VV) (s : Block) : Block := vecI2 s c x (fun a b => a &&& b)
def doVor (c : CoreNo) (x : VV) (s : Block) : Block := vecI2 s c x (fun a b => a ||| b)
def doVxor (c : CoreNo) (x : VV) (s : Block) : Block := vecI2 s c x (fun a b => a ^^^ b)
def doVshl (c : CoreNo) (x : VV) (s : Block) : Block := vecI2 s c x (fun a b => a <<< (b.toNat % 32))
def doVshr (c : CoreNo) (x : VV) (s : Block) : Block := vecI2 s c x (fun a b => a >>> (b.toNat % 32))
def doVcvtif (c : CoreNo) (x : VV) (s : Block) : Block := vecI1 s c x (fun a => fofInt .fp32 (signedOf 32 a))
def doVcvtfi (c : CoreNo) (x : VV) (s : Block) : Block :=
  vecI1 s c x (fun a => let r := ftoS32 a; ⟨narrowInt 32 r.val, r.fl⟩)

/-- VNARROW: BF16 lanes 0 to 31 from FP32 va, 32 to 63 from FP32 vb; type 1, K2. -/
def doVnarrow (c : CoreNo) (x : VV) (s : Block) : Block :=
  issueShort s c 4 (k2 s c true ++ mustZero x.bf16) [] [x.vd.val, x.va.val, x.vb.val] (onCore c (fun k =>
    writeLanes k x.vd.val x.pred.val 16 64 (fun i =>
      fconvertIn .fp32 .bf16 (if i < 32 then laneOf 32 (getV k x.va.val) i else laneOf 32 (getV k x.vb.val) (i - 32)))))

/-- VWIDENL and VWIDENH: FP32 lanes from BF16 lanes from `first` on of va; exact; type 1, K2. -/
def widen (s : Block) (c : Nat) (x : VV) (first : Nat) : Block :=
  issueShort s c 4 (k2 s c true ++ mustZero x.bf16 ++ mustZero (x.vb.val == 0)) [] [x.vd.val, x.va.val] (onCore c (fun k =>
    writeLanes k x.vd.val x.pred.val 32 32 (fun i => fconvertIn .bf16 .fp32 (laneOf 16 (getV k x.va.val) (first + i)))))
def doVwidenl (c : CoreNo) (x : VV) (s : Block) : Block := widen s c x 0
def doVwidenh (c : CoreNo) (x : VV) (s : Block) : Block := widen s c x 32

/-- VFMA: vd = va × vb + vd with one rounding. -/
def doVfma (c : CoreNo) (x : VV) (s : Block) : Block :=
  issueShort s c 4 (vKinds s c x false true true) [] [x.vd.val, x.va.val, x.vb.val] (onCore c (fun k =>
    let w := laneW x.bf16
    writeLanes k x.vd.val x.pred.val w (laneN x.bf16) (fun i =>
      ffma (laneF x.bf16) (laneOf w (getV k x.va.val) i) (laneOf w (getV k x.vb.val) i) (laneOf w (getV k x.vd.val) i))))

/-- A comparison of VCMP: 0 EQ, 1 NE, 2 LT, 3 LE on FP lanes, 4 IEQ, 5 ILT on S32 lanes. -/
def vcmpLane (f : FFmt) (fn a b : Nat) : Bool :=
  match fn with
  | 0 => feq f a b
  | 1 => !feq f a b
  | 2 => flt f a b
  | 3 => fle f a b
  | 4 => a == b
  | _ => decide (signedOf 32 a < signedOf 32 b)

/-- VCMP: writes predicate P[vd[2:0]]; inactive lanes, and bits 32 to 63 of 32-lane work, get 0; the integer comparisons
require type 0. -/
def doVcmp (c : CoreNo) (fn : Fin 6) (x : VV) (s : Block) : Block :=
  issueShort s c 4 (vKinds s c x false (decide (fn.val < 4) || !x.bf16) true ++ mustZero (decide (x.vd.val < 8))) []
    [x.va.val, x.vb.val] (onCore c (fun k =>
      let w := laneW x.bf16
      let bits := (activeLanes k x.pred.val (laneN x.bf16)).filter (fun i =>
        vcmpLane (laneF x.bf16) fn.val (laneOf w (getV k x.va.val) i) (laneOf w (getV k x.vb.val) i))
      setP k x.vd.val (bits.foldl (fun v i => v ||| BitVec.ofNat 64 (2 ^ i)) 0)))

end Sys2Proof.Machine
end

