-- ==== Sys2Proof/Machine/Collective.lean ====
section
/-! DEFINITION. Collective: how contributions combine (R82, R83, R247, R248, R271 to R274). Contributions are lists of elements. -/
namespace Sys2Proof.Machine

/-- The function codes of major 0x37 (R248). -/
def fnCred : Nat := 0
def fnCbcast : Nat := 1
def fnCcat : Nat := 2
def fnCtopk : Nat := 3
def fnCbar : Nat := 4

/-- Bytes of one element in a contribution: a 4-bit code takes one. -/
def partWidth (fmt : Nat) : Nat := max 1 (fmtContainer fmt / 8)

/-- A contribution as numbers of n bytes. -/
def partNums (n : Nat) (l : List Byte) : List Nat := (List.range (l.length / n)).map (fun i => fieldAt l (i * n) n)

/-- Neighbours of one level of the tree over ordinals: two results with the same parent combine, one alone passes up (R247). -/
def ordLevel {α : Type} (f : α → α → α) : List (Nat × α) → List (Nat × α)
  | (i, x) :: (j, y) :: r => if i / 2 = j / 2 then (i / 2, f x y) :: ordLevel f r else (i / 2, x) :: ordLevel f ((j, y) :: r)
  | [(i, x)] => [(i / 2, x)]
  | [] => []

/-- The fixed binary tree over ordinals, of the given number of levels. -/
def ordTree {α : Type} (f : α → α → α) : Nat → List (Nat × α) → Option α
  | 0, l => l.head?.map (·.2)
  | n + 1, l => ordTree f n (ordLevel f l)

/-- Levels of the tree that any ordinal of any scope fits in (R245). -/
def treeLevels : Nat := 30

/-- One element of a reduction (R248): 0 and 1 sums in FP32, 2 a wrapping sum, 3 MAX, 4 MIN. -/
def redElem (op : Nat) (int : Bool) (a b : Flagged Nat) : Flagged Nat :=
  if op = 2 then ⟨(a.val + b.val) % 2 ^ 32, a.fl ||| b.fl⟩
  else if op = 3 then
    ⟨if int then (if signedOf 32 a.val < signedOf 32 b.val then b.val else a.val) else fmax .fp32 a.val b.val, a.fl ||| b.fl⟩
  else if op = 4 then
    ⟨if int then (if signedOf 32 b.val < signedOf 32 a.val then b.val else a.val) else fmin .fp32 a.val b.val, a.fl ||| b.fl⟩
  else
    let r := fadd .fp32 a.val b.val
    ⟨r.val, a.fl ||| b.fl ||| r.fl⟩

/-- A reduction of contributions, ascending ordinal: the elements of the result and the flags. -/
def reduceParts (sh : CollShape) (parts : List CollPart) : List Nat × BitVec 16 :=
  let op := natBits sh.opt 3 3
  let w := partWidth sh.fmt
  let vals := parts.map (fun p => (p.ordinal,
    if p.remote then (partNums 4 p.data).map plain
    else (partNums w p.data).map (fun v => plain (if op = 1 then fwiden .bf16 v else v))))
  let r := (ordTree (fun a b => List.zipWith (redElem op (sh.fmt == 0x31)) a b) treeLevels vals).getD []
  (r.map (·.val), flagsOf r)

/-! Lists (R238). -/

def lhField (l : List Byte) (o : Nat) : Nat := fieldAt l o 4
def listPairs (l : List Byte) : Bool := natBit (lhField l 0xC) 1
def listSums (l : List Byte) : Bool := natBit (lhField l 0xC) 2

/-- The entries that a contributed list holds: min(COUNT, D0) of them. -/
def listEntries (w d0 : Nat) (l : List Byte) : List (List Byte) :=
  (List.range (min (lhField l 0) d0)).map (fun i => bytesAt l (32 + w * i) w)

/-- The entries of a contribution. -/
def partEntries (w : Nat) (sh : CollShape) (q : CollPart) : List (List Byte) :=
  if q.remote then (List.range (lhField q.data 0x1C)).map (fun i => bytesAt q.data (32 + w * i) w) else listEntries w sh.d0 q.data

/-- A sum of a field over contributions that stops at all ones. -/
def satSum (parts : List CollPart) (o : Nat) : Nat := parts.foldl (fun t p => satAdd 0xFFFFFFFF t (lhField p.data o)) 0

/-- A header in its order of fields. -/
def listHeader (count total nan flags sel rej thr : Nat) : List Byte :=
  leBytes 4 count ++ leBytes 4 total ++ leBytes 4 nan ++ leBytes 4 flags ++ leBytes 4 sel ++ leBytes 4 rej ++ leBytes 4 thr ++
    zeroBytes 4

/-- CCAT (R248, R271 to R273) into a list of capacity d0: none where members disagree on PAIRS. -/
def catParts (d0 : Nat) (sh : CollShape) (parts : List CollPart) : Option (List Byte × BitVec 16) :=
  match parts with
  | [] => none
  | p :: _ =>
    let pairs := listPairs p.data
    if !parts.all (fun q => listPairs q.data == pairs) then none
    else
      let w := if pairs then 8 else 4
      let ents := parts.flatMap (partEntries w sh)
      let ovf := parts.any (fun q => natBit (lhField q.data 0xC) 0) || decide (d0 < ents.length)
      let sums := parts.all (fun q => listSums q.data)
      let tree (o : Nat) : Flagged Nat :=
        if sums then (ordTree (redElem 0 false) treeLevels (parts.map (fun q => (q.ordinal, plain (lhField q.data o))))).getD (plain 0)
        else plain 0
      let sel := tree 0x10
      let rej := tree 0x14
      let flags := boolNat ovf + (if pairs then 2 else 0) + (if sums then 4 else 0)
      some (listHeader (satSum parts 0) (satSum parts 4) (satSum parts 8) flags sel.val rej.val (lhField p.data 0x18) ++
        (ents.take d0).flatten, sel.fl ||| rej.fl)

/-- CTOPK (R248, R256, R274): the k best of the union of the entries; ties of value and index go to the lower ordinal. -/
def topParts (int : Bool) (sh : CollShape) (parts : List CollPart) : List Byte :=
  let d : SelDom := if int then .int else .fp
  let k := natBits sh.opt 6 7
  let smallest := natBit sh.opt 13
  let ents := parts.flatMap (fun q => (partEntries 8 sh q).map (fun e => (fieldAt e 4 4, fieldAt e 0 4)))
  let best := (ents.filter (fun e => !selNan d e.1)).foldl (fun l e =>
    (l.takeWhile (fun q => !before d smallest e.1 e.2 q.1 q.2) ++ e :: l.dropWhile (fun q => !before d smallest e.1 e.2 q.1 q.2)).take k) []
  listHeader best.length (satSum parts 4) (satSum parts 8) 2 0 0 0 ++ best.flatMap (fun e => leBytes 4 e.2 ++ leBytes 4 e.1)

/-- Whether the values of contributed top-k lists are ranked as integers: by the source of the first list whose source is known, else as the
free choice says (R253, R256, R274; log entry 133). -/
def partsInt (n : Nat) (parts : List CollPart) : Bool := (parts.findSome? (·.int)).getD (Config.ctopkInt n)

/-- The result of a collective of number n from its contributions in ascending ordinal, for a member whose destination has
capacity d0: elements for a DENSE destination, bytes for a LIST; none on a disagreement. -/
def combineParts (n d0 : Nat) (sh : CollShape) (parts : List CollPart) : Option (List Nat × List Byte × BitVec 16) :=
  if sh.func = fnCred then
    let r := reduceParts sh parts
    some (r.1, [], r.2)
  else if sh.func = fnCbcast then
    (parts.find? (fun p => p.ordinal == sh.root || (p.remote && p.ordinal / 2 ^ 15 == sh.root / 2 ^ 15))).map (fun p => (partNums (partWidth sh.fmt) p.data, [], 0))
  else if sh.func = fnCcat then (catParts d0 sh parts).map (fun r => ([], r.1, r.2))
  else if sh.func = fnCtopk then some ([], topParts (partsInt n parts) sh parts, 0)
  else some ([], [], 0)

end Sys2Proof.Machine
end

