-- ==== Sys2Proof/Machine/Seat.lean ====
section
/-! DEFINITION. Seat: where a rank of a context stands: on a core, or in the save area of a parked run (R353, R354). Posted
instructions and fills reach its windows through the operations of this file. -/
namespace Sys2Proof.Machine

/-- A rank on a core, or saved. -/
inductive Seat where
  | placed (c : Nat)
  | saved (x rank : Nat)
  deriving DecidableEq, Repr

/-- The seat of a rank: its saved image while there is one (R354), else its core, or the one that its context keeps between runs, while the core
is placed with that rank. -/
def seatOf (s : Block) (x rank : Nat) : Seat :=
  match ((getCtx s x).run.bind (fun r => r.cores[rank]?)).or ((getCtx s x).heldCores[rank]?) with
  | some c => if (getCore s c).placed = some ⟨x, rank⟩ ∧ tabFind (getCtx s x).saved rank = none then .placed c else .saved x rank
  | none => .saved x rank

def seatCore (s : Block) : Seat → Core
  | .placed c => getCore s c
  | .saved x r => tabGet {} (getCtx s x).saved r

def updSeat (s : Block) (t : Seat) (f : Core → Core) : Block :=
  match t with
  | .placed c => updCore s c f
  | .saved x r => updCtx s x (fun k => { k with saved := tabSet k.saved r (f (tabGet {} k.saved r)) })

/-- The context of a seat. -/
def seatCtx (s : Block) : Seat → Nat
  | .placed c => ctxNoOf (getCore s c)
  | .saved x _ => x

/-- The cluster index of a saved rank. -/
def savedCluOf (s : Block) (x r : Nat) : Nat := tabGet 0 (getCtx s x).savedClu r

/-- The physical pieces of n bytes of a window from an offset, address and length: the window is made of the parts listed, of one
size each. -/
def piecesOf (unit : Nat) (parts : List Nat) (off n : Nat) : List (Nat × Nat) :=
  (List.range ((off + n + unit - 1) / unit - off / unit)).filterMap (fun i =>
    let p := off / unit + i
    let lo := max off (p * unit)
    let hi := min (off + n) ((p + 1) * unit)
    match parts[p]? with
    | some q => if lo < hi then some (q * unit + (lo - p * unit), hi - lo) else none
    | none => none)

/-- The pieces of a context's device-memory window. -/
def dmPieces (pages : List Nat) (off n : Nat) : List (Nat × Nat) := piecesOf pageBytes pages off n

/-- The device-memory lines that n bytes of a program address touch. -/
def seatLines (s : Block) (t : Seat) (a n : Nat) : List Nat :=
  if a < dmBase then []
  else (dmPieces (getCtx s (seatCtx s t)).pages (a - dmBase) n).flatMap (fun p => linesOf p.1 p.2)

/-- Reads n bytes at a program address of a seat. -/
def seatRead (s : Block) (t : Seat) (a n : Nat) : List Byte :=
  if a < csBase then memBytes 0 (seatCore s t).ls a n
  else if a < dmBase then
    match t with
    | .placed c => readProg s c a n
    | .saved x r => memBytes 0 (tabGet [] (getCtx s x).savedSlices (savedCluOf s x r)) (a - csBase) n
  else (dmPieces (getCtx s (seatCtx s t)).pages (a - dmBase) n).flatMap (fun p => memBytes 0 s.dm p.1 p.2)

/-- The words in error among n bytes of a store, by word number in it; base is the number of its first word. -/
def wordsInError (s : Block) (base a n : Nat) : List Nat :=
  (s.sramErr.filter (fun e => decide (base + a / 8 ≤ e.1) && decide (e.1 < base + (a + n + 7) / 8))).map (fun e => e.1 - base)

/-- Reads n bytes at a program address of core c through the codes of the stores and of device memory: the state after it, and the kind
of DATA fault with the address of the first word or line that is uncorrectable (R562, R563, R565). -/
def windowCheck (s : Block) (c a n source : Nat) : Block × Option (Nat × Nat) :=
  if a < csBase then
    let r := sramRead s 1 c (wordsInError s (wordLs c 0) a n)
    (r.1, r.2.map (fun w => (3, w)))
  else if a < dmBase then
    let g := cluOfCore c
    (piecesOf sliceBytes (slicesHeld s g (ctxNoOf (getCore s c))) (a - csBase) n).foldl (fun r p =>
      let q := sramRead r.1 2 g (wordsInError r.1 (wordCs g 0) p.1 p.2)
      (q.1, r.2.or (q.2.map (fun w => (3, w))))) (countClu s g 2 n, none)
  else
    let r := dmReadLines s (seatLines s (.placed c) a n) ⟨source, some (seatCtx s (.placed c))⟩
    (r.1, r.2.map (fun line => (1, line * 64)))

/-- Whether a read of n bytes at a program address of a seat meets an uncorrectable line or word, and the state after it (R562,
R565). -/
def seatCheck (s : Block) (t : Seat) (a n : Nat) (source : Nat) : Block × Bool :=
  match t with
  | .placed c =>
    let r := windowCheck s c a n source
    (r.1, r.2.isSome)
  | .saved x rank =>
    if a < dmBase then (s, false)
    else
      let r := dmReadLines s (seatLines s (.saved x rank) a n) ⟨source, some x⟩
      (r.1, r.2.isSome)

/-- Writes bytes at a program address of a seat; the answer says whether a narrower write met an uncorrectable line. -/
def seatWrite (s : Block) (t : Seat) (a : Nat) (b : List Byte) : Block × Bool :=
  if a < csBase then
    match t with
    | .placed c => (writeLsBytes s c a b, false)
    | .saved x r => (updSeat s (.saved x r) (fun k => { k with ls := memPut 0 k.ls a b }), false)
  else if a < dmBase then
    match t with
    | .placed c =>
      match locateAll s c a b.length with
      | .inl l =>
        let addrs := l.filterMap (fun x => match x with
          | .cs a => some a
          | _ => none)
        let s := (addrRuns addrs).foldl (fun s w => sramNoteWrite s (wordCs (cluOfCore c) 0) w.1 w.2) (countClu s (cluOfCore c) 3 b.length)
        (writeLocs s c l b, false)
      | .inr _ => (s, false)
    | .saved x r =>
      let i := savedCluOf s x r
      (updCtx s x (fun k => { k with savedSlices := tabSet k.savedSlices i (memPut 0 (tabGet [] k.savedSlices i) (a - csBase) b) }), false)
  else
    (dmPieces (getCtx s (seatCtx s t)).pages (a - dmBase) b.length).foldl (fun (r : (Block × Bool) × List Byte) p =>
      let q := dmWriteBytes r.1.1 p.1 (r.2.take p.2) ⟨3, some (seatCtx s t)⟩
      ((q.1, r.1.2 || q.2.isSome), r.2.drop p.2)) ((s, false), b) |>.1

/-- Draws n unspecified bytes (log entry 2). -/
def freeBytes (s : Block) (n : Nat) : Block × List Byte :=
  ({ s with fresh := s.fresh + n }, (List.range n).map (fun i => Config.freeByte (s.fresh + i)))

/-- The rows of a tensor: byte address and length of each, or one piece for the kinds that are copied byte for byte. -/
def tensorRows (d : Desc) : List (Nat × Nat) :=
  if d.kind = kDense then
    (List.range (d.d1 * d.d2)).map (fun r => (d.addr + r / d.d1 * d.s2 + r % d.d1 * d.s1, rowBytes d))
  else [(d.addr, extentLen d)]

/-- The bytes of a tensor, row by row. -/
def seatReadTensor (s : Block) (t : Seat) (d : Desc) : List Byte := (tensorRows d).flatMap (fun r => seatRead s t r.1 r.2)

/-- Writes the rows of a tensor; the last half byte of a row of an odd number of 4-bit codes keeps what it held. -/
def seatWriteTensor (s : Block) (t : Seat) (d : Desc) (b : List Byte) : Block × Bool :=
  (tensorRows d).foldl (fun (r : (Block × Bool) × List Byte) row =>
    let row' := r.2.take row.2
    let row' :=
      if d.kind = kDense ∧ fmtContainer d.fmt = 4 ∧ d.d0 % 2 = 1 then
        let old := ((seatRead r.1.1 t (row.1 + row.2 - 1) 1).head?).getD 0
        let new := (row'.getLast?).getD 0
        row'.dropLast ++ [BitVec.ofNat 8 (old.toNat / 16 * 16 + new.toNat % 16)]
      else row'
    let q := seatWrite r.1.1 t row.1 row'
    ((q.1, r.1.2 || q.2), r.2.drop row.2)) ((s, false), b) |>.1

/-- Leaves unspecified bytes in a tensor (R237). -/
def scribble (s : Block) (t : Seat) (d : Desc) : Block :=
  let r := freeBytes s (sumNat ((tensorRows d).map (·.2)))
  (seatWriteTensor r.1 t d r.2).1

/-- The window a tensor lies in by its address: 0 local store, 1 cluster store, 2 device memory. -/
def windowOfAddr (a : Nat) : Nat := if a < csBase then 0 else if a < dmBase then 1 else 2

/-- The tier-engine share that serves a seat: the one of its core's die; a saved rank's is die 0's (log entry 18). -/
def shareOf : Seat → Nat
  | .placed c => dieOfCore c
  | .saved _ _ => 0

/-- The share that serves a stack of device memory: that of the die that the stack belongs to (R307). -/
def shareOfStack (k : Nat) : Nat := k / 2

/-- The share that carries out a transfer to a program address of a seat: that of the die of the destination (R307). -/
def destShare (s : Block) (t : Seat) (a : Nat) : Nat :=
  if a < dmBase then shareOf t
  else (((dmPieces (getCtx s (seatCtx s t)).pages (a - dmBase) 1).head?).map (fun p => shareOfStack (stackOf p.1))).getD (shareOf t)

/-- Counts bytes that the tier engine wrote, by the share of each destination (R307, R336). -/
def countWritten (s : Block) (t : Seat) (a n : Nat) : Block :=
  if a < dmBase then bump s (pgTie (shareOf t)) (if windowOfAddr a = 0 then 2 else 3) n
  else (dmPieces (getCtx s (seatCtx s t)).pages (a - dmBase) n).foldl (fun s p => bump s (pgTie (shareOfStack (stackOf p.1))) 5 p.2) s

end Sys2Proof.Machine
end

