-- ==== Sys2Proof/Machine/Streams.lean ====
section
/-! DEFINITION. Streams: frames to the router, and the two ends of a stream (R501 to R504, R506, R507). -/
namespace Sys2Proof.Machine

/-- A frame goes to the router. -/
def toRouter (s : Block) (via : Option Nat) (f : Frame) : Block := { s with routerIn := s.routerIn ++ [⟨via, f⟩] }

/-- A frame of this module outside streams goes to the router. -/
def sendFrame (s : Block) (f : Frame) : Block := toRouter s none f

/-- The key of the stream to or from a module on a VC. -/
def streamKey (m vc : Nat) : Nat := m * 4 + vc

/-! The source. -/

def getTx (s : Block) (m vc : Nat) : TxStream := tabGet {} s.txs (streamKey m vc)
def putTx (s : Block) (m vc : Nat) (t : TxStream) : Block := { s with txs := tabSet s.txs (streamKey m vc) t }

/-- The distance from SSEQ a up to SSEQ b. -/
def seqAhead (a b : Nat) : Nat := (b + 65536 - a % 65536) % 65536

/-- A frame of a stream as it leaves its source: numbered, and held until a SACK covers it; or waiting while 32,768 frames are out.
The answer is the frame if it leaves. -/
def numberFrame (s : Block) (f : Frame) (init : Initiator) : Block × Option Frame :=
  let t := getTx s f.dst f.vc
  if 32768 ≤ seqAhead t.base t.next ∨ !t.waiting.isEmpty then
    (putTx s f.dst f.vc { t with waiting := t.waiting ++ [(f, init)] }, none)
  else
    (putTx s f.dst f.vc { t with
      next := (t.next + 1) % 65536, frames := t.frames ++ [⟨t.gen, t.next, s.now, init⟩] }, some { f with gen := t.gen, sseq := t.next })

/-- Sends a frame of a stream. -/
def sendStream (s : Block) (f : Frame) (init : Initiator) : Block :=
  match numberFrame s f init with
  | (s, some f) => sendFrame s f
  | (s, none) => s

/-- Frames that wait for the window leave while there is room. -/
def drainTx (s : Block) (m vc : Nat) : List (Frame × Initiator) → Block
  | [] => s
  | (f, i) :: rest =>
    if 32768 ≤ seqAhead (getTx s m vc).base (getTx s m vc).next then
      putTx s m vc { getTx s m vc with waiting := (f, i) :: rest }
    else drainTx (sendStream s f i) m vc rest

/-- Whether generation b is newer than a (R501). -/
def genNewer (a b : Nat) : Bool := let d := (b + 256 - a % 256) % 256; decide (1 ≤ d) && decide (d ≤ 127)

/-- A SACK for generation g with NEXT n (R501): the frames that it covers give their tags back; one of a newer generation covers all of
an older one. -/
def takeSack (s : Block) (m vc g n : Nat) : Block :=
  let t := getTx s m vc
  let open_ := t.frames.filter (fun f => !(genNewer f.gen g || (f.gen == g && decide (1 ≤ seqAhead f.sseq n) && decide (seqAhead f.sseq n ≤ 32768))))
  let t := { t with frames := open_ }
  if g = t.gen ∧ seqAhead t.base n ≤ 32768 then
    drainTx (putTx s m vc { t with base := n, waiting := [] }) m vc t.waiting
  else putTx s m vc t

/-- The GAP_CHECK of a stream of this module (R504). -/
def gapCheck (self dst vc gen next : Nat) : Frame :=
  { type := 0x08, vc := vc, dst := dst, src := self, payload := leBytes 1 gen ++ leBytes 1 0 ++ leBytes 2 next ++ zeroBytes 12 }

/-- GAP_CHECK_TIMER (R504): the oldest frame that no SACK covers has waited 100 µs. -/
def doGapCheckTimer (dst : Fin 16384) (vc : Fin 3) (s : Block) : Block :=
  let t := getTx s dst vc
  match t.frames.head? with
  | none => s
  | some f =>
    let s := atTime s (max f.sent t.checked + 100000)
    sendFrame (putTx s dst vc { t with checked := s.now }) (gapCheck s.self dst vc t.gen t.next)

/-! The destination. -/

def getRx (s : Block) (m vc : Nat) : RxStream := tabGet {} s.rxs (streamKey m vc)
def putRx (s : Block) (m vc : Nat) (t : RxStream) : Block := { s with rxs := tabSet s.rxs (streamKey m vc) t }

/-- A NOTICE frame of kinds 1 to 3 about a frame of a stream from src to peer (R506). -/
def streamNotice (self src peer kind reason vc gen sseq : Nat) : Frame :=
  { type := 0x06, vc := 2, dst := src, src := self,
    payload := leBytes 1 kind ++ leBytes 1 reason ++ leBytes 1 vc ++ leBytes 1 gen ++ leBytes 2 sseq ++ leBytes 2 self ++
      leBytes 2 peer ++ zeroBytes 6 }

/-- The POISON notice of a stream. -/
def sendPoison (s : Block) (m vc : Nat) : Block :=
  let t := getRx s m vc
  sendFrame (putRx s m vc { t with noticeAt := s.now, again := false }) (streamNotice s.self m s.self 1 1 vc t.gen t.expect)

/-- The stream is poisoned at the expected SSEQ. -/
def poisonStream (s : Block) (m vc : Nat) : Block :=
  sendPoison (putRx s m vc { getRx s m vc with poison := true, held := [] }) m vc

/-- Sends the SACK of a stream. -/
def sendSack (s : Block) (m vc : Nat) : Block :=
  let t := getRx s m vc
  sendFrame (putRx s m vc { t with applied := 0 })
    { type := 0x07, vc := 2, dst := m, src := s.self,
      payload := leBytes 1 vc ++ leBytes 1 t.gen ++ leBytes 2 t.expect ++ zeroBytes 12 }

/-- The held frames that follow the expected SSEQ without a gap, in order; and the others. -/
def takeHeld : Nat → Nat → List (Nat × Routed) → List Routed × List (Nat × Routed)
  | 0, _, l => ([], l)
  | n + 1, e, l =>
    match l.find? (fun q => q.2.frame.sseq == e) with
    | none => ([], l)
    | some q =>
      let t := takeHeld n ((e + 1) % 65536) (l.erase q)
      (q.2 :: t.1, t.2)

/-- A frame is applied: the next is expected, a SACK follows every 256, and held frames that the gap kept back come next. -/
def streamApplied (s : Block) (m vc : Nat) : Block :=
  let t := getRx s m vc
  let e := (t.expect + 1) % 65536
  let h := takeHeld 64 e t.held
  let s := putRx s m vc { t with
    expect := e, held := h.2, applied := t.applied + 1, appliedAt := if t.applied = 0 then s.now else t.appliedAt }
  let s := { s with inbox := h.1 ++ s.inbox }
  if 256 ≤ t.applied + 1 then sendSack s m vc else s

/-- A frame of a stream reaches its destination (R502): the state, and whether the frame is applied. a12: it came over a link of A1.2. -/
def streamTake (s : Block) (r : Routed) (a12 : Bool) : Block × Bool :=
  let f := r.frame
  let m := f.src
  let s := if genNewer (getRx s m f.vc).gen f.gen then putRx s m f.vc { gen := f.gen } else s
  let t := getRx s m f.vc
  let ahead := seqAhead t.expect f.sseq
  if t.gen ≠ f.gen then (s, false)
  else if t.poison then (putRx s m f.vc { t with again := true }, false)
  else if ahead = 0 then (streamApplied s m f.vc, true)
  else if 32768 ≤ ahead then (s, false)
  else if ahead ≤ 64 ∧ !a12 then
    (putRx s m f.vc { t with held := (t.held.filter (fun q => q.2.frame.sseq ≠ f.sseq)) ++ [(s.now, r)] }, false)
  else (poisonStream s m f.vc, false)

/-- REORDER_HOLD_TIMEOUT (R502): a frame has been held for 50 µs, and the gap before it is still open. -/
def doReorderHoldTimeout (src : Fin 16384) (vc : Fin 2) (s : Block) : Block :=
  match (getRx s src vc).held with
  | [] => s
  | q :: _ => poisonStream (atTime s (q.1 + 50000)) src vc

/-- POISON_REPEAT_TIMER (R503): frames of the poisoned generation keep arriving, and 100 µs have passed since the last notice. -/
def doPoisonRepeatTimer (src : Fin 16384) (vc : Fin 2) (s : Block) : Block :=
  let t := getRx s src vc
  if t.poison && t.again then sendPoison (atTime s (t.noticeAt + 100000)) src vc else s

/-- SACK_TIMER (R504): a SACK within 10 µs of a frame that none covers yet. -/
def doSackTimer (src : Fin 16384) (vc : Fin 2) (s : Block) : Block :=
  if (getRx s src vc).applied = 0 then s else sendSack s src vc

end Sys2Proof.Machine
end

