-- ==== Sys2Proof/Machine/Posted.lean ====
section
/-! DEFINITION. Posted: the posted instructions (R220 to R222, R234 to R237, R245 to R249): decode, acceptance, moves, collectives,
failures; the waits for completion sets (R223) and timed launch (R250, R251). -/
namespace Sys2Proof.Machine

/-! Decode (R218). -/

/-- The decode of a posted instruction: one that passes waits for acceptance. -/
def decodePosted (s : Block) (c : Nat) (kind : PostKind) (x : XT) (kinds : List Nat) (checks : Block → DFault) : Block :=
  let k := getCore s c
  if !canIssue k || gateShut s k then s
  else
    match decodeFault s c 8 kinds with
    | some (cls, d, off) => faultCore s c cls d off
    | none =>
      let regs := [x.sa.val, x.sb.val]
      if loadPending k regs [] || (longDst k).any (fun r => regs.contains r) then s
      else
        match checks s with
        | some (cls, d) => faultCore s c cls d k.pc
        | none =>
          let p : Posted := { id := 0, kind := kind, x := x, off := k.pc, timed := k.timed }
          setCore s c { k with
            postWait := some p, timed := none, run := if k.timed.isSome then .operandWait else k.run }

/-- The format column of R212 for a kind. -/
def kindFmtOk (d : Desc) : Bool :=
  if d.kind = kTiled then fmtWint d.fmt
  else if d.kind = kList then d.fmt == 0x31
  else if d.kind = kScales then d.fmt == 0x22 || d.fmt == 0x23
  else true

/-! MOVE (R234). -/

/-- Whether the tile map of a TILED tensor fits its length (R123). -/
def mapFits (d : Desc) : Bool := d.kind != kTiled || decide (8 * (((d.d1 + 63) / 64 * ((d.d0 + 63) / 64) + 63) / 64) ≤ d.s1)

def moveChecks (x : XT) (c : Nat) (s : Block) : DFault :=
  let k := getCore s c
  let td := descOf (getT k x.td.val)
  let ta := descOf (getT k x.ta.val)
  let rank := if moveRemote x then (getS k x.sa.val).toNat else rankOf k
  let shape :=
    if td.kind = kDense ∧ ta.kind = kDense then td.fmt == ta.fmt && td.d0 == ta.d0 && td.d1 == ta.d1 && td.d2 == ta.d2
    else td.kind == ta.kind && extentLen td == extentLen ta
  firstFault [
    checkDesc s c 0 td true true false 5,
    checkDesc s c 1 ta true true false 5,
    checkFmt 0 td.fmt (kindFmtOk td),
    checkFmt 1 ta.fmt (kindFmtOk ta),
    need (shape && mapFits td) 5 (detailOp 8 0 0),
    need (mapFits ta) 5 (detailOp 8 1 0),
    need (!moveRemote x || decide (rank < (ctxOf s k).ncores)) 8 (detailOp 1 0 0),
    need (rank != rankOf k || !overlapDesc td ta) 5 (detailOp 0xA 0 0)]

/-- MOVE: OPT[0] REMOTE uses SA. -/
def doMove (c : CoreNo) (x : XT) (s : Block) : Block :=
  decodePosted s c .move x (xtUnused x true true false false true (moveRemote x) false false 1) (moveChecks x c)

/-! MRD and MWR (R236). -/

/-- The binding of a slot of a context, and its namespace. -/
def bindingOf (s : Block) (x slot : Nat) : Option (Bind × Namespace) :=
  (tabFind (getCtx s x).binds slot).bind (fun b => (tabFind s.nss b.nsid).map (fun n => (b, n)))

def mediaChecks (x : XT) (c : Nat) (write : Bool) (s : Block) : DFault :=
  let k := getCore s c
  let td := descOf (getT k x.td.val)
  let slot := natBits x.opt.toNat 0 4
  let n := extentLen td
  let lba := (getS k x.sb.val).toNat
  let b := bindingOf s (ctxNoOf k) slot
  firstFault [
    checkDesc s c 0 td (td.kind == kDense) true false 5,
    need (td.d1 * td.s1 == n && b.all (fun b => n % max 1 b.2.lba == 0)) 5 (detailOp 8 0 0),
    need (b.any (fun b => decide (lba + n / max 1 b.2.lba ≤ b.2.blocks))) 8 (detailOp 2 0 slot),
    need (!write || b.any (fun b => b.1.writable)) 8 (detailOp 3 0 slot)]

def doMrd (c : CoreNo) (x : XT) (s : Block) : Block :=
  decodePosted s c .mrd x (xtUnused x true false false false true false true false 0xF) (mediaChecks x c false)
def doMwr (c : CoreNo) (x : XT) (s : Block) : Block :=
  decodePosted s c .mwr x (xtUnused x true false false false true false true false 0xF) (mediaChecks x c true)

/-! Collectives (R245 to R248). -/

def collScopeCode (x : XT) : Nat := natBits x.opt.toNat 0 2
def collAll (x : XT) : Bool := natBit x.opt.toNat 2

/-- The scope of a core's collective, its ordinal in it and the number of ordinals to be below; none in a context that is not
joined (R245). -/
def collScopeOf (s : Block) (k : Core) (code : Nat) : Option (CollScope × Nat × Nat) :=
  let x := ctxNoOf k
  let cx := getCtx s x
  let r := rankOf k
  if code = 0 then some (.team x (r / 16), r % 16, min 16 (cx.ncores - 16 * (r / 16)))
  else if code = 1 then some (.context x, r, cx.ncores)
  else
    match cx.job with
    | some j => if j.joined then some (.system j.id, j.index * 2 ^ 15 + r, j.count * 2 ^ 15) else none
    | none => none

/-- The function code of a collective. -/
def collFn : PostKind → Nat
  | .cred => fnCred
  | .cbcast => fnCbcast
  | .ccat => fnCcat
  | .ctopk => fnCtopk
  | _ => fnCbar

/-- The kind of a collective's operands. -/
def collKindOk (kind : PostKind) (d : Desc) : Bool :=
  match kind with
  | .cred => d.kind == kDense
  | .cbcast => d.kind == kDense
  | .ctopk => listKind d true
  | _ => d.kind == kList

/-- The format of a reduction's source and destination (R248). -/
def credSrcOk (op f : Nat) : Bool :=
  if op = 0 then f == 0x20 else if op = 1 then f == 0x21 else if op = 2 then f == 0x31 else f == 0x20 || f == 0x31
/-- A destination's code that the operation can write: FP32 for sums in FP32, S32 for a sum of S32, either for MAX and MIN. -/
def credDstOk (op f : Nat) : Bool := if op ≤ 1 then f == 0x20 else if op = 2 then f == 0x31 else f == 0x20 || f == 0x31
def credDst (op f : Nat) : Nat := if op = 1 then 0x20 else f

/-- Whether a member receives the result: every member with ALL, and for CBCAST; else the root (R248). -/
def collWrites (kind : PostKind) (x : XT) (ordinal root : Nat) : Bool :=
  kind != .cbar && (kind == .cbcast || collAll x || ordinal == root)

def collChecks (kind : PostKind) (x : XT) (c : Nat) (s : Block) : DFault :=
  let k := getCore s c
  let opt := x.opt.toNat
  let td := descOf (getT k x.td.val)
  let ta := descOf (getT k x.ta.val)
  let root := (getS k x.sa.val).toNat
  let sc := collScopeOf s k (collScopeCode x)
  let ord := (sc.map (·.2.1)).getD 0
  let w := collWrites kind x ord root
  let op := natBits opt 3 3
  let kk := natBits opt 6 7
  if kind = .cbar then need sc.isSome 9 (detailOp 3 0 0)
  else firstFault [
    (if w then checkDesc s c 0 td (collKindOk kind td) true false 5 else none),
    checkDesc s c 1 ta (collKindOk kind ta) true false 5,
    (if w then checkFmt 0 td.fmt (if kind = .cred then credDstOk op td.fmt else kindFmtOk td) else none),
    checkFmt 1 ta.fmt (if kind = .cred then credSrcOk op ta.fmt else kindFmtOk ta),
    need (!w || !(kind == .cred || kind == .cbcast) || (td.d0 == ta.d0 && td.d1 == ta.d1 && td.d2 == ta.d2 &&
      td.fmt == (if kind = .cred then credDst op ta.fmt else ta.fmt))) 5 (detailOp 8 0 0),
    need (kind != .cred || decide (elemCount ta * fmtContainer ta.fmt / 8 ≤ 2 ^ 20)) 5 (detailOp 9 1 0),
    need (kind != .ctopk || (decide (1 ≤ kk) && decide (kk ≤ 64) && (!w || decide (kk ≤ td.d0)))) 7 (detailOp 2 0 kk),
    need sc.isSome 9 (detailOp 3 0 0),
    need (sc.any (fun q => decide (root < q.2.2))) 9 (detailOp 4 0 0),
    need (!w || !overlapDesc td ta) 5 (detailOp 0xA 0 0)]

/-- The ILLEGAL kinds of a collective: scope 3 is reserved, SYSTEM is K2, codes 5 to 7 of a reduction are reserved. A member that
receives no result leaves its Td field zero. -/
def collKinds (s : Block) (c : Nat) (kind : PostKind) (x : XT) : List Nat :=
  let k := getCore s c
  let ord := ((collScopeOf s k (collScopeCode x)).map (·.2.1)).getD 0
  let w := collWrites kind x ord (getS k x.sa.val).toNat
  let mask := if kind = .cred then 0x3F else if kind = .ctopk then 0x3FC7 else 7
  mustZero (collScopeCode x != 3) ++ k2 s c (collScopeCode x == 2) ++
    (if kind = .cred then mustZero (decide (natBits x.opt.toNat 3 3 ≤ 4)) else []) ++
    (if kind = .cbar then xtUnused x false false false false true false false false mask
     else xtUnused x w true false false true true false false mask)

def decodeColl (s : Block) (c : Nat) (kind : PostKind) (x : XT) : Block :=
  decodePosted s c kind x (collKinds s c kind x) (collChecks kind x c)

def doCred (c : CoreNo) (x : XT) (s : Block) : Block := decodeColl s c .cred x
def doCbcast (c : CoreNo) (x : XT) (s : Block) : Block := decodeColl s c .cbcast x
def doCcat (c : CoreNo) (x : XT) (s : Block) : Block := decodeColl s c .ccat x
def doCtopk (c : CoreNo) (x : XT) (s : Block) : Block := decodeColl s c .ctopk x
def doCbar (c : CoreNo) (x : XT) (s : Block) : Block := decodeColl s c .cbar x

/-! Collectives in progress. -/

def findColl (s : Block) (scope : CollScope) (n : Nat) : Option Coll := s.colls.find? (fun q => q.scope == scope && q.n == n)

/-- Changes the collective of a scope and number, or makes it. -/
def updColl (s : Block) (scope : CollScope) (n : Nat) (f : Coll → Coll) : Block :=
  match findColl s scope n with
  | some _ => { s with colls := s.colls.map (fun q => if q.scope == scope && q.n == n then f q else q) }
  | none => { s with colls := s.colls ++ [f { scope := scope, n := n }] }

/-- Puts a contribution into its place by ordinal. -/
def putPart (q : Coll) (p : CollPart) : Coll :=
  { q with parts := insertBy (fun a b => decide (a.ordinal ≤ b.ordinal)) p (q.parts.filter (fun o => o.ordinal ≠ p.ordinal)) }

/-- Members of a job on this module: their contexts and indexes. -/
def jobMembers (s : Block) (id : Nat) : List (Nat × Job) :=
  s.ctxs.filterMap (fun e => e.2.job.bind (fun j => if j.id = id ∧ j.joined then some (e.1, j) else none))

/-- Whether a contribution is all there: those of this module are; one of another module comes in frames, and the shape of this module's
members, or its header, says how long it is. -/
def partFull (sh : CollShape) (p : CollPart) : Bool :=
  if !p.remote || sh.func == fnCbar || (sh.func == fnCbcast && p.ordinal / 2 ^ 15 != sh.root / 2 ^ 15) then true
  else if sh.kind = kDense then
    decide (sh.d0 * sh.d1 * sh.d2 * (if sh.func = fnCred then 4 else partWidth sh.fmt) ≤ p.data.length)
  else decide (32 ≤ p.data.length) &&
    decide (32 + lhField p.data 0x1C * (if listPairs p.data then 8 else 4) ≤ p.data.length)

/-- The shape that this module's members gave. -/
def localShape (q : Coll) : Option CollShape := (q.parts.find? (fun p => !p.remote)).map (·.shape)

/-- Whether every member of the scope has contributed (R249). -/
def collComplete (s : Block) (q : Coll) : Bool :=
  let has (o : Nat) : Bool := q.parts.any (fun p => p.ordinal == o && (localShape q).any (fun sh => partFull sh p))
  match q.scope with
  | .team x g => (List.range (min 16 ((getCtx s x).ncores - 16 * g))).all has
  | .context x => (List.range (getCtx s x).ncores).all has
  | .system id =>
    match (jobMembers s id).head? with
    | none => false
    | some (_, j) =>
      (List.range j.count).all (fun m =>
        match (jobMembers s id).find? (fun e => e.2.index == m) with
        | some e => (List.range (getCtx s e.1).ncores).all (fun r => has (m * 2 ^ 15 + r))
        | none => has (m * 2 ^ 15))

/-- Whether the contributions agree (R246), and the destinations of the members that receive the result; frames carry no shape, so those of
other modules are taken to (log entry 19). -/
def collAgree (q : Coll) : Bool :=
  let dsts := q.parts.filterMap (·.dst)
  q.parts.all (fun p => p.remote || localShape q == some p.shape) && dsts.all (fun d => dsts.head? == some d)

/-- The cluster whose cores are the members of a team, if the team coincides with the 16 cores of a cluster (R247). -/
def teamCluster (s : Block) (scope : CollScope) : Option Nat :=
  match scope with
  | .team x g =>
    match (getCtx s x).run with
    | none => none
    | some r =>
      let cs := (r.cores.drop (16 * g)).take 16
      match cs.head? with
      | some c => if cs.length = 16 ∧ c % 16 = 0 ∧ cs = (List.range 16).map (fun i => c + i) then some (c / 16) else none
      | none => none
  | _ => none

/-- The frames that carry a member's contribution to the other members' modules (R497). -/
def collFrames (self dst job member role n : Nat) (data : List Byte) : List Frame :=
  (List.range (max 1 ((data.length + 495) / 496))).map (fun i =>
    { type := 0x04, vc := 0, dst := dst, src := self,
      payload := leBytes 4 job ++ leBytes 2 member ++ leBytes 1 role ++ zeroBytes 1 ++ leBytes 4 n ++ leBytes 4 (i * 496) ++
        (data.drop (i * 496)).take 496 })

/-- Sends frames of a collective to every other module that has a member of the job. -/
def sendColl (s : Block) (j : Job) (role n : Nat) (data : List Byte) : Block :=
  let mods := ((j.members.map (fun e => e.2.1)).filter (fun m => m ≠ s.self)).eraseDups
  (mods.flatMap (fun m => collFrames s.self m j.id j.index role n data)).foldl (fun s f => sendStream s f (.coll j.id n)) s

/-- Once every rank of a member context has contributed to a SYSTEM collective, its combined contribution goes to the modules of
the other members (log entry 19). -/
def sendMember (s : Block) (x n : Nat) (j : Job) (q : Coll) : Block :=
  let mine := q.parts.filter (fun p => decide (j.index * 2 ^ 15 ≤ p.ordinal) && decide (p.ordinal < (j.index + 1) * 2 ^ 15))
  if mine.length < (getCtx s x).ncores then s
  else
    match mine.head? with
    | none => s
    | some p =>
      let r := combineParts n (p.shape.d0 * (getCtx s x).ncores) p.shape mine
      let data := match r with
        | some (els, bytes, _) =>
          if p.shape.kind = kDense then els.flatMap (leBytes (if p.shape.func = fnCred then 4 else partWidth p.shape.fmt))
          else bytesPut bytes 0x1C (leBytes 4 ((bytes.length - 32) / (if listPairs bytes then 8 else 4)))
        | none => []
      sendColl s j 0 n data

/-! Acceptance (R220 to R222). -/

/-- Operation tags in use: by host commands, posted instructions and stream frames (R3, R501). -/
def tagsUsed (s : Block) : Nat :=
  sumNat (s.ctls.map (fun e => e.2.cmds.length)) + sumNat (s.cores.map (fun e => e.2.posted.length)) +
    sumNat (s.txs.map (fun e => e.2.frames.length))

/-- A posted instruction with what it captures; a collective takes its contribution. -/
def capturePost (s : Block) (c : Nat) (p : Posted) : Posted × Option (CollScope × CollPart) :=
  let k := getCore s c
  let p : Posted := { p with
    id := s.nextPost,
    td := if p.kind = .cbar then 0 else getT k p.x.td.val, ta := if p.kind = .cbar then 0 else getT k p.x.ta.val,
    sa := getS k p.x.sa.val, sb := getS k p.x.sb.val }
  match p.kind with
  | .move => (p, none)
  | .mrd => (p, none)
  | .mwr => (p, none)
  | _ =>
    match collScopeOf s k (collScopeCode p.x) with
    | none => (p, none)
    | some (scope, ord, _) =>
      let n := tabGet 0 k.collSeq (collScopeCode p.x)
      let ta := descOf p.ta
      let sh : CollShape :=
        if p.kind = .cbar then ⟨fnCbar, p.x.opt.toNat, 0, 0, 0, 0, 0, 0, 0⟩
        else ⟨collFn p.kind, p.x.opt.toNat, ta.fmt, ta.kind, ta.flags, ta.d0, ta.d1, ta.d2, p.sa.toNat⟩
      let data :=
        if p.kind = .cbar then []
        else if ta.kind = kDense then
          (if fmtContainer ta.fmt = 4 then
            ((tensorRows ta).flatMap (fun r => (List.range ta.d0).map (fun i =>
              BitVec.ofNat 8 ((((seatRead s (.placed c) (r.1 + i / 2) 1).head?).getD 0).toNat / 2 ^ (4 * (i % 2)) % 16))))
           else seatReadTensor s (.placed c) ta)
        else
          let h := seatRead s (.placed c) ta.addr 32
          let w := if dPairs ta then 8 else 4
          h ++ seatRead s (.placed c) (ta.addr + 32) (w * min (lhField h 0) ta.d0)
      let td := if collWrites p.kind p.x ord p.sa.toNat then p.td else 0
      let d := descOf td
      let dst : Option CollDst := if td = 0 then none else some ⟨d.fmt, d.kind, d.flags, d.d0, d.d1, d.d2⟩
      let int : Option Bool := (tabFind k.topLists ta.addr).bind (fun e => if p.kind = .ctopk ∧ e.2 = data then some e.1 else none)
      ({ p with seq := n, data := data, td := td }, some (scope, { ordinal := ord, shape := sh, data := data, dst := dst, int := int }))

/-- Reads the contribution of a collective through the codes of what it lies in: the DATA fault of the first word or line that is
uncorrectable (R565; for device memory log entry 50). -/
def contribCheck (s : Block) (c : Nat) (p : Posted) : Block × Option (Nat × Nat) :=
  if p.kind = .move ∨ p.kind = .mrd ∨ p.kind = .mwr ∨ p.kind = .cbar then (s, none)
  else
    (tensorRows (descOf p.ta)).foldl (fun r row =>
      let q := windowCheck r.1 c row.1 row.2 1
      (q.1, r.2.or q.2)) (s, none)

/-- The posted instruction that waits on core c is accepted: a tag, room, its launch time, and no incomplete long instruction that
still writes what it reads or overwrites (R196, R220). A collective whose contribution cannot be read faults. -/
def acceptPosted (s : Block) (c : Nat) : Block :=
  let k := getCore s c
  match k.postWait with
  | none => s
  | some p =>
    let cap := capturePost s c p
    let busy := (longs k).any (fun l => (longDestExtents l).any (fun d =>
      (postSrc cap.1 ++ postDest cap.1).any (fun e => overlaps d e)))
    if k.stop.isSome || !launchDue s p.timed || busy || decide (64 ≤ k.posted.length) || decide (262144 ≤ tagsUsed s) then s
    else
    let s := noteIssue s c
    if launchDropped s p.timed then
      let s := launchOutcome s c p.timed
      advance (updCore s c (fun k => { k with postWait := none, run := .running })) c 8
    else
      let chk := contribCheck s c cap.1
      match chk.2 with
      | some (kind, a) => faultCore chk.1 c 0x0B (detail20 kind a) p.off
      | none =>
      let s := { launchOutcome chk.1 c p.timed with nextPost := s.nextPost + 1 }
      let set := p.x.set.val
      let code := collScopeCode p.x
      let s := updCore s c (fun k =>
        let q := getSet k set
        let k := putSet k set { q with unfinished := q.unfinished + 1 }
        { k with
          postWait := none, run := .running, posted := k.posted ++ [cap.1],
          collSeq := if cap.2.isSome then tabSet k.collSeq code (tabGet 0 k.collSeq code + 1) else k.collSeq })
      let s := match cap.2 with
        | none => s
        | some (scope, part) =>
          let s := updColl s scope cap.1.seq (fun q => putPart q part)
          match scope, (ctxOf s k).job, findColl s scope cap.1.seq with
          | .system _, some j, some q => sendMember s (ctxNoOf k) cap.1.seq j q
          | _, _, _ => s
      advance (countSteps s c) c 8

/-- POSTED_ACCEPT. -/
def doPostedAccept (c : CoreNo) (s : Block) : Block := acceptPosted s c

/-! Finish and failure. -/

def findPosted (k : Core) (id : Nat) : Option Posted := k.posted.find? (fun p => p.id == id)

/-- A posted instruction of a seat leaves: its set counts one fewer, and keeps the first failure word (R221). -/
def endPosted (s : Block) (t : Seat) (p : Posted) (word : Word) : Block :=
  refreshWaits (updSeat s t (fun k =>
    let q := getSet k p.x.set.val
    let k := putSet k p.x.set.val { unfinished := q.unfinished - 1, word := if q.word = 0 then word else q.word }
    { k with posted := k.posted.filter (fun o => o.id ≠ p.id) }))

/-- The seat that a move writes to: another rank of the context when it is REMOTE (R234). -/
def moveTarget (s : Block) (t : Seat) (p : Posted) : Seat :=
  if moveRemote p.x then seatOf s (seatCtx s t) p.sa.toNat else t

/-- The seats of a context. -/
def contextSeats (s : Block) (x : Nat) : List Seat :=
  s.cores.filterMap (fun e => if e.2.placed.any (fun p => p.ctx == x && tabFind (getCtx s x).saved p.rank == none) then some (.placed e.1)
    else none) ++ (getCtx s x).saved.map (fun r => Seat.saved x r.1)

/-- Whether a program address of a window means the same byte at two seats of a context: the window of device memory is one, a cluster
store is that of a cluster, a local store that of a rank. -/
def sameWindow (s : Block) (t u : Seat) (a : Nat) : Bool :=
  if dmBase ≤ a then true
  else if csBase ≤ a then
    match t, u with
    | .placed c, .placed d => cluOfCore c == cluOfCore d
    | .saved x r, .saved y q => x == y && savedCluOf s x r == savedCluOf s y q
    | _, _ => false
  else t == u

/-- The source and destination extents of a posted instruction of seat t, each with the seat whose windows it lies in. -/
def postExtents (s : Block) (t : Seat) (p : Posted) : List (Seat × (Nat × Nat)) :=
  (postSrc p ++ postDest p).map (fun e => (t, e)) ++
    (if p.kind == .move && moveRemote p.x then [(moveTarget s t p, extent (descOf p.td))] else [])

/-- Whether an extent of a seat is pinned against the posted instruction p: by a long instruction, or by a posted instruction of the context
that was accepted before p (R129, R222, R235). -/
def destBusy (s : Block) (t : Seat) (p : Posted) (e : Nat × Nat) : Bool :=
  (decide (e.1 < csBase) && (longs (seatCore s t)).any (fun l =>
    l.pinned && (longSrcExtents l ++ longDestExtents l).any (fun d => overlaps d e))) ||
  (contextSeats s (seatCtx s t)).any (fun u => (seatCore s u).posted.any (fun q =>
    decide (q.id < p.id) && (postExtents s u q).any (fun d => overlaps d.2 e && sameWindow s d.1 t e.1)))

/-- The failure words of R237 for moves. -/
def moveFail (kind rest : Nat) : Word := faultWord 8 (kind * 2 ^ 20 + rest % 2 ^ 18)

/-- The cluster of a seat; a rank in the save area has none. -/
def seatCluster : Seat → Option Nat
  | .placed c => some (cluOfCore c)
  | .saved _ _ => none

/-- Whether a unit is out of service: fenced, under test, in a lehr or retired. -/
def outOfService (s : Block) (p : Nat) : Bool :=
  match (getPage s p).service with
  | .fenced => true
  | .testing => true
  | .lehr => true
  | .retired => true
  | _ => false

/-- Whether a core cannot be reached: it, its cluster or its region is out of service. -/
def unreachable (s : Block) (c : Nat) : Bool :=
  outOfService s (pgCor c) || outOfService s (pgClu (cluOfCore c)) || outOfService s (pgRgn (rgnOfCore c))

/-- The source and destination clusters of a move between clusters (R87): device memory lies in none. -/
def moveRoute (s : Block) (t : Seat) (p : Posted) : Option (Nat × Nat) :=
  if dmBase ≤ (descOf p.ta).addr ∨ dmBase ≤ (descOf p.td).addr then none
  else
    match seatCluster t, seatCluster (moveTarget s t p) with
    | some a, some b => if a = b then none else some (a, b)
    | _, _ => none

/-- Whether a move's destination is in a local or cluster store that cannot be reached (R89). -/
def moveCut (s : Block) (t : Seat) (p : Posted) : Bool :=
  moveRemote p.x && decide ((descOf p.td).addr < dmBase) &&
    (match moveTarget s t p with
     | .placed c => unreachable s c
     | .saved _ _ => false)

/-- The region that a program address of a seat lies in; device memory and the save area lie in none. -/
def seatRgn (t : Seat) (a : Nat) : Option Nat :=
  if dmBase ≤ a then none
  else
    match t with
    | .placed c => some (rgnOfCore c)
    | .saved _ _ => none

/-- A list that a move has copied is a top-k list at its destination as it was at its source. -/
def carryTopList (s : Block) (t u : Seat) (ta td : Desc) : Block :=
  match tabFind (seatCore s t).topLists ta.addr with
  | some l => if td.kind = kList then updSeat s u (fun k => { k with topLists := tabSet k.topLists td.addr l }) else s
  | none => s

/-- The data of a move reaches its destination: the source is read, and written there; uncorrectable data ends the move
(R234, R562). Elements are copied with their container bits (log entry 155). -/
def landMove (s : Block) (t : Seat) (p : Posted) : Block :=
  let ta := descOf p.ta
  let td := descOf p.td
  let u := moveTarget s t p
  let chk := (tensorRows ta).foldl (fun (r : Block × Bool) row =>
    let q := seatCheck r.1 t row.1 row.2 3
    (q.1, r.2 || q.2)) (s, false)
  if chk.2 then endPosted (scribble chk.1 u td) t p (moveFail 5 0)
  else
    let w := seatWriteTensor chk.1 u td (seatReadTensor chk.1 t ta)
    let n := sumNat ((tensorRows td).map (·.2))
    let s := countPath (countWritten w.1 u td.addr n) (seatRgn t ta.addr) (seatRgn u td.addr) n
    let s := carryTopList s t u ta td
    if w.2 then endPosted s t p (moveFail 5 0)
    else updSeat s t (fun k => { k with posted := k.posted.map (fun q => if q.id = p.id then { q with arrived := true } else q) })

/-- Whether the destination of a move may be written now. -/
def moveFree (s : Block) (t : Seat) (p : Posted) : Bool :=
  !destBusy s (moveTarget s t p) p (extent (descOf p.td))

/-- A move finishes; one between clusters must have arrived first, and one whose destination cannot be reached ends with an error (R89). -/
def finishMove (s : Block) (t : Seat) (p : Posted) : Block :=
  if p.arrived then endPosted s t p 0
  else if (moveRoute s t p).isSome || moveCut s t p || !moveFree s t p then s
  else
    let s := landMove s t p
    match findPosted (seatCore s t) p.id with
    | some q => endPosted s t q 0
    | none => s

/-! Collectives finish or fail. -/

/-- The ranks of a scope on this module that have contributed and not finished: seat, posted instruction. -/
def collWaiters (s : Block) (scope : CollScope) (n : Nat) : List (Seat × Posted) :=
  let seats : List Seat := s.cores.filterMap (fun e => if e.2.placed.isSome then some (.placed e.1) else none) ++
    s.ctxs.flatMap (fun e => e.2.saved.map (fun r => Seat.saved e.1 r.1))
  seats.flatMap (fun t => (seatCore s t).posted.filterMap (fun p =>
    match p.kind with
    | .move => none
    | .mrd => none
    | .mwr => none
    | _ =>
      let k := seatCore s t
      let k' := { k with placed := (match t with
        | .placed _ => k.placed
        | .saved x r => some ⟨x, r⟩) }
      match collScopeOf s k' (collScopeCode p.x) with
      | some (sc, _, _) => if sc = scope ∧ p.seq = n then some (t, p) else none
      | none => none))

/-- A collective fails on every member of this module that has contributed; one of SYSTEM scope is kept for the members that have yet
to. A MISMATCH writes no destination (R246); of another failure the bytes that were to be written are unspecified (R237). -/
def failColl (s : Block) (scope : CollScope) (n : Nat) (kind : Nat) : Block :=
  let s := (collWaiters s scope n).foldl (fun s e =>
    let s := if e.2.td = 0 ∨ kind = 1 then s else scribble s e.1 (descOf e.2.td)
    endPosted s e.1 e.2 (faultWord 9 (kind * 2 ^ 20))) s
  match scope with
  | .system _ => updColl s scope n (fun q => { q with parts := [], lost := true })
  | _ => { s with colls := s.colls.filter (fun q => !(q.scope == scope && q.n == n)) }

/-- The scope and ordinal of a posted collective of a seat. -/
def postedScope (s : Block) (t : Seat) (p : Posted) : Option (CollScope × Nat) :=
  let k := seatCore s t
  let k' := { k with placed := (match t with
    | .placed _ => k.placed
    | .saved x r => some ⟨x, r⟩) }
  (collScopeOf s k' (collScopeCode p.x)).map (fun q => (q.1, q.2.1))

/-- Whether the merge of a collective is done where a cluster merge unit forms it. -/
def mergeDone (s : Block) (q : Coll) : Bool := (teamCluster s q.scope).isNone || q.stage == .merged

/-- Writes the result of a collective to a member's Td; the sums' flags are set on each member that receives it (log entry 136). int: whether
the values of a top-k list are integers. -/
def deliverColl (s : Block) (t : Seat) (p : Posted) (els : List Nat) (bytes : List Byte) (fl : BitVec 16) (int : Bool) : Block :=
  if p.td = 0 then s
  else
    let td := descOf p.td
    let data :=
      if td.kind = kDense then
        (if fmtContainer td.fmt = 4 then
          (List.range (td.d1 * td.d2)).flatMap (fun r => (List.range (rowBytes td)).map (fun i =>
            BitVec.ofNat 8 ((els[r * td.d0 + 2 * i]?).getD 0 % 16 + (if 2 * i + 1 < td.d0 then (els[r * td.d0 + 2 * i + 1]?).getD 0 % 16 * 16 else 0))))
         else els.flatMap (leBytes (partWidth td.fmt)))
      else bytes
    let s := if td.kind = kDense then (seatWriteTensor s t td data).1 else (seatWrite s t td.addr data).1
    let s := if p.kind = .ctopk then updSeat s t (fun k => { k with topLists := tabSet k.topLists td.addr (int, data) }) else s
    updSeat s t (fun k => addFlags k fl)

/-- What a collective that spans regions brings a member's region, which the spec does not state: free amounts in its statistics 6 and 7 (R112; log
entry 49). s0: the block in which the collective stood. -/
def countColl (s0 : Block) (scope : CollScope) (s : Block) (t : Seat) : Block :=
  match scope, t with
  | .team x g, .placed c =>
    let rs := ((((getCtx s0 x).run.map (·.cores)).getD []).drop (16 * g)).take 16
    if rs.all (fun o => rgnOfCore o == rgnOfCore c) then s else freeTraffic s (rgnOfCore c)
  | .context x, .placed c =>
    if (((getCtx s0 x).run.map (·.cores)).getD []).all (fun o => rgnOfCore o == rgnOfCore c) then s else freeTraffic s (rgnOfCore c)
  | .system _, .placed c => freeTraffic s (rgnOfCore c)
  | _, .saved _ _ => s

/-- COLLECTIVE_FINISH (R249): every contribution has been accepted (and merged), and the member's result is written, or the
collective fails everywhere with MISMATCH. -/
def doCollectiveFinish (x : CtxNo) (rank id : Nat) (s : Block) : Block :=
  let t := seatOf s x rank
  match findPosted (seatCore s t) id with
  | none => s
  | some p =>
    match postedScope s t p with
    | none => s
    | some (scope, ord) =>
      match findColl s scope p.seq with
      | none => s
      | some q =>
        if !collComplete s q || !mergeDone s q || (p.td != 0 && destBusy s t p (extent (descOf p.td))) then s
        else if !collAgree q then failColl s scope p.seq 1
        else
          match q.parts.head? with
          | none => s
          | some h =>
            match combineParts p.seq (descOf p.td).d0 ((localShape q).getD h.shape) q.parts with
            | none => failColl s scope p.seq 1
            | some (els, bytes, fl) =>
              let s := countColl s scope (endPosted (deliverColl s t p els bytes fl (partsInt p.seq q.parts)) t p 0) t
              let s := updColl s scope p.seq (fun q => { q with finished := q.finished ++ [ord] })
              if (collWaiters s scope p.seq).isEmpty then
                { s with colls := s.colls.filter (fun o => !(o.scope == scope && o.n == p.seq)) }
              else s

/-- A member that can no longer contribute: its core faulted or its run is being torn down or has gone (R249). -/
def rankLost (s : Block) (x r : Nat) : Bool :=
  match (getCtx s x).run with
  | none => true
  | some run =>
    run.aborted || decide ((getCtx s x).phase = .teardown) || decide ((getCtx s x).phase = .closing) ||
      run.faults.any (fun f => f.rank == r)

/-- Whether a member of a collective's scope on this module is lost before it contributed. -/
def memberLost (s : Block) (q : Coll) : Bool :=
  let has (o : Nat) : Bool := q.parts.any (fun p => p.ordinal == o)
  q.lost ||
  match q.scope with
  | .team x g => (List.range (min 16 ((getCtx s x).ncores - 16 * g))).any (fun o => !has o && rankLost s x (16 * g + o))
  | .context x => (List.range (getCtx s x).ncores).any (fun o => !has o && rankLost s x o)
  | .system id => (jobMembers s id).any (fun e =>
      (List.range (getCtx s e.1).ncores).any (fun r => !has (e.2.index * 2 ^ 15 + r) && rankLost s e.1 r))

/-- COLLECTIVE_MEMBER_LOST (R249): a member is lost before contributing, here, or on another module when remote is set (a link
went down or the member's module became unreachable); the collective fails on every survivor, and in SYSTEM scope the other
modules of the job are told. -/
def doCollectiveMemberLost (x : CtxNo) (rank id : Nat) (remote : Bool) (s : Block) : Block :=
  let t := seatOf s x rank
  match findPosted (seatCore s t) id with
  | none => s
  | some p =>
    match postedScope s t p with
    | none => s
    | some (scope, _) =>
      match findColl s scope p.seq with
      | none => s
      | some q =>
        let isSystem := match scope with
          | .system _ => true
          | _ => false
        if !(memberLost s q || (remote && isSystem && !collComplete s q)) then s
        else
          let s := failColl s scope p.seq 2
          match scope, (getCtx s x).job with
          | .system _, some j => if q.lost then s else sendColl s j 2 p.seq []
          | _, _ => s

/-! TWAIT (R223). -/

def twaitMask (x : XT) : List Nat := (List.range 8).filter (fun i => natBit x.opt.toNat i)

/-- The end of a TWAIT: the failure word of the lowest-numbered named set, the words of all named sets cleared, and the fault,
which names the TWAIT. -/
def finishTwait (s : Block) (c : Nat) (x : XT) : Block :=
  let k := getCore s c
  let w : Word := ((failedSet k (twaitMask x)).map (·.2)).getD 0
  let k := (twaitMask x).foldl (fun k i => putSet k i { getSet k i with word := 0 }) { k with twait := none }
  let s := setCore s c (setS k x.sd.val (w.zeroExtend 64))
  if w ≠ 0 ∧ !natBit x.opt.toNat 8 then faultCore s c (bvBits w 24 8) (bvBits w 0 24) k.pc
  else advance s c 8

/-- Whether every named set has finished. -/
def twaitReady (k : Core) (x : XT) : Bool := (twaitMask x).all (fun i => (getSet k i).unfinished == 0)

def doTwait (c : CoreNo) (x : XT) (s : Block) : Block :=
  issueShort s c 8 (xtUnused x false false false false false false false true 0x1FF) [x.sd.val] [] (fun s =>
    let k := getCore s c
    if twaitReady k x then .stay (finishTwait s c x) else .stay (setCore s c { k with twait := some x }))

/-- TWAIT_DONE. -/
def doTwaitDone (c : CoreNo) (s : Block) : Block :=
  let k := getCore s c
  match k.twait with
  | none => s
  | some x => if twaitReady k x && k.stop.isNone && k.run == .running then finishTwait s c x else s

/-! TAT and timed launch (R250, R251). -/

/-- TAT: K2; S[SA] is the launch time, OPT[0] DROP, S[SD] receives the outcome: TAT waits for what still writes either. -/
def doTat (c : CoreNo) (x : XT) (s : Block) : Block :=
  issueShort s c 8 (k2 s c true ++ xtUnused x false false false false false true false true 1) [x.sa.val, x.sd.val] [] (fun s =>
    .done (updCore s c (fun k => { k with
      timed := some ⟨(getS k x.sa.val).toNat, natBit x.opt.toNat 0, x.sd.val, k.pc⟩ })))

end Sys2Proof.Machine
end

