-- ==== Sys2Proof/Machine/Stop.lean ====
section
/-! DEFINITION. Stop: stop requests and resumption (R198 to R200), the state record (R202), timed launches that come due (R250,
R251, R534). -/
namespace Sys2Proof.Machine

/-- The rank of a stop request: TEARDOWN outranks PREEMPT, which outranks HALT (R199). -/
def stopRank : StopKind → Nat
  | .halt => 1
  | .preempt => 2
  | .teardown => 3

/-- Two stop requests merge into the one of higher rank. -/
def mergeStop (a : Option StopKind) (b : StopKind) : StopKind :=
  match a with
  | none => b
  | some x => if stopRank x < stopRank b then b else x

/-- Withdraws what waits on a core: an instruction before its issue point, an unaccepted posted instruction, a TWAIT, an END, a
gate; of a timed pair the TAT too, so that the core's pc is at the TAT (R198, R220, R223, R250). -/
def withdraw (k : Core) : Core :=
  let t := (k.waiting.bind (·.timed)).or ((k.postWait.bind (·.timed)).or k.timed)
  let k := match t with
    | some t => { k with pc := t.off }
    | none => k
  let k := match k.gate with
    | some g => { k with nextLayer := g.layer, iter := g.iter }
    | none => k
  { k with
    waiting := none, postWait := none, twait := none, endWait := false, gate := none, timed := none, asked := none,
    resident := false }

/-- Whether a core takes a stop request: one that is placed, has not ended and has not faulted. -/
def stoppable (k : Core) : Bool := k.placed.isSome && !k.ended && k.run != .faulted && k.run != .zeroising

/-- A stop request reaches core c. -/
def requestStop (s : Block) (c : Nat) (kind : StopKind) : Block :=
  let k := getCore s c
  if !k.placed.isSome || k.ended then s
  else if !stoppable k then setCore s c { k with stop := some (mergeStop k.stop kind) }
  else
    let s := countWait s c
    let k := withdraw k
    setCore s c { k with stop := some (mergeStop k.stop kind), run := if k.run = .halted then .halted else .running }

/-- Whether the core has nothing left that must complete before it stops: loads, rescale and drain, an instruction that has reached no
resumable point since its issue point, or has none (R139; R198, steps 3 and 4). -/
def stopPoint (k : Core) : Bool :=
  k.loads.isEmpty && k.drains.isEmpty && k.det.all (fun l => l.parked || (!l.ended && l.moved))

/-- A stopped core restarts: its parked instruction first, which must pass a new issue point, then issue from its pc (R200). -/
def resumeCore (s : Block) (c : Nat) : Block :=
  let k := getCore s c
  let k := { k with stop := none, since := s.now, asked := none, resident := false, recorded := false }
  if k.det.any (fun l => l.parked) then refreshWait (setCore s c { k with run := .operandWait }) c
  else setCore s c { k with run := .running }

/-! The state record (R202). -/

/-- The two words of a long instruction (R216). -/
def longWords (l : Long) : Nat :=
  let mf : Nat × Nat := match l.kind with
    | .amul => (0x31, 0)
    | .range => (0x32, 0)
    | .qconv => (0x32, 1)
    | .dqconv => (0x32, 2)
    | .tpack => (0x32, 3)
    | .selt => (0x34, 0)
    | .topk => (0x34, 1)
    | .pqload => (0x35, 0)
    | .pqscan => (0x35, 1)
    | .chkv => (0x36, 0)
  let x := l.x
  mf.1 * 2 ^ 26 + x.td.val * 2 ^ 22 + x.ta.val * 2 ^ 18 + x.tb.val * 2 ^ 14 + x.tc.val * 2 ^ 10 + mf.2 +
    2 ^ 32 * (x.set.val + x.sa.val * 2 ^ 3 + x.sb.val * 2 ^ 8 + x.sd.val * 2 ^ 13 + x.opt.toNat * 2 ^ 18)

/-- LOOP_ORDER: one nibble per depth from the outermost. -/
def loopOrder (k : Core) : Nat := sumNat ((k.loops.reverse.zipIdx).map (fun e => (8 + e.1.lc) * 16 ^ e.2))

/-- VALID of the header. -/
def recordValid (k : Core) : Nat :=
  boolNat (k.det.any (fun l => l.kind == .amul)) + 2 * boolNat (!k.live.isEmpty) + 4 * boolNat k.pq.isSome + 8 * boolNat k.det.isSome

/-- The areas of a core's state record that are written: offset and bytes. A loop's body end is the offset behind its last word, and a
counter without an active loop has zeros (R202; log entry 157). -/
def statePieces (level : Nat) (k : Core) : List (Nat × List Byte) :=
  let header := leBytes 2 1 ++ leBytes 1 level ++ leBytes 1 (recordValid k) ++ leBytes 4 k.pc ++ leBytes 8 (progValue k).toNat ++
    leBytes 2 k.fstat.toNat ++ leBytes 2 (loopOrder k) ++ leBytes 4 k.faultOff.toNat ++ leBytes 8 k.steps.toNat ++
    leBytes 2 k.live.length
  let sregs := (List.range 32).flatMap (fun i => leBytes 8 (getS k i).toNat)
  let aregs := (List.range 16).flatMap (fun i =>
    let r := getA k i
    leBytes 8 r.base.toNat ++ leBytes 4 r.stride.toNat ++ leBytes 4 r.lstep0.toNat ++ leBytes 4 r.lstep1.toNat ++
      leBytes 4 r.lstep2.toNat ++ leBytes 4 r.lstep3.toNat ++ zeroBytes 4)
  let lcs := (List.range 4).flatMap (fun i =>
    let l := (k.loops.find? (fun l => l.lc == i)).getD ⟨i, 0, 0⟩
    leBytes 8 (getLC k i).toNat ++ leBytes 4 l.first ++ leBytes 4 l.past)
  let pregs := (List.range 8).flatMap (fun i => leBytes 8 (getP k i).toNat)
  let tregs := (List.range 16).flatMap (fun i => leBytes 32 (getT k i).toNat)
  let vregs := (List.range 32).flatMap (fun i => leBytes 128 (getV k i).toNat)
  [(0, padTo 64 header), (0x40, sregs), (0x140, aregs), (0x340, lcs), (0x380, pregs), (0x3C0, tregs), (0x6C0, zeroBytes 320),
   (0x800, vregs)] ++
    (match k.det with
     | some l => [(0x5C0, padTo 256 (leBytes 8 (longWords l) ++ leBytes 4 l.off ++ zeroBytes 4 ++ leBytes 32 l.td.toNat ++
         leBytes 32 l.ta.toNat ++ leBytes 32 l.tb.toNat ++ leBytes 32 l.tc.toNat ++ leBytes 8 l.sa.toNat ++ leBytes 8 l.sb.toNat ++
         leBytes 8 l.sd.toNat))]
     | none => []) ++
    (if k.live.isEmpty then [] else [(0x1800, padTo 4096 (k.live.flatMap (fun w => leBytes 4 w.toNat)))]) ++
    (if k.det.any (fun l => l.kind == .amul) then
      [(0x2800, (List.range 4096).flatMap (fun i => leBytes 4 (tabGet 0 k.acc i).toNat))] else []) ++
    (match k.pq with
     | some t => [(0x8000, padTo 32768 (t.tab.flatMap (fun w => leBytes 4 w.toNat)))]
     | none => [])

/-- The bytes of a save area that each rank takes: its state record and its local store (R339; log entry 20). -/
def saveStride (x : Ctx) : Nat := 65536 + roundUp x.image.localBytes 65536

/-- A fault of a run that is no core's own: the class, and no rank nor offset. -/
def noteRunFault (s : Block) (xn cls detail : Nat) : Block :=
  updCtx s xn (fun x => { x with run := x.run.map (fun r => { r with faults := r.faults ++ [⟨s.now, 0xFFFFFFFF, faultWord cls detail, 0xFFFFFFFF⟩] }) })

/-- Writes bytes into a context's save area; a write that meets uncorrectable data faults the run with class DATA (R356). -/
def saveWrite (s : Block) (x off : Nat) (b : List Byte) : Block :=
  (dmPieces (getCtx s x).savePages off b.length).foldl (fun (r : Block × List Byte) p =>
    let q := dmWriteBytes r.1 p.1 (r.2.take p.2) ⟨3, some x⟩
    (if q.2.isSome then noteRunFault q.1 x 0x0B 0 else q.1, r.2.drop p.2)) (s, b) |>.1

/-- Writes the state record of a rank to its place in the save area. -/
def writeRecord (s : Block) (c : Nat) : Block :=
  let k := getCore s c
  let x := ctxNoOf k
  (statePieces (levelOf s k) k).foldl (fun s p => saveWrite s x (rankOf k * saveStride (getCtx s x) + p.1) p.2) s

/-- Discards the state of core c: its registers, sets and instructions; the local store stays until it is zeroised, and the fault
until the context leaves the core. -/
def discardCore (s : Block) (c : Nat) : Block :=
  updCore s c (fun k =>
    let n : Core := {
      placed := k.placed, run := k.run, fault := k.fault, faultOff := k.faultOff, stop := k.stop, ls := k.ls
      array := k.array, ramping := k.ramping }
    n)

/-- The detached instruction is parked at its resumable point; its operands stay pinned for HALT alone (R198). -/
def park (k : Core) (pinned : Bool) : Core := { k with det := k.det.map (fun l => { l with parked := true, pinned := pinned }), run := .halted }

/-- CORE_STOP_DONE (R198, R199): the core reaches its stopping point. The detached instruction is parked there. For HALT the state
stays in the core, which resumes at once if CTL.HALT has returned to 0; for PREEMPT the state record is written, but in a hand-over, whose state goes to the spare (R631); for TEARDOWN
the state is discarded. A core that has faulted keeps showing FAULTED. -/
def doCoreStopDone (c : CoreNo) (s : Block) : Block :=
  let k := getCore s c
  match k.stop with
  | none => s
  | some kind =>
    if k.run = .faulted then
      (if kind = .teardown then discardCore s c else s)
    else if !stoppable k || !stopPoint k then s
    else
      match kind with
      | .halt =>
        if k.run = .halted then s
        else
          let s := setCore s c (park k true)
          if natBit ((getPage s (pgCor c)).ctl.toNat) 0 then s else resumeCore s c
      | .preempt =>
        let s := setCore s c { park k false with recorded := true }
        if (tabFind s.handovers c).isSome then s else writeRecord s c
      | .teardown => updCore (discardCore s c) c (fun k => { k with run := .halted })

/-- STOP_PREEMPT (R198): the dispatcher's PREEMPT reaches core c, whose run is being saved, or which is being handed over to its
cluster's spare (R347). -/
def doStopPreempt (c : CoreNo) (s : Block) : Block :=
  let k := getCore s c
  let x := ctxOf s k
  if k.placed.isSome && (decide (x.phase = .saving) || (getPage s (pgCor c)).service == .draining) then requestStop s c .preempt
  else s

/-- STOP_TEARDOWN (R198, R357): the dispatcher's TEARDOWN reaches core c, whose run is being torn down. -/
def doStopTeardown (c : CoreNo) (s : Block) : Block :=
  let k := getCore s c
  let x := ctxOf s k
  if k.placed.isSome && decide (x.phase = .teardown) then requestStop s c .teardown
  else s

/-- TIMED_LAUNCH_TIME (R250, R251, R534): the launch time of core c's timed instruction is reached; if nothing else holds it, it
issues or is accepted, late or dropped as its time says. -/
def doTimedLaunchTime (c : CoreNo) (s : Block) : Block :=
  let k := getCore s c
  if (k.waiting.bind (·.timed)).isSome then
    if issueReady s c true then doArrayIssuePoint c s
    else if issueReady s c false then passIssue s c (startLong c)
    else s
  else if (k.postWait.bind (·.timed)).isSome then acceptPosted s c
  else s

end Sys2Proof.Machine
end

