-- ==== Sys2Proof/Machine/Fabric.lean ====
section
/-! DEFINITION. Fabric: the core, cluster and region pages' own commands (R98, R106, R107), transfers between clusters (R87 to R89),
the cluster merge unit (R82, R84), pace windows and the statistics shadow (R67 to R70, R90, R112). -/
namespace Sys2Proof.Machine

/-! CTL of the COR page (R98, R200). -/

/-- The judged write of CTL of a COR page: HALT = 1 asks the core to stop, HALT = 0 restarts it. -/
def writeCorCtl (s : Block) (c : Nat) (w : Writer) (value : Word) : Block :=
  let p := pgCor c
  guardedWrite s p 0x014 w value (ownerRight (getPage s p) w) none (fun s =>
    let was := natBit (getPage s p).ctl.toNat 0
    let s := setCtl s p .cor value.toNat
    let k := getCore s c
    if natBit value.toNat 0 then (if was then s else requestStop s c .halt)
    else if k.run = .halted ∧ k.stop = some .halt then resumeCore s c
    else s)

/-- CORE_HALT (R98): a write of CTL with HALT = 1 and a guard. -/
def doCoreHalt (w : Writer) (c : CoreNo) (guard : Byte) (s : Block) : Block :=
  let v : Word := BitVec.ofNat 32 (guard.toNat * 2 ^ 24 + 1)
  enterWrite s (pgCor c) w 0x014 v (fun _ _ s => writeCorCtl s c w v)

/-- CORE_RESUME (R200): a write of CTL with HALT = 0 and a guard. -/
def doCoreResume (w : Writer) (c : CoreNo) (guard : Byte) (s : Block) : Block :=
  let v : Word := BitVec.ofNat 32 (guard.toNat * 2 ^ 24)
  enterWrite s (pgCor c) w 0x014 v (fun _ _ s => writeCorCtl s c w v)

/-! Slices (R92, R107). -/

/-- CLU_SLICE_OWNER of slice i of cluster g takes a value; a change of VALID or CONTEXT starts the zeroise of the slice, unless one
runs. -/
def setSlice (s : Block) (g i : Nat) (value : Word) : Block :=
  let old := sliceOwner s g i
  let new := value &&& 0x80007FFF
  let z : Word := if natBit old.toNat 16 || (old &&& 0x80007FFF) ≠ new then 0x10000 else 0
  setReg s (pgClu g) (0x140 + 4 * i) (new ||| z)

/-- A slice is given to a context, or to none, by the dispatcher. -/
def giveSlice (s : Block) (g i : Nat) (x : Option Nat) : Block :=
  setSlice s g i (match x with
    | some x => BitVec.ofNat 32 (2 ^ 31 + x)
    | none => 0)

/-- The judged write of a CLU_SLICE_OWNER register. -/
def writeSlice (s : Block) (g i off : Nat) (w : Writer) (value : Word) : Block :=
  plainWrite s (pgClu g) off w (mmRight w) none (fun s => setSlice s g i value)

/-- CLU_SLICE_OWNER_WRITE (R107). -/
def doCluSliceOwnerWrite (w : Writer) (g : CluNo) (i : Fin 16) (value : Word) (s : Block) : Block :=
  enterWrite s (pgClu g) w (0x140 + 4 * i) value (fun _ _ s => writeSlice s g i (0x140 + 4 * i) w value)

/-- The zeroise of a slice ends: its bytes are zero. -/
def sliceZeroised (s : Block) (g i : Nat) : Block :=
  let v := sliceOwner s g i
  if !natBit v.toNat 16 then s
  else
    let s := setReg s (pgClu g) (0x140 + 4 * i) (v &&& 0x80007FFF)
    let s := { s with cs := tabSet s.cs g (memDrop (tabGet [] s.cs g) (i * sliceBytes) ((i + 1) * sliceBytes)) }
    cleanSram s (wordCs g (i * sliceBytes)) (sliceBytes / 8)

/-! Transfers (R87 to R89). -/

/-- The moves between the same two clusters as p that were accepted before it and have not arrived (R88). -/
def earlierTransfers (s : Block) (route : Nat × Nat) (p : Posted) : Bool :=
  s.cores.any (fun e => e.2.placed.isSome && e.2.posted.any (fun q =>
    q.kind == .move && decide (q.id < p.id) && !q.arrived && (moveRoute s (.placed e.1) q == some route)))

/-- FABRIC_TRANSFER_ARRIVAL (R87 to R89): the data of a move between clusters arrives, after the transfers that its source cluster sent
to that cluster before it. -/
def doFabricTransferArrival (x : CtxNo) (rank id : Nat) (s : Block) : Block :=
  let t := seatOf s x rank
  match findPosted (seatCore s t) id with
  | none => s
  | some p =>
    match p.kind, moveRoute s t p with
    | .move, some route =>
      if p.arrived || moveCut s t p || earlierTransfers s route p || !moveFree s t p then s else landMove s t p
    | _, _ => s

/-- Region r is fenced: the transfers that its cores have in flight to other clusters are lost without notice, and no data of theirs lands (R89). -/
def loseTransfers (s : Block) (r : Nat) : Block :=
  { s with cores := tabMap (fun c k =>
      if rgnOfCore c = r then
        { k with posted := k.posted.map (fun p => if p.kind = .move ∧ (moveRoute s (.placed c) p).isSome then { p with arrived := true } else p) }
      else k) s.cores }

/-- FABRIC_TRANSFER_ERROR (R89, R237): a transfer whose destination is out of service ends with an error at its source. -/
def doFabricTransferError (x : CtxNo) (rank id : Nat) (s : Block) : Block :=
  let t := seatOf s x rank
  match findPosted (seatCore s t) id with
  | none => s
  | some p =>
    match p.kind, moveTarget s t p with
    | .move, .placed c =>
      if p.arrived || !moveCut s t p then s
      else endPosted (scribble s (.placed c) (descOf p.td)) t p (moveFail 4 0)
    | _, _ => s

/-! The cluster merge unit (R82, R84). -/

/-- MERGE_READY (R84): the last contribution of a team's collective has arrived; it queues for its cluster's merge unit. -/
def doMergeReady (x : CtxNo) (group n : Nat) (s : Block) : Block :=
  match findColl s (.team x group) n with
  | none => s
  | some q =>
    if q.stage = .gathering ∧ collComplete s q ∧ (teamCluster s q.scope).isSome then
      updColl s q.scope n (fun q => { q with stage := .queued s.now })
    else s

/-- Whether merge a is served before merge b: latency-critical first, then the one that was ready first. -/
def mergeBefore (s : Block) (a b : Coll) : Bool :=
  let cls (q : Coll) : Nat := match q.scope with
    | .team x _ => if (getCtx s x).cls = .lc then 0 else 1
    | _ => 1
  let at' (q : Coll) : Nat := match q.stage with
    | .queued t => t
    | _ => 0
  decide (cls a < cls b) || (cls a == cls b && decide (at' a < at' b))

/-- Steps that a merge takes (R82; log entry 23). -/
def mergeSteps (q : Coll) : Nat :=
  let n := (q.parts.head?.map (fun p => p.shape.d0 * p.shape.d1 * p.shape.d2)).getD 0
  24 + (if n ≤ 32 then 0 else (n + 31) / 32)

/-- MERGE_COMPLETE (R82 to R84): the merge unit of a cluster finishes the operation that is first in its order. -/
def doMergeComplete (x : CtxNo) (group n : Nat) (s : Block) : Block :=
  match findColl s (.team x group) n with
  | none => s
  | some q =>
    match q.stage, teamCluster s q.scope with
    | .queued _, some g =>
      if s.colls.any (fun o => (match o.stage with
          | .queued _ => true
          | _ => false) && teamCluster s o.scope == some g && mergeBefore s o q) then s
      else
        let s := updColl s q.scope n (fun q => { q with stage := .merged })
        bump (bump s (pgClu g) 4 1) (pgClu g) 5 (mergeSteps q)
    | _, _ => s

/-! Pace windows (R90, R112). -/

/-- Whether the window that ends at micro µs can have n steps in a region in service: pace lies within the operating envelope, and differs by no
more than 64 steps from that of the window before, if the region reported that one (R8, R91). -/
def paceCan (s : Block) (r micro n : Nat) : Bool :=
  let last := (getRegD s (pgRgn r) 0x100 0).toNat % 65536
  decide (1300 ≤ n) && decide (n ≤ 2600) && (last == 0 || tabGet 0 s.paceEnd r + 1 != micro || (decide (n ≤ last + 64) && decide (last ≤ n + 64)))

/-- PACE_WINDOW_END (R90, R91, R112): the microsecond window that ends at `micro` µs closes with a number of whole steps. A fenced
region reports none. A region that has yet to close an epoch counts no later window before it has. -/
def doPaceWindowEnd (r : RgnNo) (micro : Nat) (steps : BitVec 16) (s : Block) : Block :=
  let late := (tabGet [] s.rgnLatch r).head?.any (fun e => decide (e.2 < micro * 1000))
  let p := pgRgn r
  let n := steps.toNat
  if decide (micro = 0) || decide (micro ≤ tabGet 0 s.paceEnd r) || late || !(outOfService s p || paceCan s r micro n) then s
  else
    let s := { atTime s (micro * 1000) with paceEnd := tabSet s.paceEnd r micro }
    if outOfService s p then setReg s p 0x100 0
    else
      let s := { s with pace := tabSet s.pace r n }
      let s := setReg s p 0x100 (BitVec.ofNat 32 ((micro - 1) % 65536 * 2 ^ 16 + n))
      bump (bump (bumpMax (bumpMax s p 2 n) p 3 (65535 - n)) p 4 n) p 5 1

/-! The statistics shadow (R67 to R70). -/

/-- A page closes an epoch: its shadow takes the live statistics, which restart at zero. -/
def latchPage (n : Nat) (g : Page) : Page :=
  { g with
    shadow := g.live, live := [], epoch := BitVec.ofNat 32 n, shadowValid := true, irqStatus := g.irqStatus ||| 0x10 }

/-- Signals that a page's shadow latched, if its event became pending and enabled. -/
def signalLatch (before : Block) (s : Block) (p : Nat) : Block :=
  let g := getPage before p
  if natBit g.irqStatus.toNat 4 || !natBit g.irqEnable.toNat 4 then s
  else signal s p ((getPage s p).irqStatus &&& g.irqEnable)

/-- Makes every RGN page a listed page, so that it can close its epoch on its own. -/
def listRegions (s : Block) : Block := (List.range 48).foldl (fun s r => setPage s (pgRgn r) (getPage s (pgRgn r))) s

/-- Every page but the RGN pages closes epoch n at time t; a page that the hub answers latches zeros (R639). -/
def latchAll (s : Block) (n t : Nat) : Block :=
  let s0 := listRegions s
  let rgn (p : Nat) : Bool := decide (0x3300 ≤ p) && decide (p < 0x3330)
  let s := { s0 with
    pages := tabMap (fun p g =>
      if rgn p then g
      else
        match pageOf p with
        | some (k, i) => latchPage n (if pageAnswers s0 k i then g else { g with live := [] })
        | none => g) s0.pages,
    blank := latchPage n s0.blank,
    rgnLatch := (List.range 48).map (fun r => (r, tabGet [] s0.rgnLatch r ++ [(n, t)])) }
  ((tabKeys s0.pages).filter (fun p => !rgn p)).foldl (signalLatch s0) s

/-- RGN_SHADOW_LATCH (R112): a region page closes the oldest epoch that it has yet to close, once the last pace window of it has been read, or
has none to come. -/
def doRgnShadowLatch (r : RgnNo) (s : Block) : Block :=
  match tabGet [] s.rgnLatch r with
  | [] => s
  | (n, t) :: rest =>
    let p := pgRgn r
    if t / 1000 ≤ tabGet 0 s.paceEnd r || outOfService s p then
      signalLatch s { updPage s p (latchPage n) with rgnLatch := tabSet s.rgnLatch r rest } p
    else s

end Sys2Proof.Machine
end

