-- ==== Sys2Proof/Machine/Tiers.lean ====
section
/-! DEFINITION. Tiers: the caravan (R309 to R329), the zeroising of program pages (R331) and TIE_LEAD_MAX (R335). -/
namespace Sys2Proof.Machine

/-! Layers, tensors, copies (R313 to R315). -/

def layerMirage (x : Ctx) (l : LayerDecl) : Option MirageDecl := l.mirage.bind (fun i => x.image.mirages[i]?)
/-- A layer of kind WAIT: no mirage, or no deadline. -/
def layerWaits (l : LayerDecl) : Bool := l.mirage.isNone || l.ref == 0
def layerRanks (l : LayerDecl) : List Nat := (List.range l.rankCount).map (fun i => i + l.firstRank)
/-- Whether a layer names a tensor, as its own or as one of its mirage. -/
def ownNames (l : LayerDecl) (tid : Nat) : Bool := l.tensors.contains tid
def layerNames (x : Ctx) (l : LayerDecl) (tid : Nat) : Bool :=
  ownNames l tid || (layerMirage x l).any (fun m => m.tensors.contains tid)

/-- The ranks of the layers that name a tensor, ascending. -/
def namingRanks (x : Ctx) (tid : Nat) : List Nat :=
  (List.range x.ncores).filter (fun r => x.image.layers.any (fun l =>
    layerNames x l tid && decide (l.firstRank ≤ r) && decide (r < l.firstRank + l.rankCount)))

/-- The core of a rank of a context's run, or the one that the context keeps for it. -/
def coreOfRank (x : Ctx) (r : Nat) : Option Nat := (x.run.bind (fun q => q.cores[r]?)).or (x.heldCores[r]?)
def clusterOfRank (x : Ctx) (r : Nat) : Option Nat := (coreOfRank x r).map cluOfCore

/-- The clusters of some ranks, ascending, each once. -/
def clustersOf (x : Ctx) (ranks : List Nat) : List Nat :=
  ((sortBy (fun a b => decide (a ≤ b)) (ranks.filterMap (clusterOfRank x)))).eraseDups

/-- The copies of a context's declared tensors, all ABSENT. -/
def freshCopies (x : Ctx) : List Copy :=
  (x.image.tensors.zipIdx).flatMap (fun e =>
    let ranks := namingRanks x e.2
    if e.1.dstCluster then (clustersOf x ranks).map (fun g => { tid := e.2, cluster := true, place := g, lo := e.1.dst, bytes := e.1.bytes })
    else ranks.map (fun r => { tid := e.2, cluster := false, place := r, lo := e.1.dst, bytes := e.1.bytes }))

def tensorPersist (x : Ctx) (tid : Nat) : Bool := (x.image.tensors[tid]?).any (fun t => t.persist)

/-- The copies that a layer instance needs: those of the layer's own tensors at its ranks, or at their clusters. -/
def instCopies (x : Ctx) (l : LayerDecl) : List Copy :=
  let ranks := layerRanks l
  let clu := clustersOf x ranks
  x.copies.filter (fun y => ownNames l y.tid && (if y.cluster then clu.contains y.place else ranks.contains y.place))

/-- Whether a copy holds what an instance needs of it. -/
def copyServes (x : Ctx) (y : Copy) (layer iter : Nat) : Bool :=
  y.state == .resident && (tensorPersist x y.tid || (y.layer == layer && y.iter == iter))

/-- Whether every copy of an instance is resident. -/
def instResident (x : Ctx) (layer iter : Nat) : Bool :=
  match x.image.layers[layer]? with
  | none => false
  | some l => (instCopies x l).all (fun y => copyServes x y layer iter)

/-- Whether two copies are the same one. -/
def sameCopy (a b : Copy) : Bool := a.tid == b.tid && a.cluster == b.cluster && a.place == b.place
def updCopy (x : Ctx) (y : Copy) (f : Copy → Copy) : Ctx :=
  { x with copies := x.copies.map (fun o => if sameCopy o y then f o else o) }

/-! Layer instances (R317, R322). -/

def findInst (x : Ctx) (layer iter : Nat) : Option Inst := x.insts.find? (fun i => i.layer == layer && i.iter == iter)
def updInst (x : Ctx) (layer iter : Nat) (f : Inst → Inst) : Ctx :=
  match findInst x layer iter with
  | some _ => { x with insts := x.insts.map (fun i => if i.layer = layer ∧ i.iter = iter then f i else i) }
  | none => { x with insts := x.insts ++ [f { layer := layer, iter := iter }] }
def instDecision (x : Ctx) (layer iter : Nat) : Option Decision := (findInst x layer iter).bind (·.decision)

/-- The deadline of an instance, once its reference is known. -/
def instDeadline (x : Ctx) (layer iter : Nat) : Option Nat :=
  match x.image.layers[layer]? with
  | none => none
  | some l =>
    if l.ref = 1 then ((findInst x layer iter).bind (·.gateTime)).map (· + l.deadline)
    else if l.ref = 2 then (tabFind x.marks iter).map (· + l.deadline)
    else none

/-- The earliest instance, in order, that is not decided. -/
def frontSeq (x : Ctx) : Nat :=
  let n := max 1 x.image.layers.length
  ((List.range (x.insts.length + 1)).find? (fun q => (instDecision x (q % n) (q / n)).isNone)).getD 0

/-- The tier-engine share that decides a layer. -/
def decideShare (x : Ctx) (l : LayerDecl) : Nat := ((coreOfRank x l.firstRank).map dieOfCore).getD 0

/-- The largest value of a table of numbers. -/
def tabMax (t : Tab Nat) : Nat := t.foldl (fun m e => max m e.2) 0

/-- LEAD in force for an instance: that of the image, but no more than the deciding share honours (R335). -/
def leadOf (s : Block) (x : Ctx) (layer : Nat) : Nat :=
  match x.image.layers[layer]? with
  | none => 0
  | some l => min x.image.lead (getRegD s (pgTie (decideShare x l)) 0x110 8).toNat

/-- The deciding share of an instance by its place in the order. -/
def seqShare (x : Ctx) (q : Nat) : Nat := ((x.image.layers[q % max 1 x.image.layers.length]?).map (decideShare x)).getD 0

/-- Whether an instance exists under ITERATIONS, and lies within LEAD of the earliest undecided one. -/
def withinLead (s : Block) (x : Ctx) (q : Nat) : Bool :=
  let n := max 1 x.image.layers.length
  (x.image.iterations == 0 || decide (q / n < x.image.iterations)) &&
    (decide (q < tabGet 0 x.leadSeen (seqShare x q)) || decide (q ≤ frontSeq x + leadOf s x (q % n)))

/-- The instances within LEAD, in order. -/
def openInsts (s : Block) (x : Ctx) : List Nat :=
  if x.image.layers.isEmpty then [] else (List.range (max (tabMax x.leadSeen) (frontSeq x + 9))).filter (withinLead s x)

/-! Decisions (R323 to R328). -/

/-- The code of a decision in TIE_LAST and in the MIRAGE register. -/
def decisionKind : Decision → Nat
  | .full => 0
  | .mirage kind _ => kind
  | .failed _ _ _ _ => 4

/-- The share's account of a decision (R335, R336). -/
def noteDecision (s : Block) (x share layer : Nat) (d : Decision) : Block :=
  let p := pgTie share
  match decisionKind d with
  | 0 => bump s p 7 1
  | kind =>
    let s := bump s p (if kind = 1 then 8 else if kind = 2 then 9 else 10) 1
    let s := setReg s p 0x104 (BitVec.ofNat 32 (kind * 2 ^ 28 + layer % 2 ^ 12 * 2 ^ 16 + x))
    setReg (setReg s p 0x108 (BitVec.ofNat 32 s.now)) p 0x10C (BitVec.ofNat 32 (s.now / 2 ^ 32))

/-- The mirage path that a layer takes, with the kind that the registers show: fails if a tensor of its entry failed to fill. -/
def mirageOf (x : Ctx) (l : LayerDecl) : Decision :=
  match layerMirage x l with
  | none => .full
  | some m =>
    match (m.tensors.filterMap (fun t => tabFind x.failedMir t)).head? with
    | some w => .failed w 0 0 false
    | none => .mirage m.kind (if m.kind = 1 then l.endOff else m.target)

/-- The program bytes of a copy's source, and its seat (R313). -/
def copyRank (x : Ctx) (y : Copy) : Nat :=
  if y.cluster then ((namingRanks x y.tid).find? (fun r => clusterOfRank x r == some y.place)).getD 0 else y.place
/-- How many bytes after SRC a copy's source begins; a rank below FIRST_RANK of the first layer that names the tensor lies before it. -/
def copyShift (x : Ctx) (y : Copy) (t : TensorDecl) : Int :=
  if t.perRank then
    ((copyRank x y : Int) - (((x.image.layers.find? (fun l => layerNames x l y.tid)).map (·.firstRank)).getD 0 : Nat)) * t.stride
  else 0
def copySeat (s : Block) (xn : Nat) (y : Copy) : Seat := seatOf s xn (copyRank (getCtx s xn) y)

/-- The first n source bytes of a copy: from the context's window or from a bound namespace; or the failure word (R237, R252). -/
def readSource (s : Block) (xn : Nat) (y : Copy) (t : TensorDecl) (n : Nat) : Block × (List Byte ⊕ Word) :=
  let x := getCtx s xn
  let shift := copyShift x y t
  if t.srcNs then
    match bindingOf s xn t.nsSlot with
    | none => (s, .inr (moveFail 6 0))
    | some (b, ns) =>
      let size := max 1 ns.lba
      let at' := (t.src : Int) + shift / size
      let lba := at'.toNat
      if t.bytes % size ≠ 0 ∨ at' < 0 ∨ ns.blocks < lba + t.bytes / size then (s, .inr (moveFail 6 0))
      else
        match readData s b.nsid lba [] ((n + size - 1) / size) with
        | (s, .inl l) => (s, .inl (l.take n))
        | (s, .inr i) => (s, .inr (moveFail 6 (i % 2 ^ 16)))
  else
    let a := (t.src : Int) + shift
    if a < dmBase ∨ (dmBase + x.image.devBytes : Nat) < a + t.bytes then (s, .inr (moveFail 4 0))
    else
      let u := copySeat s xn y
      let q := seatCheck s u a.toNat n 3
      if q.2 then (q.1, .inr (moveFail 5 0)) else (q.1, .inl (seatRead q.1 u a.toNat n))

/-- The first n bytes of a fill are written at its destination, and counted by the share that carries it out (R307, R308, R336). -/
def fillWrite (s : Block) (xn : Nat) (y : Copy) (t : TensorDecl) (data : List Byte) : Block :=
  let u := copySeat s xn y
  let n := data.length
  let s := countWritten (seatWrite s u y.lo data).1 u y.lo n
  let s := countPath s none (seatRgn u y.lo) n
  if t.srcNs then bump s (pgTie (shareOf u)) 4 n else s

/-- Abandons a fill: some bytes of the copy have been moved, how many is open (R325; log entry 2); none where the source cannot be read. -/
def abandonFill (s : Block) (xn : Nat) (y : Copy) : Block :=
  match (getCtx s xn).image.tensors[y.tid]? with
  | none => s
  | some t =>
    let r := readSource (drawFresh s) xn y t ((Config.freeWord s.fresh).toNat % (t.bytes + 1))
    let data := match r.2 with
      | .inl b => b
      | .inr _ => []
    let s := updCtx (fillWrite r.1 xn y t data) xn (fun x => updCopy x y (fun o => { o with state := .absent }))
    bump s (pgTie (shareOf (copySeat s xn y))) 11 data.length

/-- One layer instance is decided, with its effect on the run's count and on the instance's fills. -/
def decideOne (s : Block) (xn layer iter : Nat) (d : Decision) : Block :=
  let x := getCtx s xn
  match x.image.layers[layer]? with
  | none => s
  | some l =>
    let share := decideShare x l
    let s := noteDecision s xn share layer d
    let s := updCtx s xn (fun x =>
      let x := updInst x layer iter (fun i => { i with decision := some d, decided := s.now })
      if d = .full then x
      else { x with run := x.run.map (fun r => { r with mirages := satAdd 0xFFFFFFFF r.mirages 1 }) })
    if d = .full then s
    else
      ((getCtx s xn).copies.filter (fun y => y.state == .filling && y.layer == layer && y.iter == iter)).foldl
        (fun s y => abandonFill s xn y) s

/-- A decision, with the later instances of the iteration that an EXIT decides at the same moment (R325). -/
def decideInst (s : Block) (xn layer iter : Nat) (d : Decision) : Block :=
  let s := decideOne s xn layer iter d
  let x := getCtx s xn
  let exit : Option Nat := match d with
    | .mirage 3 t => some t
    | .failed _ 3 t true => some t
    | _ => none
  match exit with
  | none => s
  | some t =>
    (List.range x.image.layers.length).foldl (fun s j =>
      if layer < j && (instDecision (getCtx s xn) j iter).isNone then decideOne s xn j iter (.mirage 3 t) else s) s

/-- When the last copy of an instance's own tensors became resident, or for a layer without tensors its first core reached its gate;
none while that has not happened (R323). -/
def instFullAt (x : Ctx) (layer iter : Nat) : Option Nat :=
  match x.image.layers[layer]? with
  | none => none
  | some l =>
    if l.tensors.isEmpty then (findInst x layer iter).bind (·.gateTime)
    else if instResident x layer iter then some (((instCopies x l).map (·.since)).foldl max 0)
    else none

/-- Whether an instance is full no later than its deadline. -/
def fullInTime (x : Ctx) (layer iter : Nat) : Bool :=
  (instFullAt x layer iter).any (fun f =>
    (x.image.layers[layer]?).any layerWaits || (instDeadline x layer iter).all (fun t => Nat.ble f t))

/-- Decides an instance FULL once its copies are resident, no later than its deadline. -/
def decideIfFull (s : Block) (xn layer iter : Nat) : Block :=
  let x := getCtx s xn
  if (instDecision x layer iter).isSome || !fullInTime x layer iter then s else decideInst s xn layer iter .full

/-- Whether a context's caravan acts: its run has started and is not being torn down (R329). -/
def caravanActs (x : Ctx) : Bool :=
  x.run.isSome &&
    (match x.phase with
     | .running => true
     | .ending => true
     | .saving => true
     | .parked => true
     | .restoring => true
     | _ => false)

/-! What a core does on a decision (R324, R325). -/

/-- The MIRAGE register after a decision (R326). -/
def mirageAfter (v : DWord) (kind layer : Nat) : DWord :=
  BitVec.ofNat 64 (2 ^ 63 + kind * 2 ^ 60 + layer % 2 ^ 16 * 2 ^ 32 + satAdd 0xFFFFFFFF (v.toNat % 2 ^ 32) 1)

/-- The end of a core's wait at a gate, counted in statistic 7. -/
def endGateWait (s : Block) (c : Nat) : Block :=
  let k := getCore s c
  setCore (bump s (pgCor c) 7 (s.now - k.since)) c { k with gate := none, run := .running }

/-- The core continues at a mirage target. -/
def takeMirage (s : Block) (c : Nat) (g : GateWait) (kind target : Nat) : Block :=
  let s := endGateWait s c
  let k := getCore s c
  let k := { setPc k target with loops := loopsAfterJump target k.loops, mirage := mirageAfter k.mirage kind g.layer }
  updCtx (setCore s c k) (ctxNoOf k) (fun x => leaveInst x g (rankOf k))

/-- A core that waits at a gate acts on the decision of its instance. After a FULL decision it still waits while a copy of its own
store is being filled again (R329). -/
def actOnGate (s : Block) (c : Nat) : Block :=
  let k := getCore s c
  match k.gate with
  | none => s
  | some g =>
    let x := ctxOf s k
    match instDecision x g.layer g.iter with
    | none => s
    | some .full =>
      if (x.image.layers[g.layer]?).any (fun l => (instCopies x l).any (fun y =>
          !y.cluster && y.place == rankOf k && !copyServes x y g.layer g.iter)) then s
      else
        let s := endGateWait s c
        updCore s c (fun k => { k with gateOpen := true, inLayers := k.inLayers ++ [g] })
    | some (.mirage kind target) => takeMirage s c g kind target
    | some (.failed _ _ target true) => takeMirage s c g 4 target
    | some (.failed w _ _ false) => faultCore s c (bvBits w 24 8) (bvBits w 0 24) k.pc

/-- The next layer of a rank from a position of the declared order on, and the iteration (R318). -/
def nextGate (x : Ctx) (rank layer iter : Nat) : Option (Nat × Nat) :=
  let mine := (List.range x.image.layers.length).filter (fun i => (x.image.layers[i]?).any (fun l =>
    Nat.ble l.firstRank rank && Nat.blt rank (l.firstRank + l.rankCount)))
  match mine.find? (fun i => Nat.ble layer i) with
  | some i => some (i, iter)
  | none => mine.head?.map (fun i => (i, iter + 1))

/-- GATE_REACH (R317, R318): core c reaches a gate. The gate of any layer but its next, or one beyond the last iteration, faults. -/
def doGateReach (c : CoreNo) (s : Block) : Block :=
  let k := getCore s c
  let x := ctxOf s k
  let gates := gatesAt s k
  if !canIssue k || k.gateOpen || gates.isEmpty then s
  else
    match nextGate x (rankOf k) k.nextLayer k.iter with
    | none => s
    | some (l, it) =>
      if !gates.contains l || (x.image.iterations != 0 && Nat.ble x.image.iterations it) then
        faultCore s c 8 (7 * 2 ^ 20 + (if gates.contains l then l else gates.headD 0) % 2 ^ 16) k.pc
      else
        let xn := ctxNoOf k
        let s := setCore s c { k with gate := some ⟨l, it⟩, run := .operandWait, since := s.now, nextLayer := l + 1, iter := it }
        let s := updCtx s xn (fun x =>
          let x := updInst x l it (fun i => { i with gateTime := i.gateTime.or (some s.now) })
          if l = 0 ∧ (tabFind x.marks it).isNone then { x with marks := tabSet x.marks it s.now } else x)
        let s := decideIfFull s xn l it
        actOnGate s c

/-- DECISION_DELIVERY (R324): the decision of the instance that core c waits for reaches it. -/
def doDecisionDelivery (c : CoreNo) (s : Block) : Block :=
  let k := getCore s c
  if k.stop.isSome || k.run != .operandWait then s else actOnGate s c

/-- LAYER_DEADLINE (R322, R323): the deadline of an instance passes. -/
def doLayerDeadline (x : CtxNo) (layer iter : Nat) (s : Block) : Block :=
  let cx := getCtx s x
  match cx.image.layers[layer]?, instDeadline cx layer iter with
  | some l, some t =>
    if !caravanActs cx || layerWaits l || (instDecision cx layer iter).isSome then s
    else
      let s := atTime s t
      if fullInTime cx layer iter then decideInst s x layer iter .full
      else decideInst s x layer iter (mirageOf cx l)
  | _, _ => s

/-! Fills (R312, R319, R320, R328). -/

/-- Whether a copy's destination is pinned by a long or posted instruction (R312). -/
def copyPinned (s : Block) (xn : Nat) (y : Copy) : Bool :=
  let e := (y.lo, y.lo + y.bytes)
  s.cores.any (fun o =>
    o.2.placed.any (fun p => p.ctx == xn) &&
      ((if y.cluster then cluOfCore o.1 == y.place else rankOf o.2 == y.place) &&
          ((longs o.2).any (fun l => l.pinned && (longSrcExtents l ++ longDestExtents l).any (fun d => overlaps d e)) ||
            o.2.posted.any (fun p => (postSrc p ++ postDest p).any (fun d => overlaps d e))) ||
        o.2.posted.any (fun p => p.kind == .move && moveRemote p.x &&
          (if y.cluster then clusterOfRank (getCtx s xn) p.sa.toNat == some y.place else p.sa.toNat == y.place) &&
          overlaps (extent (descOf p.td)) e)))

/-- Whether a fill of a copy may start: it holds nothing, and nothing overlaps its destination. -/
def fillFree (s : Block) (xn : Nat) (y : Copy) : Bool :=
  (y.state == .absent || y.state == .released) &&
    (getCtx s xn).copies.all (fun o => sameCopy o y || o.cluster != y.cluster || o.place != y.place ||
      !(o.state == .filling || o.state == .resident) || !overlaps (o.lo, o.lo + o.bytes) (y.lo, y.lo + y.bytes)) &&
    !copyPinned s xn y

/-- The copies that are to be filled, in order, each with the instance it is filled for: the mirage tensors first, for none. -/
def wantedFills (s : Block) (x : Ctx) : List (Copy × Nat × Nat) :=
  let n := x.image.layers.length
  let mir := (x.copies.filter (fun y => !x.image.layers.any (fun l => ownNames l y.tid) && y.state != .resident &&
    y.state != .filling && !(y.layer == n && (tabFind x.failedMir y.tid).isSome))).map (fun y => (y, n, 0))
  mir ++ (openInsts s x).flatMap (fun q =>
    let layer := q % max 1 n
    let iter := q / max 1 n
    match x.image.layers[layer]? with
    | none => []
    | some l =>
      let live := match instDecision x layer iter with
        | none => true
        | some .full => ((findInst x layer iter).map (fun i => !(layerRanks l).all (fun r => i.left.contains r))).getD true
        | _ => false
      if !live then []
      else
        (x.copies.filter (fun y => ownNames l y.tid && y.state != .filling &&
          (if tensorPersist x y.tid then y.state != .resident
           else (instCopies x l).any (sameCopy y) && !copyServes x y layer iter))).map (fun y => (y, layer, iter)))

/-- The first fill of a context's caravan that can start. -/
def firstFill (s : Block) (x : Nat) : Option (Copy × Nat × Nat) :=
  let cx := getCtx s x
  if cx.phase == .running || cx.phase == .ending then (wantedFills s cx).find? (fun e => fillFree s x e.1) else none

/-- Whether a share serves a fill of context x before one of context y (R321): latency-critical contexts first, but for the bandwidth that BE_SHARE
holds for the others; then the earliest deadline; and fills with a deadline before those without. -/
def fillFirst (s : Block) (x y : Nat) (f g : Copy × Nat × Nat) : Bool :=
  let cx := getCtx s x
  let cy := getCtx s y
  let share := shareOf (copySeat s x f.1)
  let due := match instDeadline cx f.2.1 f.2.2, instDeadline cy g.2.1 g.2.2 with
    | some a, some b => decide (a < b)
    | some _, none => true
    | none, _ => false
  share == shareOf (copySeat s y g.1) &&
    (if cx.cls = cy.cls then due else decide (cx.cls = .lc) && bvBits ((getPage s (pgTie share)).ctl.setWidth 32) 0 2 == 0)

/-- CARAVAN_FILL_START (R319 to R321): the tier engine starts the first fill of a context's caravan that can start, unless its share serves one of
another context first. -/
def doCaravanFillStart (x : CtxNo) (s : Block) : Block :=
  match firstFill s x with
  | none => s
  | some (y, layer, iter) =>
    if s.ctxs.any (fun e => e.1 != x && (firstFill s e.1).any (fun f => fillFirst s e.1 x f (y, layer, iter))) then s
    else
      updCtx s x (fun cx => updCopy cx y (fun o => { o with state := .filling, written := 0, layer := layer, iter := iter }))

/-- A fill fails (R328): its instance is decided FAILED; a tensor of a MIRAGE entry that cannot be filled is remembered. -/
def fillFail (s : Block) (xn : Nat) (y : Copy) (word : Word) : Block :=
  let s := updCtx s xn (fun x => updCopy x y (fun o => { o with state := .absent }))
  let x := getCtx s xn
  let s := if x.image.mirages.any (fun m => m.tensors.contains y.tid) then
      updCtx s xn (fun x => { x with failedMir := tabSet x.failedMir y.tid word }) else s
  match x.image.layers[y.layer]? with
  | none => s
  | some l =>
    if (instDecision x y.layer y.iter).isSome then s
    else
      decideInst s xn y.layer y.iter (match layerMirage x l with
        | some m => .failed word m.kind (if m.kind = 1 then l.endOff else m.target) true
        | none => .failed word 0 0 false)

def findCopy (x : Ctx) (tid : Nat) (cluster : Bool) (place : Nat) : Option Copy :=
  x.copies.find? (fun y => y.tid == tid && y.cluster == cluster && y.place == place)

/-- The MOVE fault word of a failed fill (R252, R328). -/
def fillErrorWord : FillError → Word
  | .unreachable => moveFail 4 0
  | .data => moveFail 5 0
  | .media block => moveFail 6 block.toNat

/-- FILL_FAILED (R328): a fill in progress fails. -/
def doFillFailed (x : CtxNo) (tid : Nat) (cluster : Bool) (place : Nat) (kind : FillError) (s : Block) : Block :=
  match findCopy (getCtx s x) tid cluster place with
  | none => s
  | some y => if y.state = .filling ∧ caravanActs (getCtx s x) then fillFail s x y (fillErrorWord kind) else s

/-- Whether a fill waits for a fenced channel (R395). -/
def sourceWaits (s : Block) (xn : Nat) (y : Copy) (t : TensorDecl) : Bool :=
  t.srcNs && (match bindingOf s xn t.nsSlot with
    | some (b, n) => mediaWaits s b.nsid ((t.src : Int) + copyShift (getCtx s xn) y t / (max 1 n.lba : Nat)).toNat (t.bytes / max 1 n.lba)
    | none => false)

/-- Whether the fills of a context go on: its caravan acts, or it keeps its stores between runs (R310, R329, R343). -/
def mayFill (x : Ctx) : Bool :=
  caravanActs x || (!x.heldCores.isEmpty && (x.phase == .held || x.phase == .waiting || x.phase == .placing))

/-- The place of a copy's fill in the order of its context: mirage tensors first, then by layer instance, tensor, rank or cluster (R319, R321). -/
def fillPlace (x : Ctx) (y : Copy) : List Nat :=
  let n := x.image.layers.length
  [if n ≤ y.layer then 0 else 1 + y.iter * n + y.layer, y.tid, y.place]

/-- Whether a list of numbers comes before another of its length. -/
def listBefore : List Nat → List Nat → Bool
  | a :: as, b :: bs => decide (a < b) || (a == b && listBefore as bs)
  | _, _ => false

/-- Whether a fill stands behind one of its context that the same share serves first from the same kind of source (R319, R321). -/
def fillBehind (s : Block) (xn : Nat) (y : Copy) : Bool :=
  let x := getCtx s xn
  let flash (o : Copy) : Bool := (x.image.tensors[o.tid]?).any (fun t => t.srcNs)
  x.copies.any (fun o => o.state == .filling && flash o == flash y && shareOf (copySeat s xn o) == shareOf (copySeat s xn y) &&
    listBefore (fillPlace x o) (fillPlace x y) && !(x.image.tensors[o.tid]?).any (sourceWaits s xn o))

/-- COPY_RESIDENT (R310, R321, R323): the last byte of a copy is written, and the copy becomes RESIDENT; an instance whose copies are now
all resident is decided. Unreadable source data fails the fill. -/
def doCopyResident (x : CtxNo) (tid : Nat) (cluster : Bool) (place : Nat) (s : Block) : Block :=
  let cx := getCtx s x
  match findCopy cx tid cluster place, cx.image.tensors[tid]? with
  | some y, some t =>
    if y.state ≠ .filling || !mayFill cx || sourceWaits s x y t || fillBehind s x y then s
    else
      let r := readSource s x y t t.bytes
      match r.2 with
      | .inr w => fillFail r.1 x y w
      | .inl b =>
        let s := bump (fillWrite r.1 x y t b) (pgTie (shareOf (copySeat r.1 x y))) 6 1
        let s := updCtx s x (fun cx => updCopy cx y (fun o => { o with state := .resident, written := t.bytes, since := s.now }))
        let n := max 1 cx.image.layers.length
        let s := (openInsts s (getCtx s x)).foldl (fun s q =>
          if (cx.image.layers[q % n]?).any (fun l => ownNames l tid) then decideIfFull s x (q % n) (q / n) else s) s
        refreshWaits s
  | _, _ => s

/-- COPY_RELEASE (R312, R320): every core of the instance has left it and the pins have dropped: the copy is released. -/
def doCopyRelease (x : CtxNo) (tid : Nat) (cluster : Bool) (place : Nat) (s : Block) : Block :=
  let cx := getCtx s x
  match findCopy cx tid cluster place with
  | none => s
  | some y =>
    match cx.image.layers[y.layer]?, findInst cx y.layer y.iter with
    | some l, some i =>
      if y.state = .resident && !tensorPersist cx tid && (layerRanks l).all (fun r => i.left.contains r) && !copyPinned s x y then
        updCtx s x (fun cx => updCopy cx y (fun o => { o with state := .released }))
      else s
    | _, _ => s

/-! Program pages (R331). -/

/-- DEVMEM_PAGE_ZEROISE (R331): a program page that waits for it is zeroised and may be assigned. -/
def doDevmemPageZeroise (p : Fin 196608) (s : Block) : Block :=
  if !natBit s.hub.ready 3 || tabGet PageUse.dirty s.pageUse p != .dirty then s
  else
    let lo := p.val * pageBytes
    let line (n : Nat) : Bool := Nat.ble (lo / 64) n && Nat.blt n ((lo + pageBytes) / 64)
    let s := { s with
      pageUse := tabSet s.pageUse p .clean, dm := memDrop s.dm lo (lo + pageBytes),
      dmErr := s.dmErr.filter (fun e => !line e.1), dmWb := s.dmWb.map (fun w => if line w.line then { w with stale := true } else w) }
    bump s (pgDmm (p / pagesPerStack)) 8 1

/-- The judged write of TIE_LEAD_MAX (R335). Instances that are within the old LEAD stay so. -/
def writeLeadMax (s : Block) (d : Nat) (w : Writer) (value : Word) : Block :=
  let m := bvBits value 0 4
  plainWrite s (pgTie d) 0x110 w (ownerRight (getPage s (pgTie d)) w) (badIf (m == 0 || Nat.blt 8 m)) (fun s =>
    let keep (x : Ctx) : Ctx := match ((openInsts s x).filter (fun q => seqShare x q == d)).getLast? with
      | some q => { x with leadSeen := tabSet x.leadSeen d (q + 1) }
      | none => x
    let s := { s with ctxs := tabMap (fun _ x => keep x) s.ctxs }
    setReg s (pgTie d) 0x110 (BitVec.ofNat 32 m))

/-- TIE_LEAD_MAX_WRITE (R335). -/
def doTieLeadMaxWrite (w : Writer) (d : DieNo) (value : Word) (s : Block) : Block :=
  enterWrite s (pgTie d) w 0x110 value (fun _ _ s => writeLeadMax s d w value)

end Sys2Proof.Machine
end

