-- ==== Sys2Proof/Machine/Image.lean ====
section
/-! DEFINITION. Image: the program image as it is read and checked at context open (R166 to R168, R313 to R316, R339). -/
namespace Sys2Proof.Machine

/-! Fields of an image (R166, R167). -/

/-- An entry of the section table. -/
structure Section where
  type : Nat
  sflags : Nat
  off : Nat
  bytes : Nat
  load : Nat
  deriving DecidableEq, Repr

def imgSections (b : List Byte) : List Section :=
  (List.range (fieldAt b 0x0C 2)).map (fun i =>
    let o := 0x40 + 16 * i
    ⟨fieldAt b o 2, fieldAt b (o + 2) 2, fieldAt b (o + 4) 4, fieldAt b (o + 8) 4, fieldAt b (o + 12) 4⟩)

/-- The bytes of a section. -/
def secBytes (b : List Byte) (q : Section) : List Byte := bytesAt b q.off q.bytes
/-- The bytes of the section of a type that may appear once; empty if there is none. -/
def oneSection (b : List Byte) (t : Nat) : List Byte := (((imgSections b).find? (fun q => q.type == t)).map (secBytes b)).getD []
def hasSection (b : List Byte) (t : Nat) : Bool := (imgSections b).any (fun q => q.type == t)

def sCode : Nat := 0x0001
def sConst : Nat := 0x0002
def sTensors : Nat := 0x0010
def sLayers : Nat := 0x0011
def sMirage : Nat := 0x0012

/-- Whether every byte of a range of a list is zero. -/
def allZero (b : List Byte) (o n : Nat) : Bool := (bytesAt b o n).all (fun x => x == 0)

/-! The declared tables (R313 to R315). -/

def parseTensor (b : List Byte) (i : Nat) : TensorDecl :=
  let o := 32 * i
  let f := fieldAt b (o + 2) 2
  { persist := natBit f 0, perRank := natBit f 1, dstCluster := natBit f 2, srcNs := natBit f 3, nsSlot := fieldAt b (o + 4) 1
    place := fieldAt b (o + 5) 1, src := fieldAt b (o + 8) 8, bytes := fieldAt b (o + 16) 4, dst := fieldAt b (o + 20) 4
    stride := fieldAt b (o + 24) 4 }

/-- Whether an entry of TENSORS keeps the format of R313. size: the block size of the namespace bound to a slot. -/
def tensorOk (size : Nat → Nat) (b : List Byte) (i : Nat) : Bool :=
  let o := 32 * i
  let t := parseTensor b i
  fieldAt b o 2 == i && decide (fieldAt b (o + 2) 2 < 16) && (t.srcNs || t.nsSlot == 0) && decide (t.nsSlot < 16) &&
    decide (t.place ≤ 1) && (!t.srcNs || t.place == 0) && allZero b (o + 6) 2 && t.bytes % 32 == 0 && t.dst % 512 == 0 &&
    (t.perRank || t.stride == 0) && allZero b (o + 28) 4 && (!t.srcNs || t.bytes % size t.nsSlot == 0)

def u16List (b : List Byte) (o n : Nat) : List Nat := (List.range n).map (fun i => fieldAt b (o + 2 * i) 2)

def parseLayer (b : List Byte) (i : Nat) : LayerDecl :=
  let o := 16 + 32 * i
  let m := fieldAt b (o + 0x18) 2
  { ref := fieldAt b (o + 3) 1, firstRank := fieldAt b (o + 4) 2, rankCount := fieldAt b (o + 6) 2, gate := fieldAt b (o + 8) 4
    endOff := fieldAt b (o + 12) 4, deadline := fieldAt b (o + 16) 4
    tensors := u16List b (fieldAt b (o + 0x14) 4) (fieldAt b (o + 2) 1), mirage := if m = 0xFFFF then none else some m }

/-- Whether an entry of LAYERS keeps the format of R314, for a CODE of a length, a number of tensors and a core count. -/
def layerOk (b : List Byte) (codeLen tensors ncores i : Nat) : Bool :=
  let o := 16 + 32 * i
  let l := parseLayer b i
  let tl := fieldAt b (o + 0x14) 4
  let n := fieldAt b (o + 2) 1
  fieldAt b o 2 == i && decide (n ≤ 64) && decide (l.ref ≤ 2) && decide (1 ≤ l.rankCount) &&
    decide (l.firstRank + l.rankCount ≤ ncores) && decide (l.gate < codeLen) && decide (l.endOff < codeLen) &&
    (n == 0 || (decide (16 + 32 * fieldAt b 0 2 ≤ tl) && decide (tl + 2 * n ≤ b.length))) &&
    l.tensors.all (fun t => decide (t < tensors)) && allZero b (o + 0x1A) 6

def parseMirage (b : List Byte) (i : Nat) : MirageDecl :=
  let o := 16 * i
  { kind := fieldAt b o 1, target := fieldAt b (o + 4) 4, tensors := u16List b (fieldAt b (o + 8) 4) (fieldAt b (o + 2) 1) }

/-- Whether an entry of MIRAGE keeps the format of R315. -/
def mirageOk (b : List Byte) (codeLen e : Nat) (ts : List TensorDecl) (i : Nat) : Bool :=
  let o := 16 * i
  let m := parseMirage b i
  let tl := fieldAt b (o + 8) 4
  let n := fieldAt b (o + 2) 1
  decide (1 ≤ m.kind) && decide (m.kind ≤ 3) && allZero b (o + 1) 1 && decide (n ≤ 16) && allZero b (o + 3) 1 &&
    (if m.kind = 1 then m.target == 0 else decide (m.target < codeLen)) && allZero b (o + 12) 4 &&
    (n == 0 || (decide (16 * e ≤ tl) && decide (tl + 2 * n ≤ b.length))) && m.tensors.all (fun t => (ts[t]?).any (fun t => t.persist))

/-- The entries that MIRAGE has: one more than the highest index that a layer names. -/
def mirageEntries (ls : List LayerDecl) : Nat :=
  ls.foldl (fun n l => match l.mirage with
    | some m => max n (m + 1)
    | none => n) 0

/-- What the module keeps of an image. -/
def parseImage (b : List Byte) : Image :=
  let t := oneSection b sTensors
  let l := oneSection b sLayers
  let m := oneSection b sMirage
  let layers := if hasSection b sLayers then (List.range (fieldAt l 0 2)).map (parseLayer l) else []
  { level := fieldAt b 6 1, entry := fieldAt b 0x10 4, code := oneSection b sCode, localBytes := fieldAt b 0x1C 4
    slices := fieldAt b 0x20 1, devBytes := fieldAt b 0x28 8
    consts := ((imgSections b).filter (fun q => q.type == sConst)).map (fun q => ⟨q.sflags % 4, q.load * 256, secBytes b q⟩)
    tensors := (List.range (t.length / 32)).map (parseTensor t)
    lead := if hasSection b sLayers then fieldAt l 2 1 else 1, iterations := fieldAt l 4 4, layers := layers
    mirages := (List.range (mirageEntries layers)).map (parseMirage m) }

/-! The checks (R168, R316). -/

/-- The sections of an image keep the limits of R167: within the image, apart, known, counted and sized. An empty section
inside another overlaps it; one inside the header does not (R168; log entry 158). -/
def sectionsOk (b : List Byte) (len level : Nat) : Bool :=
  let qs := imgSections b
  let head := 0x40 + 16 * qs.length
  decide (1 ≤ qs.length) && decide (qs.length ≤ 64) &&
    qs.all (fun q => decide (q.off + q.bytes ≤ len) && (q.bytes == 0 || decide (head ≤ q.off)) &&
      (q.type == sCode || q.type == sConst || q.type == sTensors || q.type == sLayers || q.type == sMirage || q.type == 0x0020 ||
        decide (0x8000 ≤ q.type)) && (q.type != sConst || q.sflags % 4 != 3)) &&
    (qs.zipIdx).all (fun e => (qs.zipIdx).all (fun f => e.2 == f.2 || !overlaps (e.1.off, e.1.off + e.1.bytes) (f.1.off, f.1.off + f.1.bytes))) &&
    (qs.filter (fun q => q.type == sCode)).length == 1 &&
    [sTensors, sLayers, sMirage].all (fun t => decide ((qs.filter (fun q => q.type == t)).length ≤ 1)) &&
    qs.all (fun q => q.type != sCode || (decide (4 ≤ q.bytes) && decide (q.bytes ≤ 16777216) && q.bytes % 4 == 0)) &&
    (level != 1 || !hasSection b sMirage)

/-- The declared tables keep the format of R313 to R316. -/
def tablesOk (size : Nat → Nat) (b : List Byte) (ncores : Nat) : Bool :=
  let im := parseImage b
  let t := oneSection b sTensors
  let l := oneSection b sLayers
  let m := oneSection b sMirage
  let n := fieldAt l 0 2
  let e := mirageEntries im.layers
  t.length % 32 == 0 && decide (t.length ≤ 32 * 4096) && (List.range (t.length / 32)).all (tensorOk size t) &&
    (!hasSection b sLayers || (decide (16 ≤ l.length) && decide (1 ≤ n) && decide (n ≤ 1024) && decide (1 ≤ im.lead) && decide (im.lead ≤ 8) &&
      allZero l 3 1 && allZero l 8 8 && decide (16 + 32 * n ≤ l.length) &&
      (List.range n).all (layerOk l im.code.length im.tensors.length ncores))) &&
    decide (16 * e ≤ m.length) && (List.range e).all (mirageOk m im.code.length e im.tensors)

/-- Whether two ranks can share a cluster under a granularity (R316). -/
def canShare (gran r1 r2 : Nat) : Bool := gran == 0 || r1 / 16 == r2 / 16

/-- Whether the destinations of two tensors of a context can meet (R316). -/
def canMeet (x : Ctx) (i j : Nat) (a c : TensorDecl) : Bool :=
  a.dstCluster == c.dstCluster &&
    (if a.dstCluster then (namingRanks x i).any (fun r => (namingRanks x j).any (canShare x.gran r))
     else (namingRanks x i).any (fun r => (namingRanks x j).contains r))

/-- The destinations of the declared tensors fit, and no two PERSIST ones can meet. -/
def destsOk (x : Ctx) : Bool :=
  let im := x.image
  let ts := im.tensors.zipIdx
  ts.all (fun e => if e.1.dstCluster then decide (csBase ≤ e.1.dst) && decide (e.1.dst + e.1.bytes ≤ csBase + im.slices * sliceBytes)
    else decide (e.1.dst + e.1.bytes ≤ im.localBytes)) &&
    ts.all (fun e => ts.all (fun f => decide (f.2 ≤ e.2) || !e.1.persist || !f.1.persist ||
      !overlaps (e.1.dst, e.1.dst + e.1.bytes) (f.1.dst, f.1.dst + f.1.bytes) || !canMeet x e.2 f.2 e.1 f.1))

/-- Whether a CONST section fits in a window present for the context. -/
def constFits (x : Ctx) (q : ConstSec) : Bool :=
  decide (q.addr + q.bytes.length ≤ (match q.window with
    | 0 => presentLocal x
    | 1 => x.image.slices * sliceBytes
    | _ => x.image.devBytes))

/-- Whether the reserved fields of the header and the section table are zero. -/
def imageReservedOk (b : List Byte) : Bool :=
  allZero b 7 1 && allZero b 0x0E 2 && allZero b 0x21 7 && allZero b 0x30 8 && allZero b 0x3C 4 &&
    (imgSections b).all (fun q => if q.type = sConst then decide (q.sflags < 4) else q.sflags == 0 && q.load == 0)

/-- The granularity rule of R349. -/
def coresOk (gran n : Nat) : Bool :=
  match gran with
  | 0 => decide (1 ≤ n) && decide (n ≤ 12288)
  | 1 => decide (1 ≤ n) && decide (n ≤ 12288) && n % 16 == 0
  | 2 => decide (1 ≤ n) && decide (n ≤ 12288) && n % 256 == 0
  | _ => n == 3072 || n == 6144 || n == 9216 || n == 12288

/-- The number of a unit of a granularity's size. -/
def unitSize (gran : Nat) : Nat :=
  match gran with
  | 0 => 1
  | 1 => 16
  | 2 => 256
  | _ => 3072

/-- The block size of the namespace that a context has bound to a slot; 1 where it has bound none. -/
def slotSize (s : Block) (x : Ctx) (slot : Nat) : Nat :=
  (((tabFind x.binds slot).bind (fun b => tabFind s.nss b.nsid)).map (fun n => max 1 n.lba)).getD 1

/-- The first reason of R168 for which an image of a length named by the open is rejected, the test of free pages apart. x is the
context that the open would make. -/
def imageReason (s : Block) (b : List Byte) (len : Nat) (x : Ctx) : Option Nat :=
  let level := fieldAt b 6 1
  let major := fieldAt b 5 1
  let minC := fieldAt b 0x14 4
  let maxC := fieldAt b 0x18 4
  if fieldAt b 0 4 ≠ 0x44414E4B then some 0x01
  else if fieldAt b 8 4 < 64 + 16 * fieldAt b 0x0C 2 ∨ fieldAt b 8 4 ≠ len then some 0x0B
  else if crc32cOf (bytesPut (b.take len) 0x38 (zeroBytes 4)) ≠ fieldAt b 0x38 4 then some 0x02
  else if (major ≠ 1 ∧ major ≠ 2) ∨ (major = 1 ∧ level = 2) then some 0x03
  else if level ≠ 1 ∧ level ≠ 2 then some 0x04
  else if !sectionsOk b len level || !tablesOk (slotSize s x) b x.ncores then some 0x05
  else if x.image.entry % 4 ≠ 0 ∨ x.image.code.length ≤ x.image.entry then some 0x06
  else if minC = 0 ∨ maxC < minC ∨ x.ncores < minC ∨ maxC < x.ncores || !coresOk x.gran x.ncores then some 0x07
  else if 1048576 < x.image.localBytes ∨ 16 < x.image.slices ∨ 196608 * pageBytes < x.image.devBytes || !destsOk x then some 0x08
  else if !x.image.consts.all (constFits x) then some 0x09
  else if !imageReservedOk b then some 0x0A
  else none

/-! Program pages at open (R331, R332, R339). -/

def pageFree (s : Block) (p : Nat) : Bool :=
  match tabGet PageUse.dirty s.pageUse p with
  | .dirty => true
  | .clean => true
  | _ => false

/-- Program pages that no one holds, zeroised or not. -/
def freePages (s : Block) : Nat :=
  196608 - (s.pageUse.filter (fun e => match e.2 with
    | .used => true
    | .heldOut => true
    | _ => false)).length

/-- Zeroised pages of a stack, ascending. -/
def cleanOn (s : Block) (k : Nat) : List Nat :=
  s.pageUse.filterMap (fun e => if e.2 = .clean ∧ e.1 / pagesPerStack = k then some e.1 else none)

/-- Bytes of a context's save area: none for a latency-critical one. -/
def saveBytes (x : Ctx) : Nat :=
  if x.cls = .lc then 0
  else roundUp (x.ncores * (65536 + roundUp x.image.localBytes 65536) + min x.ncores 768 * x.image.slices * sliceBytes) pageBytes

/-- The home die of a tensor: the one that holds most of the ranks of the layers naming it, lower on a tie; none if none names it. -/
def homeDie (x : Ctx) (tid : Nat) : Option Nat :=
  let rs := namingRanks x tid
  let n (d : Nat) : Nat := (rs.filter (fun r => r / 3072 == d)).length
  if rs.isEmpty then none
  else some ([1, 2, 3].foldl (fun best d => if n best < n d then d else best) 0)

/-- The device-memory window's bytes that hold a tensor's sources, those of each rank with PER_RANK: from, to (R313). -/
def sourceSpans (x : Ctx) (tid : Nat) (t : TensorDecl) : List (Int × Int) :=
  let first : Int := (((x.image.layers.find? (fun l => layerNames x l tid)).map (·.firstRank)).getD 0 : Nat)
  let from' (r : Nat) : Int := (t.src : Int) - dmBase + (if t.perRank then ((r : Int) - first) * t.stride else 0)
  (if t.perRank then namingRanks x tid else [0]).map (fun r => (from' r, from' r + t.bytes))

/-- The home die for a window page: that of the first NEAR tensor whose source it holds. -/
def pageHome (x : Ctx) (page : Nat) : Option Nat :=
  (((x.image.tensors.zipIdx).find? (fun e => !e.1.srcNs && e.1.place == 0 && (homeDie x e.2).isSome &&
    (sourceSpans x e.2 e.1).any (fun r => decide (r.1 < ((page + 1) * pageBytes : Nat)) && decide (((page * pageBytes : Nat) : Int) < r.2)))).map (fun e => homeDie x e.2)).getD none

/-- The stacks in round-robin order from a stack on. -/
def stackOrder (k : Nat) : List Nat := (List.range 8).map (fun i => (k + i) % 8)

/-- Takes a zeroised page for a home die or round-robin: the page, or none if no page is zeroised. -/
def takePage (s : Block) (home : Option Nat) : Block × Option Nat :=
  let near := match home with
    | none => none
    | some d =>
      let a := 2 * d
      let k := if (cleanOn s a).length < (cleanOn s (a + 1)).length then a + 1 else a
      (cleanOn s k).head?
  match near with
  | some p => ({ s with pageUse := tabSet s.pageUse p .used }, some p)
  | none =>
    match (stackOrder s.rr).find? (fun k => !(cleanOn s k).isEmpty) with
    | none => (s, none)
    | some k =>
      match (cleanOn s k).head? with
      | none => (s, none)
      | some p => ({ s with pageUse := tabSet s.pageUse p .used, rr := (k + 1) % 8 }, some p)

/-- The lent staging page that takes the place of a window page, as an index of the port's staging pages (R439). -/
def lentIndex (x : Ctx) (page : Nat) : Option Nat :=
  (x.lends.find? (fun l => decide (l.windowOffset / pageBytes ≤ page) && decide (page < l.windowOffset / pageBytes + l.count))).map
    (fun l => l.first + (page - l.windowOffset / pageBytes))

def windowPages (x : Ctx) : Nat := roundUp x.image.devBytes pageBytes / pageBytes

/-- Program pages that an open has yet to take. -/
def pagesLeft (x : Ctx) : Nat :=
  ((List.range (windowPages x)).filter (fun p => decide (x.pages.length ≤ p) && (lentIndex x p).isNone)).length +
    (saveBytes x / pageBytes - x.savePages.length)

/-- Takes pages for a context that is being opened, in window order and then for the save area, as long as there are any. -/
def takePages (s : Block) (xn : Nat) : Nat → Block
  | 0 => s
  | n + 1 =>
    let x := getCtx s xn
    let i := x.pages.length
    if i < windowPages x then
      match lentIndex x i with
      | some j => takePages (updCtx s xn (fun x => { x with pages := x.pages ++ [tabGet 0 (getCtl s x.port).staging j] })) xn n
      | none =>
        match takePage s (pageHome x i) with
        | (s, some p) => takePages (updCtx s xn (fun x => { x with pages := x.pages ++ [p] })) xn n
        | (s, none) => s
    else if x.savePages.length < saveBytes x / pageBytes then
      match takePage s none with
      | (s, some p) => takePages (updCtx s xn (fun x => { x with savePages := x.savePages ++ [p] })) xn n
      | (s, none) => s
    else s

/-- Program pages are released: each waits to be zeroised again (R331). -/
def releasePages (s : Block) (ps : List Nat) : Block :=
  { s with pageUse := ps.foldl (fun t p => if tabGet PageUse.dirty t p = .heldOut then t else tabErase t p) s.pageUse }

/-- The program pages of a context that are its own. -/
def ownPages (x : Ctx) : List Nat :=
  ((x.pages.zipIdx).filterMap (fun e => if (lentIndex x e.2).isSome then none else some e.1)) ++ x.savePages

end Sys2Proof.Machine
end

