-- ==== Sys2Proof/Machine/Dispatcher.lean ====
section
/-! DEFINITION. Dispatcher: contexts from open to close (R338 to R344, R438 to R443), runs, their placement and preemption (R345 to
R356), faults and teardown (R357 to R361), and the DSP page's own values (R369, R370). -/
namespace Sys2Proof.Machine

/-! Statuses (R444). -/

def vend (code dnr : Nat) : Nat := status 7 code dnr
def stNoContext : Nat := vend 0x02 1
def stNotOwner : Nat := vend 0x03 1
def stInvalidField : Nat := status 0 0x02 1
def stInvalidNamespace : Nat := status 0 0x0B 1

/-- Whether vendor commands for contexts proceed: they are held until compute readiness (R619). -/
def computeReady (s : Block) : Bool := natBit s.hub.ready 4

/-- A command that carries its effect out at once, once it is fetched and the module is ready for it; it begins to act with f. -/
def onCmd (s : Block) (ready : Bool) (cmd : CmdRef) (f : Block → Block) : Block :=
  if !isFetched s cmd || !ready then s else f (beginCmd s cmd)

/-- Whether the recovery loader runs (R594, R624). -/
def recovering (s : Block) : Bool := natBit s.hub.ready 7

/-- Invalid Command Opcode. -/
def stBadOpcode : Nat := status 0 0x01 1

/-- A command of the module manager, of an admin queue or of the sideband, that the recovery loader does not serve (R478, R594). -/
def onMgr (s : Block) (cmd : CmdRef) (f : Block → Block) : Block :=
  onCmd s (decide (cmd.ctrl = sideband) || (decide (cmd.sqid = 0) && !(getCtl s cmd.ctrl).pp)) cmd
    (fun s => if recovering s then complete s cmd 0 0 stBadOpcode else f s)

/-- A command that names a context of its port: the status that turns it away, if any. -/
def ctxStatus (s : Block) (cmd : CmdRef) (x : Nat) : Option Nat :=
  let cx := getCtx s x
  match cx.phase with
  | .free => some stNoContext
  | .opening => some stNoContext
  | .closing => some stNoContext
  | _ => if cx.closing then some stNoContext else if cx.port = cmd.ctrl then none else some stNotOwner

/-! Open (R338 to R340, R438, R439). -/

/-- Writes bytes at an offset of a context's device-memory window. -/
def windowWrite (s : Block) (xn off : Nat) (b : List Byte) : Block := (seatWrite s (.saved xn 0) (dmBase + off) b).1

/-- The last page of an open is there: CONST sections for device memory are loaded, and the context is IDLE. -/
def openDone (s : Block) (xn : Nat) : Block :=
  let x := getCtx s xn
  let s := (x.image.consts.filter (fun q => q.window == 2)).foldl (fun s q => windowWrite s xn q.addr q.bytes) s
  updCtx s xn (fun x => { x with phase := .idle, openCmd := none })

/-- An open fails: its pages are released and its number is free. -/
def openFail (s : Block) (xn st dw0 : Nat) : Block :=
  let x := getCtx s xn
  let s := { releasePages s (ownPages x) with ctxs := tabErase s.ctxs xn, idxs := tabErase s.idxs xn }
  match x.openCmd with
  | some cmd => complete s cmd dw0 0 st
  | none => s

/-- Takes what pages there are, and completes the open if it lacks none. -/
def openGo (s : Block) (xn : Nat) : Block :=
  let n := windowPages (getCtx s xn) + saveBytes (getCtx s xn) / pageBytes
  let s := takePages s xn (n + 1)
  let x := getCtx s xn
  if pagesLeft x ≠ 0 then s
  else
    let s := openDone s xn
    match x.openCmd with
    | some cmd => complete s cmd xn 0 0
    | none => s

/-- The port that holds a staging index, and the page of it. -/
def stagingOwner (s : Block) (i : Nat) : Option (Nat × Nat) :=
  (List.range 4).findSome? (fun p => (tabFind (getCtl s p).staging i).map (fun g => (p, g)))

/-- The status of a staging index that a port may not name. -/
def stagingStatus (s : Block) (p i : Nat) : Option Nat :=
  match stagingOwner s i with
  | none => some (vend 0x41 1)
  | some (o, _) => if o = p then none else some stNotOwner

/-- The lowest context number that is free. -/
def freeCtx (s : Block) : Option Nat :=
  (List.range (min 32768 (s.ctxs.length + 1))).find? (fun n => decide ((getCtx s n).phase = .free))

/-- The image bytes that an open names (R438): in its data, in staging pages, in a namespace; or the status it ends with. -/
def imageSource (s : Block) (cmd : CmdRef) (b : List Byte) : Block × (List Byte ⊕ Nat) :=
  let len := fieldAt b 8 4
  let loc := fieldAt b 12 4
  let off := fieldAt b 16 8
  match fieldAt b 0 1 with
  | 0 => (s, .inl (b.drop 512))
  | 1 =>
    let idx := (List.range ((off + len + pageBytes - 1) / pageBytes)).map (fun i => loc + i)
    match idx.findSome? (stagingStatus s cmd.ctrl) with
    | some st => (s, .inr st)
    | none =>
      let pages := idx.filterMap (fun i => (stagingOwner s i).map (·.2))
      let pieces := dmPieces pages off len
      let r := dmReadLines s (pieces.flatMap (fun p => linesOf p.1 p.2)) ⟨4, none⟩
      if r.2.isSome then (r.1, .inr (status 2 0x81 1)) else (r.1, .inl (pieces.flatMap (fun p => memBytes 0 r.1.dm p.1 p.2)))
  | _ =>
    match getNs s loc with
    | none => (s, .inr stInvalidNamespace)
    | some n =>
      if !(getCtl s cmd.ctrl).attached.contains loc then (s, .inr stInvalidNamespace)
      else
        let cnt := (len + n.lba - 1) / max 1 n.lba
        if n.blocks < off + cnt then (s, .inr (status 0 0x80 1))
        else
          match readData s loc off [] cnt with
          | (s, .inl l) => (s, .inl (l.take len))
          | (s, .inr _) => (s, .inr (status 2 0x81 1))

/-- The bindings and lent ranges of a descriptor. -/
def descBinds (b : List Byte) : List (Nat × Bind) :=
  (List.range (fieldAt b 0x18 1)).map (fun i =>
    (fieldAt b (0x20 + 8 * i + 4) 1, ⟨fieldAt b (0x20 + 8 * i) 4, fieldAt b (0x20 + 8 * i + 5) 1 == 1⟩))
def descLends (b : List Byte) : List Lend :=
  (List.range (fieldAt b 0x19 1)).map (fun i =>
    ⟨fieldAt b (0xA0 + 16 * i) 8, fieldAt b (0xA0 + 16 * i + 8) 4, fieldAt b (0xA0 + 16 * i + 12) 4⟩)

/-- Whether the fields of a descriptor are those of R438. -/
def descOk (b : List Byte) : Bool :=
  decide (512 ≤ b.length) && decide (fieldAt b 0 1 ≤ 2) && decide (fieldAt b 1 1 ≤ 1) && decide (fieldAt b 2 1 ≤ 3) &&
    decide (fieldAt b 3 1 ≤ 1) && decide (fieldAt b 0x18 1 ≤ 16) && decide (fieldAt b 0x19 1 ≤ 16) && allZero b 0x1A 6 &&
    allZero b 0x1A0 96 && (descBinds b).all (fun e => decide (e.1 < 16)) &&
    (List.range (fieldAt b 0x18 1)).all (fun i => decide (fieldAt b (0x20 + 8 * i + 5) 1 ≤ 1) && allZero b (0x20 + 8 * i + 6) 2) &&
    (fieldAt b 0 1 != 0 || decide (fieldAt b 8 4 ≤ b.length - 512))

/-- The checks and the start of an open, for a context made of its parts; the open completes with done or fails. -/
def openContext (s : Block) (xn : Nat) (x : Ctx) (img : List Byte) (len : Nat) : Block :=
  let s := setCtx s xn x
  match imageReason s img len x with
  | some r => openFail s xn (vend 0x01 (if r = 8 then 0 else 1)) r
  | none =>
    if freePages s < pagesLeft x then openFail s xn (vend 0x01 0) 8
    else openGo s xn

/-- CONTEXT_OPEN (R339, R438): data is the descriptor with the image behind it. -/
def doContextOpen (cmd : CmdRef) (data : List Byte) (s : Block) : Block :=
  onCmd s (computeReady s) cmd (fun s =>
    let s := takeData s cmd data.length
    let b := data
    let c := getCtl s cmd.ctrl
    if !descOk b then complete s cmd 0 0 stInvalidField
    else
      match freeCtx s with
      | none => complete s cmd 0 0 (vend 0x05 0)
      | some xn =>
        if !(descBinds b).all (fun e => c.attached.contains e.2.nsid) then complete s cmd 0 0 stInvalidNamespace
        else
          match ((descLends b).flatMap (fun l => (List.range l.count).map (fun i => l.first + i))).findSome? (stagingStatus s cmd.ctrl),
            imageSource s cmd b with
          | some st, _ => complete s cmd 0 0 st
          | none, (s, .inr st) => complete s cmd 0 0 st
          | none, (s, .inl img) =>
            let x : Ctx := {
              phase := .opening, cls := if fieldAt b 1 1 = 0 then .lc else .be, gran := fieldAt b 2 1
              ncores := fieldAt b 4 4, hold := fieldAt b 3 1 == 1, port := cmd.ctrl, image := parseImage img
              binds := (descBinds b).foldl (fun t e => tabSet t e.1 e.2) [], lends := descLends b, openCmd := some cmd
              openSince := s.now }
            if !(descLends b).all (fun l => l.windowOffset % pageBytes == 0 &&
                decide (l.windowOffset + l.count * pageBytes ≤ roundUp x.image.devBytes pageBytes)) then complete s cmd 0 0 stInvalidField
            else openContext s xn x img (fieldAt b 8 4))

/-- OPEN_PAGES_ZEROISED (R340): an open that waits takes the pages that have been zeroised, and completes when it has all. -/
def doOpenPagesZeroised (x : CtxNo) (s : Block) : Block := if (getCtx s x).phase = .opening then openGo s x else s

/-- OPEN_TIMEOUT (R340): an open has waited 50 ms for zeroised pages. -/
def doOpenTimeout (x : CtxNo) (s : Block) : Block :=
  let cx := getCtx s x
  if cx.phase = .opening then openFail (atTime s (cx.openSince + 50000000)) x (vend 0x01 0) 8 else s

/-! Runs that wait (R341, R348, R365 to R367). -/

/-- Whether a context has a run that waits for cores. -/
def runWaits (x : Ctx) : Bool := x.run.isSome && (decide (x.phase = .waiting) || decide (x.phase = .parked))

/-- When a run's compute command arrived, among all (R348). -/
def runOrder (x : Ctx) : Nat := (x.run.map (fun r => r.cc.order)).getD 0
def runSince (x : Ctx) : Nat := (x.run.map (fun r => r.since)).getD 0

/-- The order in which runs are considered: latency-critical first, then by arrival. -/
def runBefore (a b : Nat × Ctx) : Bool :=
  let cls (x : Ctx) : Nat := if x.cls = .lc then 0 else 1
  decide (cls a.2 < cls b.2) || (cls a.2 == cls b.2 && decide (runOrder a.2 ≤ runOrder b.2))

/-- The waiting runs in order. -/
def waitingRuns (s : Block) : List (Nat × Ctx) := sortBy runBefore (s.ctxs.filter (fun e => runWaits e.2))

/-- DSP_AGE_LIMIT, in ns. -/
def ageLimit (s : Block) : Nat := (getRegD s pgDsp 0x114 0x3E8).toNat % 2 ^ 20 * 1000
/-- Whether a waiting run has aged (R348). -/
def runAged (s : Block) (x : Ctx) : Bool := x.run.any (fun r => r.aged) || decide (runSince x + ageLimit s ≤ s.now)

/-- Whether an aged run holds a run back. -/
def heldBack (s : Block) (w : List (Nat × Ctx)) (e : Nat × Ctx) : Bool :=
  w.any (fun a => a.1 != e.1 && runAged s a.2 &&
    ((decide (a.2.cls = e.2.cls) && decide (runOrder a.2 < runOrder e.2)) || (decide (a.2.cls = .lc) && decide (e.2.cls = .be))))

/-- The longest wait, in ns, among the waiting runs of a class; none if none waits. -/
def oldestWait (s : Block) (cls : CtxClass) : Option Nat :=
  (waitingRuns s).foldl (fun m e => if e.2.cls = cls then some (max (m.getD 0) (s.now - runSince e.2)) else m) none

/-- The next queued compute command of a context, if it has no run, becomes one (R341). -/
def nextRun (s : Block) (xn : Nat) : Block :=
  let x := getCtx s xn
  match x.run, x.queue with
  | none, cc :: rest =>
    if x.phase = .idle ∨ x.phase = .held then
      setCtx s xn { x with queue := rest, run := some { cc := cc, since := s.now }, phase := .waiting }
    else s
  | _, _ => s

/-- Whether n bytes at an address lie in a context's present device-memory window. -/
def inWindow (x : Ctx) (a n : Nat) : Bool := n == 0 || (decide (dmBase ≤ a) && decide (a + n ≤ dmBase + x.image.devBytes))

/-- COMPUTE (R341, R367, R440): data is the compute buffer, of NDT dwords. -/
def doCompute (cmd : CmdRef) (x : Nat) (data : List Byte) (s : Block) : Block :=
  onCmd s (computeReady s) cmd (fun s =>
    match ctxStatus s cmd x with
    | some st => complete s cmd 0 0 st
    | none =>
      let s := takeData s cmd data.length
      let cx := getCtx s x
      let n := data.length
      let argA := fieldAt data 0 8
      let argN := fieldAt data 8 4
      let resN := fieldAt data 12 4
      let resA := fieldAt data 16 8
      if n < 64 ∨ n % 4 ≠ 0 || cx.search then complete s cmd 0 0 stInvalidField
      else if n - 64 < argN ∨ n - 64 < resN ∨ argA % 64 ≠ 0 ∨ resA % 64 ≠ 0 || !inWindow cx argA argN || !inWindow cx resA resN then
        complete s cmd 0 0 (vend 0x13 1)
      else
        let shedAge := (getRegD s pgDsp 0x118 0).toNat % 2 ^ 20 * 1000
        let applies := decide (cx.cls = .be) || natBit (getPage s pgDsp).ctl.toNat 1
        if shedAge ≠ 0 && applies && (oldestWait s cx.cls).any (fun t => Nat.blt shedAge t) then
          complete (bump s pgDsp 11 1) cmd 0 0 (vend 0x12 0)
        else
          let s := { s with nextCompute := s.nextCompute + 1 }
          let cc : ComputeCmd := ⟨cmd, s.now, s.nextCompute, n / 4, argA, argN, resA, resN, bytesAt data 64 argN⟩
          nextRun (updCtx s x (fun cx => { cx with queue := cx.queue ++ [cc] })) x)

/-! Free units (R349). -/

/-- Whether the cluster and region of a core serve. -/
def coreServes (s : Block) (c : Nat) : Bool :=
  (match (getPage s (pgCor c)).service with
   | .inService => true
   | _ => false) &&
  (match (getPage s (pgClu (cluOfCore c))).service with
   | .inService => true
   | _ => false) &&
  (match (getPage s (pgRgn (rgnOfCore c))).service with
   | .inService => true
   | _ => false)

/-- Whether a core is free for context x: in service, held by no one but the dispatcher, zeroised, not set aside for another run. -/
def coreFree (s : Block) (x c : Nat) : Bool :=
  let g := getPage s (pgCor c)
  (getCore s c).placed.isNone && !g.zeroising && (ownerMaster g == 0 || ownerMaster g == 5) && coreServes s c &&
    (match tabFind s.aside c with
     | some y => y == x
     | none => true)

/-- The free slices of a cluster, ascending. -/
def freeSlices (s : Block) (g : Nat) : List Nat :=
  if (getPage s (pgClu g)).zeroising then []
  else (List.range 16).filter (fun i => sliceOwner s g i &&& 0x80010000 == 0)

/-- Whether a cluster has the slices that a context needs there, or has given it some. -/
def slicesFit (s : Block) (xn : Nat) (x : Ctx) (g : Nat) : Bool :=
  x.image.slices == 0 || !(slicesHeld s g xn).isEmpty || decide (x.image.slices ≤ (freeSlices s g).length)

/-- The cores of unit number u of a size. -/
def unitCores (size u : Nat) : List Nat := (List.range size).map (fun i => u * size + i)

/-- Takes the first units that ok accepts, ascending, until n cores are found: the cores, or none. -/
def scanUnits (ok : Nat → Bool) (size : Nat) : Nat → Nat → Nat → Option (List Nat)
  | 0, _, n => if n = 0 then some [] else none
  | fuel + 1, u, n =>
    if n = 0 then some []
    else if 12288 / size ≤ u then none
    else if ok u then (scanUnits ok size fuel (u + 1) (n - size)).map (fun l => unitCores size u ++ l)
    else scanUnits ok size fuel (u + 1) n

/-- Whether a unit is free for a run. -/
def unitFree (s : Block) (xn : Nat) (x : Ctx) (u : Nat) : Bool :=
  let cs := unitCores (unitSize x.gran) u
  cs.all (coreFree s xn) && (x.image.slices == 0 || (cs.map cluOfCore).eraseDups.all (slicesFit s xn x))

/-- Cores that contexts of a class hold. -/
def heldBy (s : Block) (cls : CtxClass) : Nat :=
  (s.cores.filter (fun e => e.2.placed.any (fun p => decide ((getCtx s p.ctx).cls = cls)))).length

/-- Cores that no one holds; those set aside for a run are free until it takes them. -/
def freeCount (s : Block) : Nat := ((List.range 12288).filter (fun c => coreFree { s with aside := [] } 0 c)).length

/-- Whether the reservation lets a run be placed that takes n free cores (R345). -/
def reserveAllows (s : Block) (x : Ctx) (n : Nat) : Bool :=
  let r := (getRegD s pgDsp 0x10C 0).toNat % 2 ^ 14
  decide (x.cls = .lc) || r == 0 || decide (r + n ≤ freeCount s + heldBy s .lc)

/-- The cores that a waiting run would take now: the ones it has kept, or the first free units. -/
def coresFor (s : Block) (xn : Nat) (x : Ctx) : Option (List Nat) :=
  if !x.heldCores.isEmpty then (if x.heldCores.all (coreServes s) && reserveAllows s x 0 then some x.heldCores else none)
  else if reserveAllows s x x.ncores then scanUnits (unitFree s xn x) (unitSize x.gran) 12288 0 x.ncores
  else none

/-! Placement (R349, R350, R355). -/

/-- Gives a core to a rank of a context. -/
def giveCore (s : Block) (xn rank c : Nat) : Block :=
  giveOwner (updCore s c (fun k => { k with placed := some ⟨xn, rank⟩ })) (pgCor c) 6 xn

/-- Gives the lowest free slices of a cluster, and the cluster's page if the context now holds all of the cluster (R81). -/
def giveCluster (s : Block) (xn : Nat) (cores : List Nat) (g : Nat) : Block :=
  let n := (getCtx s xn).image.slices
  let s := if (slicesHeld s g xn).isEmpty then ((freeSlices s g).take n).foldl (fun s i => giveSlice s g i (some xn)) s else s
  if n = 16 ∧ (cores.filter (fun c => cluOfCore c == g)).length = 16 then giveOwner s (pgClu g) 6 xn else s

/-- Places a waiting run on cores. A kept core keeps its owner and its contents. -/
def placeRun (s : Block) (xn : Nat) (cores : List Nat) : Block :=
  let x := getCtx s xn
  let parked := decide (x.phase = .parked)
  let s := if parked then s else
    match x.run with
    | some r => windowWrite s xn (r.cc.argAddr - dmBase) r.cc.arg
    | none => s
  let s := updCtx s xn (fun x => { x with
    phase := if parked then .restoring else .placing
    run := x.run.map (fun r => { r with cores := cores, placedAt := s.now }) })
  let s := { s with aside := s.aside.filter (fun e => e.2 ≠ xn) }
  let s := bump s pgDsp (if x.cls = .lc then 2 else 3) 1
  if !x.heldCores.isEmpty then s
  else
    let s := (cores.zipIdx).foldl (fun s e => giveCore s xn e.2 e.1) s
    (cores.map cluOfCore).eraseDups.foldl (fun s g => giveCluster s xn cores g) s

/-! Release (R57, R351). -/

/-- A core returns to the dispatcher, and is zeroised. -/
def freeCore (s : Block) (c : Nat) : Block :=
  giveOwner (updCore s c (fun k => { k with placed := none })) (pgCor c) 5 0

/-- The cores, slices and clusters of a context return to the dispatcher. -/
def releaseCores (s : Block) (xn : Nat) (cores : List Nat) : Block :=
  let cores := cores.filter (fun c => (getCore s c).placed.any (fun p => p.ctx == xn))
  let s := (cores.map cluOfCore).eraseDups.foldl (fun s g =>
    let s := (slicesHeld s g xn).foldl (fun s i => giveSlice s g i none) s
    let o := getPage s (pgClu g)
    if ownerMaster o = 6 ∧ ownerTag o = xn then giveOwner s (pgClu g) 5 0 else s) s
  cores.foldl freeCore s

/-- The cores of a context: those of its run, and those it keeps. -/
def ctxCores (x : Ctx) : List Nat := ((x.run.map (fun r => r.cores)).getD []) ++ x.heldCores

/-! Preemption (R346, R352, R353). -/

/-- Whether every core of a run has executed END. -/
def allEnding (s : Block) (x : Ctx) : Bool :=
  x.run.any (fun r => !r.cores.isEmpty && r.cores.all (fun c => (getCore s c).endWait || (getCore s c).ended))

/-- Whether a core in a unit stands in the way of a preemption: it is out of service, set aside, held by a latency-critical context or
by someone else, or, under the quantum, by a run that has not held its cores for it. quantum: in ns, 0 for an LC run. -/
def coreTakeable (s : Block) (xn quantum c : Nat) : Bool :=
  coreServes s c && (match tabFind s.aside c with
    | some y => y == xn
    | none => true) &&
    (match (getCore s c).placed with
     | none => ownerMaster (getPage s (pgCor c)) == 0 || ownerMaster (getPage s (pgCor c)) == 5
     | some p =>
       let y := getCtx s p.ctx
       decide (y.cls = .be) &&
         (quantum == 0 || decide (y.phase = .held) || decide (y.phase = .saving) ||
           y.run.any (fun r => decide (r.placedAt + quantum ≤ s.now))))

/-- The best-effort contexts that hold cores of a list, each once. -/
def victims (s : Block) (cores : List Nat) : List Nat :=
  (cores.filterMap (fun c => (getCore s c).placed.map (fun p => p.ctx))).eraseDups

/-- Preempts one context that holds cores: a running run is saved; one that is being placed or restored gives its cores back; a
context that keeps cores between runs loses them. -/
def preempt (s : Block) (xn : Nat) : Block :=
  let x := getCtx s xn
  match x.phase with
  | .running =>
    if allEnding s x then s
    else
      let s := bump s pgDsp 6 1
      updCtx s xn (fun x => { x with
        phase := .saving, run := x.run.map (fun r => { r with preemptions := satAdd 0xFFFF r.preemptions 1 }) })
  | .placing =>
    let s := releaseCores s xn (ctxCores x)
    updCtx s xn (fun x => { x with phase := .waiting, heldCores := [], run := x.run.map (fun r => { r with cores := [] }) })
  | .restoring =>
    let s := releaseCores s xn (ctxCores x)
    updCtx s xn (fun x => { x with phase := .parked, run := x.run.map (fun r => { r with cores := [] }) })
  | .held => updCtx (releaseCores s xn x.heldCores) xn (fun x => { x with phase := .idle, heldCores := [] })
  | .waiting => updCtx (releaseCores s xn x.heldCores) xn (fun x => { x with heldCores := [] })
  | _ => s

/-- Cores that preempting some contexts would leave with the best-effort class: those of runs that are being saved already are lost to it, but
for the ones set aside for best-effort runs. -/
def beLeft (s : Block) (vs : List Nat) : Nat :=
  (s.cores.filter (fun e => e.2.placed.any (fun p =>
    decide ((getCtx s p.ctx).cls = .be) && decide ((getCtx s p.ctx).phase ≠ .saving) && !vs.contains p.ctx))).length +
    (s.aside.filter (fun e => decide ((getCtx s e.2).cls = .be))).length

/-- The preemption that a waiting run causes, if units can be had so: the units are set aside for it. -/
def preemptFor (s : Block) (xn quantum : Nat) : Block :=
  let x := getCtx s xn
  if s.aside.any (fun e => e.2 == xn) then s
  else
    let size := unitSize x.gran
    match scanUnits (fun u => (unitCores size u).all (coreTakeable s xn quantum)) size 12288 0 x.ncores with
    | none => s
    | some cores =>
      let vs := victims s cores
      let beMin := (getRegD s pgDsp 0x10C 0).toNat / 2 ^ 16 % 2 ^ 14
      if quantum = 0 ∧ beMin ≠ 0 ∧ beLeft s vs < beMin then s
      else
        let s := vs.foldl preempt s
        { s with aside := cores.foldl (fun t c => tabSet t c xn) s.aside }

/-- Whether PAUSE holds the dispatcher (R369). -/
def dspPaused (s : Block) : Bool := natBit (getPage s pgDsp).ctl.toNat 0

/-- RUN_PLACEMENT (R348, R349, R352): the dispatcher takes its next decision: if the run it would place first is latency-critical and
does not fit, the preemption that makes room for it; else the placement of the first run that fits. -/
def doRunPlacement (s : Block) : Block :=
  let w := waitingRuns s
  if dspPaused s || !computeReady s || s.low then s
  else
    match w.head? with
    | none => s
    | some h =>
      let s' := if h.2.cls = .lc ∧ (coresFor s h.1 h.2).isNone then preemptFor s h.1 0 else s
      if s'.aside ≠ s.aside then s'
      else
        match w.findSome? (fun e => if heldBack s w e then none else (coresFor s e.1 e.2).map (fun l => (e.1, l))) with
        | some (xn, cores) => placeRun s xn cores
        | none => s

/-- Whether some placed best-effort run has held its cores for a quantum. -/
def quantumHeld (s : Block) (q : Nat) : Bool :=
  s.ctxs.any (fun e => decide (e.2.cls = .be) && e.2.run.any (fun r => !r.cores.isEmpty && decide (r.placedAt + q ≤ s.now)))

/-- DSP_QUANTUM_EXPIRY (R352): best-effort runs that have held their cores for DSP_QUANTUM give them to one that waits. -/
def doDspQuantumExpiry (s : Block) : Block :=
  let q := (getRegD s pgDsp 0x110 0).toNat % 2 ^ 20 * 1000
  if dspPaused s || q == 0 || s.low || !quantumHeld s q then s
  else
    match (waitingRuns s).find? (fun e => decide (e.2.cls = .be) && (coresFor s e.1 e.2).isNone) with
    | some e => preemptFor s e.1 q
    | none => s

/-- DSP_AGE_LIMIT_REACHED (R348): a waiting run has waited DSP_AGE_LIMIT; later runs no longer pass it. -/
def doDspAgeLimitReached (x : CtxNo) (s : Block) : Block :=
  let cx := getCtx s x
  if !runWaits cx then s
  else updCtx (atTime s (runSince cx + ageLimit s)) x (fun cx => { cx with run := cx.run.map (fun r => { r with aged := true }) })

/-! Start and restore (R164, R342, R343, R350, R355). -/

/-- Whether every core and slice that a run was given has been zeroised. -/
def runZeroised (s : Block) (xn : Nat) (cores : List Nat) : Bool :=
  cores.all (fun c => !(getPage s (pgCor c)).zeroising && !(getPage s (pgClu (cluOfCore c))).zeroising) &&
    (cores.map cluOfCore).eraseDups.all (fun g => (slicesHeld s g xn).all (fun i => !natBit (sliceOwner s g i).toNat 16))

/-- A core as it starts (R164): every register zero, the pc at ENTRY; the local store as it stands. -/
def startedCore (k : Core) (entry : Nat) : Core := { placed := k.placed, run := .running, pc := entry, ls := k.ls }

/-- Loads the CONST sections of a core's stores. -/
def loadConsts (s : Block) (xn : Nat) (cores : List Nat) : Block :=
  let im := (getCtx s xn).image
  cores.foldl (fun s c => (im.consts.filter (fun q => q.window == 0)).foldl (fun s q => writeLsBytes s c q.addr q.bytes) s)
    ((cores.map cluOfCore).eraseDups.foldl (fun s g =>
      match cores.find? (fun c => cluOfCore c == g) with
      | some c => (im.consts.filter (fun q => q.window == 1)).foldl (fun s q => (seatWrite s (.placed c) (csBase + q.addr) q.bytes).1) s
      | none => s) s)

/-- The copies of a run that starts: PERSIST copies in stores that were kept keep their state, a fill in progress among them (R343). -/
def startCopies (x : Ctx) : List Copy :=
  let fresh := freshCopies x
  if x.heldCores.isEmpty then fresh
  else fresh.map (fun y =>
    match x.copies.find? (sameCopy y) with
    | some o => if tensorPersist x y.tid then o else y
    | none => y)

/-- A core with CTL.HALT = 1 stops before it issues (R98). -/
def haltIfAsked (s : Block) (c : Nat) : Block :=
  if natBit (getPage s (pgCor c)).ctl.toNat 0 then requestStop s c .halt else s

/-- RUN_START (R350): every core is zeroised and loaded, and the cores start together. -/
def doRunStart (x : CtxNo) (s : Block) : Block :=
  let cx := getCtx s x
  match cx.run with
  | none => s
  | some r =>
    if cx.phase ≠ .placing || !runZeroised s x r.cores then s
    else
      let s := loadConsts s x r.cores
      let s := r.cores.foldl (fun s c => updCore s c (fun k => startedCore k cx.image.entry)) s
      let wait := (s.now - r.cc.arrival) / 1000
      let s := if r.firstStart.isSome then s
        else if cx.cls = .lc then bumpMax (bump s pgDsp 7 wait) pgDsp 10 wait
        else bump s pgDsp 8 wait
      let s := updCtx s x (fun cx => { cx with
        phase := .running, run := some { r with firstStart := r.firstStart.or (some s.now) }, copies := startCopies cx
        insts := [], marks := [], leadSeen := [], failedMir := [], heldCores := [] })
      r.cores.foldl haltIfAsked s

/-- Whether a core of a run that is being saved has written its state record, or has ended. -/
def coreSaved (k : Core) : Bool := k.ended || (k.run == .halted && k.stop == some .preempt && k.recorded)

/-- A memory without the extents of a context's copies in one store. -/
def dropCopies (x : Ctx) (cluster : Bool) (place base : Nat) (m : Mem) : Mem :=
  (x.copies.filter (fun y => y.cluster == cluster && y.place == place && y.state != .absent)).foldl (fun m y =>
    memDrop m (y.lo - base) (y.lo - base + y.bytes)) m

/-- What the save keeps of a rank: one that has ended is recorded as ended, with its MIRAGE register, and is not saved (R326, R353). -/
def savedCore (k : Core) (ls : Mem) : Core :=
  if k.ended then { ended := true, mirage := k.mirage } else { k with placed := none, ls := ls }

/-- The read of the stores that a save copies through their codes (R356, R562, R565): whether a word is uncorrectable. -/
def saveCheck (s : Block) (x n : Nat) (cores : List Nat) : Block × Bool :=
  let s := (cores.filter (fun c => !(getCore s c).ended)).foldl (fun (r : Block × Bool) c =>
    let q := sramRead r.1 1 c (wordsInError r.1 (wordLs c 0) 0 n)
    (q.1, r.2 || q.2.isSome)) (s, false)
  ((cores.map cluOfCore).eraseDups).foldl (fun r g => (slicesHeld r.1 g x).foldl (fun r i =>
    let q := sramRead r.1 2 g (wordsInError r.1 (wordCs g 0) (i * sliceBytes) sliceBytes)
    (countClu q.1 g 2 sliceBytes, r.2 || q.2.isSome)) r) s

/-- The bytes of a context's caravan copies in the stores of a run, which a save leaves out (R353). -/
def copiedBytes (x : Ctx) (ended : List Nat) : Nat :=
  sumNat ((x.copies.filter (fun y => y.state != .absent && (y.cluster || !ended.contains y.place))).map (·.bytes))

/-- Bytes that pass between the cores of a run and the save area leave their regions, or enter them (R112): n for each core that has not ended. -/
def countSave (s : Block) (i n : Nat) (cores : List Nat) : Block :=
  cores.foldl (fun s c => if (getCore s c).ended then s else countRgn s (rgnOfCore c) i n) s

/-- RUN_SAVE_DONE (R353, R356): the stores of a preempted run are in the save area, its cores are released, and it is PARKED. A hand-over
of one of its cores finishes first (R639). -/
def doRunSaveDone (x : CtxNo) (s : Block) : Block :=
  let cx := getCtx s x
  match cx.run with
  | none => s
  | some r =>
    if cx.phase ≠ .saving || !r.cores.all (fun c => coreSaved (getCore s c) && (tabFind s.handovers c).isNone) || !r.faults.isEmpty then s
    else
      let clus := (r.cores.map cluOfCore).eraseDups
      let cluIdx (c : Nat) : Nat := (firstIdx (fun g => g == cluOfCore c) clus).getD 0
      let ls (c rank : Nat) : Mem := dropCopies cx false rank 0 (getCore s c).ls
      let saved := (r.cores.zipIdx).map (fun e => (e.2, savedCore (getCore s e.1) (ls e.1 e.2)))
      let slices := (clus.zipIdx).map (fun e =>
        let bytes := (slicesHeld s e.1 x).zipIdx.foldl (fun m i =>
          m ++ memShiftUp (memShiftDown (memKeep (tabGet [] s.cs e.1) (i.1 * sliceBytes) ((i.1 + 1) * sliceBytes)) (i.1 * sliceBytes)) (i.2 * sliceBytes)) []
        (e.2, dropCopies cx true e.1 csBase bytes))
      let n := presentLocal cx
      let chk := saveCheck s x n r.cores
      if chk.2 then noteRunFault chk.1 x 0x0B 0
      else
      let s := (r.cores.zipIdx).foldl (fun s e =>
        if (getCore s e.1).ended then s
        else saveWrite s x (e.2 * saveStride cx + 65536) (memBytes 0 (ls e.1 e.2) 0 n)) chk.1
      let s := slices.foldl (fun s e =>
        saveWrite s x (cx.ncores * saveStride cx + e.1 * (cx.image.slices * sliceBytes)) (memBytes 0 e.2 0 (cx.image.slices * sliceBytes))) s
      if (getCtx s x).run.any (fun r => !r.faults.isEmpty) then s
      else
      let ended := saved.filterMap (fun e => if e.2.ended then some e.1 else none)
      let total := (r.cores.length - ended.length) * (65536 + n) + slices.length * cx.image.slices * sliceBytes - copiedBytes cx ended
      let s := releaseCores (countSave (bump s pgDsp 9 total) 6 (65536 + n) r.cores) x r.cores
      updCtx s x (fun cx => { cx with
        phase := .parked, saved := saved, savedSlices := slices
        savedClu := (r.cores.zipIdx).map (fun e => (e.2, cluIdx e.1))
        copies := cx.copies.map (fun y => { y with state := .absent })
        savedBytes := total
        run := some { r with cores := [], endedRanks := ended } })

/-- Whether a posted instruction still writes to the image of a parked run: a REMOTE move writes to the image of another rank (R354). -/
def imageBusy (x : Ctx) : Bool :=
  x.saved.any (fun e => e.2.posted.any (fun p => (postDest p).any (fun d => Nat.blt d.1 dmBase) ||
    (p.kind == .move && moveRemote p.x && Nat.blt (descOf p.td).addr dmBase)))

/-- The device-memory lines of a save area that a restore reads. -/
def saveLines (x : Ctx) : List Nat :=
  (List.range x.ncores).flatMap (fun r =>
    if (tabGet {} x.saved r).ended then []
    else (dmPieces x.savePages (r * saveStride x) (65536 + presentLocal x)).flatMap (fun p => linesOf p.1 p.2))

/-- A core that its context's run comes back to stands before a gated instruction whose copies it no longer holds: it has yet to pass the gate
(R329). -/
def recloseGate (x : Ctx) (k : Core) : Core :=
  match (if k.gateOpen then k.inLayers.find? (fun g => (x.image.layers[g.layer]?).any (fun l => l.gate == k.pc)) else none) with
  | some g => { k with gateOpen := false, inLayers := k.inLayers.filter (fun h => h ≠ g), nextLayer := g.layer, iter := g.iter }
  | none => k

/-- RUN_RESTORE_DONE (R200, R355, R356): the save area of a parked run has been read back and its cores resume; an uncorrectable line
of it ends the run with class DATA. -/
def doRunRestoreDone (x : CtxNo) (s : Block) : Block :=
  let cx := getCtx s x
  match cx.run with
  | none => s
  | some r =>
    if cx.phase ≠ .restoring || !runZeroised s x r.cores || imageBusy cx then s
    else
      let chk := dmReadLines s (saveLines cx) ⟨3, some x⟩
      if chk.2.isSome then noteRunFault chk.1 x 0x0B 0
      else
        let s := (r.cores.zipIdx).foldl (fun s e => updCore s e.1 (fun k =>
          let o := tabGet {} cx.saved e.2
          { recloseGate cx o with placed := k.placed, run := if o.ended then .idle else .halted })) chk.1
        let s := ((r.cores.map cluOfCore).eraseDups).foldl (fun s g =>
          match (r.cores.zipIdx).find? (fun e => cluOfCore e.1 == g) with
          | none => s
          | some e =>
            let m := tabGet [] cx.savedSlices (tabGet 0 cx.savedClu e.2)
            { s with cs := tabSet s.cs g ((slicesHeld s g x).zipIdx.foldl (fun c i =>
                sortBy (fun a b => Nat.ble a.1 b.1) (memDrop c (i.1 * sliceBytes) ((i.1 + 1) * sliceBytes) ++
                  memShiftUp (memShiftDown (memKeep m (i.2 * sliceBytes) ((i.2 + 1) * sliceBytes)) (i.2 * sliceBytes)) (i.1 * sliceBytes)))
                (tabGet [] s.cs g)) }) s
        let n := presentLocal cx
        let s := ((r.cores.map cluOfCore).eraseDups).foldl (fun s g => countClu s g 3 ((slicesHeld s g x).length * sliceBytes)) s
        let s := countSave (bump s pgDsp 9 cx.savedBytes) 7 (65536 + n) r.cores
        let s := updCtx s x (fun cx => { cx with
          phase := .running, saved := [], savedSlices := [], savedClu := [], savedBytes := 0, copies := freshCopies cx })
        r.cores.foldl (fun s c => if (getCore s c).ended then s else haltIfAsked (resumeCore s c) c) s

/-! Completion, faults and teardown (R341, R357 to R361). -/

/-- The fault that a run reports: the first in time, the lower rank among those of one instant (R359). -/
def reportedFault (r : Run) : Option RunFault :=
  (sortBy (fun (a b : RunFault) => decide (a.time < b.time) || (a.time == b.time && decide (a.rank ≤ b.rank))) r.faults).head?

/-- OUTCOME of a run: 0 DONE, 1 FAULT, 2 ABORTED. -/
def runOutcome (r : Run) (torn : Bool) : Nat := if !torn then 0 else if r.aborted || r.faults.isEmpty then 2 else 1

/-- The run report (R361). -/
def runReport (now : Nat) (r : Run) (torn : Bool) : List Byte :=
  let f := if runOutcome r torn = 1 then reportedFault r else none
  leBytes 1 (runOutcome r torn) ++ leBytes 1 0 ++ leBytes 2 (satAdd 0xFFFF (r.faults.filter (fun e => Nat.blt e.rank 0xFFFFFFFF)).length 0) ++
    leBytes 4 ((f.map (fun e => e.word.toNat)).getD 0) ++ leBytes 4 ((f.map (fun e => e.rank)).getD 0xFFFFFFFF) ++
    leBytes 4 ((f.map (fun e => e.off.toNat)).getD 0xFFFFFFFF) ++ leBytes 4 (satAdd 0xFFFFFFFF r.mirages 0) ++
    leBytes 2 r.preemptions ++ leBytes 2 r.events ++
    leBytes 4 (satAdd 0xFFFFFFFF ((r.firstStart.getD now - r.cc.arrival) / 1000) 0) ++
    leBytes 4 (satAdd 0xFFFFFFFF ((now - r.firstStart.getD now) / 1000) 0)

/-- The result bytes of a run go to the host; the bytes of a line that cannot be corrected are undefined (R440, R562). -/
def sendResult (s : Block) (xn : Nat) (cc : ComputeCmd) : Block × Bool :=
  let t : Seat := .saved xn 0
  let chk := dmReadLines s (seatLines s t cc.resAddr cc.resBytes) ⟨4, some xn⟩
  if chk.2.isSome then (emit chk.1 (.hostUndefined cc.cmd 64 cc.resBytes), true)
  else (sendData chk.1 cc.cmd 64 (seatRead chk.1 t cc.resAddr cc.resBytes), false)

/-- Posts the report and completes the compute command of a run; nothing is sent for a command that a reset has settled (R423). -/
def reportRun (s : Block) (xn : Nat) (r : Run) (torn : Bool) : Block :=
  let o := runOutcome r torn
  let live := isOutstanding s r.cc.cmd
  let s := if live then sendData s r.cc.cmd 0 (runReport s.now r torn) else s
  let res := if o = 0 && live then sendResult s xn r.cc else (s, false)
  let s := bump res.1 pgDsp (if o = 0 then 4 else 5) 1
  let s := match (if o = 1 then reportedFault r else none) with
    | some f => setReg s pgDsp 0x128 (BitVec.ofNat 32 (bvBits f.word 24 8 * 2 ^ 24 + xn))
    | none => s
  complete s r.cc.cmd (o + satAdd 0xFFFF r.mirages 0 * 2 ^ 16) 0
    (if o = 0 then (if res.2 then status 2 0x81 1 else 0) else if o = 1 then vend 0x10 1 else vend 0x11 1)

/-- What a context holds of a run goes with it: its saved image, its copies, its collectives, the cores set aside for it. -/
def dropRun (s : Block) (xn : Nat) : Block :=
  let s := { s with
    aside := s.aside.filter (fun e => e.2 ≠ xn)
    colls := s.colls.filter (fun q => match q.scope with
      | .team x _ => x != xn
      | .context x => x != xn
      | .system _ => true) }
  updCtx s xn (fun x => { x with
    run := none, saved := [], savedSlices := [], savedClu := [], insts := [], marks := [], failedMir := [], leadSeen := [], savedBytes := 0 })

/-- The context is closed: every queued command is aborted, its pages are released, and its number is free. -/
def closeCtx (s : Block) (xn : Nat) : Block :=
  let x := getCtx s xn
  let s := x.queue.foldl (fun s cc => complete s cc.cmd 2 0 (vend 0x11 1)) s
  let s := match x.job with
    | some j => if j.joined then s else complete s j.cmd 0 0 (vend 0x30 0)
    | none => s
  let s := { releasePages s (ownPages x) with ctxs := tabErase s.ctxs xn, idxs := tabErase s.idxs xn }
  match x.closeCmd with
  | some cmd => complete s cmd 0 0 0
  | none => s

/-- A run has gone: the commands that waited for its teardown complete, the close goes on, or the next command becomes a run. -/
def afterRun (s : Block) (xn : Nat) : Block :=
  let x := getCtx s xn
  let s := x.aborts.foldl (fun s a => complete s a.1 a.2 0 0) (updCtx s xn (fun x => { x with aborts := [] }))
  if x.closing then closeCtx (updCtx s xn (fun x => { x with phase := .closing })) xn else nextRun s xn

/-- Whether a core of a run that is torn down has stopped. -/
def coreTorn (k : Core) : Bool := k.ended || (k.stop == some .teardown && (k.run == .halted || k.run == .faulted))

/-- Whether a context's run is being torn down. -/
def tearing (x : Ctx) : Bool := decide (x.phase = .teardown)

/-- Fills in progress are abandoned (R329). -/
def abandonFills (s : Block) (xn : Nat) : Block :=
  ((getCtx s xn).copies.filter (fun y => y.state == .filling)).foldl (fun s y => abandonFill s xn y) s

/-- The teardown of a context's run begins: its cores are to stop; a run with no core that has started is released at once. The context becomes
CLOSING once it has gone (R357). -/
def beginTeardown (s : Block) (xn : Nat) (abort : Bool) : Block :=
  let s := abandonFills s xn
  let x := getCtx s xn
  let started := decide (x.phase = .running) || decide (x.phase = .ending) || decide (x.phase = .saving)
  let s := if started then s else releaseCores s xn (ctxCores x)
  updCtx s xn (fun x => { x with
    phase := .teardown
    heldCores := if started then x.heldCores else []
    run := x.run.map (fun r => { r with
      aborted := r.aborted || (abort && r.faults.isEmpty), cores := if started then r.cores else [] }) })

/-- RUN_TEARDOWN (R357): a run with a fault, or one that MM ends, begins its teardown; once every core has stopped, its cores and slices
are released. -/
def doRunTeardown (x : CtxNo) (byMm : Bool) (s : Block) : Block :=
  let cx := getCtx s x
  match cx.run with
  | none => s
  | some r =>
    if tearing cx then
      if !r.cores.isEmpty && r.cores.all (fun c => coreTorn (getCore s c)) then
        updCtx (releaseCores s x r.cores) x (fun cx => { cx with run := cx.run.map (fun r => { r with cores := [] }) })
      else s
    else if byMm || !r.faults.isEmpty then beginTeardown s x byMm
    else s

/-- The stores that a HOLD context keeps are zeroised: its run was preempted, and the next one begins from zeroised stores (R343). -/
def zeroiseKept (s : Block) (x : Nat) (cores : List Nat) : Block :=
  let s := cores.foldl (fun s c => beginZeroise s (pgCor c)) s
  ((cores.map cluOfCore).eraseDups).foldl (fun s g =>
    (slicesHeld s g x).foldl (fun s i => setReg s (pgClu g) (0x140 + 4 * i) (sliceOwner s g i ||| 0x10000)) s) s

/-- RUN_COMPLETE (R341, R343, R351, R361): every core has ended, or the run is torn down: the report is posted. The cores of a HOLD
context stay with it. -/
def doRunComplete (x : CtxNo) (s : Block) : Block :=
  let cx := getCtx s x
  match cx.run with
  | none => s
  | some r =>
    if tearing cx then
      if !r.cores.isEmpty then s
      else
        let s := reportRun s x r true
        let s := dropRun s x
        settleLow (afterRun (updCtx s x (fun cx => { cx with phase := .idle, copies := [] })) x)
    else if cx.phase = .running && r.cores.all (fun c => (getCore s c).ended) && r.faults.isEmpty then
      let s := reportRun s x r false
      let s := if cx.hold then s else releaseCores s x r.cores
      let s := dropRun s x
      let warm := cx.hold && r.preemptions == 0
      let s := if cx.hold && !warm then zeroiseKept s x r.cores else s
      let s := updCtx s x (fun cx => { cx with
        phase := if cx.hold then .held else .idle, heldCores := if cx.hold then r.cores else []
        copies := if warm then cx.copies else [] })
      settleLow (afterRun s x)
    else s

/-- RUN_ABORT (R443): tears down the placed run, or discards the waiting one; completes after that. -/
def doRunAbort (cmd : CmdRef) (x : Nat) (s : Block) : Block :=
  onCmd s (computeReady s) cmd (fun s =>
    match ctxStatus s cmd x with
    | some st => complete s cmd 0 0 st
    | none =>
      let cx := getCtx s x
      if cx.run.isNone then complete s cmd 0 0 0
      else
        let s := updCtx s x (fun cx => { cx with aborts := cx.aborts ++ [(cmd, 0)] })
        if tearing cx then s else beginTeardown s x true)

/-- CONTEXT_CLOSE (R443): refused while a run exists unless FORCE is set, which tears the run down first. -/
def doContextClose (cmd : CmdRef) (x : Nat) (force : Bool) (s : Block) : Block :=
  onCmd s (computeReady s) cmd (fun s =>
    match ctxStatus s cmd x with
    | some st => complete s cmd 0 0 st
    | none =>
      let cx := getCtx s x
      if cx.run.isSome && !force then complete s cmd 0 0 (vend 0x04 0)
      else
        let s := updCtx s x (fun cx => { cx with closeCmd := some cmd, closing := true })
        if cx.run.isNone then closeCtx (releaseCores s x cx.heldCores) x
        else if tearing cx then s
        else beginTeardown s x true)

/-! The DSP page's values (R344, R369, R370). -/

/-- The state of a context as DSP_CTX_STATE shows it. -/
def phaseCode (s : Block) (x : Ctx) : Nat :=
  match x.phase with
  | .free => 0
  | .opening => 1
  | .idle => 2
  | .waiting => 3
  | .placing => 4
  | .running => if allEnding s x then 10 else 5
  | .saving => 6
  | .parked => 7
  | .restoring => 8
  | .held => 9
  | .ending => 10
  | .teardown => 11
  | .closing => 12

/-- DSP_CTX_STATE of a context. -/
def ctxStateWord (s : Block) (x : Ctx) : Word :=
  if x.phase = .free then 0
  else BitVec.ofNat 32 (phaseCode s x * 2 ^ 28 + (if x.cls = .lc then 0 else 2 ^ 27) + boolNat x.hold * 2 ^ 26 + x.ncores % 2 ^ 14 * 2 ^ 12 +
    min 4095 x.queue.length)

/-- Waiting runs of a class. -/
def waitCount (s : Block) (cls : CtxClass) : Nat := ((waitingRuns s).filter (fun e => decide (e.2.cls = cls))).length

/-- The registers of the DSP page that are computed: 0x100 to 0x108 and 0x11C. -/
def dspValue (s : Block) (off : Nat) : Option Word :=
  let live := s.ctxs.filter (fun e => decide (e.2.phase ≠ .free))
  match off with
  | 0x100 => some (BitVec.ofNat 32 (live.length * 2 ^ 16 + (live.filter (fun e => match e.2.phase with
      | .placing => true
      | .running => true
      | .ending => true
      | .restoring => true
      | _ => false)).length))
  | 0x104 => some (BitVec.ofNat 32 (heldBy s .lc * 2 ^ 16 + heldBy s .be))
  | 0x108 => some (BitVec.ofNat 32 (min 0xFFFF (waitCount s .lc) * 2 ^ 16 + min 0xFFFF (waitCount s .be)))
  | 0x11C =>
    let lc := oldestWait s .lc
    let be := oldestWait s .be
    some (match lc, be with
      | none, none => 0
      | some a, none => BitVec.ofNat 32 (min 0xFFFFFF (a / 1000))
      | none, some b => BitVec.ofNat 32 (2 ^ 31 + min 0xFFFFFF (b / 1000))
      | some a, some b => if a < b then BitVec.ofNat 32 (2 ^ 31 + min 0xFFFFFF (b / 1000)) else BitVec.ofNat 32 (min 0xFFFFFF (a / 1000)))
  | _ => none

end Sys2Proof.Machine
end

