-- ==== Sys2Proof/Machine/MediaIo.lean ====
section
/-! DEFINITION. MediaIo: the NVM commands of the host (R392, R393, R402 to R407, R424 to R427, R446), reservations (R424), and the end
of MRD and MWR (R236, R381). -/
namespace Sys2Proof.Machine

/-! What every NVM command meets first. -/

/-- Whether the namespaces are ready (R619). -/
def mediaReady (s : Block) : Bool := natBit s.hub.ready 5

/-- The oldest deferred record that a command reports (R446). -/
def deferredFor (s : Block) (cmd : CmdRef) (nsid : Nat) : Option Deferred :=
  s.med.deferred.find? (fun d => !d.reported && (nsid == d.nsid || nsid == 0xFFFFFFFF) && (getCtl s cmd.ctrl).attached.contains d.nsid)

/-- Reports a deferred record by a command, which has no other effect. -/
def reportDeferred (s : Block) (cmd : CmdRef) (d : Deferred) : Block :=
  complete (updMed s (fun m => { m with
    deferred := m.deferred.map (fun e => if e.record = d.record then { e with reported := true } else e) })) cmd d.record 0 (vend 0x40 0)

/-- The host that sends a command: the identifier that feature 0x81 set (R424). -/
def hostOf (s : Block) (cmd : CmdRef) : Nat := (getCtl s cmd.ctrl).hostId

/-- Reservation types of NVMe: 1 write exclusive, 2 exclusive access, 3 and 4 the same for registrants only, 5 and 6 for all
registrants (presumed, log entry 24). -/
def resvBlocks (n : Namespace) (host : Nat) (write : Bool) : Bool :=
  match n.holder with
  | none => false
  | some (h, t) =>
    let reg := n.registrants.any (fun r => r.host == host)
    let exempt := h == host || (decide (3 ≤ t) && reg)
    !exempt && (write || t == 2 || t == 4 || t == 6)

/-- An NVM command that names blocks: it is held until it may act; a deferred record, the namespace, its readiness, the range, the
transfer limit and a reservation are checked before f. -/
def onBlocks (s : Block) (cmd : CmdRef) (a : LbaSpan) (write limit : Bool) (f : Namespace → Block → Block) : Block :=
  onCmd s true cmd (fun s =>
    match deferredFor s cmd a.nsid with
    | some d => reportDeferred s cmd d
    | none =>
      match getNs s a.nsid with
      | none => complete s cmd 0 0 stInvalidNamespace
      | some n =>
        if !(getCtl s cmd.ctrl).attached.contains a.nsid then complete s cmd 0 0 stInvalidNamespace
        else if !mediaReady s then complete s cmd 0 0 (status 0 0x82 0)
        else if limit && Nat.blt 2097152 (a.nlb * (n.lba + (if n.extended then n.mdBytes else 0))) then complete s cmd 0 0 stInvalidField
        else if n.blocks < a.slba + a.nlb then complete s cmd 0 0 (status 0 0x80 1)
        else if write && s.med.readOnly then complete s cmd 0 0 (status 1 0x82 1)
        else if resvBlocks n (hostOf s cmd) write then complete s cmd 0 0 (status 0 0x83 1)
        else f n s)

/-! Protection on host transfers (R426). -/

/-- Whether PRACT asks for what the format cannot give. -/
def practBad (n : Namespace) (pr : PrInfo) : Bool := n.prot != 0 && pr.pract && piBytes n != n.mdBytes

/-- Whether metadata crosses to the host: not where PRACT makes or takes it. -/
def mdTravels (n : Namespace) (pr : PrInfo) : Bool := n.mdBytes != 0 && !(n.prot != 0 && pr.pract)

/-- The reference tag that a command expects of its block number i. -/
def refExpected (n : Namespace) (pr : PrInfo) (i : Nat) : Nat :=
  if n.prot = 3 then pr.ref.toNat % 2 ^ refBits n else (pr.ref.toNat + i) % 2 ^ refBits n

/-- What the checks that PRCHK selects find of a block's fields: 0, or the end-to-end status code. -/
def prCheck (n : Namespace) (pr : PrInfo) (i : Nat) (data md : List Byte) : Nat :=
  if n.prot = 0 then 0
  else
    let f := piFields n md
    if piOff n f.2.1 f.2.2 then 0
    else if pr.guard && f.1 != piGuard n data md then 0x82
    else if pr.appTag && (BitVec.ofNat 16 f.2.1 &&& pr.mask != pr.app &&& pr.mask) then 0x83
    else if pr.refTag && f.2.2 != refExpected n pr i then 0x84
    else 0

/-! Read, Compare, Verify. -/

/-- How the codeword of a block decodes; the blocks of a codeword decode alike. -/
def gradeOf (d : Decodes) (n : Namespace) (lba : Nat) : Nat :=
  let same (b : Nat) : Bool := b == lba || b * n.lba / grainBytes == lba * n.lba / grainBytes
  if d.bad.any same then 2 else if d.soft.any same then 1 else 0

/-- What a host command finds of its blocks: each block's data and metadata, or the status it ends with, or a wait for a channel. -/
inductive SpanRead where
  | ok (l : List (List Byte × List Byte))
  | fails (st : Nat)
  | waits
  deriving DecidableEq, Repr

/-- Reads k blocks from block i of a span on. dulbe: whether deallocated blocks are an error. -/
def readSpan (s : Block) (a : LbaSpan) (n : Namespace) (pr : PrInfo) (d : Decodes) (dulbe : Bool) (i : Nat) : Nat → Block × SpanRead
  | 0 => (s, .ok [])
  | k + 1 =>
    let lba := a.slba + i
    let r := readBlk s a.nsid a.slba lba (gradeOf d n lba)
    match r.2 with
    | .lost fresh => (if fresh then loseRead r.1 a.nsid lba else r.1, .fails (status 2 0x81 1))
    | .pi code => (listFailed r.1 a.nsid lba, .fails (status 2 code 1))
    | .waits => (r.1, .waits)
    | .zeros data md dealloc =>
      if dealloc && dulbe then (r.1, .fails (status 2 0x87 1))
      else
        match readSpan r.1 a n pr d dulbe (i + 1) k with
        | (s, .ok l) => (s, .ok ((data, md) :: l))
        | o => o
    | .ok data md =>
      match prCheck n pr i data md with
      | 0 =>
        match readSpan r.1 a n pr d dulbe (i + 1) k with
        | (s, .ok l) => (s, .ok ((data, md) :: l))
        | o => o
      | code => (r.1, .fails (status 2 code 1))

/-- Blocks as they cross to the host: data with metadata behind each block, or all data and then all metadata. -/
def layBlocks (n : Namespace) (pr : PrInfo) (l : List (List Byte × List Byte)) : List Byte :=
  if !mdTravels n pr then l.flatMap (·.1)
  else if n.extended then l.flatMap (fun e => e.1 ++ e.2)
  else l.flatMap (·.1) ++ l.flatMap (·.2)

/-- Blocks as they came from the host; none where the data does not fit the count. -/
def takeBlocks (n : Namespace) (pr : PrInfo) (nlb : Nat) (b : List Byte) : Option (List (List Byte × List Byte)) :=
  let md := if mdTravels n pr then n.mdBytes else 0
  if b.length ≠ nlb * (n.lba + md) then none
  else some ((List.range nlb).map (fun i =>
    if n.extended then (bytesAt b (i * (n.lba + md)) n.lba, bytesAt b (i * (n.lba + md) + n.lba) md)
    else (bytesAt b (i * n.lba) n.lba, bytesAt b (nlb * n.lba + i * md) md)))

/-- How long a read waits for a fenced channel: 1 s, or TLER if that is shorter (R472). -/
def fencedLimit (n : Namespace) : Nat := if n.tler = 0 then 1000000000 else min 1000000000 (n.tler * 100000000)

/-- A command that reads blocks waits for a fenced channel. -/
def pendFor (s : Block) (r : PendRead) : Block := updMed s (fun m => { m with pendReads := m.pendReads ++ [r] })

/-- Data Transfer Error: the host buffer's data did not cross (R451). -/
def stTransfer : Nat := status 0 0x04 0

/-- Carries out a read; since: when it first met a fenced channel. -/
def hostRead (s : Block) (cmd : CmdRef) (a : LbaSpan) (pr : PrInfo) (d : Decodes) (n : Namespace) (since : Nat) : Block :=
  match readSpan s a n pr d n.dulbe 0 a.nlb with
  | (s, .fails st) => complete s cmd 0 0 st
  | (s, .waits) => pendFor s ⟨cmd, since, fencedLimit n, a, pr, d, .read⟩
  | (s, .ok l) =>
    let b := layBlocks n pr l
    if !d.moves then complete (emit s (.hostUndefined cmd 0 b.length)) cmd 0 0 stTransfer
    else complete (lifeBump (lifeBump (sendData s cmd 0 b) lifeReadBytes (a.nlb * n.lba)) lifeReadCommands 1) cmd 0 0 0

/-- Carries out a compare. -/
def hostCompare (s : Block) (cmd : CmdRef) (a : LbaSpan) (pr : PrInfo) (d : Decodes) (n : Namespace) (since : Nat) (data : List Byte) :
    Block :=
  match takeBlocks n pr a.nlb data with
  | none => complete s cmd 0 0 stInvalidField
  | some want =>
    if !d.moves then complete s cmd 0 0 stTransfer else
    match readSpan s a n pr d n.dulbe 0 a.nlb with
    | (s, .fails st) => complete s cmd 0 0 st
    | (s, .waits) => pendFor s ⟨cmd, since, fencedLimit n, a, pr, d, .compare data⟩
    | (s, .ok l) =>
      let same := (l.zip want).all (fun e => e.1.1 == e.2.1 && (!mdTravels n pr || e.1.2 == e.2.2))
      complete s cmd 0 0 (if same then 0 else status 2 0x85 1)

/-- Carries out a verify. -/
def hostVerify (s : Block) (cmd : CmdRef) (a : LbaSpan) (pr : PrInfo) (d : Decodes) (n : Namespace) (since : Nat) : Block :=
  match readSpan s a n pr d n.dulbe 0 a.nlb with
  | (s, .fails st) => complete s cmd 0 0 st
  | (s, .waits) => pendFor s ⟨cmd, since, fencedLimit n, a, pr, d, .verify⟩
  | (s, .ok _) => complete s cmd 0 0 0

/-- READ (R392, R393, R404, R426). -/
def doRead (cmd : CmdRef) (a : LbaSpan) (pr : PrInfo) (d : Decodes) (s : Block) : Block :=
  onBlocks s cmd a false true (fun n s =>
    if practBad n pr then complete s cmd 0 0 stInvalidField else hostRead s cmd a pr d n s.now)

/-- Reads that waited for a channel try again when it returns. -/
def retryReads (s : Block) : Block :=
  let l := s.med.pendReads
  l.foldl (fun s r =>
    match deferredFor s r.cmd r.span.nsid, getNs s r.span.nsid with
    | some d, _ => reportDeferred s r.cmd d
    | none, some n =>
      match r.op with
      | .read => hostRead s r.cmd r.span r.pr r.decodes n r.since
      | .compare data => hostCompare s r.cmd r.span r.pr r.decodes n r.since data
      | .verify => hostVerify s r.cmd r.span r.pr r.decodes n r.since
    | none, none => complete s r.cmd 0 0 stInvalidNamespace) (updMed s (fun m => { m with pendReads := [] }))

/-- FENCED_READ_TIMEOUT (R395, R472): a read has waited as long as it may. -/
def doFencedReadTimeout (cmd : CmdRef) (s : Block) : Block :=
  match s.med.pendReads.find? (fun r => r.cmd == cmd) with
  | none => s
  | some r =>
    let s := updMed (atTime s (r.since + r.limit)) (fun m => { m with pendReads := m.pendReads.filter (fun r => r.cmd ≠ cmd) })
    match deferredFor s cmd r.span.nsid with
    | some d => reportDeferred s cmd d
    | none => complete s cmd 0 0 (status 2 0x81 0)

/-- COMPARE (R449): the blocks are compared with data from the host. -/
def doCompare (cmd : CmdRef) (a : LbaSpan) (pr : PrInfo) (d : Decodes) (data : List Byte) (s : Block) : Block :=
  onBlocks s cmd a false true (fun n s =>
    if practBad n pr then complete s cmd 0 0 stInvalidField else hostCompare (takeData s cmd data.length) cmd a pr d n s.now data)

/-- VERIFY (R449): the blocks are read and checked, and no data moves. -/
def doVerify (cmd : CmdRef) (a : LbaSpan) (pr : PrInfo) (d : Decodes) (s : Block) : Block :=
  onBlocks s cmd a false false (fun n s => hostVerify s cmd a pr d n s.now)

/-! Write, Write Zeroes, Dataset Management, Flush. -/

/-- Bytes of user data that lie where p says. -/
def bytesIn (s : Block) (p : FLoc → Bool) : Nat :=
  sumNat (s.nss.map (fun e => e.2.lba * (e.2.store.filter (fun b => match b.2 with
    | .data _ _ loc _ => p loc
    | _ => false)).length))
def isBuffer : FLoc → Bool
  | .buffer => true
  | _ => false
def isGather : FLoc → Bool
  | .gather _ _ => true
  | _ => false

/-- Bytes of the gather region in use: every grain of which a block lies there takes 4 KiB (R377). -/
def gatherBytes (s : Block) : Nat :=
  grainBytes * sumNat (s.nss.map (fun e => ((e.2.store.filterMap (fun b => match b.2 with
    | .data _ _ loc _ => if isGather loc then some (b.1 * e.2.lba / grainBytes) else none
    | _ => none)).eraseDups).length))

/-- Whether the protected write buffer of 2 GiB has room for n more bytes (R376). -/
def bufferRoom (s : Block) (n : Nat) : Bool := decide (bytesIn s isBuffer + n ≤ writeBufferBytes)

/-- The blocks of a write with the protection fields that it stores, or the status that ends it. -/
def writeFields (n : Namespace) (a : LbaSpan) (pr : PrInfo) (l : List (List Byte × List Byte)) : List (List Byte × List Byte) ⊕ Nat :=
  if n.prot = 0 then .inl (l.map (fun e => (e.1, padTo n.mdBytes e.2)))
  else if pr.pract then
    .inl ((l.zipIdx).map (fun e => (e.1.1, piMake n e.1.1 (zeroBytes n.mdBytes) pr.app.toNat (refExpected n pr e.2))))
  else
    match (l.zipIdx).findSome? (fun e => match prCheck n pr e.2 e.1.1 e.1.2 with
      | 0 => none
      | code => some code) with
    | some code => .inr (status 2 code 1)
    | none => let _ := a; .inl l

/-- A command's blocks are in the buffer: it completes there, or under write-through when they have been programmed (R381). -/
def writeAccepted (s : Block) (cmd : CmdRef) (a : LbaSpan) : Block :=
  if writeThrough s then updMed s (fun m => { m with pendWrites := m.pendWrites ++ [{ cmd := cmd, nsid := a.nsid, slba := a.slba, nlb := a.nlb }] })
  else complete s cmd 0 0 0

/-- WRITE (R381, R426, R451). data: what comes from the host, or none where the fetch of it fails. A write for which the buffer has no room
waits. -/
def doWrite (cmd : CmdRef) (a : LbaSpan) (pr : PrInfo) (data : Option (List Byte)) (s : Block) : Block :=
  if !bufferRoom s (data.getD []).length then s
  else
    onBlocks s cmd a true true (fun n s =>
      let s := takeData s cmd (data.getD []).length
      if practBad n pr then complete s cmd 0 0 stInvalidField
      else
        match data, takeBlocks n pr a.nlb (data.getD []) with
        | none, _ => complete s cmd 0 0 stTransfer
        | _, none => complete s cmd 0 0 stInvalidField
        | some _, some l =>
          match writeFields n a pr l with
          | .inr st => complete s cmd 0 0 st
          | .inl l =>
            let s := putBlocks s a.nsid a.slba l
            let s := lifeBump (lifeBump (lifeBump s lifeHostBytesWritten (a.nlb * n.lba)) lifeWriteBytes (a.nlb * n.lba)) lifeWriteCommands 1
            writeAccepted s cmd a)

/-- A deallocation hint: the model always carries it out, on whole units, unless it meets a full deallocation log (R402, log entry 74). -/
def deallocHint (s : Block) (n : Namespace) (nsid slba nlb : Nat) (full : Bool) : Block :=
  if full then bump s pgMed 13 (touchedUnits n slba nlb) else deallocRange s nsid slba nlb

/-- WRITE_ZEROES (R402, R405). deac: the DEAC bit. full: whether the range meets a full deallocation log. -/
def doWriteZeroes (cmd : CmdRef) (a : LbaSpan) (pr : PrInfo) (deac full : Bool) (s : Block) : Block :=
  onBlocks s cmd a true false (fun n s =>
    if practBad n pr then complete s cmd 0 0 stInvalidField
    else if deac then complete (deallocHint s n a.nsid a.slba a.nlb full) cmd 0 0 0
    else
      let z := zeroBytes n.lba
      let md (lba : Nat) : List Byte := if n.prot = 0 then zeroBytes n.mdBytes else piMake n z (zeroBytes n.mdBytes) 0 (refOf n lba)
      writeAccepted (zeroRange s a.nsid a.slba a.nlb md) cmd a)

/-- DATASET_MANAGEMENT (R402): deallocate: the Deallocate attribute; ranges of first block and count, with whether each meets a full
deallocation log. -/
def doDatasetManagement (cmd : CmdRef) (nsid : Nat) (deallocate : Bool) (ranges : List (Nat × Nat × Bool)) (s : Block) : Block :=
  onBlocks s cmd ⟨nsid, 0, 0⟩ deallocate false (fun n s =>
    let s := takeData s cmd (16 * ranges.length)
    if ranges.length = 0 ∨ 256 < ranges.length then complete s cmd 0 0 stInvalidField
    else if ranges.any (fun r => Nat.blt n.blocks (r.1 + r.2.1)) then complete s cmd 0 0 (status 0 0x80 1)
    else if !deallocate then complete s cmd 0 0 0
    else complete (ranges.foldl (fun s r => deallocHint s n nsid r.1 r.2.1 r.2.2) s) cmd 0 0 0)

/-- FLUSH (R424): completes without media work. NSID 0xFFFFFFFF names every namespace. -/
def doFlush (cmd : CmdRef) (nsid : Nat) (s : Block) : Block :=
  onCmd s true cmd (fun s =>
    match deferredFor s cmd nsid with
    | some d => reportDeferred s cmd d
    | none =>
      if nsid = 0xFFFFFFFF || (getCtl s cmd.ctrl).attached.contains nsid then
        (if mediaReady s then complete s cmd 0 0 0 else complete s cmd 0 0 (status 0 0x82 0))
      else complete s cmd 0 0 stInvalidNamespace)

/-! Reservations (R424; as NVMe defines them, log entry 24). -/

/-- A reservation command on an attached namespace. -/
def onResv (s : Block) (cmd : CmdRef) (nsid : Nat) (f : Namespace → Block → Block) : Block :=
  onCmd s true cmd (fun s =>
    match getNs s nsid with
    | some n => if (getCtl s cmd.ctrl).attached.contains nsid then f n s else complete s cmd 0 0 stInvalidNamespace
    | none => complete s cmd 0 0 stInvalidNamespace)

def stConflict : Nat := status 0 0x83 1

/-- A notification for the registrants of a namespace but one host: 1 registration preempted, 2 reservation released, 3 reservation
preempted. feature 0x82 masks it. -/
def resvNotify (s : Block) (nsid kind : Nat) (n : Namespace) (regs : List Registrant) : Block :=
  if natBit n.resvMask kind then s
  else regs.foldl (fun s r => updCtl s r.ctrl (fun c => { c with
    resvCount := c.resvCount + 1, resvLog := c.resvLog ++ [(c.resvCount + 1, kind, nsid)] })) s

/-- Whether a reservation of the type is released when its holder's registration goes: not one of all registrants while others stay. -/
def holderGone (n : Namespace) (regs : List Registrant) : Option (Nat × Nat) :=
  match n.holder with
  | none => none
  | some (h, t) =>
    if regs.any (fun r => r.host == h) then some (h, t)
    else if 5 ≤ t then regs.head?.map (fun r => (r.host, t))
    else none

/-- The registrants of a namespace become others; generation counts up. -/
def setRegs (s : Block) (nsid : Nat) (regs : List Registrant) : Block :=
  updNs s nsid (fun n => { n with registrants := regs, holder := holderGone n regs, resvGen := n.resvGen + 1 })

/-- RESERVATION_REGISTER: rrega 0 register, 1 unregister, 2 replace; iekey ignores the current key; cptpl 2 or 3 sets PTPL. -/
def doReservationRegister (cmd : CmdRef) (nsid : Nat) (rrega : Fin 8) (iekey : Bool) (cptpl : Fin 4) (crkey nrkey : DWord) (s : Block) :
    Block :=
  onResv s cmd nsid (fun n s =>
    let s := takeData s cmd 16
    let h := hostOf s cmd
    let mine := n.registrants.find? (fun r => r.host == h)
    let keyOk := iekey || mine.any (fun r => r.key == crkey.toNat)
    let s' := if cptpl.val = 2 ∨ cptpl.val = 3 then updNs s nsid (fun n => { n with ptpl := cptpl.val == 3 }) else s
    match rrega.val with
    | 0 =>
      match mine with
      | some r => complete s cmd 0 0 (if r.key = nrkey.toNat then 0 else stConflict)
      | none => complete (setRegs s' nsid (n.registrants ++ [⟨h, cmd.ctrl, nrkey.toNat⟩])) cmd 0 0 0
    | 1 =>
      if mine.isNone || !keyOk then complete s cmd 0 0 stConflict
      else
        let regs := n.registrants.filter (fun r => r.host ≠ h)
        let freed := n.holder.any (fun o => o.1 == h && (o.2 == 3 || o.2 == 4))
        let s := if freed then resvNotify s' nsid 2 n regs else s'
        complete (setRegs s nsid regs) cmd 0 0 0
    | 2 =>
      if !keyOk then complete s cmd 0 0 stConflict
      else
        let regs := if mine.isSome then n.registrants.map (fun r => if r.host = h then { r with key := nrkey.toNat } else r)
          else n.registrants ++ [⟨h, cmd.ctrl, nrkey.toNat⟩]
        complete (setRegs s' nsid regs) cmd 0 0 0
    | _ => complete s cmd 0 0 stInvalidField)

/-- RESERVATION_ACQUIRE: racqa 0 acquire, 1 preempt, 2 preempt and abort. -/
def doReservationAcquire (cmd : CmdRef) (nsid : Nat) (racqa : Fin 8) (rtype : Nat) (crkey prkey : DWord) (s : Block) : Block :=
  onResv s cmd nsid (fun n s =>
    let s := takeData s cmd 16
    let h := hostOf s cmd
    if !n.registrants.any (fun r => r.host == h && r.key == crkey.toNat) then complete s cmd 0 0 stConflict
    else if rtype = 0 ∨ 6 < rtype then complete s cmd 0 0 stInvalidField
    else
      match racqa.val with
      | 0 =>
        match n.holder with
        | none => complete (updNs s nsid (fun n => { n with holder := some (h, rtype) })) cmd 0 0 0
        | some (o, t) => complete s cmd 0 0 (if (o == h || (decide (5 ≤ t))) && t == rtype then 0 else stConflict)
      | 1 => complete (preemptResv s nsid n h rtype prkey.toNat) cmd 0 0 0
      | 2 => complete (preemptResv s nsid n h rtype prkey.toNat) cmd 0 0 0
      | _ => complete s cmd 0 0 stInvalidField)
where
  /-- Registrants with the key lose their registration; if the holder is among them, or every registrant holds and the key is 0, the
  reservation passes to the host. -/
  preemptResv (s : Block) (nsid : Nat) (n : Namespace) (h rtype prkey : Nat) : Block :=
    let all := n.holder.any (fun o => decide (5 ≤ o.2))
    let gone := n.registrants.filter (fun r => r.host != h && (r.key == prkey || (all && prkey == 0)))
    let takes := n.holder.isNone || (all && prkey == 0) || n.holder.any (fun o => gone.any (fun r => r.host == o.1) || o.1 == h)
    let regs := n.registrants.filter (fun r => !gone.contains r)
    let s := resvNotify s nsid 1 n gone
    let s := setRegs s nsid regs
    if takes then updNs s nsid (fun n => { n with holder := some (h, rtype) }) else s

/-- RESERVATION_RELEASE: rrela 0 release, 1 clear. -/
def doReservationRelease (cmd : CmdRef) (nsid : Nat) (rrela : Fin 8) (rtype : Nat) (crkey : DWord) (s : Block) : Block :=
  onResv s cmd nsid (fun n s =>
    let s := takeData s cmd 8
    let h := hostOf s cmd
    if !n.registrants.any (fun r => r.host == h && r.key == crkey.toNat) then complete s cmd 0 0 stConflict
    else
      match rrela.val with
      | 0 =>
        match n.holder with
        | some (o, t) =>
          if o ≠ h ∧ t < 5 then complete s cmd 0 0 0
          else if t ≠ rtype then complete s cmd 0 0 stInvalidField
          else
            let s := if 3 ≤ t then resvNotify s nsid 2 n (n.registrants.filter (fun r => r.host ≠ h)) else s
            complete (updNs s nsid (fun n => { n with holder := none })) cmd 0 0 0
        | none => complete s cmd 0 0 0
      | 1 =>
        let s := resvNotify s nsid 3 n (n.registrants.filter (fun r => r.host ≠ h))
        complete (updNs s nsid (fun n => { n with registrants := [], holder := none, resvGen := n.resvGen + 1 })) cmd 0 0 0
      | _ => complete s cmd 0 0 stInvalidField)

/-- The reservation status data structure. -/
def resvReport (n : Namespace) : List Byte :=
  leBytes 4 n.resvGen ++ leBytes 1 ((n.holder.map (·.2)).getD 0) ++ leBytes 2 n.registrants.length ++ zeroBytes 2 ++
    leBytes 1 (boolNat n.ptpl) ++ zeroBytes 14 ++
    n.registrants.flatMap (fun r => leBytes 2 r.ctrl ++ leBytes 1 (boolNat (n.holder.any (fun o => o.1 == r.host || decide (5 ≤ o.2)))) ++
      zeroBytes 5 ++ leBytes 8 r.host ++ leBytes 8 r.key)

/-- RESERVATION_REPORT: n bytes of the structure. -/
def doReservationReport (cmd : CmdRef) (nsid bytes : Nat) (s : Block) : Block :=
  onResv s cmd nsid (fun n s => complete (sendData s cmd 0 ((resvReport n).take bytes)) cmd 0 0 0)

/-! The end of posted instructions (R221, R234, R236, R237, R381). -/

/-- Blocks read for MRD: a block that cannot be read is zero, and the first such block's offset is given. -/
def readZero (s : Block) (nsid slba lba : Nat) (bad : List Nat) (i : Nat) : Nat → Block × List Byte × Option Nat
  | 0 => (s, [], none)
  | k + 1 =>
    let a := slba + i
    let r := readBlk s nsid slba a (if bad.contains a then 2 else 0)
    let rest (s : Block) (d : List Byte) (f : Option Nat) : Block × List Byte × Option Nat :=
      let q := readZero s nsid slba lba bad (i + 1) k
      (q.1, d ++ q.2.1, f.or q.2.2)
    match r.2 with
    | .ok d _ => rest r.1 d none
    | .zeros d _ _ => rest r.1 d none
    | .lost true => rest (loseRead r.1 nsid a) (zeroBytes lba) (some i)
    | .pi _ => rest (listFailed r.1 nsid a) (zeroBytes lba) (some i)
    | _ => rest r.1 (zeroBytes lba) (some i)

/-- The end of an MRD. bad: the blocks whose codewords no LDPC stage corrects. -/
def finishMrd (s : Block) (t : Seat) (p : Posted) (bad : List Nat) : Block :=
  let td := descOf p.td
  match bindingOf s (seatCtx s t) (natBits p.x.opt.toNat 0 4) with
  | none => endPosted (scribble s t td) t p (moveFail 6 0)
  | some (b, n) =>
    let cnt := extentLen td / max 1 n.lba
    if destBusy s t p (extent td) || mediaWaits s b.nsid p.sb.toNat cnt then s
    else
      let r := readZero s b.nsid p.sb.toNat n.lba bad 0 cnt
      let w := seatWrite r.1 t td.addr r.2.1
      let s := countPath w.1 none (seatRgn t td.addr) (extentLen td)
      let s := bump (countWritten s t td.addr (extentLen td)) (pgTie (destShare w.1 t td.addr)) 4 (extentLen td)
      if w.2 then endPosted s t p (moveFail 5 0)
      else endPosted s t p (match r.2.2 with
        | some i => moveFail 6 (i % 2 ^ 16)
        | none => 0)

/-- The end of an MWR: its data enters the buffer, and it finishes there or when it has been programmed. A read-only module refuses
it (log entry 25). -/
def finishMwr (s : Block) (t : Seat) (p : Posted) : Block :=
  let td := descOf p.td
  match bindingOf s (seatCtx s t) (natBits p.x.opt.toNat 0 4) with
  | none => endPosted s t p (moveFail 6 0)
  | some (b, n) =>
    let cnt := extentLen td / max 1 n.lba
    if p.arrived then (if buffered s b.nsid p.sb.toNat cnt then s else endPosted s t p 0)
    else if s.med.readOnly then endPosted s t p (moveFail 6 0)
    else if !bufferRoom s (extentLen td) then s
    else
      let q := seatCheck s t td.addr (extentLen td) 3
      if q.2 then endPosted q.1 t p (moveFail 5 0)
      else
        let s := lifeBump q.1 lifeHostBytesWritten (extentLen td)
        let s := putBlocks (countPath s (seatRgn t td.addr) none (extentLen td)) b.nsid p.sb.toNat (programBlocks n p.sb.toNat (seatRead q.1 t td.addr (extentLen td)))
        if writeThrough s then
          updSeat s t (fun k => { k with posted := k.posted.map (fun o => if o.id = p.id then { o with arrived := true } else o) })
        else endPosted s t p 0

/-- POSTED_FINISH (R221): a move, MRD or MWR of a rank finishes. bad: blocks of an MRD whose codewords no LDPC stage corrects. -/
def doPostedFinish (x : CtxNo) (rank id : Nat) (bad : List Nat) (s : Block) : Block :=
  let t := seatOf s x rank
  match findPosted (seatCore s t) id with
  | none => s
  | some p =>
    match p.kind with
    | .move => finishMove s t p
    | .mrd => finishMrd s t p bad
    | .mwr => finishMwr s t p
    | _ => s

/-- POSTED_FAILURE (R237): the unit of a posted instruction of a rank reports a failure: kind 0 UNREACHABLE, 1 DATA, 2 MEDIA. The bytes that
were to be written are unspecified; but an MRD with a block that cannot be read, block blocks from its first, reads that one as zeros and
the others as they are (R236). -/
def doPostedFailure (x : CtxNo) (rank id : Nat) (kind : Fin 3) (block : BitVec 16) (s : Block) : Block :=
  let t := seatOf s x rank
  match findPosted (seatCore s t) id with
  | none => s
  | some p =>
    match p.kind with
    | .move => endPosted (scribble s (moveTarget s t p) (descOf p.td)) t p (moveFail (4 + kind.val) 0)
    | .mrd =>
      if kind.val = 2 then finishMrd s t p [p.sb.toNat + block.toNat]
      else endPosted (scribble s t (descOf p.td)) t p (moveFail (4 + kind.val) 0)
    | .mwr => endPosted s t p (moveFail (4 + kind.val) 0)
    | _ => s

end Sys2Proof.Machine
end

