-- ==== Sys2Proof/Machine/MediaWork.lean ====
section
/-! DEFINITION. MediaWork: what the media does on its own behalf: the gather region, folding and bands (R381 to R389), deferred errors
(R394), retraining (R375), wear, refresh and spares (R396 to R401), the hold-up test (R411), and MM's commands for dies (R418). -/
namespace Sys2Proof.Machine

/-! Blocks by where they lie. -/

/-- A stored block's key: namespace and logical block, with its size and order. -/
structure BlkKey where
  nsid : Nat
  lba : Nat
  size : Nat
  seq : Nat
  deriving DecidableEq, Repr

/-- The blocks that lie where p says, oldest first. -/
def blocksAt (s : Block) (p : FLoc → Bool) : List BlkKey :=
  sortBy (fun a b => decide (a.seq < b.seq) || (a.seq == b.seq && decide (a.lba ≤ b.lba)))
    (s.nss.flatMap (fun e => e.2.store.filterMap (fun b => match b.2 with
      | .data _ _ loc q => if p loc then some ⟨e.1, b.1, e.2.lba, q⟩ else none
      | _ => none)))

/-- The units of some bytes, grains or indirection units, that blocks lie in: namespace and number, in the order of the blocks. -/
def unitsOf (bytes : Nat) (l : List BlkKey) : List (Nat × Nat) := (l.map (fun k => (k.nsid, k.lba * k.size / bytes))).eraseDups

/-- The stored data blocks of a unit that lie where p says. -/
def unitBlocks (s : Block) (bytes : Nat) (u : Nat × Nat) (p : FLoc → Bool) : List BlkKey :=
  match getNs s u.1 with
  | none => []
  | some n =>
    let k := bytes / max 1 n.lba
    (List.range k).filterMap (fun i => match tabFind n.store (u.2 * k + i) with
      | some (.data _ _ loc q) => if p loc then some ⟨u.1, u.2 * k + i, n.lba, q⟩ else none
      | _ => none)

/-- Whether data can be read where it lies, if need be by reconstruction. -/
def legible (s : Block) (l : FLoc) : Bool :=
  match locDie l with
  | none => true
  | some d => !dieCut s d || mendable s l

/-- A block on flash is read to be moved, with the blocks of its unit from first on (R384, R390). -/
def readToMove (first : Nat) (s : Block) (k : BlkKey) : Block :=
  match getNs s k.nsid with
  | none => s
  | some n =>
    match tabFind n.store k.lba with
    | some (.data _ _ loc _) =>
      (match locDie loc with
       | none => s
       | some die =>
         if dieCut s die then (if joined n first k.lba loc flashPage then s else noteMend s (flashPageOf n k.lba loc))
         else noteBlockRead s n first k.lba loc 0)
    | _ => s

/-- Units of blocks are read to be moved. -/
def readUnits (s : Block) (units : List (List BlkKey)) : Block :=
  units.foldl (fun s u => u.foldl (readToMove ((u.head?.map (·.lba)).getD 0)) s) s

/-- Moves a block to a place. -/
def moveBlk (s : Block) (k : BlkKey) (loc : FLoc) : Block :=
  updNs s k.nsid (fun n => match tabFind n.store k.lba with
    | some (.data d m _ q) => { n with store := tabSet n.store k.lba (.data d m loc q) }
    | _ => n)

/-- Runs of successive blocks: namespace, first block, count. -/
def runsOf (l : List BlkKey) : List (Nat × Nat × Nat) :=
  l.foldl (fun acc k => match acc.getLast? with
    | some (n, a, c) => if n = k.nsid ∧ a + c = k.lba then acc.dropLast ++ [(n, a, c + 1)] else acc ++ [(k.nsid, k.lba, 1)]
    | none => [(k.nsid, k.lba, 1)]) []

/-- Writes whose blocks have all left the buffer complete (R381). -/
def completeWrites (s : Block) : Block :=
  s.med.pendWrites.foldl (fun s w =>
    if buffered s w.nsid w.slba w.nlb then s
    else complete (updMed s (fun m => { m with pendWrites := m.pendWrites.filter (fun v => v.cmd ≠ w.cmd) })) w.cmd w.dw0 0 w.st) s

/-! The gather region (R380 to R384, R646). -/

/-- Gather bytes that are free outside the 4 GB held back. -/
def gatherFree (s : Block) : Nat := s.med.gatherGB * 1000000000 - (4000000000 + gatherBytes s)
/-- Data bytes of a gather stripe: 31 pages. -/
def stripeBytes : Nat := 31 * 16384
def gatherFull (s : Block) : Bool := decide (gatherFree s < stripeBytes)

/-- Page programs on a die; a page crosses the channel as its four codewords (R372, R419). -/
def noteProgram (s : Block) (d pages : Nat) : Block :=
  bump (bump s (pgOnf (d / 16)) 5 pages) (pgOnf (d / 16)) 2 (4 * codewordRaw * pages)

/-- A program or an erase fails on a die: the plane-block is retired (R397). -/
def retireBlock (s : Block) (d : Nat) : Block :=
  updDie (bump s (pgOnf (d / 16)) 10 1) d (fun x => { x with bad := satAdd 0xFFFF x.bad 1, retiredAt := x.retiredAt ++ [s.now] })

/-- Grains of a gather stripe: four to each of 31 pages. -/
def stripeGrains : Nat := 124

/-- The grains that the next stripe takes: those of the oldest data of the buffer. A grain that the buffer holds in part is read, modified
and written: its other blocks come with it from wherever they lie (R377). -/
def stripeUnits (s : Block) : List (List BlkKey) :=
  ((unitsOf grainBytes (blocksAt s isBuffer)).take stripeGrains).map (fun u => unitBlocks s grainBytes u (legible s))

/-- Programs grains as a stripe over dies of a group: 31 pages of data, the parity page rotating. -/
def programStripe (s : Block) (g : Nat) (ds : List Nat) (units : List (List BlkKey)) : Block :=
  let id := s.med.nextStripe
  let parity := (ds[id % ds.length]?).getD 0
  let data := ds.filter (fun d => d != parity)
  let s := readUnits s units
  let s := (units.zipIdx).foldl (fun s e =>
    e.1.foldl (fun s k => moveBlk s k (.gather id ((data[e.2 / 4 % max 1 data.length]?).getD 0))) s) s
  let s := updMed s (fun m => { m with
    nextStripe := id + 1, stripes := tabSet m.stripes id { group := g, parity := parity, members := ds, since := s.now } })
  let s := ds.foldl (fun s d => noteProgram s d 1) s
  lifeBump (bump s pgMed 2 (grainBytes * units.length)) lifeGatherBytes (grainBytes * units.length)

/-- The dies of a group that a stripe can be programmed on. -/
def stripeDies (s : Block) (g : Nat) : List Nat := (groupDies s g).filter (fun d => !dieCut s d)

/-- Drains the buffer into stripes of the gather region, the space that is held back included (R412, R613, R646); the groups take
turns. -/
def drainBuffer (s : Block) : Nat → Block
  | 0 => s
  | fuel + 1 =>
    let units := stripeUnits s
    if units.isEmpty then s
    else
      match ((List.range 15).map (fun i => (s.med.nextStripe + i) % 15)).find? (fun g => Nat.ble 2 (stripeDies s g).length) with
      | none => s
      | some g => drainBuffer (programStripe s g (stripeDies s g) units) fuel

/-- GATHER_STRIPE_PROGRAMMED (R382): a stripe over the dies of one of groups 0 to 14 takes the oldest data of the buffer. failed: dies on
which the program failed; the data then stays where it was and is programmed again elsewhere (R394). -/
def doGatherStripeProgrammed (g : Fin 15) (failed : List (Fin 512)) (s : Block) : Block :=
  let ds := stripeDies s g
  let units := stripeUnits s
  if units.isEmpty || gatherFull s || decide (ds.length < 2) then s
  else if !failed.isEmpty then (failed.map (·.val)).foldl (fun s d => retireBlock s d) s
  else completeWrites (programStripe s g ds units)

/-! Bands (R386 to R389). -/

def isOpen (b : Band) : Bool := b.state == .opened
/-- Bands that hold parity: those that are not released. -/
def parityBands (s : Block) : Nat := (s.med.bands.filter (fun e => e.2.state != .released)).length
def openBand (s : Block) (g : Nat) : Option Nat := (s.med.bands.find? (fun e => e.2.group == g && isOpen e.2)).map (·.1)
/-- Wordlines of a plane-block. -/
def bandWordlines : Nat := 1024
/-- Data bytes of a 4-plane wordline. -/
def wordlineBytes : Nat := 262144

/-! Capacity (R20, R380). -/

/-- Blocks of a plane, and the data bytes of a plane-block in QLC. -/
def planeBlocks : Nat := 1024
def planeBlockBytes : Nat := 67108864

/-- The raw bytes of the dies in service: 2^38 each, without their retired plane-blocks. -/
def rawBytes (s : Block) : Nat :=
  sumNat ((List.range 512).map (fun d => match (getDie s d).state with
    | .inService => 4 * planeBlocks * planeBlockBytes - (getDie s d).bad * planeBlockBytes
    | .evacuating => 4 * planeBlocks * planeBlockBytes - (getDie s d).bad * planeBlockBytes
    | _ => 0))

/-- Raw bytes of data kept in one-bit mode with the parity of its stripes. -/
def oneBitRaw (bytes : Nat) : Nat := bytes * 4 * 32 / 31

/-- Raw bytes that the gather region of a size in GB, the parity of 64 bands, two map checkpoints and the journal take. -/
def allotted (gb : Nat) : Nat := oneBitRaw (gb * 1000000000) + 64 * 1073741824 + oneBitRaw (2 * mapSize + 4000000000)

/-- Raw bytes of the bands. -/
def bandsRaw (s : Block) : Nat := sumNat (s.med.bands.map (fun e => 4 * planeBlockBytes * e.2.members.length))

/-- Whether bands of some raw bytes find room beside a gather region of a size: user data, spare blocks and reclaim headroom. -/
def flashHolds (s : Block) (gb bytes : Nat) : Bool := decide (bytes + allotted gb ≤ rawBytes s)

/-- The lowest block that no band of a group lies in. -/
def freeBlock (s : Block) (g : Nat) : Option (Fin 1024) :=
  (List.finRange planeBlocks).find? (fun b => !s.med.bands.any (fun e => e.2.group == g && e.2.block == b))

/-- The dies that a band of a group opens on (R386, R395). -/
def bandDies (s : Block) (g : Nat) : List Nat := (groupDies s g).filter (fun d => !dieCut s d)

/-- Opens a band of a group, unless one is open, the limit of 64 is reached, or no block or no capacity is left (R20, R372, R387). -/
def ensureBand (s : Block) (g : Nat) : Block :=
  match openBand s g with
  | some _ => s
  | none =>
    match freeBlock s g with
    | none => s
    | some k =>
      if decide (64 ≤ parityBands s) || !flashHolds s s.med.gatherGB (bandsRaw s + 4 * planeBlockBytes * (bandDies s g).length) then s
      else
        let b := s.med.nextBand
        updMed s (fun m => { m with
          nextBand := b + 1, bands := tabSet m.bands b { group := g, block := k, members := bandDies s g, opened := s.now } })

/-- The indirection units of a block that may hold data: the last two of a die never do (R376). -/
def blockRoom (block : Nat) : Nat := if block + 1 = planeBlocks then blockIus - 2 else blockIus

/-- Puts indirection units into the open band of a die's group, wordline by wordline on that die: the state, or nothing where the band
cannot take them. -/
def putBand (s : Block) (die : Nat) (units : List (List BlkKey)) : Option Block :=
  match (getDie s die).group with
  | none => none
  | some g =>
    let s := ensureBand s g
    match openBand s g with
    | none => none
    | some b =>
      let x := tabGet { group := g, members := [] } s.med.bands b
      let w := tabGet 0 x.wordlines die
      let need := (units.length + wordlineIus - 1) / wordlineIus
      if !x.members.contains die || decide (bandWordlines < w + need) || decide (blockRoom x.block < w * wordlineIus + units.length) then none
      else
        let at_ (i : Nat) : Nat := die * dieIus + x.block.val * blockIus + w * wordlineIus + i
        let s := readUnits s units
        let s := (units.zipIdx).foldl (fun s e => e.1.foldl (fun s k => moveBlk s k (.band b (at_ e.2))) s) s
        let s := updMed s (fun m => { m with bands := tabMap (fun k x =>
          if k = b then { x with wordlines := tabSet x.wordlines die (w + need) } else x) m.bands })
        some (noteProgram s die (16 * need))

/-- The indirection units that a wordline on the direct path takes: those of the oldest data of the buffer, whole (R377, R383). -/
def directUnits (s : Block) : List (List BlkKey) :=
  ((unitsOf iuBytes (blocksAt s isBuffer)).take wordlineIus).map (fun u => unitBlocks s iuBytes u (legible s))

/-- The indirection units that a fold takes: those of the oldest gather data, with whatever grains of them are not in the gather region; what
the buffer holds of them is newer and stays (R377, R384). -/
def foldUnits (s : Block) : List (List BlkKey) :=
  ((unitsOf iuBytes (blocksAt s isGather)).take wordlineIus).map (fun u => unitBlocks s iuBytes u (fun l => !isBuffer l && legible s l))

/-- The bytes that units of blocks are counted as: whole indirection units. -/
def iusBytes (units : List (List BlkKey)) : Nat := iuBytes * units.length

/-- Stripes that hold no block any more are free. -/
def dropStripes (s : Block) : Block :=
  let live := s.nss.flatMap (fun e => e.2.store.filterMap (fun b => match b.2 with
    | .data _ _ (.gather id _) _ => some id
    | _ => none))
  updMed s (fun m => { m with stripes := tabFilter (fun id _ => live.contains id) m.stripes })

/-- DIRECT_PATH_PROGRAMMED (R383): with no gather space, a wordline of a die, and the band parity that covers it, take the oldest data of
the buffer. -/
def doDirectPathProgrammed (die : Fin 512) (failed : Bool) (s : Block) : Block :=
  let units := directUnits s
  if !gatherFull s || units.isEmpty || dieCut s die then s
  else if failed then retireBlock s die
  else
    match putBand s die units with
    | none => s
    | some s => completeWrites (dropStripes (bump s pgMed 3 (iusBytes units)))

/-- FOLD (R377, R384): a wordline of a die takes the oldest gather data in whole units. Overwritten and deallocated grains are gone from the map and are not
folded. -/
def doFold (die : Fin 512) (failed : Bool) (s : Block) : Block :=
  let units := foldUnits s
  if units.isEmpty || dieCut s die then s
  else if failed then retireBlock s die
  else
    match putBand s die units with
    | none => s
    | some s => dropStripes (lifeBump (bump s pgMed 3 (iusBytes units)) lifeFoldBytes (iusBytes units))

def updBand (s : Block) (b : Nat) (f : Band → Band) : Block :=
  updMed s (fun m => { m with bands := tabMap (fun k x => if k = b then f x else x) m.bands })

/-- The parity of a band is programmed: 1,024 one-bit pages on each of its 16 plane-blocks (R386). -/
def noteParity (s : Block) (b : Nat) : Block := (List.range 16).foldl (fun s i => noteProgram s (Config.parityDie b i).val 1024) s

/-- BAND_CLOSE (R386, R387, R400): every wordline of every member that has not failed is programmed, and the band's parity. -/
def doBandClose (b : Nat) (s : Block) : Block :=
  match tabFind s.med.bands b with
  | none => s
  | some x =>
    if isOpen x && x.members.all (fun d => tabGet 0 x.wordlines d == bandWordlines || dieGone s d) then
      bump (updBand (noteParity s b) b (fun x => { x with state := .closed, closedAt := s.now })) pgMed 7 1
    else s

/-- BAND_VERIFY_START (R388): no sooner than 1 s after the band closed. -/
def doBandVerifyStart (b : Nat) (s : Block) : Block :=
  match tabFind s.med.bands b with
  | none => s
  | some x => if x.state = .closed then updBand (atTime s (x.closedAt + 1000000000)) b (fun x => { x with state := .verifying }) else s

/-- The page of its place that a stored block lies in. -/
def keyPage (s : Block) (k : BlkKey) : Option (FLoc × Nat) :=
  match getNs s k.nsid with
  | none => none
  | some n => match tabFind n.store k.lba with
    | some (.data _ _ loc _) => some (flashPageOf n k.lba loc)
    | _ => none

/-- Valid blocks of a band that p picks by die and page of the die's blocks: an indirection unit is two pages, in the order of the units
(DEDUCED, log entry 148). -/
def bandBlocks (s : Block) (b : Nat) (p : Nat → Nat → Bool) : List BlkKey :=
  (blocksAt s (fun loc => match loc with
    | .band b' _ => b' == b
    | _ => false)).filter (fun k => match keyPage s k with
      | some (.band _ iu, h) => p (iu / dieIus) (iu % blockIus * 2 + h)
      | _ => false)

/-- The group in which a page's place lies; gather stripes lie in bands of none. -/
def placeGroup (s : Block) : FLoc → Nat
  | .band b _ => ((tabFind s.med.bands b).map (·.group)).getD 16
  | _ => 16

/-- Pages that leave the queue hold no blocks of theirs any more. -/
def settleQueue (s : Block) : Block :=
  let live := s.nss.flatMap (fun e => e.2.store.filterMap (fun b => match b.2 with
    | .data _ _ loc _ => some (flashPageOf e.2 b.1 loc)
    | _ => none))
  if s.med.queued.isEmpty then s else updMed s (fun m => { m with queued := m.queued.filter (fun q => live.contains q) })

/-- The indirection units that blocks are moved in: the blocks of a unit lie together in a band; of a unit that the gather region holds in
part, whatever flash holds of it comes with them (R377, R384). -/
def assembled (s : Block) (l : List BlkKey) : List (List BlkKey) :=
  (unitsOf iuBytes l).map (fun u =>
    let own := l.filter (fun k => k.nsid == u.1 && k.lba * k.size / iuBytes == u.2)
    let gathered := own.any (fun k => match (getNs s k.nsid).bind (fun n => tabFind n.store k.lba) with
      | some (.data _ _ loc _) => isGather loc
      | _ => false)
    if gathered then own ++ (unitBlocks s iuBytes u (fun l => !isBuffer l && legible s l)).filter (fun k => !own.contains k) else own)

/-- Valid blocks of the queued pages that p picks by place. -/
def queuedBlocks (s : Block) (p : FLoc → Bool) : List BlkKey :=
  if s.med.queued.isEmpty then []
  else (blocksAt s p).filter (fun k => match keyPage s k with
    | some q => s.med.queued.contains q
    | none => false)

/-- Relocates blocks of a band into the open band of a die of another group (R378); nothing happens where that band cannot take
them. -/
def relocate (s : Block) (own : Nat) (target : Nat) (blocks : List BlkKey) (stat : Nat) : Option Block :=
  if blocks.isEmpty then some s
  else if (getDie s target).group = some own || dieCut s target then none
  else
    let units := assembled s blocks
    (putBand s target units).map (fun s => settleQueue (bump (dropStripes s) pgMed stat (iusBytes units)))

/-- Whatever the refreshing of a block brings, queued pages that may go where it goes are relocated as well (R390). -/
def relocateQueued (s : Block) (target : Nat) : Block :=
  match (getDie s target).group with
  | none => s
  | some g => (relocate s 16 target (queuedBlocks s (fun l => placeGroup s l != g)) 6).getD s

/-- What the verification of a band relocates (R388, R390): the pages that fail, or all if they are more than 64, and those queued. -/
def verifyMoves (s : Block) (b : Nat) (fails : List (Nat × Nat)) : List BlkKey :=
  bandBlocks s b (fun d p => decide (64 < fails.length) || fails.contains (d, p) ||
    s.med.queued.any (fun q => match q.1 with
      | .band c iu => c == b && iu / dieIus == d && iu % blockIus * 2 + q.2 == p
      | _ => false))

/-- Every page of a band is read once, on every member (R388). -/
def readBand (s : Block) (b : Nat) (x : Band) : Block :=
  x.members.foldl (fun s d =>
    let pages := 16 * tabGet 0 x.wordlines d
    if dieCut s d then s else noteDisturb (noteDieRead s d pages (4 * pages) 0 0) (.band b (d * dieIus)) pages) s

/-- BAND_VERIFY_END (R388): every page has been read at margin; those that fail, by die and page of its blocks, are relocated; with more
than 64, every valid block is. retired: members of which a plane-block failed, and had failed when its block was verified before (R397). -/
def doBandVerifyEnd (b : Nat) (fails : List (Nat × Nat)) (target : Fin 512) (retired : List (Fin 512)) (s : Block) : Block :=
  match tabFind s.med.bands b with
  | none => s
  | some x =>
    if x.state ≠ .verifying then s
    else
      match relocate s x.group target (verifyMoves s b fails) 6 with
      | none => s
      | some s =>
        let s := bump (updBand (readBand s b x) b (fun x => { x with state := .verified })) pgMed 10 fails.length
        let failed (d : Nat) : Bool := fails.any (fun f => f.1 == d)
        let again := retired.filter (fun d => failed d.val && s.med.failedOnce.contains (x.group, x.block.val, d.val))
        let s := updMed s (fun m => { m with
          failedOnce := m.failedOnce.filter (fun f => !(f.1 == x.group && f.2.1 == x.block.val && x.members.contains f.2.2)) ++
            (x.members.filter failed).map (fun d => (x.group, x.block.val, d)) })
        (again.map (·.val)).foldl (fun s d => updDie s d (fun x => { x with bad := satAdd 0xFFFF x.bad 1, retiredAt := x.retiredAt ++ [s.now] })) s

/-- BAND_RELEASE (R389): the release record is durable after the verification's map changes; the band's parity is given back. -/
def doBandRelease (b : Nat) (s : Block) : Block :=
  match tabFind s.med.bands b with
  | none => s
  | some x => if x.state = .verified then bump (updBand s b (fun x => { x with state := .released })) pgMed 8 1 else s

/-! Deferred errors (R394, R446). -/

/-- DEFERRED_ERROR_CREATE (R394): data of completed writes is found lost before it has reached a band. -/
def doDeferredErrorCreate (nsid slba nlb : Nat) (s : Block) : Block :=
  match getNs s nsid with
  | none => s
  | some n =>
    if nlb ≠ 0 ∧ (List.range nlb).all (fun i => match tabFind n.store (slba + i) with
      | some (.data _ _ loc _) => isGather loc
      | _ => false) then deferError s nsid slba nlb
    else s

/-! Channels (R375). -/

/-- A channel retrains at its present temperature. -/
def retrain (s : Block) (c : Nat) : Block :=
  updChan s c (fun x => { x with trained := true, retrains := satAdd 0xFFFF x.retrains 1, trainTemp := x.hot })

/-- CHANNEL_RETRAIN (R375): the hottest die of a channel has moved 20 °C from the last training. -/
def doChannelRetrain (c : ChanNo) (s : Block) : Block :=
  let x := getChan s c
  if x.trained && (decide (x.trainTemp + 20 ≤ x.hot) || decide (x.hot + 20 ≤ x.trainTemp)) then retrain s c else s

/-! Wear, refresh and spares (R396 to R401). -/

/-- A critical warning bit follows its condition. -/
def critWhile (s : Block) (bit : Nat) (c : Bool) : Block := if c then raiseCrit s bit else clearCrit s bit

/-- The spare-block pool takes a value, in per-mille of its initial size; below 2 % the module becomes read-only (R401, R464). -/
def setPool (s : Block) (pm : Nat) : Block :=
  let was := s.med.readOnly
  let s := updMed s (fun m => { m with poolPm := pm, readOnly := decide (pm < 20) })
  let s := critWhile s 0 (decide (pm / 10 < 10))
  let s := critWhile s 3 (decide (pm < 20))
  if pm < 20 ∧ !was then raiseIrq s pgMed 17 else s

/-- READ_ONLY_ENTRY (R401): the pool has fallen below 2 %. -/
def doReadOnlyEntry (pm : Fin 20) (s : Block) : Block := setPool s pm

/-- A block of flash that holds data: that of a band, or of a gather stripe in one-bit mode, on a die. -/
structure BlockSel where
  stripe : Bool
  id : Nat
  die : Fin 512
  deriving DecidableEq, Repr

/-- What is known of such a block: its group (none for a stripe), when it was programmed, its reads, its pages. -/
def blockFacts (s : Block) (q : BlockSel) : Option (Nat × Nat × Nat × Nat) :=
  if q.stripe then (tabFind s.med.stripes q.id).map (fun x => (16, x.since, x.reads, 1))
  else (tabFind s.med.bands q.id).bind (fun x =>
    if x.members.contains q.die then some (x.group, x.opened, tabGet 0 x.reads q.die, 16 * tabGet 0 x.wordlines q.die) else none)

/-- The valid blocks of data on it. -/
def blockHolds (s : Block) (q : BlockSel) : List BlkKey :=
  blocksAt s (fun loc => match loc with
    | .gather id d => q.stripe && id == q.id && d == q.die
    | .band id iu => !q.stripe && id == q.id && iu / dieIus == q.die
    | .buffer => false)

/-- Relocates a block's valid data into the open band of a die (R378). -/
def refreshBlock (s : Block) (q : BlockSel) (group target : Nat) : Block :=
  relocateQueued ((relocate s group target (blockHolds s q) 6).getD s) target

/-- PATROL_READ (R398): a block is read; its valid data is relocated if a codeword needs more than 80 corrections or retry. -/
def doPatrolRead (stripe : Bool) (id : Nat) (die : Fin 512) (weak : Bool) (target : Fin 512) (s : Block) : Block :=
  let q : BlockSel := ⟨stripe, id, die⟩
  match blockFacts s q with
  | none => s
  | some (group, _, _, pages) =>
    if dieCut s die then s
    else
      let s := noteDieRead s die pages (4 * pages - boolNat weak) (boolNat weak) 0
      let s := noteDisturb s (if stripe then .gather id die else .band id (die.val * dieIus)) pages
      if weak then refreshBlock s q group target else relocateQueued s target

/-- READ_DISTURB_LIMIT (R398): a block has been read 30,000 times since it was programmed, 300,000 in one-bit mode; its neighbours are
read at margin, and its data is relocated if they fail. -/
def doReadDisturbLimit (stripe : Bool) (id : Nat) (die : Fin 512) (fail : Bool) (target : Fin 512) (s : Block) : Block :=
  let q : BlockSel := ⟨stripe, id, die⟩
  match blockFacts s q with
  | none => s
  | some (group, _, reads, _) =>
    if reads < (if stripe then 300000 else 30000) then s
    else
      let s := updMed s (fun m =>
        if stripe then { m with stripes := tabMap (fun k x => if k = id then { x with reads := 0 } else x) m.stripes }
        else { m with bands := tabMap (fun k x => if k = id then { x with reads := tabErase x.reads die } else x) m.bands })
      if fail then refreshBlock s q group target else s

/-- The retention age of R398 in ns for a mean die temperature in °C: it halves for each 10 °C above 40 (log entry 26). -/
def retentionNs (deg : Nat) : Nat := 90 * 86400 * 1000000000 / 2 ^ ((deg - 40) / 10)

/-- RETENTION_LIMIT (R398): a block reaches its retention age at a mean die temperature, and its data is relocated. -/
def doRetentionLimit (stripe : Bool) (id : Nat) (die : Fin 512) (deg : Nat) (target : Fin 512) (s : Block) : Block :=
  let q : BlockSel := ⟨stripe, id, die⟩
  match blockFacts s q with
  | none => s
  | some (group, since, _, _) => if s.now < since + retentionNs deg then s else refreshBlock s q group target

/-- Blocks of a die, wherever they lie on it. -/
def dieBlocks (s : Block) (d : Nat) : List BlkKey := blocksAt s (fun loc => locDie loc == some d)

/-- A spare on a channel not yet in group 15 enters service, in group 15 (R373, R399). -/
def enterSpare (s : Block) : Block :=
  match (List.range 512).find? (fun d => (getDie s d).state == .spare &&
      !(List.range 16).any (fun i => (getDie s (d / 16 * 16 + i)).group == some 15 && (getDie s (d / 16 * 16 + i)).state == .inService)) with
  | some d => raiseIrq (updDie s d (fun x => { x with state := .inService, group := some 15 })) pgMed 19
  | none => raiseCrit (updMed s (fun m => { m with unspared := m.unspared + 1 })) 2

/-- Whether a die is to be evacuated: more than 16 of its blocks retired in 24 h, soft decodes above 1 % of its reads, or MM's order. -/
def evacuationDue (s : Block) (d : Nat) : Bool :=
  let x := getDie s d
  decide (16 < (x.retiredAt.filter (fun t => Nat.blt s.now (t + 86400000000000))).length) || decide (x.dayReads < 100 * x.daySoft)

/-- DIE_EVACUATION (R399): the evacuation of a die begins, or ends: its data is in bands of other groups, the die is RETIRED, and a
spare enters service. -/
def doDieEvacuation (d : Fin 512) (target : Fin 512) (s : Block) : Block :=
  let x := getDie s d
  match x.state with
  | .inService =>
    if evacuationDue s d then updDie s d (fun x => { x with state := .evacuating }) else s
  | .evacuating =>
    match relocate s (x.group.getD 16) target (dieBlocks s d) 6 with
    | none => s
    | some s =>
      enterSpare (updDie s d (fun x => { x with state := .retired, group := none }))
  | _ => s

/-- A die is fenced and leaves its group. -/
def fenceDie (s : Block) (d : Nat) : Block := updDie s d (fun x => { x with state := .fenced, group := none })

/-- A die fails and is fenced: what parity covers is reconstructed and relocated, the rest is lost (a deferred error where it lay in a
gather stripe), and a spare replaces it (R391, R394, R400). -/
def dieFails (s : Block) (d target : Nat) : Block :=
  let x := getDie s d
  if !(x.state == .inService || x.state == .evacuating) then s
  else
    let all := dieBlocks s d
    let safe := all.filter (fun k => match (getNs s k.nsid).bind (fun n => tabFind n.store k.lba) with
      | some (.data _ _ loc _) => !beyondMend s loc
      | _ => false)
    match relocate (fenceDie s d) (x.group.getD 16) target safe 6 with
    | none => s
    | some s =>
      let young (k : BlkKey) : Bool := match (getNs s k.nsid).bind (fun n => tabFind n.store k.lba) with
        | some (.data _ _ (.gather _ _) _) => true
        | _ => false
      let gone := all.filter (fun k => !safe.contains k)
      let s' := (runsOf (gone.filter (fun k => !young k))).foldl (fun s r => loseBlocks s 3 r.1 r.2.1 r.2.2) s
      let s := (runsOf (gone.filter young)).foldl (fun s r => deferError s r.1 r.2.1 r.2.2) s'
      enterSpare s

/-- DIE_FAILURE (R400). -/
def doDieFailure (d : Fin 512) (target : Fin 512) (s : Block) : Block := dieFails s d target

/-- RECLAIM (R378, R388, R397): the valid data of a released band moves, its blocks are erased, and those that fail to erase, or that fail
their test where more than 64 pages of the band had failed at margin, are retired.
pm: the spare-block pool after it; wearMax and wearMean: the wear of the blocks, in per-mille (log entry 27). -/
def doReclaim (b : Nat) (target : Fin 512) (failed : List (Fin 512)) (pm : Fin 1001) (wearMax wearMean : BitVec 16) (s : Block) : Block :=
  match tabFind s.med.bands b with
  | none => s
  | some x =>
    if x.state ≠ .released then s
    else
      match relocate s 16 target (bandBlocks s b (fun _ _ => true)) 5 with
      | none => s
      | some s =>
        let s := x.members.foldl (fun s d => bump s (pgOnf (d / 16)) 6 4) s
        let s := (failed.map (·.val)).foldl (fun s d => retireBlock s d) s
        let s := updMed s (fun m => { m with
          bands := tabErase m.bands b, wearMax := wearMax.toNat, wearMean := wearMean.toNat })
        setPool s pm

/-! The hold-up bank (R411). -/

/-- HOLDUP_TEST (R411, R464): a test measures the bank; a module that fails it drains its buffer. -/
def doHoldupTest (us : Nat) (s : Block) : Block :=
  let ok := decide (40000 ≤ us)
  let s := updMed s (fun m => { m with holdupUs := min us 0xFFFF, holdupAt := some s.now, holdupOk := ok, testing := false })
  let s := critWhile s 4 (!ok)
  if ok then s else completeWrites (drainBuffer (raiseIrq s pgMed 16) (blocksAt s isBuffer).length)

/-- The judged write of CTL of the MED page (R415): TEST_HOLDUP starts a test. -/
def writeMedCtl (s : Block) (w : Writer) (value : Word) : Block :=
  guardedWrite s pgMed 0x014 w value (ownerRight (getPage s pgMed) w) none (fun s =>
    let s := setCtl s pgMed .med value.toNat
    if natBit value.toNat 1 then updMed s (fun m => { m with testing := true }) else s)

/-- MED_TEST_HOLDUP (R411, R415): a write of MED CTL with TEST_HOLDUP. -/
def doMedTestHoldup (w : Writer) (guard : Byte) (writeThrough : Bool) (s : Block) : Block :=
  let v : Word := BitVec.ofNat 32 (guard.toNat * 2 ^ 24 + 2 + boolNat writeThrough)
  enterWrite s pgMed w 0x014 v (fun _ _ s => writeMedCtl s w v)

/-! MM's commands for dies (R418). -/

/-- Whether a die's state permits a command. -/
def dieCmdOk (s : Block) (d cmd : Nat) : Bool :=
  let x := getDie s d
  match cmd with
  | 0 => true
  | 1 => x.state == .inService
  | 2 => x.state == .fenced || (x.state == .evacuating && (dieBlocks s d).isEmpty)
  | 3 => x.state == .spare || x.state == .fenced
  | _ => false

/-- The judged write of ONF_DIEn. A command that the state does not permit records BAD_VALUE. RETIRE of an evacuated die ends its
evacuation: a spare enters service (R399). -/
def writeDie (s : Block) (d : Nat) (off : Nat) (w : Writer) (value : Word) : Block :=
  let p := pgOnf (d / 16)
  let cmd := bvBits value 24 4
  plainWrite s p off w (mmRight w) (badIf (!dieCmdOk s d cmd)) (fun s =>
    match cmd with
    | 1 => updDie s d (fun x => { x with state := .evacuating })
    | 2 =>
      let was := (getDie s d).state
      let s := updDie s d (fun x => { x with state := .retired, group := none })
      if was = .evacuating then enterSpare s else s
    | 3 => updDie s d (fun x => { x with state := .testing, wasSpare := x.state == .spare })
    | _ => s)

/-- A write of ONF_DIEn of the die at a position of a channel. -/
def dieCommand (w : Writer) (c : Nat) (pos : Nat) (cmd : Nat) (s : Block) : Block :=
  let v : Word := BitVec.ofNat 32 (cmd * 2 ^ 24)
  enterWrite s (pgOnf c) w (0x140 + 4 * pos) v (fun _ _ s => writeDie s (c * 16 + pos) (0x140 + 4 * pos) w v)

def doOnfDieEvacuate (w : Writer) (c : ChanNo) (pos : Fin 16) (s : Block) : Block := dieCommand w c pos 1 s
def doOnfDieRetire (w : Writer) (c : ChanNo) (pos : Fin 16) (s : Block) : Block := dieCommand w c pos 2 s
def doOnfDieTest (w : Writer) (c : ChanNo) (pos : Fin 16) (s : Block) : Block := dieCommand w c pos 3 s

/-! Register values of the MED and ONF pages (R415, R417, R418). -/

def dieStateCode : DieState → Nat
  | .inService => 0
  | .spare => 1
  | .evacuating => 2
  | .fenced => 3
  | .retired => 4
  | .testing => 5

/-- ONF_DIEn. -/
def dieWord (s : Block) (d : Nat) : Word :=
  let x := getDie s d
  BitVec.ofNat 32 (dieStateCode x.state * 2 ^ 28 + (match x.group with
    | some g => 2 ^ 20 + g * 2 ^ 16
    | none => 0) + x.bad)

def countDies (s : Block) (p : FlashDie → Bool) : Nat := ((List.range 32).filter (fun c => p (getDie s (16 * c + 15)))).length

/-- The computed registers of the MED page. -/
def medValue (s : Block) (off : Nat) : Option Word :=
  let m := s.med
  match off with
  | 0x100 => some (if mediaReady s then BitVec.ofNat 32 (m.gatherGB * 2 ^ 16 + gatherFree s / 1000000000) else 0)
  | 0x104 => some (BitVec.ofNat 32 ((m.bands.filter (fun e => isOpen e.2)).length * 2 ^ 24 +
      (m.bands.filter (fun e => match e.2.state with
        | .closed => true
        | .verifying => true
        | .verified => true
        | _ => false)).length * 2 ^ 16 + 64 * 2 ^ 8))
  | 0x108 =>
    let av := countDies s (fun x => x.state == .spare)
    let used := ((List.range 8).filter (fun i => (getDie s (64 * i + 15)).group == some 15)).length
    some (BitVec.ofNat 32 (av * 2 ^ 24 + used * 2 ^ 16 + m.poolPm))
  | 0x10C => some (BitVec.ofNat 32 (m.wearMax * 2 ^ 16 + m.wearMean))
  | 0x110 => some (BitVec.ofNat 32 (m.holdupUs * 2 ^ 16 +
      (match m.holdupAt with
       | some t => min 255 ((s.now - t) / 3600000000000)
       | none => 0) * 2 ^ 8 + boolNat m.testing * 2 + boolNat (m.holdupOk && m.holdupAt.isSome)))
  | 0x114 => some (BitVec.ofNat 32 (min 0xFFFF (m.deferred.filter (fun d => !d.reported)).length))
  | _ => none

/-- Whether an evacuation is in progress; a reconstruction is one step of the model. -/
def rebuilding (s : Block) : Bool := s.med.dies.any (fun e => e.2.state == .evacuating)

/-- MED STATUS.BLOCK. -/
def medStatus (s : Block) : Nat :=
  boolNat s.med.recovered * 2 ^ 22 + boolNat (rebuilding s) * 2 ^ 21 + boolNat s.med.readOnly * 2 ^ 20 +
    boolNat (mediaReady s && gatherFull s) * (2 ^ 19 + 2 ^ 18) + boolNat (writeThrough s) * 2 ^ 17 + boolNat s.med.holdupOk * 2 ^ 16

/-- The computed registers of an ONF page. A die is shown busy while an operation of its own runs: evacuation or a test. -/
def onfValue (s : Block) (c off : Nat) : Option Word :=
  let x := getChan s c
  match off with
  | 0x100 => some 0x0E101044
  | 0x104 => some (BitVec.ofNat 32 (boolNat x.trained * 2 ^ 31 + x.retrains))
  | 0x108 => some (BitVec.ofNat 32 (x.hotPos * 2 ^ 8 + x.hot))
  | 0x10C => some (BitVec.ofNat 32 (sumNat ((List.range 16).map (fun i => match (getDie s (16 * c + i)).state with
      | .testing => 2 ^ i
      | .evacuating => 2 ^ i
      | _ => 0))))
  | _ => if 0x140 ≤ off ∧ off < 0x180 then some (dieWord s (16 * c + (off - 0x140) / 4)) else none

end Sys2Proof.Machine
end

