-- ==== Sys2Proof/Machine/Namespaces.lean ====
section
/-! DEFINITION. Namespaces: the administration of namespaces: creation, attachment, format and sanitize (R408 to R410, R424, R425). -/
namespace Sys2Proof.Machine

/-- Data and metadata bytes of an LBA format (R425). -/
def lbaFormat (i : Nat) : Option (Nat × Nat) :=
  match i with
  | 0 => some (512, 0)
  | 1 => some (512, 8)
  | 2 => some (4096, 0)
  | 3 => some (4096, 8)
  | 4 => some (4096, 16)
  | 5 => some (4096, 64)
  | _ => none

/-- Whether a format can hold a protection type, and place it. -/
def formatOk (i prot : Nat) : Bool := (lbaFormat i).isSome && decide (prot ≤ 3) && (prot == 0 || ((lbaFormat i).getD (0, 0)).2 != 0)

/-- The controllers that show a namespace's change (R469). -/
def noteNsChange (s : Block) (nsid : Nat) (ctrls : List Nat) : Block :=
  ctrls.foldl (fun s p =>
    let s := updCtl s p (fun c => { c with changed := if c.changed.contains nsid then c.changed else c.changed ++ [nsid] })
    postEvent s p ⟨2, 0, 4⟩) s

/-- The controllers that a namespace is attached to. -/
def attachedTo (s : Block) (nsid : Nat) : List Nat := (List.range 4).filter (fun p => (getCtl s p).attached.contains nsid)

/-- The blocks of a namespace, all deallocated, with a new key: no data that was written comes back (R408, R410). -/
def eraseNs (s : Block) (nsid : Nat) : Block :=
  match getNs s nsid with
  | none => s
  | some n =>
    let s := lostDrop s nsid 0 n.blocks
    let s := updMed s (fun m => { m with keys := m.keys + 1 })
    updNs s nsid (fun n => { n with key := s.med.keys, store := [] })

/-- Sanitize (R410): action 4 is crypto-erase; the others are not supported, and 1 has nothing to leave. -/
def sanitizeBy (cmd : CmdRef) (action : Fin 8) (s : Block) : Block :=
  onMgr s cmd (fun s =>
    if action.val = 4 then
      let s := (tabKeys s.nss).foldl eraseNs s
      complete (updMed s (fun m => { m with sanitizes := m.sanitizes + 1 })) cmd 0 0 0
    else if action.val = 1 then complete s cmd 0 0 0
    else complete s cmd 0 0 stInvalidField)

/-- One namespace takes a format; its size in bytes stays. -/
def formatOne (s : Block) (nsid lbaf : Nat) (ext : Bool) (prot : Nat) (first : Bool) : Block :=
  let s := eraseNs s nsid
  updNs s nsid (fun n =>
    let f := (lbaFormat lbaf).getD (512, 0)
    { n with
      blocks := n.blocks * n.lba / max 1 f.1, lba := f.1, mdBytes := f.2, extended := ext, prot := prot, protFirst := first, formatIdx := lbaf })

/-- Format NVM, for controller p (R410, R424, R425): secure erase 0, 1 or 2; the data does not survive (log entry 28). NSID 0xFFFFFFFF names every attached
namespace. -/
def formatBy (cmd : CmdRef) (p : Nat) (nsid : Nat) (lbaf : Fin 16) (ext : Bool) (pi : Fin 8) (pil : Bool) (ses : Fin 8) (s : Block) : Block :=
  onMgr s cmd (fun s =>
    let att := (getCtl s p).attached
    if 2 < ses.val then complete s cmd 0 0 stInvalidField
    else if !formatOk lbaf pi then complete s cmd 0 0 (status 1 0x0A 1)
    else if nsid = 0xFFFFFFFF then
      complete (att.foldl (fun s n => noteNsChange (formatOne s n lbaf ext pi pil) n (attachedTo s n)) s) cmd 0 0 0
    else if !att.contains nsid || (getNs s nsid).isNone then complete s cmd 0 0 stInvalidNamespace
    else if !mediaReady s then complete s cmd 0 0 (status 0 0x82 0)
    else complete (noteNsChange (formatOne s nsid lbaf ext pi pil) nsid ((attachedTo s nsid).filter (fun q => q ≠ p))) cmd 0 0 0)

/-- Bytes that the namespaces take. -/
def usedBytes (s : Block) : Nat := sumNat (s.nss.map (fun e => e.2.blocks * e.2.lba))

/-- A namespace is deleted: every controller loses it. -/
def deleteNs (s : Block) (nsid : Nat) : Block :=
  let att := attachedTo s nsid
  let s := eraseNs s nsid
  let s := { s with nss := tabErase s.nss nsid }
  let s := (List.range 4).foldl (fun s p => updCtl s p (fun c => { c with attached := c.attached.filter (fun n => n ≠ nsid) })) s
  noteNsChange s nsid att

/-- Namespace Management (R409, R424): sel 0 creates a namespace from its data structure and a new key pair, sel 1 deletes one, or all. -/
def nsManageBy (cmd : CmdRef) (sel : Fin 16) (nsid : Nat) (data : List Byte) (s : Block) : Block :=
  onMgr s cmd (fun s =>
    let s := takeData s cmd (if sel.val = 0 then 4096 else 0)
    if !mediaReady s then complete s cmd 0 0 (status 0 0x82 0)
    else
      match sel.val with
      | 0 =>
        let size := fieldAt data 0 8
        let cap := fieldAt data 8 8
        let flbas := fieldAt data 26 1
        let dps := fieldAt data 29 1
        let lbaf := flbas % 16
        match lbaFormat lbaf, (List.range 128).find? (fun i => (getNs s (i + 1)).isNone) with
        | none, _ => complete s cmd 0 0 (status 1 0x0A 1)
        | _, none => complete s cmd 0 0 (status 1 0x16 1)
        | some f, some i =>
          if !formatOk lbaf (dps % 8) then complete s cmd 0 0 (status 1 0x0A 1)
          else if size ≠ cap then complete s cmd 0 0 (status 1 0x1B 1)
          else if size = 0 then complete s cmd 0 0 stInvalidField
          else if userBytes < usedBytes s + size * f.1 then complete s cmd 0 0 (status 1 0x15 1)
          else
            let n : Namespace := {
              blocks := size, lba := f.1, mdBytes := f.2, extended := natBit flbas 4, prot := dps % 8, protFirst := natBit dps 3
              formatIdx := lbaf, shared := natBit (fieldAt data 30 1) 0, key := s.med.keys + 1 }
            let s := updMed { s with nss := tabSet s.nss (i + 1) n } (fun m => { m with keys := m.keys + 1 })
            complete s cmd (i + 1) 0 0
      | 1 =>
        if nsid = 0xFFFFFFFF then complete ((tabKeys s.nss).foldl deleteNs s) cmd 0 0 0
        else if (getNs s nsid).isNone then complete s cmd 0 0 stInvalidNamespace
        else complete (deleteNs s nsid) cmd 0 0 0
      | _ => complete s cmd 0 0 stInvalidField)

/-- Namespace Attachment, for controller p (R424): sel 0 attaches, sel 1 detaches, for the controllers of a list. -/
def nsAttachBy (cmd : CmdRef) (p : Nat) (sel : Fin 16) (nsid : Nat) (ctrls : List Nat) (s : Block) : Block :=
  onMgr s cmd (fun s =>
    let s := takeData s cmd 4096
    match getNs s nsid with
    | none => complete s cmd 0 0 stInvalidNamespace
    | some n =>
      let att := attachedTo s nsid
      if ctrls.isEmpty || ctrls.any (fun p => Nat.ble 4 p) then complete s cmd 0 0 (status 1 0x1C 1)
      else
        match sel.val with
        | 0 =>
          if ctrls.any (fun p => att.contains p) then complete s cmd 0 0 (status 1 0x18 1)
          else if !n.shared && Nat.blt 1 (att.length + ctrls.length) then complete s cmd 0 0 (status 1 0x19 1)
          else
            let s := ctrls.foldl (fun s p => updCtl s p (fun c => { c with attached := c.attached ++ [nsid] })) s
            complete (noteNsChange s nsid (ctrls.filter (fun q => q ≠ p))) cmd 0 0 0
        | 1 =>
          if ctrls.any (fun p => !att.contains p) then complete s cmd 0 0 (status 1 0x1A 1)
          else
            let s := ctrls.foldl (fun s p => updCtl s p (fun c => { c with attached := c.attached.filter (fun m => m ≠ nsid) })) s
            complete (noteNsChange s nsid (ctrls.filter (fun q => q ≠ p))) cmd 0 0 0
        | _ => complete s cmd 0 0 stInvalidField)

/-- SANITIZE. -/
def doSanitize (cmd : CmdRef) (action : Fin 8) (s : Block) : Block := sanitizeBy cmd action s
/-- FORMAT_NVM. -/
def doFormatNvm (cmd : CmdRef) (nsid : Nat) (lbaf : Fin 16) (ext : Bool) (pi : Fin 8) (pil : Bool) (ses : Fin 8) (s : Block) : Block :=
  formatBy cmd cmd.ctrl nsid lbaf ext pi pil ses s
/-- NAMESPACE_MANAGEMENT. -/
def doNamespaceManagement (cmd : CmdRef) (sel : Fin 16) (nsid : Nat) (data : List Byte) (s : Block) : Block := nsManageBy cmd sel nsid data s
/-- NAMESPACE_ATTACHMENT. -/
def doNamespaceAttachment (cmd : CmdRef) (sel : Fin 16) (nsid : Nat) (ctrls : List Nat) (s : Block) : Block :=
  nsAttachBy cmd cmd.ctrl sel nsid ctrls s

end Sys2Proof.Machine
end

