-- ==== Sys2Proof/Machine/Queues.lean ====
section
/-! DEFINITION. Queues: doorbells, arbitration, tags and fetch (R428 to R432), interrupts (R433), queue and event commands (R424, R429,
R469), staging and the staging window (R35, R437). -/
namespace Sys2Proof.Machine

/-! Doorbells (R428, R432). -/

/-- An invalid doorbell write is ignored and reported: information 0 for a register of no queue, 1 for a value out of range. -/
def badDoorbell (s : Block) (p info : Nat) : Block := postRaw s p ⟨0, info, 1⟩

/-- The submission queues of a controller that serve: the admin queue has number 0. -/
def sqAvail (q : SubQ) : Nat := (q.tail + q.size - q.head) % max 1 q.size

/-- SQ_TAIL_DOORBELL (R432): the tail makes commands available for fetch. -/
def doSqTailDoorbell (p : PortNo) (y : Fin 4097) (tail : BitVec 16) (s : Block) : Block :=
  let c := getCtl s p
  if !c.rdy then s
  else
    match tabFind c.sqs y with
    | none => badDoorbell s p 0
    | some q =>
      if q.size ≤ tail.toNat then badDoorbell s p 1
      else updCtl s p (fun c => { c with sqs := tabSet c.sqs y { q with tail := tail.toNat } })

/-- Entries that wait for room are posted, in order, until there is none. -/
def drainCq (s : Block) (p q : Nat) : Nat → Block
  | 0 => s
  | n + 1 =>
    match tabFind (getCtl s p).cqs q with
    | none => s
    | some cq =>
      match cq.waiting with
      | [] => s
      | e :: rest =>
        if cq.used + 1 < cq.size then
          let s := updCtl s p (fun c => { c with cqs := tabSet c.cqs q { cq with waiting := [] } })
          let s := postEntry s e
          let s := updCtl s p (fun c => { c with cqs := tabMap (fun k x => if k = q then { x with waiting := rest } else x) c.cqs })
          drainCq s p q n
        else s

/-- CQ_HEAD_DOORBELL (R428, R433): the head frees entries, and entries that waited for room follow. -/
def doCqHeadDoorbell (p : PortNo) (y : Fin 4097) (head : BitVec 16) (s : Block) : Block :=
  let c := getCtl s p
  if !c.rdy then s
  else
    match tabFind c.cqs y with
    | none => badDoorbell s p 0
    | some q =>
      let n := (head.toNat + q.size - q.head) % max 1 q.size
      if q.size ≤ head.toNat ∨ q.used < n then badDoorbell s p 1
      else
        let s := updCtl s p (fun c => { c with cqs := tabSet c.cqs y { q with head := head.toNat, used := q.used - n } })
        drainCq s p y (q.waiting.length + 1)

/-! Tags (R3, R431). -/

/-- I/O commands of a controller that hold tags, and its admin commands. -/
def ioTags (c : Controller) : Nat := (c.cmds.filter (fun f => f.cmd.sqid ≠ 0)).length
def adminTags (c : Controller) : Nat := (c.cmds.filter (fun f => f.cmd.sqid = 0)).length

/-- Shared tags in use. -/
def sharedUsed (s : Block) : Nat := sumNat ((List.range 4).map (fun p => ioTags (getCtl s p) - 2048))

/-- Whether a controller can have a tag for an I/O command. -/
def tagFree (s : Block) (p : Nat) : Bool :=
  decide (ioTags (getCtl s p) < 2048) || decide (sharedUsed s < 131072 - 2048 * activePorts s)

/-! Arbitration (R430; presumed from NVMe where R430 refers to it, log entry 29). -/

/-- Feature 0x01: the burst, and the weights of the high, medium and low classes. -/
def arbBurst (c : Controller) : Nat := let b := natBits (tabGet 0 c.feats 0x01) 0 3; if b = 7 then 65536 else 2 ^ b
def arbWeight (c : Controller) (cls : Nat) : Nat := natBits (tabGet 0 c.feats 0x01) (8 * (4 - cls)) 8 + 1

/-- The I/O queues of a class (0 urgent, 1 high, 2 medium, 3 low) that have commands to fetch, ascending. -/
def readySqs (c : Controller) (cls : Nat) : List Nat :=
  c.sqs.filterMap (fun e => if e.1 ≠ 0 ∧ e.2.prio = cls ∧ sqAvail e.2 ≠ 0 then some e.1 else none)

/-- The class that is served: urgent first, else the highest that has commands and credit; with no credit left, a new round begins. -/
def pickClass (c : Controller) : Option Nat :=
  if !(readySqs c 0).isEmpty then some 0
  else
    let has (k : Nat) : Bool := !(readySqs c k).isEmpty
    match [1, 2, 3].find? (fun k => has k && tabGet (arbWeight c k) c.credits k != 0) with
    | some k => some k
    | none => [1, 2, 3].find? has

/-- The submission queue that a controller is to fetch from next. io: whether it has a tag for an I/O command. -/
def pickSq (c : Controller) (io : Bool) : Option Nat :=
  if !c.rdy then none
  else if (tabFind c.sqs 0).any (fun q => sqAvail q != 0) && decide (adminTags c < 64) then some 0
  else if !io then none
  else
    match pickClass c with
    | none => none
    | some k =>
      let l := readySqs c k
      if c.burstLeft ≠ 0 ∧ l.contains c.burstSq then some c.burstSq
      else
        match l.find? (fun q => Nat.blt (tabGet 0 c.lastSq k) q) with
        | some q => some q
        | none => l.head?

/-- A controller's arbitration after a fetch from a queue. -/
def noteServed (c : Controller) (sq : Nat) : Controller :=
  match tabFind c.sqs sq with
  | none => c
  | some q =>
    let c := { c with sqs := tabSet c.sqs sq { q with head := (q.head + 1) % max 1 q.size } }
    if sq = 0 then c
    else
      let k := q.prio
      let left := if c.burstLeft ≠ 0 ∧ c.burstSq = sq then c.burstLeft - 1 else arbBurst c - 1
      let fresh := [1, 2, 3].all (fun i => (readySqs c i).isEmpty || tabGet (arbWeight c i) c.credits i == 0)
      let cr := if k = 0 then c.credits else
        let t := if fresh then [] else c.credits
        tabSet t k (tabGet (arbWeight c k) t k - 1)
      { c with credits := cr, lastSq := tabSet c.lastSq k sq, burstSq := sq, burstLeft := left }

/-- The controller that is served next: the one whose burst runs, else the next in turn that has something to fetch. -/
def pickCtl (s : Block) : Option (Nat × Nat) :=
  ((List.range 4).map (fun i => (s.nextCtl + i) % 4)).findSome? (fun p => (pickSq (getCtl s p) (tagFree s p)).map (fun q => (p, q)))

/-- A controller that has I/O commands and no tag for them has stopped fetching. -/
def ioStalled (s : Block) (p : Nat) : Bool :=
  let c := getCtl s p
  c.rdy && (pickClass c).isSome && !tagFree s p

/-- Notes which controllers have stopped fetching, or go on (NVE statistic 6). -/
def noteStalls (s : Block) : Block :=
  (List.range 4).foldl (fun s p =>
    match (getCtl s p).stalledSince, ioStalled s p with
    | none, true => updCtl s p (fun c => { c with stalledSince := some s.now })
    | some t, false => updCtl (bump s (pgNve p) 6 (s.now - t)) p (fun c => { c with stalledSince := none })
    | _, _ => s) s

/-- COMMAND_FETCH (R430 to R432): the next command in arbitration order is fetched and holds a tag: its identifier and opcode. -/
def doCommandFetch (cid : BitVec 16) (op : Byte) (s : Block) : Block :=
  match pickCtl s with
  | none => noteStalls s
  | some (p, sq) =>
    let cmd : CmdRef := ⟨p, sq, cid.toNat⟩
    if isOutstanding s cmd || s.hub.remove != .serving then s
    else
      let left := if p = s.nextCtl % 4 ∧ s.ctlBurst ≠ 0 then s.ctlBurst - 1 else arbBurst (getCtl s p) - 1
      let s := updCtl s p (fun c =>
        let c := noteServed c sq
        { c with cmds := c.cmds ++ [{ cmd := cmd, op := op.toNat, caps := (getRegD s pgHub 0x150 0).toNat }] })
      let s := { s with nextCtl := if left = 0 then (p + 1) % 4 else p, ctlBurst := left }
      let s := if s.low && sq != 0 then { s with hostResume := true } else s
      noteStalls (bump (bump s (pgNve p) 2 1) (pgNve p) 5 64)

/-- COALESCING_TIMER (R433): the aggregation time of a vector ends, and its interrupt is sent. -/
def doCoalescingTimer (p : PortNo) (v : Fin 2048) (s : Block) : Block :=
  if tabGet 0 (getCtl s p).coalescing v = 0 then s
  else emit (updCtl s p (fun c => { c with coalescing := tabErase c.coalescing v })) (.msix p v)

/-! Queue commands (R424, R429). -/

/-- One of the admin commands that the recovery loader serves too, for H0 (R594). A command is held while an activation hands service
over (R478). -/
def onBoot (s : Block) (cmd : CmdRef) (f : Block → Block) : Block :=
  onCmd s (decide (cmd.sqid = 0) && !(getCtl s cmd.ctrl).pp) cmd
    (fun s => if recovering s && cmd.ctrl != 0 then complete s cmd 0 0 stBadOpcode else f s)

/-- An admin command of a host controller that the recovery loader does not serve. -/
def onAdmin (s : Block) (cmd : CmdRef) (f : Block → Block) : Block :=
  onBoot s cmd (fun s => if recovering s then complete s cmd 0 0 stBadOpcode else f s)

/-- CREATE_IO_CQ: size is the number of entries. -/
def doCreateIoCq (cmd : CmdRef) (qid size vector : Nat) (ien : Bool) (s : Block) : Block :=
  onAdmin s cmd (fun s =>
    let c := getCtl s cmd.ctrl
    if qid = 0 ∨ 4096 < qid ∨ (tabFind c.cqs qid).isSome then complete s cmd 0 0 (status 1 0x01 1)
    else if size < 2 ∨ 65536 < size then complete s cmd 0 0 (status 1 0x02 1)
    else if ien ∧ 2048 ≤ vector then complete s cmd 0 0 (status 1 0x08 1)
    else
      let s := updCtl s cmd.ctrl (fun c => { c with cqs := tabSet c.cqs qid { size := size, vector := vector, ien := ien } })
      complete s cmd 0 0 0)

/-- CREATE_IO_SQ: prio 0 urgent to 3 low. -/
def doCreateIoSq (cmd : CmdRef) (qid size cq : Nat) (prio : Fin 4) (s : Block) : Block :=
  onAdmin s cmd (fun s =>
    let c := getCtl s cmd.ctrl
    if cq = 0 ∨ (tabFind c.cqs cq).isNone then complete s cmd 0 0 (status 1 0x00 1)
    else if qid = 0 ∨ 4096 < qid ∨ (tabFind c.sqs qid).isSome then complete s cmd 0 0 (status 1 0x01 1)
    else if size < 2 ∨ 65536 < size then complete s cmd 0 0 (status 1 0x02 1)
    else
      let s := updCtl s cmd.ctrl (fun c => { c with sqs := tabSet c.sqs qid { size := size, cq := cq, prio := prio } })
      complete s cmd 0 0 0)

/-- DELETE_IO_SQ: the commands of the queue complete as aborted by its deletion. -/
def doDeleteIoSq (cmd : CmdRef) (qid : Nat) (s : Block) : Block :=
  onAdmin s cmd (fun s =>
    let c := getCtl s cmd.ctrl
    if qid = 0 ∨ (tabFind c.sqs qid).isNone then complete s cmd 0 0 (status 1 0x01 1)
    else
      let gone := c.cmds.filter (fun f => f.cmd.sqid = qid)
      let s := gone.foldl (fun s f => complete s f.cmd 0 0 (status 0 0x08 0)) s
      complete (updCtl s cmd.ctrl (fun c => { c with sqs := tabErase c.sqs qid })) cmd 0 0 0)

/-- DELETE_IO_CQ: refused while a submission queue uses it. -/
def doDeleteIoCq (cmd : CmdRef) (qid : Nat) (s : Block) : Block :=
  onAdmin s cmd (fun s =>
    let c := getCtl s cmd.ctrl
    if qid = 0 ∨ (tabFind c.cqs qid).isNone then complete s cmd 0 0 (status 1 0x01 1)
    else if c.sqs.any (fun e => e.1 != 0 && e.2.cq == qid) then complete s cmd 0 0 (status 1 0x0C 1)
    else complete (updCtl s cmd.ctrl (fun c => { c with cqs := tabErase c.cqs qid })) cmd 0 0 0)

/-- DOORBELL_BUFFER_CONFIG (R424). -/
def doDoorbellBufferConfig (cmd : CmdRef) (s : Block) : Block :=
  onAdmin s cmd (fun s => complete (updCtl s cmd.ctrl (fun c => { c with shadowDoorbells := true })) cmd 0 0 0)

/-- ASYNC_EVENT_REQUEST (R469): at most 16 are outstanding; an event that waits completes it at once. -/
def doAsyncEventRequest (cmd : CmdRef) (s : Block) : Block :=
  onAdmin s cmd (fun s =>
    let q := getEvt s cmd.ctrl
    match q.queued with
    | e :: rest =>
      let s := updEvt s cmd.ctrl (fun q => { q with queued := rest, reported := q.reported ++ [e] })
      bump (complete s cmd (eventDw0 e) 0 0) (pgNve cmd.ctrl) 7 1
    | [] =>
      if 16 ≤ q.aers.length then complete s cmd 0 0 (status 1 0x05 1)
      else updEvt s cmd.ctrl (fun q => { q with aers := q.aers ++ [cmd] }))

/-! Staging (R35, R437). -/

/-- Whether a device-memory page is lent to an open context (R439). -/
def pageLent (s : Block) (g : Nat) : Bool :=
  s.ctxs.any (fun e => (e.2.pages.zipIdx).any (fun q => q.1 == g && (lentIndex e.2 q.2).isSome))

/-- The lowest index from which n are free on the module, within 2^23 (log entry 30). -/
def freeIndex (s : Block) (n : Nat) : Nat → Nat → Option Nat
  | 0, _ => none
  | fuel + 1, i =>
    match (List.range n).reverse.find? (fun j => (stagingOwner s (i + j)).isSome) with
    | some j => freeIndex s n fuel (i + j + 1)
    | none => if i + n ≤ 8388608 then some i else none

/-- Zeroised pages in all. -/
def cleanPages (s : Block) : Nat := (s.pageUse.filter (fun e => match e.2 with
  | .clean => true
  | _ => false)).length

/-- STAGING_ALLOCATE (R437). -/
def doStagingAllocate (cmd : CmdRef) (n : Nat) (s : Block) : Block :=
  onCmd s (computeReady s) cmd (fun s =>
    if n = 0 then complete s cmd 0 0 stInvalidField
    else if cleanPages s < n then complete s cmd 0 0 (vend 0x24 0)
    else
      match freeIndex s n (s.pageUse.length + 1) 0 with
      | none => complete s cmd 0 0 (vend 0x24 0)
      | some i =>
        let s := (List.range n).foldl (fun s j =>
          match takePage s none with
          | (s, some g) => updCtl s cmd.ctrl (fun c => { c with staging := tabSet c.staging (i + j) g })
          | (s, none) => s) s
        complete s cmd i 0 0)

/-- Takes staging indexes from a port: scans that read them stop (R552), their pages are released, and map entries that name them are
emptied. -/
def freeStaging (s : Block) (p : Nat) (l : List Nat) : Block :=
  let s := cutScans s p l
  let c := getCtl s p
  let s := releasePages s (l.filterMap (fun i => tabFind c.staging i))
  updCtl s p (fun c => { c with
    staging := c.staging.filter (fun e => !l.contains e.1), map := c.map.filter (fun e => !l.contains (e.2 / 512)) })

/-- STAGING_RELEASE (R437). A page that is lent to an open context is not released (log entry 31). -/
def doStagingRelease (cmd : CmdRef) (first n : Nat) (s : Block) : Block :=
  onCmd s (computeReady s) cmd (fun s =>
    let l := (List.range n).map (fun i => first + i)
    match l.findSome? (stagingStatus s cmd.ctrl) with
    | some st => complete s cmd 0 0 st
    | none =>
      if l.any (fun i => (tabFind (getCtl s cmd.ctrl).staging i).any (pageLent s)) then complete s cmd 0 0 (vend 0x04 0)
      else complete (freeStaging s cmd.ctrl l) cmd 0 0 0)

/-- Applies map entries in order: the state, and the status of the first that cannot be applied. -/
def mapEntries (s : Block) (p : Nat) : List (Nat × Nat) → Block × Nat
  | [] => (s, 0)
  | (w, t) :: rest =>
    if 4194304 ≤ w then (s, vend 0x41 1)
    else if t = 0xFFFFFFFF then mapEntries (updCtl s p (fun c => { c with map := tabErase c.map w })) p rest
    else
      match stagingStatus s p (t / 512) with
      | some st => (s, st)
      | none => mapEntries (updCtl s p (fun c => { c with map := tabSet c.map w t })) p rest

/-- STAGING_MAP (R437): entries of window page and target. -/
def doStagingMap (cmd : CmdRef) (entries : List (Word × Word)) (s : Block) : Block :=
  onCmd s (computeReady s) cmd (fun s =>
    let s := takeData s cmd (8 * entries.length)
    if 262144 < entries.length then complete s cmd 0 0 stInvalidField
    else
      let r := mapEntries s cmd.ctrl (entries.map (fun e => (e.1.toNat, e.2.toNat)))
      complete r.1 cmd 0 0 r.2)

/-- The physical address behind a window offset of a port: none for an empty entry, or a page the port does not have to itself. -/
def windowAddr (s : Block) (p o : Nat) : Option Nat :=
  let c := getCtl s p
  (tabFind c.map (o / 4096)).bind (fun t => (tabFind c.staging (t / 512)).bind (fun g =>
    if pageLent s g then none else some (g * pageBytes + t % 512 * 4096 + o % 4096)))

/-- The host of a port as a writer. -/
def hostWriter (p : Nat) : Writer := ⟨masterOfPort p, 0⟩

/-- BAR4_READ (R35, R562, R619): n bytes within one 4 KiB page of the window. -/
def doBar4Read (p : PortNo) (o : Nat) (n : Fin 4097) (s : Block) : Block :=
  if 4096 < o % 4096 + n.val ∨ n.val = 0 then s
  else
    match (if computeReady s then windowAddr s p o else none) with
    | none => emit (bump s pgHub 3 1) (.readData (hostWriter p) o n 0)
    | some a =>
      let r := dmReadLines s (linesOf a n) ⟨5, none⟩
      if r.2.isSome then emit r.1 (.readError (hostWriter p) o true)
      else emit r.1 (.readData (hostWriter p) o n (leNat (memBytes 0 r.1.dm a n)))

/-- BAR4_WRITE (R35, R562): bytes within one 4 KiB page of the window. A narrower write to an uncorrectable line is dropped and counted. -/
def doBar4Write (p : PortNo) (o : Nat) (b : List Byte) (s : Block) : Block :=
  if 4096 < o % 4096 + b.length ∨ b.length = 0 then s
  else
    match (if computeReady s then windowAddr s p o else none) with
    | none => bump s pgHub 3 1
    | some a =>
      let r := dmWriteBytes s a b ⟨5, none⟩
      if r.2.isSome then bump r.1 pgHub 4 1 else r.1

/-! Register values of the controllers (R33, R424, R428), and of the NVE pages (R434). -/

/-- The controller registers of BAR0 as R424 and R619 give them: CAP, VS, and what they say of CC and CSTS; none where the spec leaves a register to
NVMe Base 2.0c. No row of the table reads them: a host sees them beside the commands. -/
def nvmeReg (s : Block) (p off : Nat) : Option Word :=
  let c := getCtl s p
  match off with
  | 0x00 => some (BitVec.ofNat 32 (60 * 2 ^ 24 + 1 * 2 ^ 17 + 1 * 2 ^ 16 + 0xFFFF))
  | 0x04 => some (BitVec.ofNat 32 (4 * 2 ^ 20 + 1 * 2 ^ 5))
  | 0x08 => some 0x00020000
  | 0x14 => some (BitVec.ofNat 32 (boolNat c.en))
  | 0x1C => some (BitVec.ofNat 32 (boolNat c.pp * 2 ^ 5 + boolNat c.rdy))
  | _ => none

def rateCode (c : Controller) : Nat := c.rate

def nveValue (s : Block) (p off : Nat) : Option Word :=
  let c := getCtl s p
  if activePorts s ≤ p then (if off < 0x110 ∧ 0x100 ≤ off then some 0 else none)
  else
    match off with
    | 0x100 => some (BitVec.ofNat 32 (c.rate * 2 ^ 28 + c.width * 2 ^ 23 + boolNat c.flit * 2 ^ 22 + (match c.dstate with
        | .d0 => 0
        | .d3hot => 1
        | .d3cold => 2) * 2 ^ 20 + powerState c * 2 ^ 18 + boolNat c.rdy))
    | 0x104 => some (BitVec.ofNat 32 ((c.sqs.filter (fun e => e.1 ≠ 0)).length * 2 ^ 16 + (c.cqs.filter (fun e => e.1 ≠ 0)).length))
    | 0x108 => some (BitVec.ofNat 32 (ioTags c * 2 ^ 14 + (2048 - ioTags c)))
    | 0x10C => some (BitVec.ofNat 32 (boolNat (ioStalled s p) * 2 ^ 31))
    | _ => none

end Sys2Proof.Machine
end

