-- ==== Sys2Proof/Machine/SearchOps.lean ====
section
/-! DEFINITION. SearchOps: the stored form of an index (R278 to R282, R436), scores (R283 to R286), what a query returns (R287 to R293)
and visibility (R301). -/
namespace Sys2Proof.Machine

/-! Shapes (R277 to R279, R436). -/

def kcOf (h : IShape) : Nat := if h.codeBits = 8 then 256 else 16
def dsubOf (h : IShape) : Nat := h.dim / max 1 h.m
/-- Code length in bytes. -/
def cbOf (h : IShape) : Nat := h.m * h.codeBits / 8
def fmtBytes (f : Nat) : Nat := if f = 0x21 then 2 else 4

/-- The shape that a header holds. -/
def parseShape (b : List Byte) : IShape :=
  { metric := fieldAt b 6 1, codeBits := fieldAt b 7 1, dim := fieldAt b 8 4, m := fieldAt b 12 4, nlist := fieldAt b 16 4
    centFmt := fieldAt b 0x14 1, rawFmt := fieldAt b 0x15 1, rawKind := fieldAt b 0x16 1, mergeAt := fieldAt b 0x17 1
    rawBase := fieldAt b 0x30 8, rawNs := fieldAt b 0x38 4, rawStride := fieldAt b 0x3C 4, driftCap := fieldAt b 0x40 4
    tombCap := fieldAt b 0x44 4 }

/-- Whether a shape is one that an index may have; rawBlock: the block size of the raw namespace (R278, R279). -/
def shapeOk (h : IShape) (rawBlock : Option Nat) : Bool :=
  decide (h.metric ≤ 2) && (h.codeBits == 4 || h.codeBits == 8) && decide (8 ≤ h.dim) && decide (h.dim ≤ 4096) &&
    decide (1 ≤ h.m) && h.dim % max 1 h.m == 0 && decide (dsubOf h ≤ 256) &&
    (if h.codeBits = 8 then decide (h.m ≤ 32) else decide (2 ≤ h.m) && decide (h.m ≤ 512) && h.m % 2 == 0) &&
    decide (1 ≤ h.nlist) && decide (h.nlist ≤ 1048576) && (h.centFmt == 0x20 || h.centFmt == 0x21) &&
    (h.rawFmt == 0x20 || h.rawFmt == 0x21) && decide (h.rawKind ≤ 2) && decide (1 ≤ h.mergeAt) && decide (h.mergeAt ≤ 100) &&
    decide (h.dim * fmtBytes h.rawFmt ≤ h.rawStride) &&
    (h.rawKind != 2 || rawBlock.any (fun n => h.rawStride % max 1 n == 0 || n % max 1 h.rawStride == 0)) &&
    decide (1024 ≤ h.driftCap) && decide (h.driftCap ≤ 134217728) && decide (1024 ≤ h.tombCap) && decide (h.tombCap ≤ 16777216)

def up4096 (n : Nat) : Nat := roundUp n 4096
def centBytes (h : IShape) : Nat := h.nlist * h.dim * fmtBytes h.centFmt
def bookBytes (h : IShape) : Nat := h.m * kcOf h * dsubOf h * 4
def journalBytes (h : IShape) : Nat := h.driftCap * roundUp (24 + cbOf h) 8 + h.tombCap * 16
/-- Where the parts of the persistent form begin. -/
def centOff (_h : IShape) : Nat := 4096
def bookOff (h : IShape) : Nat := centOff h + up4096 (centBytes h)
def dirOff (h : IShape) : Nat := bookOff h + up4096 (bookBytes h)
def journalOff (h : IShape) : Nat := dirOff h + up4096 (h.nlist * 32)
def listsOff (h : IShape) : Nat := journalOff h + up4096 (journalBytes h)
/-- The capacity of an index in a namespace of n bytes (R436). -/
def indexCapacity (h : IShape) (n : Nat) : Nat :=
  (n - listsOff h - h.nlist * 1536) / (cbOf h + 12 + if h.rawKind = 1 then h.rawStride else 0)

/-! Bytes of a namespace. -/

def nsBytes (n : Namespace) : Nat := n.blocks * n.lba

/-- Reads bytes of a namespace; none if a block cannot be read. -/
def nsRead (s : Block) (nsid off len : Nat) : Block × Option (List Byte) :=
  match getNs s nsid with
  | none => (s, none)
  | some n =>
    let lo := off / max 1 n.lba
    let hi := (off + len + n.lba - 1) / max 1 n.lba
    if n.blocks < hi then (s, none)
    else
      match readData s nsid lo [] (hi - lo) with
      | (s, .inl b) => (s, some (bytesAt b (off - lo * n.lba) len))
      | (s, .inr _) => (s, none)

/-- Writes bytes of a namespace, block by block; the first and the last block are read if they are covered in part. The answer says whether
the bytes have been written. -/
def nsPut (s : Block) (nsid off : Nat) (b : List Byte) : Block × Bool :=
  match getNs s nsid with
  | none => (s, false)
  | some n =>
    if b.isEmpty then (s, true)
    else
      let l := max 1 n.lba
      let lo := off / l
      let hi := (off + b.length + l - 1) / l
      let head := off - lo * l
      let tail := hi * l - (off + b.length)
      if n.blocks < hi then (s, false)
      else
        let a := if head = 0 then (s, .inl []) else readData s nsid lo [] 1
        let z := if tail = 0 then (a.1, .inl []) else if head ≠ 0 ∧ hi = lo + 1 then a else readData a.1 nsid (hi - 1) [] 1
        match a.2, z.2 with
        | .inl x, .inl y => (putBlocks z.1 nsid lo (programBlocks n lo (x.take head ++ b ++ y.drop (l - tail))), true)
        | _, _ => (z.1, false)

def nsWrite (s : Block) (nsid off : Nat) (b : List Byte) : Block := (nsPut s nsid off b).1

/-! Codes and headers. -/

/-- The bytes of a code, and back (R281). -/
def codeBytes (h : IShape) (code : List Nat) : List Byte :=
  if h.codeBits = 8 then code.map (BitVec.ofNat 8)
  else (List.range (h.m / 2)).map (fun i => BitVec.ofNat 8 ((code[2 * i]?).getD 0 % 16 + (code[2 * i + 1]?).getD 0 % 16 * 16))
def codeOf (h : IShape) (b : List Byte) : List Nat :=
  if h.codeBits = 8 then b.map (fun x => x.toNat) else b.flatMap (fun x => [x.toNat % 16, x.toNat / 16])

/-- The elements of a format as FP32 encodings, and back. -/
def elemsOf (fmt : Nat) (b : List Byte) (n : Nat) : List Nat :=
  (List.range n).map (fun i => if fmt = 0x21 then fieldAt b (2 * i) 2 * 2 ^ 16 else fieldAt b (4 * i) 4)
def elemBytes (fmt : Nat) (l : List Nat) : List Byte :=
  l.flatMap (fun v => if fmt = 0x21 then leBytes 2 (fconvert .fp32 .bf16 v).val else leBytes 4 v)

/-- The header of an index (R278), with the offsets of the centroids, the codebooks and the directory. -/
def headerBytes (h : IShape) (cent book dir seq floor visible : Nat) : List Byte :=
  let b := leBytes 4 0x58444E56 ++ leBytes 2 1 ++ leBytes 1 h.metric ++ leBytes 1 h.codeBits ++ leBytes 4 h.dim ++ leBytes 4 h.m ++
    leBytes 4 h.nlist ++ leBytes 1 h.centFmt ++ leBytes 1 h.rawFmt ++ leBytes 1 h.rawKind ++ leBytes 1 h.mergeAt ++
    leBytes 8 cent ++ leBytes 8 book ++ leBytes 8 dir ++ leBytes 8 h.rawBase ++ leBytes 4 h.rawNs ++
    leBytes 4 h.rawStride ++ leBytes 4 h.driftCap ++ leBytes 4 h.tombCap ++ leBytes 8 seq ++ leBytes 8 floor ++ leBytes 8 visible ++
    zeroBytes 28
  b ++ leBytes 4 (crc32cOf b)

/-! Scores (R283 to R286). -/

def fdot (a b : List Nat) : Nat := (a.zip b).foldl (fun s e => (ffma .fp32 e.1 e.2 s).val) 0
def fnegSq (q c e : List Nat) : Nat :=
  let s := ((q.zip c).zip e).foldl (fun s x =>
    let u := (fsub .fp32 (fsub .fp32 x.1.1 x.1.2).val x.2).val
    (ffma .fp32 u u s).val) 0
  Nat.xor s (2 ^ 31)
def fzeros (n : Nat) : List Nat := List.replicate n 0

/-- A query or inserted vector as it is scored: none if it is not finite, or for cosine cannot be normalised (R286). -/
def prepVec (h : IShape) (v : List Nat) : Option (List Nat) :=
  if v.length ≠ h.dim ∨ v.any (fun x => fisNan .fp32 x || fisInf .fp32 x) then none
  else if h.metric ≠ 1 then some v
  else
    let d := fdot v v
    if feq .fp32 d 0 || fisInf .fp32 d || fisNan .fp32 d then none
    else
      let r := (frsq d).val
      let w := v.map (fun x => (fmul .fp32 x r).val)
      if w.any (fun x => fisNan .fp32 x || fisInf .fp32 x) then none else some w

def sliceOf (l : List Nat) (i n : Nat) : List Nat := (l.drop i).take n
def centroidOf (v : IView) (l : Nat) : List Nat := sliceOf v.centroids (l * v.shape.dim) v.shape.dim
def bookEntry (v : IView) (m j : Nat) : List Nat := sliceOf v.codebooks ((m * kcOf v.shape + j) * dsubOf v.shape) (dsubOf v.shape)

/-- Centroid score of a list (R285). -/
def centScore (v : IView) (q : List Nat) (l : Nat) : Nat :=
  if v.shape.metric = 2 then fnegSq q (centroidOf v l) (fzeros v.shape.dim) else fdot q (centroidOf v l)

/-- Whether score a comes before score b: larger first; the numbers break ties. -/
def scoreBefore (a b : Nat × Nat) : Bool := flt .fp32 b.1 a.1 || (feq .fp32 a.1 b.1 && decide (a.2 < b.2))

/-- The n lists with the highest centroid scores. -/
def bestLists (v : IView) (q : List Nat) (n : Nat) : List Nat :=
  let l := ((List.range v.shape.nlist).map (fun i => (centScore v q i, i))).filter (fun e => !fisNan .fp32 e.1)
  ((sortBy (fun a b => !scoreBefore b a) l).take n).map (·.2)

/-- The code of a vector in a list (R285). -/
def encodeVec (v : IView) (x : List Nat) (l : Nat) : List Nat :=
  let c := centroidOf v l
  let r := (x.zip c).map (fun e => (fsub .fp32 e.1 e.2).val)
  (List.range v.shape.m).map (fun m =>
    let rm := sliceOf r (m * dsubOf v.shape) (dsubOf v.shape)
    let dist (j : Nat) : Nat := Nat.xor (fnegSq rm (fzeros (dsubOf v.shape)) (bookEntry v m j)) (2 ^ 31)
    (List.range (kcOf v.shape)).foldl (fun best j => if flt .fp32 (dist j) (dist best) then j else best) 0)

/-- The score of a code by its list's table and bias (R243, R283, R284). -/
def codeScore (v : IView) (q : List Nat) (l : Nat) (code : List Nat) : Nat :=
  let n := dsubOf v.shape
  let c := centroidOf v l
  let t (m : Nat) : Nat :=
    let e := bookEntry v m ((code[m]?).getD 0)
    if v.shape.metric = 2 then fnegSq (sliceOf q (m * n) n) (sliceOf c (m * n) n) e else fdot (sliceOf q (m * n) n) e
  let d := (List.range v.shape.m).foldl (fun a m => (fadd .fp32 a (t m)).val) 0
  (fadd .fp32 d (if v.shape.metric = 2 then 0 else fdot q c)).val

/-- The score of a raw vector (R292). -/
def rawScore (h : IShape) (q x : List Nat) : Nat := if h.metric = 2 then fnegSq q (fzeros h.dim) x else fdot q x

/-! Visibility (R301). -/

/-- Whether a tombstone hides an identifier of a sequence number. -/
def hidden (tombs : List (Nat × Nat)) (id seq : Nat) : Bool := tombs.any (fun t => t.1 == id && decide (seq < t.2))

/-- A candidate: score, identifier, list, position, slot, and the flags EXACT and DRIFT. -/
structure Cand where
  score : Nat
  id : Nat
  list : Nat
  pos : Nat
  slot : Nat
  exact : Bool
  drift : Bool
  code : List Nat
  deriving DecidableEq, Repr

/-- The visible entries of a list, without scores. -/
def visibleOf (v : IView) (l : Nat) : List Cand :=
  let il := tabGet {} v.lists l
  let a := (il.entries.zipIdx).filterMap (fun e =>
    if hidden v.tombs e.1.id il.cut then none else some ⟨0, e.1.id, l, e.2, e.1.slot, false, false, e.1.code⟩)
  let d := ((v.drift.filter (fun d => d.list == l)).zipIdx).filterMap (fun e =>
    if hidden v.tombs e.1.entry.id e.1.seq then none
    else some ⟨0, e.1.entry.id, l, il.entries.length + e.2, e.1.entry.slot, false, true, e.1.entry.code⟩)
  a ++ d

/-- Every visible entry. -/
def visibleAll (v : IView) : List Cand := (List.range v.shape.nlist).flatMap (visibleOf v)

/-- The order of R288: score descending, then identifier, list, position. -/
def candBefore (a b : Cand) : Bool :=
  flt .fp32 b.score a.score || (feq .fp32 a.score b.score &&
    (decide (a.id < b.id) || (a.id == b.id && (decide (a.list < b.list) || (a.list == b.list && decide (a.pos < b.pos))))))

/-! Raw vectors (R282, R292). -/

/-- The namespace that a slot number of the search context stands for: that of the same NSID (log entry 34). -/
def rawNsid (h : IShape) : Nat := h.rawNs

/-- The raw vector of a slot as FP32 encodings, from the device memory of search context x or from the raw namespace; none if it cannot be
read. The read records a loss (R292). -/
def rawVec (s : Block) (x : Nat) (h : IShape) (slot : Nat) : Block × Option (List Nat) :=
  let n := h.dim * fmtBytes h.rawFmt
  match h.rawKind with
  | 1 =>
    let a := dmBase + h.rawBase + slot * h.rawStride
    let r := seatCheck s (.saved x 0) a n 1
    (r.1, if r.2 then none else some (elemsOf h.rawFmt (seatRead r.1 (.saved x 0) a n) h.dim))
  | 2 =>
    match getNs s (rawNsid h) with
    | none => (s, none)
    | some x =>
      let r := nsRead s (rawNsid h) (h.rawBase * x.lba + slot * h.rawStride) n
      (r.1, r.2.map (fun b => elemsOf h.rawFmt b h.dim))
  | _ => (s, none)

/-- The raw vectors of slots, each read once; those that cannot be read are left out. -/
def readRaws (s : Block) (x : Nat) (h : IShape) (slots : List Nat) : Block × Tab (List Nat) :=
  slots.foldl (fun (r : Block × Tab (List Nat)) k =>
    match rawVec r.1 x h k with
    | (s, some v) => (s, tabSet r.2 k v)
    | (s, none) => (s, r.2)) (s, [])

/-- Scores candidates from their raw vectors: the scored ones, and how many came out NaN or could not be read. -/
def exactScores (h : IShape) (q : List Nat) (raws : Tab (List Nat)) (cs : List Cand) : List Cand × Nat :=
  let l := cs.map (fun c => (c, (tabFind raws c.slot).map (rawScore h q)))
  let good := l.filterMap (fun e => e.2.bind (fun sc => if fisNan .fp32 sc then none else some { e.1 with score := sc, exact := true }))
  (good, l.length - good.length)

/-- The score of a candidate by its code. A code that lies in a line that cannot be corrected has a free score (log entry 144); unread: the
positions of such codes, by list. -/
def scoreOf (s : Block) (v : IView) (unread : List (Nat × Nat)) (q : List Nat) (c : Cand) : Nat :=
  if unread.contains (c.list, c.pos) then (Config.freeWord (s.fresh + c.list * 2 ^ 24 + c.pos)).toNat else codeScore v q c.list c.code

/-- The answer to a query: COUNT, SCORED, NAN_COUNT and the entries (R285, R288, R290, R293). raws: the raw vectors that the exact queries of
the window have read between them. -/
def answerQuery (s : Block) (x : Nat) (v : IView) (raws : Tab (List Nat)) (unread : List (Nat × Nat)) (q : IQuery) :
    Block × (Nat × Nat × Nat × List Cand) :=
  let h := v.shape
  let le (a b : Cand) : Bool := !candBefore b a
  if q.exact then
    let r := exactScores h q.vec raws (visibleAll v)
    let keep := if q.range then r.1.filter (fun c => flt .fp32 q.thresh c.score) else r.1
    (s, (keep.length, r.1.length, r.2, (sortBy le keep).take q.k))
  else
    let all := ((bestLists v q.given q.nprobe).flatMap (visibleOf v)).map (fun c => { c with score := scoreOf s v unread q.vec c })
    let good := all.filter (fun c => !fisNan .fp32 c.score)
    let nan := all.length - good.length
    let keep := if q.range then good.filter (fun c => flt .fp32 q.thresh c.score) else good
    let sorted := sortBy le keep
    if q.rerank = 0 then (s, (keep.length, good.length, nan, sorted.take q.k))
    else
      let top := sorted.take q.rerank
      let w := readRaws s x h (top.map (·.slot))
      let r := exactScores h q.vec w.2 top
      (w.1, (keep.length, good.length, nan + r.2, (sortBy le r.1).take q.k))

/-- The result block of a query (R441). -/
def resultBlock (st count scored nan windowQueries close k : Nat) (cs : List Cand) : List Byte :=
  let sat (n : Nat) : List Byte := leBytes 4 (min 0xFFFFFFFF n)
  padTo (roundUp (32 + 16 * k) 64) (leBytes 1 st ++ zeroBytes 3 ++ sat count ++ sat scored ++ sat nan ++ leBytes 4 windowQueries ++
    leBytes 4 cs.length ++ leBytes 8 close ++
    cs.flatMap (fun c => leBytes 8 c.id ++ leBytes 4 c.score ++ leBytes 2 (boolNat c.exact + 2 * boolNat c.drift) ++ zeroBytes 2))

end Sys2Proof.Machine
end

