-- ==== Sys2Proof/Machine/SearchMem.lean ====
section
/-! DEFINITION. SearchMem: an attached index in the device memory of its search context (R277, R278, R280 to R282, R298, R302), the program
image of that context (R277, R474), and what the scan of a window reads (R296). -/
namespace Sys2Proof.Machine

def getIdx (s : Block) (x : Nat) : Option SIndex := tabFind s.idxs x
def setIdx (s : Block) (x : Nat) (i : SIndex) : Block := { s with idxs := tabSet s.idxs x i }
def updIdx (s : Block) (x : Nat) (f : SIndex → SIndex) : Block :=
  match tabFind s.idxs x with
  | some i => setIdx s x (f i)
  | none => s

/-! List payloads (R281). -/

/-- Where the three arrays of a list payload begin, after its offset, and the payload's bytes. -/
def idAt (h : IShape) (n : Nat) : Nat := roundUp (n * cbOf h) 512
def slotAt (h : IShape) (n : Nat) : Nat := idAt h n + roundUp (8 * n) 512
def payloadBytes (h : IShape) (n : Nat) : Nat := slotAt h n + roundUp (4 * n) 512

/-- A list payload. -/
def payload (h : IShape) (es : List IEntry) : List Byte :=
  padTo (idAt h es.length) (es.flatMap (fun e => codeBytes h e.code)) ++
    padTo (roundUp (8 * es.length) 512) (es.flatMap (fun e => leBytes 8 e.id)) ++
    padTo (roundUp (4 * es.length) 512) (es.flatMap (fun e => leBytes 4 e.slot))

/-- A directory entry (R280): payload offset, list, drift entries not folded, first drift page. -/
def dirEntry (off : Nat) (l : IList) (drift head : Nat) : List Byte :=
  leBytes 8 off ++ leBytes 4 l.entries.length ++ leBytes 4 l.version ++ leBytes 8 l.cut ++ leBytes 4 drift ++ leBytes 4 head

/-- The greatest COUNT of a list (R280). -/
def maxCount : Nat := 16777215

/-! Drift pages (R298). -/

def driftPageBytes : Nat := 4096
def driftHeadBytes : Nat := 64
/-- Bytes of a drift entry, and entries of a page. -/
def driftEntryBytes (h : IShape) : Nat := roundUp (24 + cbOf h) 8
def perPage (h : IShape) : Nat := (driftPageBytes - driftHeadBytes) / driftEntryBytes h
/-- The index that stands for no page. -/
def noPage : Nat := 0xFFFFFFFF

/-- A drift entry's bytes, and a drift page's header. -/
def driftBytes (h : IShape) (d : Drift) : List Byte :=
  padTo (driftEntryBytes h) (leBytes 8 d.seq ++ leBytes 8 d.entry.id ++ leBytes 4 d.entry.slot ++ zeroBytes 4 ++ codeBytes h d.entry.code)
def driftHead (list next used : Nat) : List Byte := padTo driftHeadBytes (leBytes 4 list ++ leBytes 4 next ++ leBytes 2 used)

/-- The pages of a chain as they stand in device memory: window offset and bytes. A page's index is its offset in pages (log entry 145). -/
def chainPieces (h : IShape) (list : Nat) : List DriftPage → List (Nat × List Byte)
  | [] => []
  | p :: ps => (p.index * driftPageBytes,
      driftHead list ((ps.head?.map (·.index)).getD noPage) p.entries.length ++ p.entries.flatMap (driftBytes h)) :: chainPieces h list ps

/-! Where things lie (R277, R302; log entry 145). -/

/-- The stretches of device memory that an index takes: offset and bytes. -/
def extents (i : SIndex) : List (Nat × Nat) :=
  let v := i.view
  let h := v.shape
  [(0, 4096), (i.cent, up4096 (centBytes h)), (i.book, up4096 (bookBytes h)), (i.dir, up4096 (h.nlist * 32))] ++
    (if h.rawKind = 1 then [(h.rawBase, i.rawLen)] else []) ++
    v.lists.map (fun e => (e.2.offset, payloadBytes h e.2.entries.length)) ++
    v.chains.flatMap (fun e => e.2.map (fun p => (p.index * driftPageBytes, driftPageBytes))) ++ i.olds

/-- The lowest aligned offset behind a stretch in use at which some bytes find room below the window's end; none if there is none. -/
def freeAt (used : List (Nat × Nat)) (top len align : Nat) : Option Nat :=
  (sortBy (fun a b => Nat.ble a b) (used.map (fun e => roundUp (e.1 + e.2) align))).find? (fun a =>
    decide (a + len ≤ top) && used.all (fun e => e.2 == 0 || decide (e.1 + e.2 ≤ a) || decide (a + len ≤ e.1)))

/-- Offsets for several pieces, each with its bytes and alignment, one after another. -/
def freeAll (used : List (Nat × Nat)) (top : Nat) : List (Nat × Nat) → Option (List Nat)
  | [] => some []
  | (len, align) :: rest =>
    match freeAt used top len align with
    | none => none
    | some a => (freeAll ((a, len) :: used) top rest).map (fun l => a :: l)

/-- The window bytes of a search context. -/
def windowTop (s : Block) (x : Nat) : Nat := (getCtx s x).image.devBytes

/-- Appends a drift entry to its list's chain, in a new page where the last one is full; none if no page finds room. -/
def placeDrift (top : Nat) (i : SIndex) (d : Drift) : Option SIndex :=
  let h := i.view.shape
  let chain := tabGet [] i.view.chains d.list
  let put (c : List DriftPage) : SIndex := { i with view := { i.view with
    drift := i.view.drift ++ [d], chains := tabSet i.view.chains d.list c } }
  let fresh := (freeAt (extents i) top driftPageBytes driftPageBytes).map (fun a => put (chain ++ [⟨a / driftPageBytes, [d]⟩]))
  match chain.getLast? with
  | some p => if p.entries.length < perPage h then some (put (chain.dropLast ++ [{ p with entries := p.entries ++ [d] }])) else fresh
  | none => fresh

/-- The directory entry of list l as device memory holds it. -/
def dirNow (i : SIndex) (l : Nat) : List Byte :=
  let il := tabGet {} i.view.lists l
  dirEntry il.offset il (i.view.drift.filter (fun d => d.list == l)).length
    (((tabGet [] i.view.chains l).head?.map (·.index)).getD noPage)

/-- The header as device memory holds it. -/
def headNow (i : SIndex) : List Byte := headerBytes i.view.shape i.cent i.book i.dir i.seq i.mergeFloor i.visible

/-- Everything of an index but the raw store, as device memory holds it: window offset and bytes. -/
def indexPieces (i : SIndex) : List (Nat × List Byte) :=
  let v := i.view
  let h := v.shape
  [(0, headNow i), (i.cent, elemBytes h.centFmt v.centroids), (i.book, elemBytes 0x20 v.codebooks)] ++
    (List.range h.nlist).map (fun l => (i.dir + 32 * l, dirNow i l)) ++
    v.lists.map (fun e => (e.2.offset, payload h e.2.entries)) ++
    v.chains.flatMap (fun e => chainPieces h e.1 e.2)

/-- Writes pieces into the device memory of a search context. -/
def writePieces (s : Block) (x : Nat) (l : List (Nat × List Byte)) : Block := l.foldl (fun s p => windowWrite s x p.1 p.2) s

/-- The header follows the index (R278). -/
def writeHead (s : Block) (x : Nat) (i : SIndex) : Block := windowWrite s x 0 (headNow i)

/-- The pieces that a drift entry of a list changes: the last page, the header of the page before it, and the directory entry. -/
def driftPieces (i : SIndex) (list : Nat) : List (Nat × List Byte) :=
  let l := chainPieces i.view.shape list (tabGet [] i.view.chains list)
  l.drop (l.length - 2) ++ [(i.dir + 32 * list, dirNow i list)]

/-! The search program (R277, R474). -/

/-- A byte of the slot that runs. -/
def runningByte (s : Block) (o : Nat) : Byte :=
  match tabFind s.adm.slots s.adm.active with
  | some im => byteAt im.bytes o
  | none => Config.shippedFlash o

/-- The revision of a slot: none if it is empty (R475). Slot 1 is shipped with an image, slot 2 without. -/
def slotFr (s : Block) (i : Nat) : Option (List Byte) :=
  match tabFind s.adm.slots i with
  | some im => some (padTo 8 im.fr)
  | none => if i = 1 ∧ !s.adm.shippedGone then some ((List.range 8).map Config.shippedFr) else none

/-- The program image of search contexts, out of the firmware that runs. -/
def searchImage (s : Block) : Image :=
  let p := Config.searchAt ((slotFr s s.adm.active).getD [])
  parseImage ((List.range p.2).map (fun i => runningByte s (p.1 + i)))

/-- The command that stands for the module itself in the runs of search context x: no queue can hold it. -/
def searchCmd (x : Nat) : CmdRef := ⟨0, 2 ^ 32 + x, 0⟩

/-- The search context runs its program, if it is not running: the run waits for cores as any other does (R277; log entry 143). -/
def searchGo (s : Block) (x : Nat) : Block :=
  let cx := getCtx s x
  if cx.run.isSome || !cx.queue.isEmpty || cx.closing then s
  else
    let s := { s with nextCompute := s.nextCompute + 1 }
    nextRun (updCtx s x (fun cx => { cx with queue := [⟨searchCmd x, s.now, s.nextCompute, 0, 0, 0, 0, 0, []⟩] })) x

/-! What the scan of a window reads (R296). -/

/-- The codes of one segment at most. -/
def segmentCodes : Nat := 16384

/-- The lists that some query of a window probes, each once. -/
def probedLists (w : IWindow) : List Nat :=
  (w.queries.flatMap (fun q => if q.exact then [] else bestLists w.view q.given q.nprobe)).eraseDups

/-- The segments of a list of n codes: first position and codes. -/
def segmentsOf (n : Nat) : List (Nat × Nat) :=
  (List.range ((n + segmentCodes - 1) / segmentCodes)).map (fun k => (k * segmentCodes, min segmentCodes (n - k * segmentCodes)))

/-- What a core reads of a window's lists in one go, a segment of a list version or a drift page: window offset, bytes, and the positions of
the codes with the offset of each. -/
structure ScanPart where
  list : Nat
  at_ : Nat
  bytes : Nat
  codes : List (Nat × Nat)
  deriving DecidableEq, Repr

/-- The parts of a list. -/
def scanParts (v : IView) (l : Nat) : List ScanPart :=
  let h := v.shape
  let il := tabGet {} v.lists l
  let segs := (segmentsOf il.entries.length).map (fun g =>
    (⟨l, il.offset + g.1 * cbOf h, g.2 * cbOf h, (List.range g.2).map (fun k => (g.1 + k, il.offset + (g.1 + k) * cbOf h))⟩ : ScanPart))
  let shown := v.drift.filter (fun d => d.list == l)
  segs ++ (tabGet [] v.chains l).map (fun p =>
    (⟨l, p.index * driftPageBytes, driftPageBytes, (p.entries.zipIdx).filterMap (fun e =>
      (firstIdx (fun d => d == e.1) shown).map (fun r =>
        (il.entries.length + r, p.index * driftPageBytes + driftHeadBytes + e.2 * driftEntryBytes h + 24)))⟩ : ScanPart))

/-- The lines of a stretch of a search context's device memory. -/
def indexLines (s : Block) (x off n : Nat) : List Nat := seatLines s (.saved x 0) (dmBase + off) n

/-- The core that reads part number j of a window: the run's cores take the parts in turn, so that the segments of a list lie on separate
cores (R296; log entry 144). -/
def scanCore (s : Block) (x j : Nat) : Option Nat :=
  let cs := ((getCtx s x).run.map (·.cores)).getD []
  cs[j % max 1 cs.length]?

/-- The scan of a window reads each part of the lists that it probes once, through its codes: the positions of the codes that it could not
read, by list. -/
def readScan (s : Block) (x : Nat) (w : IWindow) : Block × List (Nat × Nat) :=
  (((probedLists w).flatMap (scanParts w.view)).zipIdx).foldl (fun (r : Block × List (Nat × Nat)) e =>
    let lines := indexLines r.1 x e.1.at_ e.1.bytes
    let bad := lines.filter (fun l => decodeLine r.1 l == .uncorrectable)
    let lost := e.1.codes.filterMap (fun c =>
      if bad.isEmpty then none
      else if (indexLines r.1 x c.2 (cbOf w.view.shape)).any (fun l => bad.contains l) then some (e.1.list, c.1) else none)
    let s := (dmReadLines r.1 lines ⟨1, some x⟩).1
    (match scanCore s x e.2 with
     | some c => countRgn s (rgnOfCore c) 7 e.1.bytes
     | none => s, r.2 ++ lost)) (s, [])

end Sys2Proof.Machine
end

