-- ==== Sys2Proof/Machine/Search.lean ====
section
/-! DEFINITION. Search: the commands of an index (R277 to R279, R435, R436, R441, R442), its windows (R294 to R297), inserts and
deletes (R298 to R300), merges (R302, R303) and the rebuild (R304, R305). -/
namespace Sys2Proof.Machine

/-- Whether a namespace serves an attached index. -/
def indexed (s : Block) (nsid : Nat) : Bool := s.idxs.any (fun e => e.2.nsid == nsid)

/-- A command that names an index of its port. -/
def onIndex (s : Block) (cmd : CmdRef) (x : Nat) (f : SIndex → Block → Block) : Block :=
  onCmd s (computeReady s) cmd (fun s =>
    match getIdx s x with
    | none => complete s cmd 0 0 (vend 0x22 1)
    | some i =>
      match (getCtx s x).phase with
      | .opening => complete s cmd 0 0 (vend 0x22 1)
      | .closing => complete s cmd 0 0 (vend 0x22 1)
      | _ =>
        if (getCtx s x).closing then complete s cmd 0 0 (vend 0x22 1)
        else if (getCtx s x).port = cmd.ctrl then f i s else complete s cmd 0 0 stNotOwner)

/-! The persistent form (R436). -/

/-- The first slot's byte in the namespace's raw area: it ends with the namespace. -/
def rawArea (h : IShape) (n : Nat) : Nat := n - indexCapacity h n * h.rawStride

/-- Writes the persistent form of an index: header, centroids, codebooks, directory, lists, raw area. Inserts that have not been merged
stand in the update journal, not in drift pages: its directory names none (R436; log entry 146). -/
def writeIndex (s : Block) (i : SIndex) (raws : Tab (List Nat)) : Block :=
  match getNs s i.nsid with
  | none => s
  | some n =>
    let v := i.view
    let h := if v.shape.rawKind = 1 then { v.shape with rawBase := rawArea v.shape (nsBytes n) } else v.shape
    let w (s : Block) (off : Nat) (b : List Byte) : Block := nsWrite s i.nsid off b
    let s := w s 0 (padTo 4096 (headerBytes h (centOff h) (bookOff h) (dirOff h) i.seq i.mergeFloor i.visible))
    let s := w s (centOff h) (elemBytes h.centFmt v.centroids)
    let s := w s (bookOff h) (elemBytes 0x20 v.codebooks)
    let r := (List.range h.nlist).foldl (fun (r : Block × Nat) l =>
      let il := tabGet {} v.lists l
      let s := w r.1 (dirOff h + 32 * l) (dirEntry r.2 il 0 noPage)
      (w s r.2 (payload h il.entries), r.2 + payloadBytes h il.entries.length)) (s, listsOff h)
    let s := if h.rawKind = 1 then raws.foldl (fun s e => w s (h.rawBase + e.1 * h.rawStride) (elemBytes h.rawFmt e.2)) r.1 else r.1
    updNs s i.nsid (fun n => { n with drifts := v.drift, tombs := v.tombs, idxSeq := i.seq })

/-- Whether a header's fixed fields are those of R278 and R279, for a namespace of n bytes; at attach its check is right as well. -/
def headerOk (s : Block) (b : List Byte) (n : Nat) (stored : Bool) : Bool :=
  let h := parseShape b
  fieldAt b 0 4 == 0x58444E56 && fieldAt b 4 2 == 1 && allZero b 0x60 28 &&
    shapeOk h ((getNs s h.rawNs).map (·.lba)) && decide (h.driftCap ≤ indexCapacity h n) &&
    (!stored || crc32cOf (b.take 0x7C) == fieldAt b 0x7C 4)

/-- INDEX_CREATE (R278, R279, R436): data is the header, the centroids and the codebooks, end to end. -/
def doIndexCreate (cmd : CmdRef) (nsid : Nat) (data : List Byte) (s : Block) : Block :=
  if !computeReady s then s
  else
    onBlocks s cmd ⟨nsid, 0, 0⟩ true false (fun n s =>
      let s := takeData s cmd data.length
      let h := parseShape data
      if indexed s nsid then complete s cmd 0 0 (vend 0x04 0)
      else if !headerOk s data (nsBytes n) false then complete s cmd 0 0 (vend 0x23 1)
      else if data.length ≠ 128 + centBytes h + bookBytes h then complete s cmd 0 0 stInvalidField
      else
        let v : IView := {
          shape := h, centroids := elemsOf h.centFmt (data.drop 128) (h.nlist * h.dim)
          codebooks := elemsOf 0x20 (data.drop (128 + centBytes h)) (h.m * kcOf h * dsubOf h) }
        writeAccepted (writeIndex s { nsid := nsid, view := v } []) cmd ⟨nsid, 0, n.blocks⟩)

/-- The list that a directory entry describes. -/
def readList (s : Block) (nsid : Nat) (h : IShape) (l : Nat) : Block × Option IList :=
  match nsRead s nsid (dirOff h + 32 * l) 32 with
  | (s, none) => (s, none)
  | (s, some d) =>
    let c := fieldAt d 8 4
    match nsRead s nsid (fieldAt d 0 8) (payloadBytes h c) with
    | (s, none) => (s, none)
    | (s, some b) =>
      (s, some ⟨fieldAt d 0xC 4, fieldAt d 0x10 8, fieldAt d 0 8, (List.range c).map (fun p =>
        ⟨fieldAt b (idAt h c + 8 * p) 8, fieldAt b (slotAt h c + 4 * p) 4, codeOf h (bytesAt b (p * cbOf h) (cbOf h))⟩)⟩)

/-- The lists of an index, from the first on. -/
def readLists (s : Block) (nsid : Nat) (h : IShape) : Nat → Block × Option (Tab IList)
  | 0 => (s, some [])
  | n + 1 =>
    match readLists s nsid h n with
    | (s, none) => (s, none)
    | (s, some t) =>
      match readList s nsid h n with
      | (s, none) => (s, none)
      | (s, some l) => (s, some (if l = {} then t else tabSet t n l))

/-- The slots that an index uses. -/
def slotsOf (v : IView) : List Nat := (v.lists.flatMap (fun e => e.2.entries.map (·.slot))) ++ v.drift.map (fun d => d.entry.slot)

/-- The slots that an index uses, each once. -/
def usedSlots (v : IView) : List Nat := (slotsOf v).eraseDups

/-- The raw vectors of slots, from the raw area. -/
def readRaw (s : Block) (nsid : Nat) (h : IShape) (slots : List Nat) : Block × Tab (List Byte) :=
  slots.foldl (fun (r : Block × Tab (List Byte)) k =>
    match nsRead r.1 nsid (h.rawBase + k * h.rawStride) (h.dim * fmtBytes h.rawFmt) with
    | (s, some b) => (s, tabSet r.2 k b)
    | (s, none) => (s, r.2)) (s, [])

/-- Reads the persistent form of an index: the index with the raw vectors of its raw area, or the status with which the attach ends. In device
memory its parts lie as in the namespace; the inserts of the update journal go into drift pages (R436; log entry 145). -/
def readIndex (s : Block) (nsid : Nat) (n : Namespace) : Block × ((SIndex × Tab (List Byte)) ⊕ Nat) :=
  match nsRead s nsid 0 128 with
  | (s, none) => (s, .inr (status 2 0x81 1))
  | (s, some b) =>
    let h := parseShape b
    if !headerOk s b (nsBytes n) true then (s, .inr (vend 0x23 1))
    else
      match nsRead s nsid (centOff h) (centBytes h) with
      | (s, none) => (s, .inr (status 2 0x81 1))
      | (s, some ce) =>
        match nsRead s nsid (bookOff h) (bookBytes h) with
        | (s, none) => (s, .inr (status 2 0x81 1))
        | (s, some bo) =>
          match readLists s nsid h h.nlist with
          | (s, none) => (s, .inr (status 2 0x81 1))
          | (s, some ls) =>
            let v : IView := {
              shape := h, centroids := elemsOf h.centFmt ce (h.nlist * h.dim), codebooks := elemsOf 0x20 bo (h.m * kcOf h * dsubOf h)
              lists := ls, tombs := n.tombs }
            let i : SIndex := {
              nsid := nsid, view := v, seq := max (fieldAt b 0x48 8) n.idxSeq, mergeFloor := fieldAt b 0x50 8
              visible := fieldAt b 0x58 8, capacity := indexCapacity h (nsBytes n), cent := centOff h, book := bookOff h, dir := dirOff h
              rawLen := if h.rawKind = 1 then indexCapacity h (nsBytes n) * h.rawStride else 0 }
            let i := n.drifts.foldl (fun i d =>
              (placeDrift (nsBytes n) i d).getD { i with view := { i.view with drift := i.view.drift ++ [d] } }) i
            let r := if h.rawKind = 1 then readRaw s nsid h (usedSlots i.view) else (s, [])
            (r.1, .inl (i, r.2))

/-- The search context of an attach: its program comes from the firmware that runs, its device memory is the namespace's size and takes the
index, its raw vectors among it, once it has its pages (R277, R436, R474). -/
def searchCtx (s : Block) (cmd : CmdRef) (n : Namespace) (be : Bool) (gran : Fin 4) (ncores : Nat) (i : SIndex) (raws : Tab (List Byte)) : Ctx :=
  let im := searchImage s
  let h := i.view.shape
  let pieces := indexPieces i ++ raws.map (fun e => (h.rawBase + e.1 * h.rawStride, e.2))
  { phase := .opening, cls := if be then .be else .lc, gran := gran.val, ncores := ncores, port := cmd.ctrl, search := true
    image := { im with devBytes := nsBytes n, consts := im.consts ++ pieces.map (fun p => ⟨2, p.1, p.2⟩) }
    openCmd := some cmd, openSince := s.now }

/-- INDEX_ATTACH (R277, R436): the search context is opened with device memory of the namespace's size; its handle is DW0. -/
def doIndexAttach (cmd : CmdRef) (nsid : Nat) (be : Bool) (gran : Fin 4) (ncores : Nat) (window : BitVec 16) (batchMax : BitVec 15)
    (s : Block) : Block :=
  if !computeReady s then s
  else
    onBlocks s cmd ⟨nsid, 0, 0⟩ false false (fun n s =>
      if indexed s nsid then complete s cmd 0 0 (vend 0x04 0)
      else if 50000 < window.toNat ∨ batchMax.toNat = 0 ∨ 16384 < batchMax.toNat then complete s cmd 0 0 stInvalidField
      else
        match freeCtx s with
        | none => complete s cmd 0 0 (vend 0x05 0)
        | some xn =>
          if !coresOk gran.val ncores then complete s cmd 7 0 (vend 0x01 1)
          else
            match readIndex s nsid n with
            | (s, .inr st) => complete s cmd 0 0 st
            | (s, .inl (i, raws)) =>
              let x := searchCtx s cmd n be gran ncores i raws
              let s := setIdx (setCtx s xn x) xn { i with window := window.toNat, batchMax := batchMax.toNat }
              if freePages s < pagesLeft x then openFail s xn (vend 0x01 0) 8 else openGo s xn)

/-! Merges (R302, R303). -/

/-- Sequence numbers of inserts in an index that have been applied and are not complete: their first and last (R295, R299). -/
def pendingSeqs (s : Block) (x : Nat) : List (Nat × Nat) :=
  s.med.pendWrites.filterMap (fun w => w.seqs.bind (fun q => if q.1 = x then some q.2 else none))

/-- The last sequence number up to which every insert and delete of an index is complete. -/
def cutNow (s : Block) (x : Nat) (i : SIndex) : Nat := (pendingSeqs s x).foldl (fun m p => min m (p.1 - 1)) (i.seq - 1)

/-- The new version of a list merged with cut C, and the slots of the entries that it drops. -/
def mergeList (v : IView) (l C : Nat) : IList × List Nat :=
  let il := tabGet {} v.lists l
  let early := v.tombs.filter (fun t => decide (t.2 ≤ C))
  let folded := v.drift.filter (fun d => d.list == l && decide (d.seq ≤ C))
  let all := il.entries.map (fun e => (e, il.cut)) ++ folded.map (fun d => (d.entry, d.seq))
  let keep := all.filter (fun e => !hidden early e.1.id e.2)
  let drop := all.filter (fun e => hidden early e.1.id e.2)
  (⟨il.version + 1, C, il.offset, keep.map (·.1)⟩, drop.map (fun e => e.1.slot))

/-- The least MERGE_CUT over all lists. -/
def leastCut (v : IView) : Nat :=
  ((List.range v.shape.nlist).map (fun l => (tabGet {} v.lists l).cut)).foldl min ((tabGet {} v.lists 0).cut)

/-- Installs a merge: the new version, the drift entries that stay, the floor, the tombstones that it releases, the dropped slots. Pages all of
whose entries are folded leave the chain. -/
def foldList (i : SIndex) (l C : Nat) : SIndex :=
  let r := mergeList i.view l C
  let chain := (tabGet [] i.view.chains l).filter (fun p => p.entries.any (fun d => Nat.blt C d.seq))
  let v := { i.view with
    lists := tabSet i.view.lists l r.1, drift := i.view.drift.filter (fun d => d.list != l || decide (C < d.seq))
    chains := if chain.isEmpty then tabErase i.view.chains l else tabSet i.view.chains l chain }
  let floor := leastCut v
  { i with
    view := { v with tombs := v.tombs.filter (fun t => decide (floor < t.2)) }, mergeFloor := floor, merging := tabErase i.merging l
    retired := i.retired ++ r.2 }

/-- A merge with the new version in device memory: the old payload and the pages that leave the chain are old now. None where the list would
grow beyond its greatest COUNT or device memory has no room for the new version: the merge waits (R280, R302). -/
def installMerge (top : Nat) (i : SIndex) (l C : Nat) : Option SIndex :=
  let h := i.view.shape
  let o := tabGet {} i.view.lists l
  let j := foldList i l C
  let n := (tabGet {} j.view.lists l).entries.length
  if maxCount < n then none
  else
    (freeAt (extents i) top (payloadBytes h n) 512).map (fun a => { j with
      view := { j.view with lists := tabSet j.view.lists l { tabGet {} j.view.lists l with offset := a } }
      olds := i.olds ++ (o.offset, payloadBytes h o.entries.length) ::
        ((tabGet [] i.view.chains l).filter (fun p => !p.entries.any (fun d => Nat.blt C d.seq))).map
          (fun p => (p.index * driftPageBytes, driftPageBytes))
      folded := i.folded + (i.view.drift.length - j.view.drift.length) })

/-- Merge commands whose lists have all been merged complete. -/
def finishMerges (s : Block) (x : Nat) : Block :=
  match getIdx s x with
  | none => s
  | some i =>
    let cut := leastCut i.view
    let s := setIdx s x { i with mergeCmds := i.mergeCmds.filter (fun e => decide (cut < e.2)) }
    (i.mergeCmds.filter (fun e => decide (e.2 ≤ cut))).foldl (fun s e => complete s e.1 0 0 0) s

/-- MERGE (R442): waits until every list has been merged with a cut that takes in every sequence number given so far. -/
def doMerge (cmd : CmdRef) (x : Nat) (s : Block) : Block :=
  onIndex s cmd x (fun i s => finishMerges (setIdx s x { i with mergeCmds := i.mergeCmds ++ [(cmd, i.seq - 1)] }) x)

/-- Whether background merges are due (R303, R648). -/
def mergeDue (s : Block) (i : SIndex) : Bool :=
  let h := i.view.shape
  let at_ := if natBit (getRegD s pgHub 0x150 0).toNat 0 then 100 else h.mergeAt
  decide (h.driftCap * at_ ≤ i.view.drift.length * 100) || decide (h.tombCap * at_ ≤ i.view.tombs.length * 100)

/-- LIST_MERGE_START (R295, R303): the merge of a list begins; its cut is the last sequence number up to which every insert is complete. -/
def doListMergeStart (x : CtxNo) (l : Nat) (s : Block) : Block :=
  match getIdx s x with
  | none => s
  | some i =>
    let wanted := i.mergeCmds.any (fun e => Nat.blt (tabGet {} i.view.lists l).cut e.2)
    if i.view.shape.nlist ≤ l || (tabFind i.merging l).isSome || !(mergeDue s i || wanted) then s
    else searchGo (setIdx s x { i with merging := tabSet i.merging l (cutNow s x i) }) x

/-- LIST_MERGE_COMPLETE (R302, R303): the new version of a list is installed, as one change between two window closes; the merge waits while it
finds no room. -/
def doListMergeComplete (x : CtxNo) (l : Nat) (s : Block) : Block :=
  match getIdx s x with
  | none => s
  | some i =>
    match tabFind i.merging l with
    | none => s
    | some C =>
      match installMerge (windowTop s x) i l C with
      | none => s
      | some j =>
        let il := tabGet {} j.view.lists l
        finishMerges (writePieces (setIdx s x j) x
          [(il.offset, payload j.view.shape il.entries), (j.dir + 32 * l, dirNow j l), (0, headNow j)]) x

/-- VERSION_RELEASE (R302, R303): no window sees the old versions any more: their device memory, the folded drift entries and the slots of
dropped entries are free. -/
def doVersionRelease (x : CtxNo) (s : Block) : Block :=
  updIdx s x (fun i => if i.scanning.isSome || i.rebuild.isSome then i
    else { i with retired := [], olds := [], folded := 0 })

/-! Windows (R294 to R297). -/

/-- Whether the open window takes another query: it has room, and it is not due to close. -/
def windowTakes (s : Block) (i : SIndex) (w : IWindow) : Bool :=
  decide (w.queries.length < i.batchMax) && (i.scanning.isSome || decide (s.now < w.opened + i.window * 1000))

/-- Queries that wait join the open window, or open one, in order. -/
def fillWindow (s : Block) (i : SIndex) : Nat → SIndex
  | 0 => i
  | n + 1 =>
    match i.waiting, i.openWin with
    | [], _ => i
    | q :: rest, none => fillWindow s { i with waiting := rest, openWin := some { opened := s.now, queries := [q] } } n
    | q :: rest, some w =>
      if windowTakes s i w then fillWindow s { i with waiting := rest, openWin := some { w with queries := w.queries ++ [q] } } n else i

def refill (s : Block) (i : SIndex) : SIndex := fillWindow s i i.waiting.length

/-- A query of a search buffer: its parameters, and the status that fails it (0: it joins a window). caps: HUB_MODE_SEARCH. -/
def readQuery (h : IShape) (caps : Nat) (cmd : CmdRef) (idx : Nat) (b : List Byte) : IQuery × Nat :=
  let np := fieldAt b 0 4
  let k := fieldAt b 4 4
  let rr := fieldAt b 8 4
  let mode := fieldAt b 0xC 1
  let ex := fieldAt b 0xD 1
  let given := elemsOf 0x20 (b.drop 32) h.dim
  let v := prepVec h given
  let q : IQuery := ⟨cmd, idx, np, k, rr, mode == 1, ex == 1, fieldAt b 0x10 4, given, v.getD []⟩
  let npCap := natBits caps 16 16
  let rrCap := natBits caps 2 14
  let shapeBad := decide (k = 0) || decide (1024 < k) || decide (1 < mode) || decide (1 < ex) || v.isNone
  let depthBad := ex == 0 && (decide (np = 0) || decide (min h.nlist 65536 < np) || (rr != 0 && (decide (rr < k) || decide (8192 < rr))) ||
    (npCap != 0 && decide (npCap < np)) || (rrCap != 0 && decide (rrCap < rr)))
  let st := if shapeBad || depthBad || (ex == 1 && natBit caps 1) then 0x20
    else if h.rawKind = 0 ∧ (ex = 1 ∨ rr ≠ 0) then 0x25 else 0
  (q, st)

/-- Entries for which a result block has room: none for a K out of range. -/
def roomOf (q : IQuery) : Nat := if q.k ≤ 1024 then q.k else 0

/-- A query has been answered; the last one completes the command. -/
def answered (s : Block) (x : Nat) (cmd : CmdRef) (idx : Nat) : Block :=
  match (getIdx s x).bind (fun i => i.searches.find? (fun e => e.cmd == cmd)) with
  | none => s
  | some e =>
    let left := e.left.filter (fun j => j ≠ idx)
    if left.isEmpty then
      complete (updIdx s x (fun i => { i with searches := i.searches.filter (fun e => e.cmd ≠ cmd) })) cmd 0 0 0
    else updIdx s x (fun i => { i with searches := i.searches.map (fun e => if e.cmd = cmd then { e with left := left } else e) })

/-- SEARCH (R286 to R288, R294, R441, R648): data is the search buffer. Queries that fail are answered at once; the others join the
window. -/
def doSearch (cmd : CmdRef) (x : Nat) (data : List Byte) (s : Block) : Block :=
  let caps := (((getCtl s cmd.ctrl).cmds.find? (fun f => f.cmd == cmd)).map (·.caps)).getD 0
  onIndex s cmd x (fun i s =>
    let s := takeData s cmd data.length
    let h := i.view.shape
    let n := fieldAt data 0 4
    let rec_ := roundUp (32 + 4 * h.dim) 64
    let at_ := fieldAt data 4 4
    let qs := (List.range n).map (fun j => readQuery h caps cmd j (data.drop (64 + j * rec_)))
    if n = 0 ∨ 4096 < n ∨ at_ % 64 ≠ 0 ∨ at_ < 64 + n * rec_ || !allZero data 8 56 then complete s cmd 0 0 (vend 0x13 1)
    else
      let offs := (qs.foldl (fun (r : List Nat × Nat) q => (r.1 ++ [r.2], r.2 + roundUp (32 + 16 * roomOf q.1) 64)) ([], at_))
      if data.length < offs.2 then complete s cmd 0 0 stInvalidField
      else
        let s := setIdx s x { i with
          searches := i.searches ++ [{ cmd := cmd, offsets := offs.1, left := List.range n }]
          waiting := i.waiting ++ (qs.filter (fun q => q.2 == 0)).map (·.1) }
        let s := (qs.filter (fun q => q.2 != 0)).foldl (fun s q =>
          let s := sendData s cmd ((offs.1[q.1.idx]?).getD 0) (resultBlock q.2 0 0 0 0 0 (roomOf q.1) [])
          answered s x cmd q.1.idx) s
        updIdx s x (refill s))

/-- What a window that closes now sees: inserts that are not complete are left out (R295). -/
def seenView (s : Block) (x : Nat) (i : SIndex) : IView :=
  { i.view with drift := i.view.drift.filter (fun d => !(pendingSeqs s x).any (fun p => Nat.ble p.1 d.seq && Nat.ble d.seq p.2)) }

/-- The entries visible at a cut. -/
def viewAt (v : IView) (C : Nat) : IView :=
  { v with drift := v.drift.filter (fun d => decide (d.seq ≤ C)), tombs := v.tombs.filter (fun t => decide (t.2 ≤ C)) }

/-- Reads the raw vectors of candidates; an entry whose vector cannot be read is left out. -/
def rawEntries (s : Block) (x : Nat) (h : IShape) (cs : List Cand) : Block × List (IEntry × List Nat) :=
  cs.foldl (fun (r : Block × List (IEntry × List Nat)) c =>
    match rawVec r.1 x h c.slot with
    | (s, some v) => (s, r.2 ++ [(⟨c.id, c.slot, c.code⟩, v)])
    | (s, none) => (s, r.2)) (s, [])

/-- A rebuild that waits for its cut takes it at a window close (R304): it reads the entries visible there; inserts beyond the cut are recorded for
the new index. -/
def takeCut (s : Block) (x : Nat) (i : SIndex) : Block × SIndex :=
  match i.rebuild with
  | none => (s, i)
  | some r =>
    if r.cut.isSome then (s, i)
    else
      let C := cutNow s x i
      let h := i.view.shape
      let e := rawEntries s x h (visibleAll (viewAt i.view C))
      let n := (i.view.drift.filter (fun d => decide (C < d.seq))).foldl (fun (q : Block × List (Drift × List Nat)) d =>
        match rawVec q.1 x h d.entry.slot with
        | (s, some v) => (s, q.2 ++ [(d, v)])
        | (s, none) => (s, q.2)) (e.1, [])
      (n.1, { i with rebuild := some { r with cut := some C, entries := e.2, inserts := n.2 } })

/-- SEARCH_WINDOW_CLOSE (R278, R294, R295, R304): the open window is full, or its time has passed, and no window of the index is scanning. -/
def doSearchWindowClose (x : CtxNo) (s : Block) : Block :=
  match getIdx s x with
  | none => s
  | some i =>
    match i.openWin with
    | none => s
    | some w =>
      if i.scanning.isSome then s
      else
        let s := if w.queries.length < i.batchMax then atTime s (w.opened + i.window * 1000) else s
        let v := seenView s x i
        let i := { i with
          scanning := some { w with closed := s.now, view := v }, openWin := none, visible := (visibleAll v).length
          searches := i.searches.map (fun e => if w.queries.any (fun q => q.cmd == e.cmd) then { e with closed := true } else e) }
        let r := takeCut s x (refill s i)
        searchGo (writeHead (setIdx r.1 x r.2) x r.2) x

/-- Answers the queries of a window, each in its result block. The scan reads the lists once for all of them, and the exact queries the raw store
once between them (R293, R296). -/
def answerWindow (s : Block) (x : Nat) (w : IWindow) : Block :=
  let h := w.view.shape
  let r := readScan s x w
  let e := if w.queries.any (·.exact) then readRaws r.1 x h ((visibleAll w.view).map (·.slot)).eraseDups else (r.1, [])
  w.queries.foldl (fun s q =>
    match getIdx s x with
    | none => s
    | some i =>
      match i.searches.find? (fun e => e.cmd == q.cmd) with
      | none => s
      | some f =>
        match answerQuery s x w.view e.2 r.2 q with
        | (s, count, scored, nan, cs) =>
          let s := sendData s q.cmd ((f.offsets[q.idx]?).getD 0) (resultBlock 0 count scored nan w.queries.length w.closed q.k cs)
          answered s x q.cmd q.idx) e.1

/-- WINDOW_SCAN_END (R288, R290, R294, R297): the closed window has scanned its lists, and its queries are answered. -/
def doWindowScanEnd (x : CtxNo) (s : Block) : Block :=
  match (getIdx s x).bind (·.scanning) with
  | none => s
  | some w => updIdx (answerWindow s x w) x (fun i => { i with scanning := none })

/-! Inserts and deletes (R298 to R300, R442). -/

/-- The slots that a raw namespace has room for (R282). -/
def rawSlots (s : Block) (h : IShape) : Nat :=
  match getNs s (rawNsid h) with
  | none => 0
  | some n =>
    let room := nsBytes n - h.rawBase * n.lba
    let len := h.dim * fmtBytes h.rawFmt
    if room < len then 0 else (room - len) / max 1 h.rawStride + 1

/-- The lowest free slot of an index. -/
def freeSlot (s : Block) (i : SIndex) : Option Nat :=
  let used := slotsOf i.view ++ i.retired
  let top := if i.view.shape.rawKind = 2 then min i.capacity (rawSlots s i.view.shape) else i.capacity
  (List.range (min top (used.length + 1))).find? (fun k => !used.contains k)

/-- Entries that the list versions and the drift list hold. -/
def held (v : IView) : Nat := sumNat (v.lists.map (fun e => e.2.entries.length)) + v.drift.length

/-- Writes the raw vector of a slot where it is held against power loss, and into device memory (R282, R299, R436): the state with the blocks that
hold it, or nothing where a block that it shares cannot be read. -/
def holdRaw (s : Block) (x : Nat) (i : SIndex) (slot : Nat) (v : List Nat) : Option (Block × Option LbaSpan) :=
  let h := i.view.shape
  let b := elemBytes h.rawFmt v
  if h.rawKind = 0 then some (s, none)
  else
    let nsid := if h.rawKind = 1 then i.nsid else rawNsid h
    let lba := max 1 (((getNs s nsid).map (·.lba)).getD 1)
    let at_ := (if h.rawKind = 1 then ((getNs s nsid).map (fun n => rawArea h (nsBytes n))).getD 0 else h.rawBase * lba) + slot * h.rawStride
    let r := nsPut s nsid at_ b
    if r.2 then
      some (if h.rawKind = 1 then windowWrite r.1 x (h.rawBase + slot * h.rawStride) b else r.1,
        some ⟨nsid, at_ / lba, (at_ + b.length + lba - 1) / lba - at_ / lba⟩)
    else none

/-- Inserts one record: the state with the blocks of namespace that hold its raw vector, or the status that refuses it, with no effect. Device
memory without room for a drift page counts as a full index, and a block of the raw store that cannot be read is a media error
(log entry 146). -/
def insertOne (s : Block) (x id : Nat) (vec : List Nat) : Block × (Option LbaSpan ⊕ Nat) :=
  match getIdx s x with
  | none => (s, .inr (vend 0x22 1))
  | some i =>
    let h := i.view.shape
    match prepVec h vec with
    | none => (s, .inr (vend 0x20 1))
    | some v =>
      if id = 0xFFFFFFFFFFFFFFFF then (s, .inr (vend 0x20 1))
      else
        match (bestLists i.view v 1).head?, freeSlot s i with
        | none, _ => (s, .inr (vend 0x20 1))
        | _, none => (s, .inr (vend 0x21 0))
        | some l, some slot =>
          let d : Drift := ⟨i.seq, l, ⟨id, slot, encodeVec i.view v l⟩⟩
          match placeDrift (windowTop s x) i d with
          | none => (s, .inr (vend 0x21 0))
          | some j =>
            if h.driftCap ≤ i.view.drift.length + i.folded ∨ i.capacity ≤ held i.view then (s, .inr (vend 0x21 0))
            else
              match holdRaw s x i slot v with
              | none => (s, .inr (status 2 0x81 1))
              | some (s, span) =>
                let j := { j with
                  seq := i.seq + 1
                  rebuild := i.rebuild.map (fun r => if r.cut.isSome then { r with inserts := r.inserts ++ [(d, v)] } else r) }
                let s := setIdx s x j
                let s := updNs s j.nsid (fun n => { n with drifts := n.drifts ++ [d], idxSeq := j.seq })
                (writePieces s x (driftPieces j l ++ [(0, headNow j)]), .inl span)

/-- Blocks of one namespace that take in two spans. -/
def joinSpans : Option LbaSpan → Option LbaSpan → Option LbaSpan
  | none, b => b
  | a, none => a
  | some a, some b =>
    let lo := min a.slba b.slba
    some ⟨b.nsid, lo, max (a.slba + a.nlb) (b.slba + b.nlb) - lo⟩

/-- An insert that has applied n records from sequence number lo on ends: at once, or under write-through when their raw vectors have left
the buffer; until then no window sees them (R295, R299). -/
def endInsert (s : Block) (cmd : CmdRef) (x lo n : Nat) (span : Option LbaSpan) (st : Nat) : Block :=
  match span with
  | some a =>
    if writeThrough s then
      updMed s (fun m => { m with pendWrites := m.pendWrites ++ [⟨cmd, a.nsid, a.slba, a.nlb, n, st, some (x, lo, lo + n - 1)⟩] })
    else complete s cmd n 0 st
  | none => complete s cmd n 0 st

/-- Applies records of an insert in order; n have been applied, from sequence number lo on. -/
def insertAll (s : Block) (cmd : CmdRef) (x lo n : Nat) (span : Option LbaSpan) : List (Nat × List Nat) → Block
  | [] => endInsert s cmd x lo n span 0
  | (id, v) :: rest =>
    match insertOne s x id v with
    | (s, .inl a) => insertAll s cmd x lo (n + 1) (joinSpans span a) rest
    | (s, .inr st) => endInsert s cmd x lo n span st

/-- INSERT (R286, R299, R442): data is records of an identifier and DIM FP32 elements. -/
def doInsert (cmd : CmdRef) (x : Nat) (data : List Byte) (s : Block) : Block :=
  onIndex s cmd x (fun i s =>
    let s := takeData s cmd data.length
    let n := 8 + 4 * i.view.shape.dim
    if data.length % n ≠ 0 ∨ data.length = 0 then complete s cmd 0 0 stInvalidField
    else if s.med.readOnly then complete s cmd 0 0 (status 1 0x82 1)
    else insertAll s cmd x i.seq 0 none ((List.range (data.length / n)).map (fun j =>
      (fieldAt data (j * n) 8, elemsOf 0x20 (data.drop (j * n + 8)) i.view.shape.dim))))

/-- Records a tombstone; none if it would need one beyond the capacity. -/
def deleteOne (s : Block) (x id : Nat) : Option Block :=
  match getIdx s x with
  | none => none
  | some i =>
    let had := i.view.tombs.any (fun t => t.1 == id)
    if !had && decide (i.view.shape.tombCap ≤ i.view.tombs.length) then none
    else
      let put (l : List (Nat × Nat)) : List (Nat × Nat) := l.filter (fun t => t.1 ≠ id) ++ [(id, i.seq)]
      let j := { i with view := { i.view with tombs := put i.view.tombs }, seq := i.seq + 1 }
      let s := writeHead (setIdx s x j) x j
      some (updNs s i.nsid (fun n => { n with tombs := put n.tombs, idxSeq := i.seq + 1 }))

/-- Applies identifiers of a delete in order. -/
def deleteAll (s : Block) (cmd : CmdRef) (x n : Nat) : List Nat → Block
  | [] => complete s cmd n 0 0
  | id :: rest =>
    match deleteOne s x id with
    | some s => deleteAll s cmd x (n + 1) rest
    | none => complete s cmd n 0 (vend 0x21 0)

/-- DELETE (R300, R442): at most 2 MiB of identifiers. -/
def doDelete (cmd : CmdRef) (x : Nat) (ids : List (BitVec 64)) (s : Block) : Block :=
  onIndex s cmd x (fun _ s =>
    let s := takeData s cmd (8 * ids.length)
    if ids.isEmpty || decide (262144 < ids.length) then complete s cmd 0 0 stInvalidField
    else if s.med.readOnly then complete s cmd 0 0 (status 1 0x82 1)
    else deleteAll s cmd x 0 (ids.map (·.toNat)))

/-- Whether an index has nothing in progress. -/
def indexIdle (i : SIndex) : Bool :=
  i.openWin.isNone && i.scanning.isNone && i.waiting.isEmpty && i.merging.isEmpty && i.mergeCmds.isEmpty && i.rebuild.isNone

/-- INDEX_DETACH (R435, R436): once nothing of the index is in progress and its program does not run, every list is merged and written back, and the search context
closes. -/
def doIndexDetach (cmd : CmdRef) (x : Nat) (s : Block) : Block :=
  if (getIdx s x).any (fun i => !indexIdle i) || (getCtx s x).run.isSome then s
  else
    onIndex s cmd x (fun i s =>
      if s.med.readOnly then complete s cmd 0 0 (status 1 0x82 1)
      else
        let i := (List.range i.view.shape.nlist).foldl (fun i l => foldList i l (i.seq - 1)) i
        let r := if i.view.shape.rawKind = 1 then readRaws s x i.view.shape (usedSlots i.view) else (s, [])
        let s := closeCtx (writeIndex r.1 i r.2) x
        writeAccepted s cmd ⟨i.nsid, 0, ((getNs s i.nsid).map (·.blocks)).getD 0⟩)

/-! Rebuild (R304, R305). -/

/-- The shape of the index that a rebuild forms. -/
def rebuiltShape (h : IShape) (p : IRebuildParams) : IShape := { h with nlist := p.nlist, m := p.m, codeBits := p.codeBits }

/-- Device-memory bytes that the new index's lists and directory need (R305). -/
def rebuildBytes (h : IShape) (entries : Nat) : Nat := up4096 (h.nlist * 32) + h.nlist * 1536 + entries * (cbOf h + 12)

/-- Pages join the device-memory window of a context, at its end. -/
def growWindow (s : Block) (x : Nat) : Nat → Block
  | 0 => s
  | n + 1 =>
    match takePage s none with
    | (s, some p) => growWindow (updCtx s x (fun c => { c with
        pages := c.pages ++ [p], image := { c.image with devBytes := roundUp c.image.devBytes pageBytes + pageBytes } })) x n
    | (s, none) => s

/-- REBUILD (R304, R305, R442): refused at the start without a raw store, a legal shape or device memory for the new lists and directory, whose
pages it takes. Its cut comes with the next window close. -/
def doRebuild (cmd : CmdRef) (x : Nat) (nlist m codeBits sample iterations seed : Nat) (s : Block) : Block :=
  onIndex s cmd x (fun i s =>
    let s := takeData s cmd 32
    let p : IRebuildParams := ⟨nlist, m, codeBits, sample, iterations, seed⟩
    let h := rebuiltShape i.view.shape p
    let nb := ((getNs s i.nsid).map nsBytes).getD 0
    let cap := indexCapacity h nb
    let need := (rebuildBytes h (held i.view) + pageBytes - 1) / pageBytes
    if i.view.shape.rawKind = 0 then complete s cmd 0 0 (vend 0x25 1)
    else if !shapeOk h ((getNs s h.rawNs).map (·.lba)) then complete s cmd 0 0 stInvalidField
    else if i.rebuild.isSome then complete s cmd 0 0 (vend 0x04 0)
    else if freePages s < need || Nat.blt cap h.driftCap || (slotsOf i.view ++ i.retired).any (fun k => Nat.ble cap k) then
      complete s cmd 0 0 (vend 0x24 0)
    else
      let s := updIdx (growWindow s x need) x (fun i => { i with capacity := min i.capacity cap, rebuild := some { cmd := cmd, params := p } })
      searchGo s x)

/-- The centroids and codebooks that a rebuild trains. -/
def trained (h : IShape) (p : IRebuildParams) (vs : List (List Nat)) : List Nat × List Nat :=
  let key := [h.dim, h.metric, p.nlist, p.m, p.codeBits, p.sample, p.iterations, p.seed]
  let cent (k : Nat) : Nat := let v := (Config.trainCentroid key vs k).toNat; if h.centFmt = 0x21 then v / 2 ^ 16 * 2 ^ 16 else v
  ((List.range (h.nlist * h.dim)).map cent, (List.range (h.m * kcOf h * dsubOf h)).map (fun k => (Config.trainCodebook key vs k).toNat))

/-- The view of the rebuilt index: the entries at the cut in its lists, the inserts since then replayed, the deletes since then. -/
def rebuiltView (i : SIndex) (r : IRebuild) (cut : Nat) (tombs : List (Nat × Nat)) : IView :=
  let h := rebuiltShape i.view.shape r.params
  let t := trained h r.params (r.entries.map (·.2))
  let v : IView := { shape := h, centroids := t.1, codebooks := t.2 }
  let listFor (x : List Nat) : Nat := ((bestLists v x 1).head?).getD 0
  let base : Tab IList := (List.range h.nlist).map (fun l => (l, { version := 0, cut := cut, entries := [] }))
  let lists := r.entries.foldl (fun (ls : Tab IList) e =>
    let l := listFor e.2
    let il := tabGet {} ls l
    tabSet ls l { il with entries := il.entries ++ [{ e.1 with code := encodeVec v e.2 l }] }) base
  let drift := r.inserts.map (fun e =>
    let l := listFor e.2
    (⟨e.1.seq, l, { e.1.entry with code := encodeVec v e.2 l }⟩ : Drift))
  { v with lists := lists, drift := drift, tombs := tombs.filter (fun t => decide (cut < t.2)) }

/-- Gives the parts of a new view their places in device memory, beside all that an index holds there: the index with the new view; none where
they find no room. What the old view held is old now, and its slots that the new one does not use are free once the last window that saw it
has finished (R305). -/
def placeView (top : Nat) (i : SIndex) (v : IView) : Option SIndex :=
  let h := v.shape
  let lens := [(centBytes h, 4096), (bookBytes h, 4096), (h.nlist * 32, 4096)] ++
    v.lists.map (fun e => (payloadBytes h e.2.entries.length, 512))
  match freeAll (extents i) top lens with
  | none => none
  | some at_ =>
    let o := i.view
    let lists := (v.lists.zip (at_.drop 3)).map (fun e => (e.1.1, { e.1.2 with offset := e.2 }))
    let j : SIndex := { i with
      view := { v with lists := lists, drift := [], chains := [] }
      cent := (at_[0]?).getD 0, book := (at_[1]?).getD 0, dir := (at_[2]?).getD 0
      olds := i.olds ++ [(i.cent, up4096 (centBytes o.shape)), (i.book, up4096 (bookBytes o.shape)), (i.dir, up4096 (o.shape.nlist * 32))] ++
        o.lists.map (fun e => (e.2.offset, payloadBytes o.shape e.2.entries.length)) ++
        o.chains.flatMap (fun e => e.2.map (fun p => (p.index * driftPageBytes, driftPageBytes)))
      retired := i.retired ++ (usedSlots o).filter (fun k => !(slotsOf v).contains k) }
    v.drift.foldl (fun (j : Option SIndex) d => j.bind (fun j => placeDrift top j d)) (some j)

/-- REBUILD_PROMOTION (R305): windows that close from now on see the rebuilt index; its form replaces the stored one, and the rebuild
command completes. It waits for its cut, and while the new parts find no room or a list is longer than its COUNT allows. -/
def doRebuildPromotion (x : CtxNo) (s : Block) : Block :=
  match getIdx s x with
  | none => s
  | some i =>
    match i.rebuild with
    | none => s
    | some r =>
      match r.cut with
      | none => s
      | some cut =>
        let v := rebuiltView i r cut (((getNs s i.nsid).map (·.tombs)).getD [])
        if v.lists.any (fun e => Nat.blt maxCount e.2.entries.length) then s
        else
          match placeView (windowTop s x) i v with
          | none => s
          | some j =>
            let j := { j with mergeFloor := cut, rebuild := none, merging := [] }
            let s := writePieces (setIdx s x j) x (indexPieces j)
            let w := if v.shape.rawKind = 1 then readRaws s x v.shape (usedSlots j.view) else (s, [])
            finishMerges (complete (writeIndex w.1 j w.2) r.cmd 0 0 0) x

end Sys2Proof.Machine
end

