-- ==== Sys2Proof/Machine/Abort.lean ====
section
/-! DEFINITION. Abort: Abort and Abort by Tag (R448). -/
namespace Sys2Proof.Machine

/-- I/O opcodes whose commands an abort stops while they have had no effect: Flush, the reservations and Join are not among them. -/
def abortable (op : Nat) : Bool :=
  [0x01, 0x02, 0x05, 0x08, 0x09, 0x0C, 0x81, 0x83, 0xA1, 0xA3, 0xA5, 0xA9, 0xAC, 0xB1].contains op

/-- Command Abort Requested. -/
def stAborted : Nat := status 0 0x07 0

/-- A compute command that has not been placed is withdrawn; none if it is not one. -/
def withdrawCompute (s : Block) (t : CmdRef) : Option Block :=
  match s.ctxs.find? (fun e => e.2.queue.any (fun q => q.cmd == t)) with
  | some e => some (updCtx s e.1 (fun x => { x with queue := x.queue.filter (fun q => q.cmd ≠ t) }))
  | none =>
    match s.ctxs.find? (fun e => decide (e.2.phase = .waiting) && e.2.run.any (fun r => r.cc.cmd == t && r.firstStart.isNone)) with
    | some e =>
      let s := { s with aside := s.aside.filter (fun a => a.2 ≠ e.1) }
      let s := updCtx s e.1 (fun x => { x with run := none, phase := if x.heldCores.isEmpty then .idle else .held })
      some (nextRun s e.1)
    | none => none

/-- The context whose placed run is a command's. -/
def runOf (s : Block) (t : CmdRef) : Option (Nat × Ctx) := s.ctxs.find? (fun e => e.2.run.any (fun r => r.cc.cmd == t))

/-- A search command none of whose windows has closed is withdrawn; none if it is not one. -/
def withdrawSearch (s : Block) (t : CmdRef) : Option Block :=
  match s.idxs.find? (fun e => e.2.searches.any (fun q => q.cmd == t && !q.closed)) with
  | none => none
  | some e =>
    let out (l : List IQuery) : List IQuery := l.filter (fun q => q.cmd ≠ t)
    let i := e.2
    let i := { i with
      searches := i.searches.filter (fun q => q.cmd ≠ t), waiting := out i.waiting
      openWin := match i.openWin with
        | some w => if (out w.queries).isEmpty then none else some { w with queries := out w.queries }
        | none => none }
    some (setIdx s e.1 (refill s i))

/-- What an abort makes of its target: the outcome, or a teardown that it waits for in a context. -/
inductive AbortEnd where
  | done (outcome : Nat)
  | waits (x : Nat)
  deriving DecidableEq, Repr

/-- Stops a fetched command at best effort (R448). -/
def abortTarget (s : Block) (t : CmdRef) : Block × AbortEnd :=
  match (getCtl s t.ctrl).cmds.find? (fun f => f.cmd == t) with
  | none => (s, .done 3)
  | some f =>
    let stopped (s : Block) : Block × AbortEnd := (complete s t 0 0 stAborted, .done 0)
    match f.stage with
    | .fetched => if t.sqid ≠ 0 ∧ abortable f.op then stopped s else (s, .done 2)
    | .begun =>
      if s.med.pendReads.any (fun r => r.cmd == t) then
        stopped (updMed s (fun m => { m with pendReads := m.pendReads.filter (fun r => r.cmd ≠ t) }))
      else
        match withdrawCompute s t, withdrawSearch s t, runOf s t with
        | some s, _, _ => stopped s
        | none, some s, _ => stopped s
        | none, none, some (x, cx) => (if tearing cx then s else beginTeardown s x true, .waits x)
        | none, none, none => (s, .done 2)

/-- Carries out an abort; dw0 gives DW0 of its completion by the outcome. -/
def abortBy (cmd : CmdRef) (sqid cid : Nat) (dw0 : Nat → Nat) (s : Block) : Block :=
  onAdmin s cmd (fun s =>
    let s := bump s (pgNve cmd.ctrl) 9 1
    match abortTarget s ⟨cmd.ctrl, sqid, cid⟩ with
    | (s, .done n) => complete s cmd (dw0 n) 0 0
    | (s, .waits x) => updCtx s x (fun cx => { cx with aborts := cx.aborts ++ [(cmd, dw0 1)] }))

/-- ABORT_BY_TAG (R448). -/
def doAbortByTag (cmd : CmdRef) (sqid cid : BitVec 16) (s : Block) : Block := abortBy cmd sqid.toNat cid.toNat (fun n => n) s

/-- ABORT (R448): DW0 bit 0 is 0 only where the target was stopped without effect. -/
def doAbort (cmd : CmdRef) (sqid cid : BitVec 16) (s : Block) : Block :=
  abortBy cmd sqid.toNat cid.toNat (fun n => if n = 0 then 0 else 1) s

end Sys2Proof.Machine
end

