-- ==== Sys2Proof/Machine/RegMap.lean ====
section
/-! DEFINITION. RegMap: which offsets of a page name a register (R41, R95 to R112, R335, R337, R369, R415, R417, R434, R484, R521, R543,
R574, R606, R609, R624, R625, R644, R669, R671); the others are RSV. -/
namespace Sys2Proof.Machine

/-- An offset range of registers, in bytes. -/
def within (off lo hi : Nat) : Bool := Nat.ble lo off && Nat.blt off hi

/-- The block registers of a kind of page, statistics apart. -/
def blockReg (k : PageKind) (off : Nat) : Bool :=
  match k with
  | .cor => within off 0x100 0x110
  | .clu => within off 0x100 0x108 || within off 0x140 0x180
  | .rgn => within off 0x100 0x108
  | .tie => within off 0x100 0x114
  | .dmm => within off 0x100 0x110
  | .dsp => within off 0x100 0x12C
  | .med => within off 0x100 0x118
  | .onf => within off 0x100 0x110 || within off 0x140 0x180
  | .nve => within off 0x100 0x110
  | .mgr => within off 0x100 0x10C
  | .aup => within off 0x100 0x124
  | .stu => within off 0x100 0x11C || within off 0x120 0x13C || within off 0x140 0x148 || within off 0x150 0x16C || within off 0x200 0x260
  | .chk => off == 0x100 || within off 0x108 0x13C || within off 0x140 0x160 || within off 0x200 0x21C || within off 0x220 0x228
  | .cfl => within off 0x100 0x108 || within off 0x110 0x114 || within off 0x118 0x124 || within off 0x128 0x130 || within off 0x300 0x400
  | .opt => within off 0x100 0x114 || within off 0x118 0x124 || within off 0x200 0x600
  | .hub => within off 0x100 0x10C || within off 0x110 0x11C || within off 0x140 0x158
  | .pwr => within off 0x100 0x114
  | .thm => within off 0x100 0x110

/-- Whether an offset names a register of a kind of page. -/
def isReg (k : PageKind) (off : Nat) : Bool :=
  off % 4 == 0 && (within off 0 0x038 || within off 0x080 0x100 || within off 0x180 (0x180 + 8 * statCount k) || blockReg k off)

end Sys2Proof.Machine
end

