-- ==== Sys2Proof/Machine/Health.lean ====
section
/-! DEFINITION. Health: temperatures, critical warnings and the minute counts (R463 to R467), and the log pages (R445 to R447, R455,
R463, R467 to R470, R475, R481). -/
namespace Sys2Proof.Machine

def updAdm (s : Block) (f : AdminState → AdminState) : Block := { s with adm := f s.adm }

/-! Temperatures (R465, R466). -/

def tempOf (s : Block) (i : Nat) : Int := tabGet 0 s.adm.temps i
/-- The hottest of the readings from i on, n of them. -/
def hottest (s : Block) (i n : Nat) : Int := ((List.range n).map (fun j => tempOf s (i + j))).foldl max (tempOf s i)
/-- A temperature in K, and a temperature as a register shows it: 0 below 0 °C. -/
def kelvin (t : Int) : Nat := (t + 273).toNat
def regDeg (t : Int) : Nat := min 255 t.toNat

/-- The composite temperature in °C. -/
def compositeC (s : Block) : Int :=
  85 + max (hottest s 0 5 - 105) (max (hottest s 5 8 - 100) (hottest s 13 32 - 80))

/-- Sensor 1 to 8 in °C; 0 is the composite. -/
def sensorC (s : Block) (i : Nat) : Int :=
  match i with
  | 0 => compositeC s
  | 1 => hottest s 0 4
  | 2 => tempOf s 4
  | 3 => hottest s 5 8
  | 4 => hottest s 13 32
  | n => tempOf s (40 + n)

/-! Critical warnings (R464). -/

/-- Whether a temperature is outside its thresholds. -/
def tempOut (s : Block) : Bool :=
  (List.range 9).any (fun i => decide (tabGet 358 s.adm.overK i < kelvin (sensorC s i)) ||
    decide (kelvin (sensorC s i) < tabGet 0 s.adm.underK i))

/-- Whether reliability is degraded: a die has left service with no spare left for it, a stack runs with a marked die, the standby pair failed, code
flash is damaged (R581, R591), or a page of device memory is held out (R570). -/
def degraded (s : Block) : Bool :=
  s.med.unspared != 0 ||
    (List.range 8).any (fun k => (dmMark s k).isSome) || s.adm.standby == .failed || s.cfl.damaged || s.cfl.factoryBad ||
    s.pageUse.any (fun e => e.2 == .heldOut)

/-- Bit 1 or 2 of Critical Warning: set while its condition holds; then clear once the log has been read. -/
def settleBit (s : Block) (bit : Nat) (c : Bool) : Block :=
  if c then raiseCrit s bit else if s.critRead.contains bit then clearCrit s bit else s

/-- Brings bits 1 and 2 up to date. -/
def settleCrit (s : Block) : Block := settleBit (settleBit s 1 (tempOut s)) 2 (degraded s)

/-! Minutes (R463, R467). -/

/-- A record of the history with n minutes at a temperature. -/
def histAdd (h : TempHist) (t : Int) (n : Nat) : TempHist :=
  let k := kelvin t
  let bin := min 29 (t / 5).toNat
  { max := max h.max k, min := if h.max = 0 then k else min h.min k
    bins := if n = 0 then h.bins else tabSet h.bins bin (satAdd 0xFFFFFFFF (tabGet 0 h.bins bin) n) }

/-- Counts the minutes since they were last counted, at the temperatures and with the commands of now (log entry 37). -/
def countMinutes (s : Block) : Block :=
  let m := s.now / 60000000000
  let n := m - s.adm.minute
  let busy := (List.range 4).any (fun p => (getCtl s p).cmds.any (fun f => f.cmd.sqid != 0))
  let s := if n = 0 then s else
    let s := if busy then lifeBump s lifeBusyMinutes n else s
    let s := if 358 ≤ kelvin (compositeC s) then lifeBump s lifeWarmMinutes n else s
    let s := if 368 ≤ kelvin (compositeC s) then lifeBump s lifeHotMinutes n else s
    lifeBump s lifePowerOnHours (m / 60 - s.adm.minute / 60)
  updAdm s (fun a => { a with
    minute := max a.minute m
    hist := (List.range 8).foldl (fun t i => tabSet t (i + 1) (histAdd (tabGet {} t (i + 1)) (sensorC s (i + 1)) n)) a.hist })

/-- A temperature is read. -/
def noteTemp (s : Block) (i : Nat) (t : Int) : Block :=
  let s := countMinutes s
  settleCrit (countMinutes (updAdm s (fun a => { a with temps := tabSet a.temps i t })))

/-- TEMP_HISTORY_SAVE (R467). -/
def doTempHistorySave (s : Block) : Block := updAdm (countMinutes s) (fun a => { a with histSaved := a.hist })

/-! Log pages. -/

def lifeOf (s : Block) (i : Nat) : Nat := tabGet 0 s.life i
/-- A count in n bytes, saturating. -/
def satBytes (n v : Nat) : List Byte := leBytes n (min (2 ^ (8 * n) - 1) v)

/-- The SMART / Health Information log (R463). -/
def smartLog (s : Block) : List Byte :=
  let cap (b : List Byte) : List Byte := padTo 16 b
  padTo 512 (leBytes 1 s.crit ++ leBytes 2 (kelvin (compositeC s)) ++ leBytes 1 (s.med.poolPm / 10) ++ leBytes 1 10 ++
    leBytes 1 (min 255 ((s.med.wearMean + 9) / 10)) ++ zeroBytes 26 ++
    cap (leBytes 16 ((lifeOf s lifeReadBytes + 511999) / 512000)) ++ cap (leBytes 16 ((lifeOf s lifeWriteBytes + 511999) / 512000)) ++
    leBytes 16 (lifeOf s lifeReadCommands) ++ leBytes 16 (lifeOf s lifeWriteCommands) ++ leBytes 16 (lifeOf s lifeBusyMinutes) ++
    leBytes 16 (lifeOf s lifePowerCycles) ++ leBytes 16 (lifeOf s lifePowerOnHours) ++ leBytes 16 (lifeOf s lifeUnsafeShutdowns) ++
    leBytes 16 (lifeOf s lifeMediaErrors) ++ leBytes 16 (lifeOf s lifeErrorEntries) ++ leBytes 4 (lifeOf s lifeWarmMinutes) ++
    leBytes 4 (lifeOf s lifeHotMinutes) ++ (List.range 8).flatMap (fun i => leBytes 2 (kelvin (sensorC s (i + 1)))))

/-- The Health Extension log (R468). -/
def healthExt (s : Block) : List Byte :=
  let sp := ((medValue s 0x108).getD 0).toNat
  let l (n i : Nat) : List Byte := satBytes n (lifeOf s i)
  padTo 128 (leBytes 1 (sp / 2 ^ 24) ++ leBytes 1 (sp / 2 ^ 16 % 256) ++ leBytes 2 s.med.wearMax ++ leBytes 2 s.med.wearMean ++
    leBytes 2 s.med.holdupUs ++ l 4 lifeDeferredRecords ++ satBytes 4 s.med.lost.length ++ l 8 lifeHostBytesWritten ++
    l 8 lifeGatherBytes ++ l 8 lifeFoldBytes ++ l 8 lifeReconstructed ++ l 8 lifeFlashCorrected ++ l 8 lifeFlashSoft ++
    l 8 lifeFlashUncorrectable ++ l 8 lifeDramCorrected ++ l 8 lifeDramUncorrectable ++ l 4 lifeCoresSpared ++ l 4 lifeCoresRetired ++
    l 2 lifeLanesRetired ++ l 2 lifeDramDiesFailed ++ l 4 lifeHandovers)

/-- An entry of the error log, newest first: the NVMe layout, with ERR_FIRST at byte 32 (log entry 35). -/
def errorLog (s : Block) : List Byte :=
  padTo 16384 (s.adm.errLog.reverse.flatMap (fun e => padTo 64 (leBytes 8 (e.count) ++
    leBytes 2 ((e.cmd.map (·.sqid)).getD 0xFFFF) ++ leBytes 2 ((e.cmd.map (·.cid)).getD 0xFFFF) ++ leBytes 2 (e.status * 2) ++
    leBytes 2 0xFFFF ++ zeroBytes 16 ++ leBytes 4 e.vendor.toNat)))

/-- The Firmware Slot Information log (R475). -/
def fwLog (s : Block) : List Byte :=
  padTo 512 (leBytes 1 (s.adm.active + s.adm.pendingSlot * 16) ++ zeroBytes 7 ++ (slotFr s 1).getD (zeroBytes 8) ++
    (slotFr s 2).getD (zeroBytes 8))

/-- MGR_ROLE, MGR_FW and MGR_CAL (R484). -/
def mgrRole (s : Block) : Nat :=
  boolNat s.adm.servingB * 2 ^ 28 + (match s.adm.standby with
    | .ready => 0
    | .booting => 1
    | .failed => 2) * 2 ^ 24 + s.adm.handovers
def mgrFw (s : Block) : Nat :=
  s.adm.active * 2 ^ 24 + s.adm.pendingSlot * 2 ^ 16 + s.adm.step * 2 ^ 8 + min 255 s.adm.unitsLeft.length
def mgrCal (s : Block) : Nat :=
  s.adm.calGen % 2 ^ 16 * 2 ^ 16 + min 255 s.adm.calLeft.length * 2 ^ 8 +
    (if s.adm.applying then 2 else if s.adm.overlay.isEmpty then 0 else 1)

/-- The page that is in its calibration lehr. -/
def calLehr (s : Block) : Option Nat := s.adm.calLeft.find? (fun p => match (getPage s p).service with
  | .lehr => true
  | _ => false)

/-- The Maintenance Status log (R481, R665): the trip word and the system time of the trip follow the page index and two zero bytes. -/
def maintLog (s : Block) : List Byte :=
  padTo 64 (leBytes 4 (mgrFw s) ++ leBytes 4 (mgrCal s) ++ leBytes 4 s.adm.calGen ++ leBytes 4 s.adm.calLeft.length ++
    leBytes 2 ((calLehr s).getD 0xFFFF) ++ zeroBytes 2 ++ leBytes 4 s.power.tripLast.toNat ++
    leBytes 8 s.power.tripTime)

/-- Opcodes of the admin and I/O commands that are supported, each with its effects (R469; as NVMe lays them out). -/
def adminEffects : List (Nat × Nat) :=
  [(0x00, 1), (0x01, 1), (0x02, 1), (0x04, 1), (0x05, 1), (0x06, 1), (0x08, 1), (0x09, 1), (0x0A, 1), (0x0C, 1), (0x0D, 5), (0x10, 1),
   (0x11, 1), (0x15, 5), (0x1D, 1), (0x1E, 1), (0x7C, 1), (0x80, 3), (0x84, 3), (0xC0, 0x11), (0xC4, 0x11), (0xC5, 1), (0xC8, 1),
   (0xCC, 0x11), (0xCD, 0x11), (0xCE, 1)]
def ioEffects : List (Nat × Nat) :=
  [(0x00, 1), (0x01, 3), (0x02, 1), (0x05, 1), (0x08, 3), (0x09, 3), (0x0C, 1), (0x0D, 1), (0x0E, 1), (0x11, 1), (0x15, 1), (0x81, 1),
   (0x83, 1), (0x84, 1), (0x88, 1), (0x8C, 1), (0x90, 1), (0xA1, 1), (0xA3, 1), (0xA4, 1), (0xA5, 1), (0xA8, 1), (0xA9, 1), (0xAC, 1),
   (0xB1, 1)]
def effectsLog : List Byte :=
  let half (l : List (Nat × Nat)) : List Byte := (List.range 256).flatMap (fun i => leBytes 4 (tabGet 0 l i))
  padTo 4096 (half adminEffects ++ half ioEffects)

/-- The 16-byte entries of logs 0xC1, 0xC2 and 0xC4. -/
def recBytes (l : List LogRec) : List Byte :=
  padTo 4096 (l.flatMap (fun r => leBytes 2 r.a ++ leBytes 2 r.b ++ leBytes 4 r.bits ++ leBytes 8 r.time))

/-- The deferred error log (R447). -/
def deferredLog (s : Block) : List Byte :=
  let l := s.med.deferred.drop (s.med.deferred.length - 256)
  padTo 8192 (l.flatMap (fun d => leBytes 4 d.record ++ leBytes 4 d.nsid ++ leBytes 8 d.slba ++ leBytes 4 d.nlb ++
    leBytes 4 (boolNat d.reported) ++ leBytes 8 d.time))

/-- The lost-block list (R470). -/
def lostLog (s : Block) : List Byte :=
  leBytes 4 s.med.lost.length ++ leBytes 4 (boolNat s.med.lostOverflow) ++ zeroBytes 8 ++
    s.med.lost.flatMap (fun e => leBytes 4 e.nsid ++ leBytes 1 e.cause ++ zeroBytes 3 ++ leBytes 8 e.slba ++ leBytes 4 e.nlb ++ zeroBytes 4 ++
      leBytes 8 e.time)

/-- The Temperature History log (R467). -/
def historyLog (s : Block) : List Byte :=
  (List.range 8).flatMap (fun i =>
    let h := tabGet {} s.adm.hist (i + 1)
    leBytes 2 h.max ++ leBytes 2 h.min ++ leBytes 2 (kelvin (sensorC s (i + 1))) ++ leBytes 2 0 ++
      (List.range 30).flatMap (fun b => leBytes 4 (tabGet 0 h.bins b)))

/-- The Reservation Notification log of a controller: its oldest entry. -/
def resvLogPage (c : Controller) : List Byte :=
  match c.resvLog with
  | [] => zeroBytes 64
  | (n, k, ns) :: rest => padTo 64 (leBytes 8 n ++ leBytes 1 k ++ leBytes 1 (min 255 rest.length) ++ zeroBytes 2 ++ leBytes 4 ns)

/-- The Sanitize Status log: idle, and whether a crypto-erase has been completed. -/
def sanitizeLog (s : Block) : List Byte :=
  padTo 512 (leBytes 2 0xFFFF ++ leBytes 2 (if s.med.sanitizes = 0 then 0 else 1) ++ leBytes 4 4)

/-- The page of a log identifier for controller p; none for an identifier that there is not. -/
def logPage (s : Block) (p lid : Nat) : Option (List Byte) :=
  match lid with
  | 0x01 => some (errorLog s)
  | 0x02 => some (smartLog s)
  | 0x03 => some (fwLog s)
  | 0x04 => some (padTo 4096 ((getCtl s p).changed.flatMap (leBytes 4)))
  | 0x05 => some effectsLog
  | 0x80 => some (resvLogPage (getCtl s p))
  | 0x81 => some (sanitizeLog s)
  | 0xC0 => some (healthExt s)
  | 0xC1 => some (recBytes (getEvt s p).pageLog)
  | 0xC2 => some (recBytes (getEvt s p).ctxLog)
  | 0xC3 => some (deferredLog s)
  | 0xC4 => some (recBytes (getEvt s p).wakeLog)
  | 0xC5 => some (lostLog s)
  | 0xC6 => some (historyLog s)
  | 0xC7 => some (maintLog s)
  | _ => none

/-- What a read of a log changes: with RAE = 0 its events are re-armed, and logs 0x04, 0xC1, 0xC2 and 0xC4 are emptied; the oldest entry
of log 0x80 goes; a read of log 0x02 lets bits 1 and 2 clear. -/
def logRead (s : Block) (p lid : Nat) (rae : Bool) : Block :=
  let s := if lid = 0x02 then settleCrit { s with critRead := [1, 2] } else s
  if rae then s
  else
    let s := updEvt s p (fun q => { q with
      reported := q.reported.filter (fun e => e.log ≠ lid)
      pageLog := if lid = 0xC1 then [] else q.pageLog
      ctxLog := if lid = 0xC2 then [] else q.ctxLog
      wakeLog := if lid = 0xC4 then [] else q.wakeLog })
    updCtl s p (fun c => { c with
      changed := if lid = 0x04 then [] else c.changed, resvLog := if lid = 0x80 then c.resvLog.drop 1 else c.resvLog })

/-- Get Log Page, for controller p. -/
def getLogBy (cmd : CmdRef) (p : Nat) (lid : Byte) (rae : Bool) (off len : Nat) (s : Block) : Block :=
  match logPage s p lid.toNat with
  | none => complete s cmd 0 0 (status 1 0x09 1)
  | some b =>
    let s := sendData s cmd 0 (bytesAt b off len)
    complete (logRead s p lid.toNat rae) cmd 0 0 0

/-- GET_LOG_PAGE (R469). -/
def doGetLogPage (cmd : CmdRef) (lid : Byte) (rae : Bool) (off len : Nat) (s : Block) : Block :=
  onAdmin s cmd (getLogBy cmd cmd.ctrl lid rae off len)

end Sys2Proof.Machine
end

