-- ==== Sys2Proof/Machine/Scrub.lean ====
section
/-! DEFINITION. Scrub: the symbol code of device memory and the word code of the SRAM stores at work: scrub, write-backs, marks and
parity errors (R554 to R570, R577). -/
namespace Sys2Proof.Machine

/-- A queued write-back is taken from a queue: whether it is stale; none if none is queued. -/
def takeWb (l : List WriteBack) (line : Nat) : Option (Bool × List WriteBack) :=
  match l.find? (fun w => w.line = line) with
  | none => none
  | some w => some (w.stale, l.erase w)

/-- DM_WRITE_BACK (R558, R559): the oldest queued write-back of a line reaches its controller. -/
def doDmWriteBack (line : Nat) (s : Block) : Block :=
  let p := pgChk (stackOf (line * 64))
  match takeWb s.dmWb line with
  | none => s
  | some (true, l) => bump { s with dmWb := l } p 8 1
  | some (false, l) => bump { s with dmWb := staleWb l line, dmErr := tabErase s.dmErr line } p 7 1

/-- The judged write of CHK_DM_MARK (R557, R574, R577). -/
def writeDmMark (s : Block) (u : Nat) (w : Writer) (value : Word) : Block :=
  let v := value &&& 0x8000000F
  plainWrite s (pgChk u) 0x200 w (mmRight w) (badIf (decide (8 ≤ u))) (fun s =>
    let new := decide (bvBits v 31 1 = 1) && getRegD s (pgChk u) 0x200 0 != v
    let s := setReg s (pgChk u) 0x200 v
    if new then raiseCrit (raiseIrq (lifeBump s lifeDramDiesFailed 1) (pgChk u) 19) 2 else settleCrit s)

/-- CHK_DM_MARK_WRITE (R557). -/
def doChkDmMarkWrite (w : Writer) (u : ChkNo) (value : Word) (s : Block) : Block :=
  enterWrite s (pgChk u) w 0x200 value (fun _ _ s => writeDmMark s u w value)

/-- The judged write of CHK_DM_THRESH (R577). -/
def writeDmThresh (s : Block) (u : Nat) (w : Writer) (value : Word) : Block :=
  plainWrite s (pgChk u) 0x204 w (mmRight w) (badIf (Nat.ble 8 u || value &&& 0xFFFF == 0))
    (fun s => setReg s (pgChk u) 0x204 (value &&& 0xFFFF))

/-- The line number of line n of stack k. -/
def lineNo (k n : Nat) : Nat :=
  let prog := pagesPerStack * 32768
  if n < prog then k * prog + n else 8 * prog + k * (linesPerStack - prog) + (n - prog)

/-- A scrub read counts toward its pass (R568, R577). -/
def scrubCount (s : Block) (k : Nat) : Block :=
  let n := tabGet 0 s.scrubbed k + 1
  let s := { s with scrubbed := tabSet s.scrubbed k (n % linesPerStack) }
  let passes := bvBits (getRegD s (pgChk k) 0x218 0) 16 16
  let passes := if n = linesPerStack then satAdd 0xFFFF passes 1 else passes
  bump (setReg s (pgChk k) 0x218 (BitVec.ofNat 32 (passes * 2 ^ 16 + n % linesPerStack * 1000 / linesPerStack))) (pgChk k) 9 1

/-- Scrub has found a line uncorrectable (R562, R570): a line of the reserve is rebuilt; a free page is zeroised again, and held out
if its line is still uncorrectable after that. -/
def scrubBad (s : Block) (line : Nat) : Block :=
  let g := line * 64 / pageBytes
  if pagesPerStack * 8 ≤ g then { s with dmErr := tabErase s.dmErr line, dmWb := staleWb s.dmWb line }
  else
    match tabGet PageUse.dirty s.pageUse g with
    | .clean =>
      if tabFind s.suspect g = some line then
        raiseCrit { s with pageUse := tabSet s.pageUse g .heldOut, suspect := tabErase s.suspect g } 2
      else { s with pageUse := tabErase s.pageUse g, suspect := tabSet s.suspect g line }
    | _ => s

/-- DM_SCRUB_READ (R568): line n of stack k is read. fresh: the symbols that have come into error since the line was last read or
written; errors enter device memory here alone (log entry 42). -/
def doDmScrubRead (k : StackNo) (n : Fin 858993459) (fresh : List (Fin 40)) (s : Block) : Block :=
  if !natBit s.hub.ready 3 then s
  else
    let line := lineNo k n
    let ys := sortBy Nat.ble ((lineSyms s line ++ fresh.map (fun y => y.val)).eraseDups)
    let s := if ys.isEmpty then s else { s with dmErr := tabSet s.dmErr line ys }
    let r := dmReadLines (scrubCount s k) [line] ⟨7, none⟩
    if r.2.isSome then scrubBad r.1 line
    else { r.1 with suspect := r.1.suspect.filter (fun e => e.2 ≠ line) }

/-- SRAM_SCRUB_READ (R569): a word of a core's local store, or of a cluster store, is read in an idle step of its port. fresh: the bits
that have come into error since it was last read or written (log entry 42). -/
def doSramScrubRead (cluster : Bool) (unit : Fin 12288) (word : Fin 2097152) (fresh : Fin 3) (s : Block) : Block :=
  if !natBit s.hub.ready 3 || (if cluster then Nat.ble 768 unit else Nat.ble 131072 word) then s
  else
    let i := if cluster then wordCs unit (word.val * 8) else wordLs unit (word.val * 8)
    let n := tabGet 0 s.sramErr i + fresh
    let s := if n = 0 then s else { s with sramErr := tabSet s.sramErr i (min 2 n) }
    (sramRead s (if cluster then 2 else 1) unit [word]).1

/-- SRAM_WRITE_BACK (R564): the oldest queued write-back of a word; a write in between abandons it. -/
def doSramWriteBack (word : Nat) (s : Block) : Block :=
  match takeWb s.sramWb word with
  | none => s
  | some (true, l) => { s with sramWb := l }
  | some (false, l) => { s with sramWb := staleWb l word, sramErr := tabErase s.sramErr word }

/-- STATE_PARITY_ERROR (R567): a core that executes faults with class DATA, kind STATE; the low 20 bits of the detail name an address
in the store kinds only and are free here (log entry 43). The fence follows as UNIT_FAULT_FENCE. -/
def doStateParityError (c : CoreNo) (s : Block) : Block :=
  let k := getCore s c
  if k.placed.isNone || k.ended || k.run == .faulted || k.run == .zeroising then s
  else faultCore (drawFresh s) c 0x0B (detail20 4 (Config.parityDetail s.fresh).toNat) k.pc

end Sys2Proof.Machine
end

