-- ==== Sys2Proof/Machine/StuCore.lean ====
section
/-! DEFINITION. StuCore: the state of the system time unit and what its links tell it (R527, R528, R532, R544). -/
namespace Sys2Proof.Machine

def getLink (s : Block) (l : Nat) : Link := tabGet {} s.links l
def updLink (s : Block) (l : Nat) (f : Link → Link) : Block := { s with links := tabSet s.links l (f (getLink s l)) }
def updStu (s : Block) (f : StuState → StuState) : Block := { s with stu := f s.stu }

/-- The nanoseconds in LOCKED and HOLDOVER are counted up to now (R544). -/
def stuAccount (s : Block) : Block :=
  let n := s.now - s.stu.mark
  let s := match s.stu.st with
    | .locked => bump s pgStu 5 n
    | .holdover => bump s pgStu 6 n
    | _ => s
  updStu s (fun u => { u with mark := s.now })

/-- STATE changes; IRQ LOCK and LOST (R543). -/
def setStuState (s : Block) (st : StuSt) : Block :=
  let old := s.stu.st
  if old = st then s
  else
    let s := updStu (stuAccount s) (fun u => { u with st := st, wasLocked := u.wasLocked || st == .locked })
    if st = .locked then raiseIrq s pgStu 16 else if old = .locked then raiseIrq s pgStu 17 else s

/-- Whether a link that TIME frames cross is up. -/
def linkTrained (k : Link) : Bool := k.st == .quarantine || k.st == .active || k.st == .draining || k.st == .retrain

/-- The links that hear a domain. -/
def hearing (s : Block) : List (Nat × Heard) :=
  (List.range 24).filterMap (fun l => (getLink s l).heard.bind (fun h => if h.hops = 0xFF then none else some (l, h)))

/-- Whether a link is ACTIVE. -/
def anyActive (s : Block) : Bool := s.links.any (fun e => e.2.st == .active)

/-- The parent (R528): of the peers of the domain that are LOCKED or grandmaster the one with the fewest hops, then the lowest link. -/
def bestParent (s : Block) : Option (Nat × Heard) :=
  (hearing s).foldl (fun b e =>
    let ok := (s.stu.domain.map (·.1)) == some e.2.domain && (natBit e.2.flags 0 || natBit e.2.flags 2) && e.2.hops != 63
    if !ok then b
    else
      match b with
      | none => some e
      | some q => if e.2.hops < q.2.hops then some e else b) none

/-- Brings the parent, HOPS and FOREIGN up to date. -/
def settleTime (s : Block) : Block :=
  let p := if s.stu.gm then none else bestParent s
  let foreign := (hearing s).any (fun e => s.stu.domain.any (fun d => d.1 != e.2.domain))
  let rise := foreign && !s.stu.foreign
  let s := updStu s (fun u => { u with
    parent := p.map (·.1), foreign := foreign,
    hops := if u.gm then 0 else match p with
      | some e => e.2.hops + 1
      | none => u.hops })
  if rise then raiseIrq s pgStu 18 else s

end Sys2Proof.Machine
end

