-- ==== Sys2Proof/Machine/Links.lean ====
section
/-! DEFINITION. Links: lanes, blocks, replay and credits of the Aupen links, training, and the router (R485 to R500, R505, R513 to R518,
R521 to R523). -/
namespace Sys2Proof.Machine

/-! Frames as cells (R496). -/

def frameCells (f : Frame) : Nat := 1 + (f.payload.length + 15) / 16

/-- The cells of a frame. -/
def frameBytes (f : Frame) : List Byte :=
  leBytes 1 f.type ++ leBytes 1 (f.vc + 4 * f.layer + 8 * boolNat f.linkLocal) ++ leBytes 1 (frameCells f - 1) ++ zeroBytes 1 ++
    leBytes 2 f.dst ++ leBytes 2 f.src ++ leBytes 1 f.gen ++ zeroBytes 1 ++ leBytes 2 f.sseq ++ leBytes 4 f.spec ++
    padTo (16 * (frameCells f - 1)) f.payload

/-- The frame that whole cells spell. -/
def frameOf (b : List Byte) : Frame :=
  let path := fieldAt b 1 1
  { type := fieldAt b 0 1, vc := path % 4, layer := path / 4 % 2, linkLocal := natBit path 3, dst := fieldAt b 4 2 % 16384,
    src := fieldAt b 6 2 % 16384, gen := fieldAt b 8 1, sseq := fieldAt b 0xA 2, spec := fieldAt b 0xC 4, payload := b.drop 16 }

/-- Whether frames of a type travel in streams (R497). -/
def inStream (type : Nat) : Bool := decide (1 ≤ type) && decide (type ≤ 4)

/-! Credits and arbitration (R494, R495). -/

/-- The selector of a frame's VC and layer. -/
def selOf (f : Frame) : Nat := f.vc * 2 + f.layer
/-- Cells of the receiver's buffer of a selector. -/
def bufCells (sel : Nat) : Nat := if sel / 2 = 0 then 8192 else if sel / 2 = 1 then 4096 else 512

/-- Cells that a sender may still send on a selector. -/
def creditOf (k : Link) (sel : Nat) : Nat :=
  bufCells sel - (tabGet 0 k.sent sel + 16384 - tabGet 0 k.peerFreed sel) % 16384

/-- The next frame to send: CTRL before RSP before REQ, the layers of a VC in turn, one for which there is credit. -/
def pickFrame (k : Link) : Option (Nat × Frame) :=
  [2, 1, 0].findSome? (fun vc =>
    let first := 1 - tabGet 1 k.served vc
    [first, 1 - first].findSome? (fun layer =>
      match tabGet [] k.queue (vc * 2 + layer) with
      | f :: _ => if frameCells f ≤ creditOf k (vc * 2 + layer) then some (vc * 2 + layer, f) else none
      | [] => none))

/-- Whether frames wait on some VC for which there is no credit. -/
def isStarved (k : Link) : Bool :=
  (List.range 6).any (fun sel => match tabGet [] k.queue sel with
    | f :: _ => decide (creditOf k sel < frameCells f)
    | [] => false)

/-- A frame leaves its queue and begins to be sent. -/
def startFrame (k : Link) (sel : Nat) (f : Frame) : Link :=
  { k with
    queue := tabSet k.queue sel ((tabGet [] k.queue sel).drop 1), served := tabSet k.served (sel / 2) (sel % 2),
    sent := tabSet k.sent sel ((tabGet 0 k.sent sel + frameCells f) % 16384), tail := frameBytes f, tailFrame := some f }

/-- The cells of a block being filled: the link, the bytes, the index of the first cell that begins a frame, the frames in it. -/
structure Filling where
  link : Link
  bytes : List Byte := []
  first : Nat := 0xFF
  frames : List Frame := []
  deriving DecidableEq, Repr

/-- Fills a block with frames whole and in order; what does not fit is the next block's. -/
def fillBlock : Nat → Filling → Filling
  | 0, x => x
  | n + 1, x =>
    let used := x.bytes.length / 16
    if 39 ≤ used then x
    else if !x.link.tail.isEmpty then
      let take := (39 - used) * 16
      fillBlock n { x with
        bytes := x.bytes ++ x.link.tail.take take, link := { x.link with tail := x.link.tail.drop take },
        frames := x.frames ++ x.link.tailFrame.toList }
    else
      match pickFrame x.link with
      | none => x
      | some (sel, f) => fillBlock n { x with link := startFrame x.link sel f, first := if x.first = 0xFF then used else x.first }

/-! Blocks (R490 to R492). -/

/-- Sends a block of a type with its cells; it carries ACK, a NAK once, and the next selector's CREDIT. -/
def sendBlock (s : Block) (l type seq first : Nat) (cells : List Byte) (replay : Bool) : Block :=
  let k := getLink s l
  let ack := (k.expect + 4095) % 4096 + boolNat k.nak * 2 ^ 12 + boolNat replay * 2 ^ 13
  let head := leBytes 2 (seq + type * 2 ^ 12) ++ leBytes 2 ack ++ leBytes 4 (tabGet 0 k.freed k.turn + k.turn * 2 ^ 14) ++
    leBytes 1 first ++ zeroBytes 3
  let cells := padTo 624 cells
  let s := if k.nak then bump s (pgAup l) 8 1 else s
  emit (updLink s l (fun k => { k with nak := false, turn := (k.turn + 1) % 6 }))
    (.block l (head ++ leBytes 4 (crc32cOf (head ++ cells)) ++ cells))

/-- Sends DATA blocks while there are frames with credit and room in the replay buffer; the state and how many. -/
def sendBlocks (s : Block) (l : Nat) : Nat → Block × Nat
  | 0 => (s, 0)
  | n + 1 =>
    let k := getLink s l
    if !(k.st == .active || k.st == .quarantine) || decide (512 ≤ k.replay.length) ||
        (k.tail.isEmpty && (pickFrame k).isNone) then (s, 0)
    else
      let x := fillBlock 80 { link := k }
      let h : HeldBlock := ⟨k.nextSeq, x.bytes, x.first, x.frames, s.now⟩
      let s := updLink s l (fun _ => { x.link with nextSeq := (k.nextSeq + 1) % 4096, replay := x.link.replay ++ [h] })
      let s := sendBlock (bump s (pgAup l) 2 1) l 0 k.nextSeq x.first x.bytes false
      let r := sendBlocks s l n
      (r.1, r.2 + 1)

/-- The time without credit is counted (R523). -/
def noteStarved (s : Block) (l : Nat) : Block :=
  let k := getLink s l
  match k.starved, isStarved k with
  | none, true => updLink s l (fun k => { k with starved := some s.now })
  | some t, false => updLink (bump s (pgAup l) 13 (s.now - t)) l (fun k => { k with starved := none })
  | _, _ => s

/-- Whether PRBS31 goes out in place of blocks: a link under test is trained (R517). -/
def sendsPrbs (s : Block) (l : Nat) : Bool := (getPage s (pgAup l)).service == .testing && (getLink s l).st == .quarantine

/-- The transmitter sends what it can. idle: a block goes out in any case, IDLE if there is nothing else. -/
def pump (s : Block) (l : Nat) (idle : Bool) : Block :=
  let r := if sendsPrbs s l then (s, 1) else sendBlocks s l 600
  let s := noteStarved r.1 l
  let k := getLink s l
  if idle && r.2 == 0 && linkTrained k && k.st != .retrain then sendBlock s l 1 k.nextSeq 0xFF [] false else s

/-- The training record of this side (R514). -/
def usable (k : Link) (i : Nat) : Bool :=
  let a := if i = 0 then k.lane0 else k.lane1
  a.locked && !a.disabled && !a.retired
def laneBits (k : Link) : Nat := boolNat (usable k 0) + 2 * boolNat (usable k 1)
def sendTrain (s : Block) (l phase : Nat) : Block :=
  let k := getLink s l
  let cap := natBits (getPage s (pgAup l)).ctl.toNat 16 8
  let ackValid := boolNat (k.st == .retrain) * 2 ^ 15
  sendBlock (updLink s l (fun k => { k with phase := phase })) l 2 k.nextSeq 0xFF
    (leBytes 2 0x4155 ++ leBytes 1 cap ++ leBytes 1 0x12 ++ leBytes 2 s.self ++ leBytes 1 l ++ leBytes 1 (laneBits k) ++
      leBytes 2 ((k.expect + 4095) % 4096 + ackValid) ++ leBytes 1 phase ++ leBytes 1 k.version ++ zeroBytes 4) false

/-! Queues of a link. -/

/-- A frame is queued on a link, in a layer, and sent when it may be. -/
def sendOn (s : Block) (l layer : Nat) (f : Frame) : Block :=
  let f := { f with layer := layer }
  pump (updLink s l (fun k => { k with queue := tabSet k.queue (selOf f) (tabGet [] k.queue (selOf f) ++ [f]) })) l false

/-- A frame for the module at the far end of a link alone (R496, R516). -/
def sendLocal (s : Block) (l : Nat) (f : Frame) : Block :=
  match (getLink s l).peer with
  | some (m, _) => sendOn s l 0 { f with linkLocal := true, dst := m, src := s.self }
  | none => s

/-! DOWN and RETRAIN (R493, R505). -/

def mapLanes (k : Link) (f : Nat → LaneRx → LaneRx) : Link := { k with lane0 := f 0 k.lane0, lane1 := f 1 k.lane1 }

/-- The frames that a link loses when it goes DOWN: those with cells in the replay buffer and those in its queues. -/
def lostFrames (k : Link) : List Frame :=
  (k.replay.flatMap (·.frames) ++ k.tailFrame.toList.filter (fun _ => !k.tail.isEmpty) ++ k.queue.flatMap (·.2)).eraseDups

/-- The GAP_CHECKs for the streams that lost frames: for each, one past the highest SSEQ lost. -/
def lostChecks (l : List Frame) : List Frame :=
  let l := l.filter (fun f => inStream f.type)
  ((l.map (fun f => (f.src, f.dst, f.vc, f.gen))).eraseDups).map (fun key =>
    let mine := l.filter (fun f => (f.src, f.dst, f.vc, f.gen) == key)
    let top := mine.foldl (fun t f => if seqAhead t f.sseq < 32768 then f.sseq else t) ((mine.head?.map (·.sseq)).getD 0)
    gapCheck key.1 key.2.1 key.2.2.1 key.2.2.2 ((top + 1) % 65536))

/-- A link goes DOWN (R493, R505, R515, R517): nothing of its traffic is kept, and the streams that lost frames are checked. -/
def linkDown (s : Block) (l reason : Nat) : Block :=
  let k := getLink s l
  let lost := lostFrames k
  let s := updLink s l (fun k => { mapLanes k (fun _ a => { a with locked := false, bad := 0, shift := none }) with
    st := .down, reason := reason, version := 0, width := 0, rate := 0, peer := none, phase := 0, peerReady := none, retrains := 0,
    queue := [], tail := [], tailFrame := none, nextSeq := 0, replay := [], tries := 0, expect := 0, discard := false, nak := false,
    partly := [], sent := [], peerFreed := [], freed := [], turn := 0, starved := none, heard := none, exch := none, theta := none })
  let s := if k.st = .down then s else raiseIrq s (pgAup l) 17
  settleTime ((lostChecks lost).foldl sendFrame s)

/-- A link enters RETRAIN (R493): its lanes search for lock again, its traffic is kept. -/
def enterRetrain (s : Block) (l : Nat) : Block :=
  let k := getLink s l
  if k.st == .active || k.st == .quarantine || k.st == .draining then
    bump (updLink s l (fun k => { mapLanes k (fun _ a => { a with locked := false, bad := 0, shift := none }) with
      st := .retrain, prev := k.st, peerReady := none, phase := 0 })) (pgAup l) 10 1
  else s

/-- LINK_RETRAIN (R493): the far end retrains or the lanes lose lock, and the link enters RETRAIN. -/
def doLinkRetrain (l : LinkNo) (s : Block) : Block := enterRetrain s l

/-- LINK_DOWN (R493): no lane has had a signal for 100 µs. -/
def doLinkDown (l : LinkNo) (s : Block) : Block := if (getLink s l).st = .down then s else linkDown s l 1

/-! Acknowledgement and replay (R491, R492). -/

/-- An ACK frees the blocks that it covers. -/
def ackBlocks (s : Block) (l ack : Nat) : Block :=
  let k := getLink s l
  if k.replay.any (fun h => h.seq == ack) then
    updLink s l (fun k => { k with replay := (k.replay.dropWhile (fun h => h.seq ≠ ack)).drop 1, tries := 0 })
  else s

/-- The blocks held are sent again from the oldest, the first marked REPLAY; after four replays without an advance, RETRAIN. -/
def replayAll (s : Block) (l : Nat) : Block :=
  let k := getLink s l
  if k.replay.isEmpty then s
  else if 4 ≤ k.tries then enterRetrain s l
  else
    let s := updLink s l (fun k => { k with tries := k.tries + 1, replay := k.replay.map (fun h => { h with sent := s.now }) })
    ((getLink s l).replay.zipIdx).foldl (fun s e => sendBlock s l 0 e.1.seq e.1.first e.1.cells (e.2 == 0))
      (bump s (pgAup l) 9 k.replay.length)

/-- REPLAY_TIMEOUT (R492): the oldest block held has waited 10 µs. -/
def doReplayTimeout (l : LinkNo) (s : Block) : Block :=
  let k := getLink s l
  match k.replay.head? with
  | none => s
  | some h =>
    if k.st == .active || k.st == .quarantine || k.st == .draining then replayAll (atTime s (h.sent + 10000)) l else s

/-! Training (R514, R515, R518). -/

/-- A training record as it came (R514). -/
def recordOf (b : List Byte) : Option TrainRec :=
  if fieldAt b 0 2 = 0x4155 then
    some ⟨fieldAt b 2 1, fieldAt b 3 1, fieldAt b 4 2 % 16384, fieldAt b 6 1, fieldAt b 7 1,
      if natBit (fieldAt b 8 2) 15 then some (fieldAt b 8 2 % 4096) else none, fieldAt b 0xA 1⟩
  else none

/-- Whether the page's SERVICE state lets its link train. -/
def mayTrain (s : Block) (l : Nat) : Bool :=
  match (getPage s (pgAup l)).service with
  | .fenced => false
  | .retired => false
  | _ => true

/-- A training ends: lanes that did not lock count a failure, and the third in a row retires a lane (R518). -/
def laneResults (k : Link) : Link :=
  mapLanes k (fun _ a =>
    if a.disabled || a.retired then a
    else if a.locked then { a with fails := 0 }
    else { a with fails := a.fails + 1, retired := decide (3 ≤ a.fails + 1) })

/-- The agreed width is in force; its change is an event. -/
def setWidth (s : Block) (l w : Nat) : Block :=
  let k := getLink s l
  let s := updLink s l (fun k => { k with width := w, lastWidth := w })
  if k.lastWidth ≠ 0 ∧ k.lastWidth ≠ w then raiseIrq s (pgAup l) 18 else s

def popBits (v : Nat) : Nat := boolNat (natBit v 0) + boolNat (natBit v 1)

/-- READY has gone both ways: SEQ restarts and the link enters QUARANTINE (R514). -/
def linkReady (s : Block) (l lanes : Nat) : Block :=
  let w := popBits (Nat.land (laneBits (getLink s l)) lanes)
  if w = 0 then linkDown (updLink s l laneResults) l 2
  else
    let s := updLink s l (fun k => { laneResults k with st := .quarantine, phase := 2, nextSeq := 0, expect := 0, discard := false, nak := false })
    pump (raiseIrq (setWidth s l w) (pgAup l) 19) l true

/-- A record of the negotiation (R515). -/
def negotiate (s : Block) (l : Nat) (r : TrainRec) : Block :=
  let cap := natBits (getPage s (pgAup l)).ctl.toNat 16 8
  let agreed := min cap r.vmax
  let agreed := if 0x20 ≤ agreed then 0x20 else agreed
  let s := updLink s l (fun k => { k with peer := some (r.module, r.link) })
  if r.module = s.self then raiseIrq (linkDown s l 4) (pgAup l) 20
  else if agreed < max 0x12 r.vmin ∨ (agreed ≠ 0x12 ∧ agreed ≠ 0x20) then linkDown s l 3
  else if Nat.land (laneBits (getLink s l)) r.lanes = 0 then linkDown (updLink s l laneResults) l 2
  else
    let s := updLink s l (fun k => { k with version := agreed })
    if agreed = 0x20 then
      updLink (sendTrain s l 1) l (fun k => { mapLanes k (fun _ a => { a with locked := false }) with rate := 2 })
    else sendTrain s l 2

/-- A training record advances the link. -/
def takeRecord (s : Block) (l : Nat) (r : TrainRec) : Block :=
  let k := getLink s l
  if !mayTrain s l then s
  else
    match k.st with
    | .negotiate =>
      if k.phase = 0 then negotiate s l r
      else if k.phase = 2 ∧ r.phase = 2 then linkReady s l r.lanes
      else s
    | .retrain =>
      if r.phase = 2 then
        (match r.ackSeq with
         | some a => updLink s l (fun k => { k with peerReady := some a })
         | none => s)
      else s
    | _ => s

/-- TRAIN_RECORD_RECEIVE (R514). -/
def doTrainRecordReceive (l : LinkNo) (r : TrainRec) (s : Block) : Block := takeRecord s l r

/-- The lanes start to search: those that LANE_DISABLE names are not used (R514, R521). -/
def startTraining (s : Block) (l : Nat) : Block :=
  let dis := natBits (getPage s (pgAup l)).ctl.toNat 2 2
  updLink s l (fun k => { mapLanes k (fun i a => { a with disabled := natBit dis i }) with st := .search, rate := 1, phase := 0 })

/-- LANE_LOCK (R488): a lane with a signal examines a candidate: three codewords in a row that decode, show SYNC and a LANE, and count
up. It locks if they do; else it searches on. -/
def doLaneLock (l : LinkNo) (lane : Fin 2) (decodes : Fin 8) (field : Fin 2) (cw0 cw1 cw2 : Fin 64) (s : Block) : Block :=
  if !mayTrain s l || !natBit s.hub.ready 2 then s
  else
    let s := if (getLink s l).st = .down then startTraining s l else s
    let k := getLink s l
    let a := if lane.val = 0 then k.lane0 else k.lane1
    let good := decodes.val == 7 && cw1.val == (cw0.val + 1) % 64 && cw2.val == (cw0.val + 2) % 64
    if !good || a.disabled || a.retired || a.locked || !(k.st == .search || k.st == .negotiate || k.st == .retrain) then s
    else
      let put (a : LaneRx) : LaneRx := { a with locked := true, field := field.val, cw := (cw0.val + 3) % 64, bad := 0, shift := none }
      let s := updLink s l (fun k => if lane.val = 0 then { k with lane0 := put k.lane0 } else { k with lane1 := put k.lane1 })
      match k.st with
      | .search => sendTrain (updLink s l (fun k => { k with st := .negotiate })) l 0
      | .negotiate => if k.phase = 0 then sendTrain s l 0 else sendTrain s l 2
      | _ => sendTrain s l 2

/-- LINK_RETRAIN_DONE (R493): READY has come with the far end's ACK, and traffic resumes from there; or the retrain fails, and the
third failure in a row takes the link DOWN. -/
def doLinkRetrainDone (l : LinkNo) (pass : Bool) (s : Block) : Block :=
  let k := getLink s l
  if k.st ≠ .retrain then s
  else if pass then
    match k.peerReady with
    | none => s
    | some a =>
      if laneBits k = 0 then s
      else
        let w := popBits (laneBits k)
        let s := updLink s l (fun k => { laneResults k with st := k.prev, retrains := 0, tries := 0, phase := 2 })
        pump (replayAll (ackBlocks (setWidth s l w) l a) l) l true
  else
    let s := updLink s l (fun k => laneResults { k with retrains := k.retrains + 1 })
    if 3 ≤ k.retrains + 1 then linkDown s l 5
    else
      bump (updLink s l (fun k => { mapLanes k (fun _ a => { a with locked := false }) with peerReady := none, phase := 0 })) (pgAup l) 10 1

/-! Receiving blocks (R489 to R491). -/

/-- Whether a link takes a frame in now: in QUARANTINE the link-local ones of four types alone (R516). -/
def admitsFrame (k : Link) (f : Frame) : Bool :=
  k.st != .quarantine || (f.linkLocal && (f.type == 1 || f.type == 2 || f.type == 3 || f.type == 5))

/-- Cells freed on a selector. -/
def freeCells (s : Block) (l sel n : Nat) : Block :=
  updLink s l (fun k => { k with freed := tabSet k.freed sel ((tabGet 0 k.freed sel + n) % 16384) })

/-- A whole frame has come over a link: it goes to the router, or is discarded (R497, R516). -/
def frameIn (s : Block) (l : Nat) (f : Frame) : Block :=
  if f.type < 1 ∨ 9 < f.type ∨ !admitsFrame (getLink s l) f then freeCells (linkError s (pgAup l)) l (selOf f) (frameCells f)
  else toRouter s (some l) f

/-- Takes cells in (R496): PAD cells are ignored, and the cells of a frame follow its header cell. -/
def takeCells (s : Block) (l : Nat) (b : List Byte) : Nat → Block
  | 0 => s
  | n + 1 =>
    let cell := b.take 16
    let k := getLink s l
    let part := if k.partly.isEmpty ∧ fieldAt cell 0 1 = 0 then [] else k.partly ++ cell
    let whole := !part.isEmpty && decide (16 * (1 + fieldAt part 2 1) ≤ part.length)
    let s := updLink s l (fun k => { k with partly := if whole then [] else part })
    let s := if whole then frameIn s l (frameOf part) else s
    takeCells s l (b.drop 16) n

/-- A block is lost: DATA is discarded until a replay, and one NAK asks for it. -/
def blockLost (s : Block) (l : Nat) : Block :=
  updLink s l (fun k => if k.discard then k else { k with discard := true, nak := true })

/-- A block whose codeword decoded (R490, R491). -/
def blockIn (s : Block) (l : Nat) (b : List Byte) : Block :=
  let type := fieldAt b 0 2 / 2 ^ 12
  if fieldAt b 0xC 4 ≠ crc32cOf (bytesAt b 0 12 ++ bytesAt b 16 624) then blockLost (bump s (pgAup l) 7 1) l
  else if 2 < type then blockLost s l
  else
    let credit := fieldAt b 4 4
    let s := updLink s l (fun k => { k with peerFreed := tabSet k.peerFreed (natBits credit 14 3) (credit % 16384) })
    let s := ackBlocks s l (fieldAt b 2 2 % 4096)
    let s := if natBit (fieldAt b 2 2) 12 then replayAll s l else s
    let k := getLink s l
    if type = 0 then
      if (!k.discard || natBit (fieldAt b 2 2) 13) && fieldAt b 0 2 % 4096 == k.expect then
        takeCells (bump (updLink s l (fun k => { k with expect := (k.expect + 1) % 4096, discard := false })) (pgAup l) 3 1) l
          (bytesAt b 16 624) 39
      else s
    else if type = 2 then (match recordOf (bytesAt b 16 16) with
      | some r => takeRecord s l r
      | none => s)
    else s

/-- BLOCK_RECEIVE (R489, R491): a codeword of a lane, as the decoder finds it. The codewords of a link's lanes come paired, in the order
of their blocks (R487; log entry 44). -/
def doBlockReceive (l : LinkNo) (lane : Fin 2) (w : CodeWord) (s : Block) : Block :=
  let k := getLink s l
  let a := if lane.val = 0 then k.lane0 else k.lane1
  if !a.locked then s
  else
    let p := pgAup l
    let s := if !w.decodes then bump s p 6 1 else if w.corrected.val = 0 then s else bump (bump s p 4 1) p 5 w.corrected.val
    let h := w.header
    let good := w.decodes && bvBits h 10 10 == 0x2B6 && bvBits h 9 1 == a.field && bvBits h 3 6 == a.cw
    let moved := !good && w.shift.isSome && a.shift == w.shift
    let bad := if good || moved then 0 else a.bad + 1
    let a' : LaneRx := { a with
      cw := (a.cw + 1) % 64, bad := bad, shift := if good || moved then none else w.shift,
      slips := if moved then satAdd 63 a.slips 1 else a.slips }
    let s := updLink s l (fun k => if lane.val = 0 then { k with lane0 := a' } else { k with lane1 := a' })
    let s := if w.decodes then blockIn s l w.block else blockLost s l
    if 4 ≤ bad then enterRetrain s l else pump s l true

/-! Admission, test, drain (R516, R517, R533). -/

/-- Whether this end finds a link time-locked: the same domain, LOCKED, θ within 10 ns. -/
def timeLocked (s : Block) (l : Nat) : Bool :=
  let k := getLink s l
  s.stu.st == .locked &&
    k.heard.any (fun h => natBit h.flags 0 && s.stu.domain.any (fun d => d.1 == h.domain)) &&
    k.theta.any (fun t => decide (-655360 ≤ t) && decide (t ≤ 655360))

/-- LINK_ADMIT (R516): ADMIT is 1 here and at the far end, and both ends find the link time-locked. far: what the far end shows. -/
def doLinkAdmit (l : LinkNo) (far : Bool) (s : Block) : Block :=
  if (getLink s l).st = .quarantine ∧ !sendsPrbs s l ∧ far ∧ natBit (getPage s (pgAup l)).ctl.toNat 0 ∧ timeLocked s l then
    pump (raiseIrq (updLink s l (fun k => { k with st := .active })) (pgAup l) 16) l true
  else s

/-- LINK_DRAIN_DONE (R517): a fenced link's replay buffer is empty and 50 µs have passed: it goes DOWN, and the unit is FENCED. -/
def doLinkDrainDone (l : LinkNo) (s : Block) : Block :=
  if (getPage s (pgAup l)).service = .draining ∧ (getLink s l).replay.isEmpty then
    drained (linkDown s l 6) (pgAup l)
  else s

/-- LINK_TEST_END (R517): the 10 ms of PRBS31 end; n codewords did not decode. -/
def doLinkTestEnd (l : LinkNo) (n : Nat) (s : Block) : Block :=
  if (getPage s (pgAup l)).service = .testing then bump (if (getLink s l).st = .down then s else linkDown s l 6) (pgAup l) 6 n else s

/-! CTL and the route table (R521, R522). -/

/-- The judged write of CTL of an AUP page. -/
def writeAupCtl (s : Block) (l : Nat) (w : Writer) (value : Word) : Block :=
  let p := pgAup l
  let cap := bvBits value 16 8
  guardedWrite s p 0x014 w value (ownerRight (getPage s p) w) (badIf (cap != 0x12 && cap != 0x20)) (fun s =>
    let s := setCtl s p .aup value.toNat
    if natBit value.toNat 1 then enterRetrain s l else s)

/-- AUP_RETRAIN_WRITE (R521): a write of CTL with RETRAIN = 1, its other fields with it. -/
def doAupRetrainWrite (w : Writer) (l : LinkNo) (value : Word) (s : Block) : Block :=
  let value := value ||| 2
  enterWrite s (pgAup l) w 0x014 value (fun _ _ s => writeAupCtl s l w value)

/-- The code that refuses a write of AUP_ROUTE_ENTRY (R521). -/
def routeRight (g : Page) (w : Writer) : Option Nat :=
  if w.master == .mm then none
  else if w.master == .pk || w.master == .pe then some eNotPermitted
  else if isOwner g w then none
  else some eNotOwner

/-- The destination that a master's AUP_ROUTE_INDEX names. -/
def routeDest (s : Block) (w : Writer) : Nat := (tabGet 0 s.sel (8 * 1 + masterCode w.master)).toNat % 16384

/-- The judged write of AUP_ROUTE_ENTRY. -/
def writeRoute (s : Block) (l : Nat) (w : Writer) (value : Word) : Block :=
  plainWrite s (pgAup l) 0x11C w (routeRight (getPage s (pgAup l)) w)
    (badIf (decide (23 < bvBits value 24 5) || decide (23 < bvBits value 16 5)))
    (fun s => { s with routes := tabSet s.routes (routeDest s w) (value &&& 0x9F1F0007) })

/-- AUP_ROUTE_ENTRY_WRITE (R522). -/
def doAupRouteEntryWrite (w : Writer) (l : LinkNo) (value : Word) (s : Block) : Block :=
  enterWrite s (pgAup l) w 0x11C value (fun _ _ s => writeRoute s l w value)

/-! The router (R498, R499). -/

/-- The link by which a frame leaves, and whether UP is set for it. -/
def routeOf (s : Block) (dst : Nat) : Option (Nat × Nat) :=
  let e := tabGet 0 s.routes dst
  let p := bvBits e 24 5
  let a := bvBits e 16 5
  if bvBits e 31 1 = 0 then none
  else if (getLink s p).st = .active then some (p, bvBits e 0 1)
  else if bvBits e 2 1 = 1 ∧ (getLink s a).st = .active then some (a, bvBits e 1 1)
  else none

/-- The page that counts an error of the router: that of the link a frame came through, or else of link 0 (log entry 45). -/
def viaPage (via : Option Nat) : Nat := pgAup (via.getD 0)

/-- A frame is dropped (R499): its source is told if it was in a stream. reason: 2 NO_ROUTE, 3 VERSION. -/
def dropFrame (s : Block) (r : Routed) (reason : Nat) : Block :=
  let f := r.frame
  if inStream f.type then toRouter s none (streamNotice s.self f.src f.dst 2 reason f.vc f.gen f.sseq)
  else linkError s (viaPage r.via)

/-- A frame at the router (R498): delivered here, forwarded, discarded or dropped. -/
def route (s : Block) (r : Routed) : Block :=
  let f := r.frame
  if f.dst = s.self then { s with inbox := s.inbox ++ [r] }
  else if f.linkLocal then linkError s (viaPage r.via)
  else
    match routeOf s f.dst with
    | none => dropFrame s r 2
    | some (l, up) =>
      let layer := max f.layer up
      if (getLink s l).version = 0x12 ∧ (layer = 1 ∨ 4096 ≤ f.src ∨ 4096 ≤ f.dst ∨ f.type = 4) then dropFrame s r 3
      else sendOn (if r.via.isSome then bump s (viaPage r.via) 11 1 else s) l layer f

/-- FRAME_FORWARD (R498): the oldest frame at the router; its room in the link's buffer is free again (R494). -/
def doFrameForward (s : Block) : Block :=
  match s.routerIn with
  | [] => s
  | r :: rest =>
    let s := { s with routerIn := rest }
    let s := match r.via with
      | some l => freeCells s l (selOf r.frame) (frameCells r.frame)
      | none => s
    route s r

/-! Frames of the module (R502 to R510). -/

/-- Whether a frame came over a link of A1.2. -/
def viaA12 (s : Block) (r : Routed) : Bool := r.via.any (fun l => (getLink s l).version == 0x12)

/-- The oldest delivered frame is taken by the command of its type; a frame of a stream takes effect only where R502 applies it. -/
def onInbox (s : Block) (type : Nat) (f : Block → Routed → Block) : Block :=
  match s.inbox with
  | [] => s
  | r :: rest =>
    if r.frame.type ≠ type then s
    else
      let s := { s with inbox := rest }
      if inStream type then
        let t := streamTake s r (viaA12 s r)
        if t.2 then f t.1 r else t.1
      else f s r

/-- A collective that lost a frame fails here and on the other members' modules (R510). -/
def failJobColl (s : Block) (job n : Nat) : Block :=
  let s := failColl s (.system job) n 2
  match (jobMembers s job).head? with
  | some (_, j) => sendColl s j 2 n []
  | none => s

/-- The failures of stream frames to a module on a VC reach their initiators (R510); each once. -/
def failFrames (s : Block) (m vc : Nat) (l : List Initiator) : Block :=
  l.eraseDups.foldl (fun s i => match i with
    | .coll job n => failJobColl s job n
    | .mm => emit s (.mmFailure m vc)) s

/-- A POISON or DROPPED notice for generation g from SSEQ n on (R507): those frames fail, and the stream goes on in the next generation. The
frames before them wait for their SACK. -/
def streamFailed (s : Block) (m vc g n : Nat) : Block :=
  let t := getTx s m vc
  if g ≠ t.gen then s
  else
    let bad (f : TxFrame) : Bool := f.gen == g && decide (seqAhead n f.sseq < 32768)
    let fails := (t.frames.filter bad).map (·.init) ++ t.waiting.map (·.2)
    let s := putTx s m vc { t with
      gen := (g + 1) % 256, next := 0, base := 0, waiting := [],
      frames := t.frames.filter (fun f => !bad f) }
    failFrames s m vc fails

/-- An EVENT notice of a peer's page (R509): logged for every active controller. -/
def peerEvent (s : Block) (src page bits : Nat) : Block :=
  (List.range (activePorts s)).foldl (fun s p =>
    postEvent (updEvt s p (fun q => { q with
      pageLog := logPush q.pageLog ⟨page, src, bits, s.now⟩ (fun r => { r with bits := r.bits % 2 ^ 31 + 2 ^ 31 }) })) p ⟨7, 1, 0xC1⟩) s

/-- NOTICE_FRAME (R506, R507, R509). -/
def doNoticeFrame (s : Block) : Block :=
  onInbox s 6 (fun s r =>
    let b := r.frame.payload
    let kind := fieldAt b 0 1
    let vc := fieldAt b 2 1
    let gen := fieldAt b 3 1
    let sseq := fieldAt b 4 2
    let peer := fieldAt b 8 2 % 16384
    let s := match r.via with
      | some l => setReg (bump s (pgAup l) 12 1) (pgAup l) 0x120
          (BitVec.ofNat 32 (kind % 16 * 2 ^ 28 + fieldAt b 1 1 % 16 * 2 ^ 24 + gen * 2 ^ 16 + vc % 4 * 2 ^ 14 + peer))
      | none => s
    if kind = 1 ∨ kind = 2 then streamFailed s peer vc gen sseq
    else if kind = 3 then
      failFrames s peer vc (((getTx s peer vc).frames.filter (fun f => f.gen == gen && f.sseq == sseq)).map (·.init))
    else if kind = 4 then peerEvent s (fieldAt b 6 2 % 16384) sseq (fieldAt b 10 4)
    else s)

/-- SACK_FRAME (R501). -/
def doSackFrame (s : Block) : Block :=
  onInbox s 7 (fun s r =>
    let b := r.frame.payload
    takeSack s r.frame.src (fieldAt b 0 1) (fieldAt b 1 1) (fieldAt b 2 2))

/-- GAP_CHECK_FRAME (R504): frames are missing, and the stream is poisoned; or a SACK answers. A stream that is poisoned already repeats its
notice, at most every 100 µs (R503). -/
def doGapCheckFrame (s : Block) : Block :=
  onInbox s 8 (fun s r =>
    let f := r.frame
    let t := getRx s f.src f.vc
    let d := seqAhead t.expect (fieldAt f.payload 2 2)
    if fieldAt f.payload 0 1 ≠ t.gen then s
    else if 1 ≤ d ∧ d ≤ 32768 then
      (if t.poison ∧ s.now < t.noticeAt + 100000 then putRx s f.src f.vc { t with again := true } else poisonStream s f.src f.vc)
    else sendSack s f.src f.vc)

/-- A contribution of another module's member grows as its frames come (R497). -/
def remotePart (q : Coll) (member off : Nat) (data : List Byte) : Coll :=
  let o := member * 2 ^ 15
  let old := ((q.parts.find? (fun p => p.ordinal == o)).map (·.data)).getD []
  let bytes := bytesPut (padTo (max old.length (off + data.length)) old) off data
  putPart q { ordinal := o, shape := ⟨0, 0, 0, 0, 0, 0, 0, 0, 0⟩, data := bytes, remote := true }

/-- COLL_FRAME (R497, R508, R510): role 0 contribution, 1 result, 2 abort. Members of this model combine contributions themselves, so
a result changes nothing (log entry 19). -/
def doCollFrame (s : Block) : Block :=
  onInbox s 4 (fun s r =>
    let f := r.frame
    let b := f.payload
    let job := fieldAt b 0 4
    let role := fieldAt b 6 1
    let n := fieldAt b 8 4
    match jobMembers s job with
    | [] => sendFrame s (streamNotice s.self f.src s.self 3 4 f.vc f.gen f.sseq)
    | (x, _) :: _ =>
      let s := wakeCause s 1 x f.src
      if role = 0 then
        (let lost := (findColl s (.system job) n).any (·.lost)
         if lost then s else updColl s (.system job) n (fun q => remotePart q (fieldAt b 4 2) (fieldAt b 12 4) (b.drop 16)))
      else if role = 2 then failColl s (.system job) n 2
      else s)

/-- COMPLETION_FRAME (R497): the value of a READ returns to the module manager. -/
def doCompletionFrame (s : Block) : Block :=
  onInbox s 3 (fun s r => emit s (.mmCompletion r.frame.src r.frame.spec (fieldAt r.frame.payload 0 8)))

/-! Register values of the AUP page (R521). -/

def linkStCode : LinkSt → Nat
  | .down => 0
  | .search => 1
  | .negotiate => 2
  | .quarantine => 3
  | .active => 4
  | .retrain => 5
  | .draining => 6

def laneByte (a : LaneRx) : Nat := boolNat a.retired * 128 + boolNat a.disabled * 64 + a.slips

/-- The computed registers of an AUP page for a reader; none for a stored one. -/
def aupValue (s : Block) (l : Nat) (w : Writer) (off : Nat) : Option Word :=
  let k := getLink s l
  let cr (vc unit : Nat) : Nat := min 255 ((creditOf k (vc * 2) + creditOf k (vc * 2 + 1)) / unit)
  let up := linkTrained k
  if off = 0x100 then some (BitVec.ofNat 32 (linkStCode k.st * 2 ^ 28 + k.reason * 2 ^ 24 + k.version * 2 ^ 16 +
    (boolNat k.lane0.locked + 2 * boolNat k.lane1.locked) * 2 ^ 8 + k.width * 2 ^ 4 + k.rate))
  else if off = 0x104 then some (BitVec.ofNat 32 (match k.peer with
    | some (m, q) => 2 ^ 31 + q % 32 * 2 ^ 16 + m
    | none => 0))
  else if off = 0x108 then some (BitVec.ofNat 32 s.self)
  else if off = 0x10C then some (BitVec.ofNat 32 (laneByte k.lane1 * 2 ^ 8 + laneByte k.lane0))
  else if off = 0x110 then some (BitVec.ofNat 32 (k.replay.length * 2 ^ 16 + k.tries * 2 ^ 12 + k.nextSeq))
  else if off = 0x114 then some (if up then BitVec.ofNat 32 (cr 0 64 * 2 ^ 24 + cr 1 64 * 2 ^ 16 + cr 2 4 * 2 ^ 8) else 0)
  else if off = 0x118 then some (tabGet 0 s.sel (8 * 1 + masterCode w.master))
  else if off = 0x11C then some (tabGet 0 s.routes (routeDest s w))
  else none

end Sys2Proof.Machine
end

