-- ==== Sys2Proof/Machine/Join.lean ====
section
/-! DEFINITION. Join: joining a context into a job (R364, R443, R497). -/
namespace Sys2Proof.Machine

/-- JOIN_FAILED (R445). -/
def stJoinFailed : Nat := vend 0x30 0

/-- The JOIN frame of a member. -/
def joinFrame (self dst x : Nat) (j : Job) : Frame :=
  { type := 0x09, vc := 2, dst := dst, src := self,
    payload := leBytes 4 j.id ++ leBytes 2 j.count ++ leBytes 2 j.index ++ leBytes 2 x ++ zeroBytes 6 }

/-- The modules that a JOIN is announced to: every one that has a route (log entry 46). -/
def joinTargets (s : Block) : List Nat :=
  (s.routes.filter (fun e => bvBits e.2 31 1 == 1 && e.1 != s.self)).map (·.1)

/-- The members of a job on this module, joined or joining. -/
def joining (s : Block) (id : Nat) : List (Nat × Job) :=
  s.ctxs.filterMap (fun e => e.2.job.bind (fun j => if j.id = id then some (e.1, j) else none))

def updJob (s : Block) (x : Nat) (f : Job → Job) : Block := updCtx s x (fun c => { c with job := c.job.map f })

/-- A member becomes known to the members on this module. -/
def noteMember (s : Block) (id index m x : Nat) : Block :=
  (joining s id).foldl (fun s e => updJob s e.1 (fun j => { j with members := tabSet j.members index (m, x) })) s

/-- Members on this module that now know every member have joined, and their commands complete. -/
def settleJoin (s : Block) (id : Nat) : Block :=
  (joining s id).foldl (fun s e =>
    if !e.2.joined && decide (e.2.count ≤ e.2.members.length) then
      complete (updJob s e.1 (fun j => { j with joined := true })) e.2.cmd 0 0 0
    else s) s

/-- JOIN (R364, R435). -/
def doJoin (cmd : CmdRef) (x : CtxNo) (id : Word) (count index : BitVec 15) (s : Block) : Block :=
  onCmd s (computeReady s) cmd (fun s =>
    match ctxStatus s cmd x with
    | some st => complete s cmd 0 0 st
    | none =>
      if count.toNat < 2 ∨ 16384 < count.toNat ∨ count.toNat ≤ index.toNat then complete s cmd 0 0 stInvalidField
      else if (getCtx s x).job.isSome then complete s cmd 0 0 (vend 0x04 0)
      else
        let others := joining s id.toNat
        if others.any (fun e => e.2.index == index.toNat || e.2.count != count.toNat) then complete s cmd 0 0 stJoinFailed
        else
          let known := ((others.head?).map (fun e => e.2.members)).getD []
          let j : Job := { id := id.toNat, count := count.toNat, index := index.toNat, since := s.now, cmd := cmd, members := known }
          let s := noteMember (updCtx s x (fun c => { c with job := some j })) j.id j.index s.self x
          let s := (joinTargets s).foldl (fun s m => sendFrame s (joinFrame s.self m x j)) s
          settleJoin s j.id)

/-- JOIN_FRAME (R364): a member on another module announces itself; members here that it may not know of answer. -/
def doJoinFrame (s : Block) : Block :=
  onInbox s 9 (fun s r =>
    let b := r.frame.payload
    let id := fieldAt b 0 4
    let index := fieldAt b 6 2
    let m := r.frame.src
    let x := fieldAt b 8 2
    let mine := joining s id
    let new := mine.any (fun e => tabFind e.2.members index ≠ some (m, x))
    if !new || mine.any (fun e => e.2.index == index || e.2.count != fieldAt b 4 2) then s
    else
      let s := noteMember s id index m x
      let s := mine.foldl (fun s e => sendFrame s (joinFrame s.self m e.1 e.2)) s
      settleJoin s id)

/-- JOIN_TIMEOUT (R364, R443): 100 ms have passed, and not every member has joined. -/
def doJoinTimeout (x : CtxNo) (s : Block) : Block :=
  match (getCtx s x).job with
  | none => s
  | some j =>
    if j.joined then s
    else
      let s := updCtx (atTime s (j.since + 100000000)) x (fun c => { c with job := none })
      let s := (joining s j.id).foldl (fun s e =>
        if e.2.joined then s else updJob s e.1 (fun q => { q with members := tabErase q.members j.index })) s
      complete s j.cmd 0 0 stJoinFailed

end Sys2Proof.Machine
end

