-- ==== Sys2Proof/Machine/Wake.lean ====
section
/-! DEFINITION. Wake: the wake arbiter, PME and the D-states of a port (R453 to R456). -/
namespace Sys2Proof.Machine

/-- A host resume reaches the arbiter (R456). -/
def hostResumes (s : Block) : Block := if s.low && !s.resuming then { s with hostResume := true } else s

/-- The port that a PME goes to: the lowest one in D3 with PME_En (log entry 38). -/
def pmePort (s : Block) : Option Nat :=
  (List.range (activePorts s)).find? (fun p => (getCtl s p).pmeEn && (getCtl s p).dstate != .d0)

/-- Sends the PME of the pending causes. -/
def sendPme (s : Block) : Block :=
  match pmePort s with
  | none => s
  | some p =>
    let s := updCtl s p (fun c => { c with pmeStatus := true })
    { bump (emit s (.pme p)) (pgNve p) 8 1 with pmeSent := true }

/-- WAKE_ARBITRATION (R456): a host resume begins a resume without a PME; else the first pending cause is a device wake, with one PME. -/
def doWakeArbitration (s : Block) : Block :=
  if !s.low || s.resuming then s
  else if s.hostResume then { s with hostResume := false, resuming := true }
  else if s.wakes.isEmpty then s
  else { (if s.pmeSent then s else sendPme s) with resuming := true }

/-- PME_RESEND (R456): a host has suspended again with a cause pending that has had no PME; a resume begins at it. -/
def doPmeResend (p : PortNo) (s : Block) : Block :=
  let c := getCtl s p
  if !s.wakes.isEmpty && !s.pmeSent && !s.resuming && c.dstate == .d3hot && c.pmeEn then
    let s := updCtl s p (fun c => { c with pmeStatus := true })
    { bump (emit s (.pme p)) (pgNve p) 8 1 with pmeSent := true, resuming := true }
  else s

/-- RESUME_COMPLETE (R454, R456): the module has left LOW, and the pending causes are delivered. -/
def doResumeComplete (s : Block) : Block :=
  if !s.resuming then s
  else
    let due := !s.wakes.isEmpty
    let s := { accountTimes s with low := false, resuming := false, hostResume := false, wakes := [], pmeSent := false }
    if due then (List.range 4).foldl (fun s p => postEvent s p ⟨7, 4, 0xC4⟩) s else s

/-- PMCSR_WRITE (R456): a host sets the device state of its port and PME_En, and clears PME_Status with a 1. -/
def doPmcsrWrite (p : PortNo) (d : PowerD) (pmeEn clear : Bool) (s : Block) : Block :=
  if activePorts s ≤ p.val then s
  else
    let was := (getCtl s p).dstate
    let s := updCtl s p (fun c => { c with dstate := d, pmeEn := pmeEn, pmeStatus := c.pmeStatus && !clear })
    if d = .d0 then (if was = .d0 then s else hostResumes s) else settleLow s

end Sys2Proof.Machine
end

