-- ==== Sys2Proof/Machine/Admin.lean ====
section
/-! DEFINITION. Admin: Identify (R424, R460 to R462) and the features (R471 to R474). -/
namespace Sys2Proof.Machine

/-! Identify. The places of the fields are those of NVMe Base 2.0 (log entry 36). -/

/-- Puts fields at their offsets into n zero bytes. -/
def layOut (n : Nat) (l : List (Nat × List Byte)) : List Byte := l.foldl (fun b e => bytesPut b e.1 e.2) (zeroBytes n)

def ascii (s : String) : List Byte := s.toList.map (fun c => BitVec.ofNat 8 c.toNat)
/-- A string in n characters, padded with spaces. -/
def asciiPad (n : Nat) (s : String) : List Byte := ((ascii s) ++ List.replicate n 0x20).take n

def serial : List Byte := (List.range 20).map Config.serialByte
/-- SSVID: that of the option record if it sets one, else the factory's (R460, R601). -/
def ssvid (s : Block) : List Byte := if s.opt.inforce.isEmpty then leBytes 2 Config.factorySsvid.toNat else bytesAt s.opt.inforce 0x18 2

/-- Identify Controller of port p (R424, R460, R461). The field for a power state's maximum, in 0.01 W, holds that of PS3; those of the
operational states (R453) are more than it holds, and read 0: not reported. -/
def identifyCtl (s : Block) (p : Nat) : List Byte :=
  layOut 4096 [(0, leBytes 2 Config.vendorId.toNat), (2, ssvid s), (4, serial), (24, asciiPad 40 "DNF-8424-Q120"),
    (64, (slotFr s s.adm.active).getD (zeroBytes 8)), (76, leBytes 1 3), (77, leBytes 1 9), (78, leBytes 2 (p + 1)),
    (80, leBytes 4 0x00020000), (92, leBytes 4 0x300), (111, leBytes 1 1), (256, leBytes 2 0x14E), (258, leBytes 1 255), (259, leBytes 1 15),
    (260, leBytes 1 0x14), (261, leBytes 1 6), (262, leBytes 1 255), (263, leBytes 1 3), (266, leBytes 2 358), (268, leBytes 2 368),
    (270, leBytes 2 1), (280, leBytes 16 userBytes), (296, leBytes 16 (userBytes - usedBytes s)), (319, leBytes 1 0x10),
    (328, leBytes 4 1), (512, leBytes 1 0x66), (513, leBytes 1 0x44), (516, leBytes 4 128), (520, leBytes 2 0xFD), (524, leBytes 1 4),
    (536, leBytes 4 2), (768, (List.range 236).map Config.subNqnByte ++ serial),
    (2048 + 3 * 32, leBytes 4 (2 ^ 25 + 25000) ++ leBytes 4 5000 ++ leBytes 4 2000), (2048 + 32, zeroBytes 4 ++ leBytes 4 10 ++ leBytes 4 10),
    (2048 + 64, zeroBytes 4 ++ leBytes 4 10 ++ leBytes 4 10),
    (3072, leBytes 2 0x8424 ++ leBytes 1 2 ++ leBytes 1 (byteAt s.opt.inforce 0x10).toNat ++ leBytes 4 32768 ++ leBytes 4 12288 ++
      leBytes 2 24 ++ leBytes 1 0x20 ++ zeroBytes 1 ++ leBytes 8 412316860416 ++ leBytes 2 512 ++ leBytes 2 8)]

/-- Identify Namespace (R425, R462). -/
def identifyNs (n : Namespace) : List Byte :=
  let iu := iuBlocks n - 1
  layOut 4096 [(0, leBytes 8 n.blocks), (8, leBytes 8 n.blocks), (16, leBytes 8 n.store.length), (24, leBytes 1 0x16), (25, leBytes 1 5),
    (26, leBytes 1 (n.formatIdx + boolNat n.extended * 16)), (27, leBytes 1 3), (28, leBytes 1 0x1F),
    (29, leBytes 1 (n.prot + boolNat n.protFirst * 8)), (30, leBytes 1 (boolNat n.shared)), (31, leBytes 1 0xFF), (34, leBytes 2 iu),
    (36, leBytes 2 iu), (40, leBytes 2 iu), (44, leBytes 2 iu), (48, leBytes 16 (n.blocks * n.lba)), (64, leBytes 2 iu), (66, leBytes 2 iu),
    (68, leBytes 2 iu), (70, leBytes 2 iu), (72, leBytes 2 iu),
    (128, (List.range 6).flatMap (fun i => let f := (lbaFormat i).getD (512, 0)
      leBytes 2 f.2 ++ leBytes 1 (if f.1 = 512 then 9 else 12) ++ leBytes 1 0))]

/-- A list of namespace identifiers above nsid. -/
def nsList (l : List Nat) (nsid : Nat) : List Byte :=
  padTo 4096 (((sortBy Nat.ble l).filter (fun n => decide (nsid < n))).flatMap (leBytes 4))
/-- A list of controller identifiers from cntid on. -/
def ctlList (l : List Nat) (cntid : Nat) : List Byte :=
  let l := l.filter (fun c => decide (cntid ≤ c))
  padTo 4096 (leBytes 2 l.length ++ l.flatMap (leBytes 2))

/-- The data structure of a CNS value, or the status that refuses it. -/
def identifyData (s : Block) (p cns nsid cntid : Nat) : List Byte ⊕ Nat :=
  let act := (getCtl s p).attached
  let bad := decide (nsid = 0) || decide (128 < nsid)
  match cns with
  | 0x00 =>
    if nsid = 0xFFFFFFFF then .inl (zeroBytes 4096)
    else if bad then .inr stInvalidNamespace
    else match (if act.contains nsid then getNs s nsid else none) with
      | some n => .inl (identifyNs n)
      | none => .inl (zeroBytes 4096)
  | 0x01 => .inl (identifyCtl s p)
  | 0x02 => .inl (nsList act nsid)
  | 0x03 => if act.contains nsid then .inl (zeroBytes 4096) else .inr stInvalidNamespace
  | 0x10 => .inl (nsList (tabKeys s.nss) nsid)
  | 0x11 =>
    if bad then .inr stInvalidNamespace
    else match getNs s nsid with
      | some n => .inl (identifyNs n)
      | none => .inl (zeroBytes 4096)
  | 0x12 => if bad then .inr stInvalidNamespace else .inl (ctlList ((attachedTo s nsid).map (· + 1)) cntid)
  | 0x13 => .inl (ctlList ((List.range (activePorts s)).map (· + 1)) cntid)
  | _ => .inr stInvalidField

/-- Identify, for controller p. -/
def identifyBy (cmd : CmdRef) (p : Nat) (cns : Byte) (nsid cntid : Nat) (s : Block) : Block :=
  match identifyData s p cns.toNat nsid cntid with
  | .inl b => complete (sendData s cmd 0 b) cmd 0 0 0
  | .inr st => complete s cmd 0 0 st

/-- IDENTIFY (R460 to R462). -/
def doIdentify (cmd : CmdRef) (cns : Byte) (nsid cntid : Nat) (s : Block) : Block :=
  onBoot s cmd (identifyBy cmd cmd.ctrl cns nsid cntid)

/-! Features (R471). -/

/-- Features that can be saved. -/
def saveable (fid : Nat) : Bool := [0x01, 0x04, 0x05, 0x08, 0x09, 0x0A, 0x0B, 0x82, 0x83].contains fid
/-- Features that hold a value of each controller, with no more to them. -/
def plainFeature (fid : Nat) : Bool := [0x01, 0x08, 0x0A].contains fid
/-- The key of the saved value of a vector's configuration. -/
def vecKey (v : Nat) : Nat := 0x10000 + v

/-- What a feature holds: its value, data for those that have some; or the status that refuses the request. sel: 0 current, 1 default,
2 saved. -/
def featureOf (s : Block) (p fid sel nsid dw11 : Nat) : (Nat × List Byte) ⊕ Nat :=
  let c := getCtl s p
  let v (n : Nat) : (Nat × List Byte) ⊕ Nat := .inl (n, [])
  if plainFeature fid then v (if sel = 0 then tabGet 0 c.feats fid else if sel = 2 then tabGet 0 c.savedFeats fid else 0)
  else
    match fid with
    | 0x02 => v (if sel = 0 then powerState c else 0)
    | 0x04 =>
      let i := natBits dw11 16 4
      let lowSide := natBits dw11 20 2 == 1
      if 8 < i ∨ 1 < natBits dw11 20 2 then .inr stInvalidField
      else
        let d := if lowSide then 0 else 358
        let a := s.adm
        v (if sel = 1 then d
           else if sel = 2 then tabGet d (if lowSide then a.underKSaved else a.overKSaved) i
           else tabGet d (if lowSide then a.underK else a.overK) i)
    | 0x05 =>
      (match (if c.attached.contains nsid then getNs s nsid else none) with
       | none => .inr stInvalidNamespace
       | some n => v (if sel = 0 then boolNat n.dulbe * 2 ^ 16 + n.tler else if sel = 2 then n.savedRecovery else 0))
    | 0x07 => v (4095 + 4095 * 2 ^ 16)
    | 0x09 =>
      let x := natBits dw11 0 16
      if 2048 ≤ x then .inr stInvalidField
      else
        let cd := if sel = 0 then c.vecNoCoalesce.contains x else if sel = 2 then tabGet 0 c.savedFeats (vecKey x) == 1 else false
        v (x + boolNat cd * 2 ^ 16)
    | 0x0B => v (if sel = 0 then (getEvt s p).config.toNat else if sel = 2 then tabGet 0xFFFFFFFF c.savedFeats 0x0B else 0xFFFFFFFF)
    | 0x0E =>
      (match s.adm.stamp with
       | some (ms, at_) => .inl (0, leBytes 6 (ms + (s.now - at_) / 1000000) ++ leBytes 1 2 ++ zeroBytes 1)
       | none => .inl (0, leBytes 6 ((s.now - s.hub.startTime) / 1000000) ++ zeroBytes 2))
    | 0x81 => .inl (1, leBytes 16 (if sel = 0 then c.hostId else 0))
    | 0x82 =>
      (match (if c.attached.contains nsid then getNs s nsid else none) with
       | none => .inr stInvalidNamespace
       | some n => v (if sel = 0 then n.resvMask else if sel = 2 then n.savedResvMask else 0))
    | 0x83 =>
      (match (if c.attached.contains nsid then getNs s nsid else none) with
       | none => .inr stInvalidNamespace
       | some n => v (if sel = 1 then 0 else boolNat n.ptpl))
    | _ => .inr stInvalidField

/-- Feature Identifier Not Saveable. -/
def stNotSaveable : Nat := status 1 0x0D 1

/-- Get Features, for controller p: sel 3 asks for the capabilities. -/
def getFeatureBy (cmd : CmdRef) (p : Nat) (fid : Byte) (sel : Fin 8) (nsid dw11 : Nat) (s : Block) : Block :=
  let f := fid.toNat
  if 3 < sel.val then complete s cmd 0 0 stInvalidField
  else
    match featureOf s p f (if sel.val = 3 then 0 else sel.val) nsid dw11 with
    | .inr st => complete s cmd 0 0 st
    | .inl (v, b) =>
      if sel.val = 3 then
        complete s cmd (boolNat (saveable f) + (if f = 0x05 ∨ f = 0x82 ∨ f = 0x83 then 2 else 0) + (if f = 0x07 then 0 else 4)) 0 0
      else complete (sendData s cmd 0 b) cmd v 0 0

/-- GET_FEATURES (R471). -/
def doGetFeatures (cmd : CmdRef) (fid : Byte) (sel : Fin 8) (nsid dw11 : Nat) (s : Block) : Block :=
  onAdmin s cmd (getFeatureBy cmd cmd.ctrl fid sel nsid dw11)

/-- A feature of a namespace is set, for one namespace or for every attached one. -/
def setNsFeature (s : Block) (p nsid : Nat) (f : Namespace → Namespace) : Option Block :=
  let act := (getCtl s p).attached
  if nsid = 0xFFFFFFFF then some (act.foldl (fun s n => updNs s n f) s)
  else if act.contains nsid && (getNs s nsid).isSome then some (updNs s nsid f)
  else none

/-- Sets a feature: the state, or the status that refuses it. -/
def putFeature (s : Block) (p fid : Nat) (save : Bool) (nsid dw11 : Nat) (data : List Byte) : Block ⊕ Nat :=
  let upd (f : Controller → Controller) : Block := updCtl s p f
  let ns (f : Namespace → Namespace) : Block ⊕ Nat := match setNsFeature s p nsid f with
    | some s => .inl s
    | none => .inr stInvalidNamespace
  if plainFeature fid then
    .inl (upd (fun c => { c with
      feats := tabSet c.feats fid dw11, savedFeats := if save then tabSet c.savedFeats fid dw11 else c.savedFeats }))
  else
    match fid with
    | 0x02 =>
      if 3 < natBits dw11 0 5 then .inr stInvalidField
      else
        let s := upd (fun c => { c with feats := tabSet c.feats 0x02 (natBits dw11 0 5) })
        .inl (if natBits dw11 0 5 = 3 then settleLow s else hostResumes s)
    | 0x04 =>
      let i := natBits dw11 16 4
      let t := natBits dw11 0 16
      let side := natBits dw11 20 2
      let put (l : Tab Nat) : Tab Nat := if i = 15 then (List.range 9).foldl (fun l j => tabSet l j t) l else tabSet l i t
      if (8 < i ∧ i ≠ 15) ∨ 1 < side then .inr stInvalidField
      else
        .inl (settleCrit (updAdm s (fun a => if side = 0 then
          { a with overK := put a.overK, overKSaved := if save then put a.overKSaved else a.overKSaved }
          else { a with underK := put a.underK, underKSaved := if save then put a.underKSaved else a.underKSaved })))
    | 0x05 => ns (fun n => { n with
        tler := natBits dw11 0 16, dulbe := natBit dw11 16, savedRecovery := if save then dw11 % 2 ^ 17 else n.savedRecovery })
    | 0x07 => if natBits dw11 0 16 = 0xFFFF ∨ natBits dw11 16 16 = 0xFFFF then .inr stInvalidField else .inl s
    | 0x09 =>
      let x := natBits dw11 0 16
      if 2048 ≤ x then .inr stInvalidField
      else .inl (upd (fun c => { c with
        vecNoCoalesce := if natBit dw11 16 then x :: c.vecNoCoalesce.filter (fun v => v ≠ x) else c.vecNoCoalesce.filter (fun v => v ≠ x)
        savedFeats := if save then tabSet c.savedFeats (vecKey x) (natBits dw11 16 1) else c.savedFeats }))
    | 0x0B =>
      let s := updEvt s p (fun q => { q with config := BitVec.ofNat 32 dw11 })
      .inl (if save then updCtl s p (fun c => { c with savedFeats := tabSet c.savedFeats 0x0B dw11 }) else s)
    | 0x0E => .inl (updAdm s (fun a => { a with stamp := some (fieldAt data 0 6, s.now) }))
    | 0x81 => if natBit dw11 0 then .inl (upd (fun c => { c with hostId := fieldAt data 0 16 })) else .inr stInvalidField
    | 0x82 => ns (fun n => { n with resvMask := dw11, savedResvMask := if save then dw11 else n.savedResvMask })
    | 0x83 => ns (fun n => { n with ptpl := natBit dw11 0 })
    | _ => .inr stInvalidField

/-- Set Features, for controller p: the completion reports the value that is then in force (R474). -/
def setFeatureBy (cmd : CmdRef) (p : Nat) (fid : Byte) (save : Bool) (nsid dw11 dw12 : Nat) (data : List Byte) (s : Block) : Block :=
  let f := fid.toNat
  let _ := dw12
  if save && !saveable f then
    complete s cmd 0 0 (match featureOf s p f 0 nsid dw11 with
      | .inr st => st
      | .inl _ => stNotSaveable)
  else
    match putFeature s p f save nsid dw11 data with
    | .inr st => complete s cmd 0 0 st
    | .inl s => complete s cmd (match featureOf s p f 0 nsid dw11 with
      | .inl (v, _) => v
      | .inr _ => dw11) 0 0

/-- SET_FEATURES (R471 to R474). -/
def doSetFeatures (cmd : CmdRef) (fid : Byte) (save : Bool) (nsid dw11 dw12 : Nat) (data : List Byte) (s : Block) : Block :=
  onAdmin s cmd (fun s => setFeatureBy cmd cmd.ctrl fid save nsid dw11 dw12 data (takeData s cmd data.length))

end Sys2Proof.Machine
end

