-- ==== Sys2Proof/Machine/Fetch.lean ====
section
/-! DEFINITION. Fetch: the module manager's fetches from code flash, its prefetch buffers and branch caches (R583 to R585, R589). -/
namespace Sys2Proof.Machine

def updCfl (s : Block) (f : CflState → CflState) : Block := { s with cfl := f s.cfl }

def bankBytes : Nat := 0x4000000
def sectorBytes : Nat := 65536

/-- The first flash address of a slot, and its size (R580). -/
def slotBase (slot : Nat) : Nat := (slot - 1) * 0x4000000
def slotBytes : Nat := 0x2000000

/-- Whether a bank has a program or an erase in progress. -/
def cflRunning (s : Block) (bank : Nat) : Bool := (s.cfl.ops.head?).any (fun o => o.bank == bank && o.cmd != 3)

/-- The bytes of a line of the buffers (R584). -/
def fetchLine : Nat := 64

/-- The lines of a stretch of code flash leave a pair's buffers. -/
def FetchPair.drop (p : FetchPair) (lo hi : Nat) : FetchPair :=
  let out (l : Nat) : Bool := Nat.blt l (lo / fetchLine) || Nat.ble (hi / fetchLine) l
  { prefetch := p.prefetch.filter out, branch := tabMap (fun _ ls => ls.filter out) p.branch }

/-- The lines of the sectors from lo to hi are removed before a program or an erase of them begins (R585). -/
def CflState.dropLines (c : CflState) (lo hi : Nat) : CflState := { c with pairA := c.pairA.drop lo hi, pairB := c.pairB.drop lo hi }

/-- A change of running slot removes every line (R585). -/
def CflState.dropAllLines (c : CflState) : CflState := { c with pairA := {}, pairB := {} }

/-- The lines of the sector that the operation at the head of the queue is about to program or erase are removed (R585). -/
def CflState.dropForOp (c : CflState) : CflState :=
  match c.ops with
  | [] => c
  | o :: _ =>
    if o.cmd = 3 then c
    else c.dropLines (o.bank * bankBytes + o.sector * sectorBytes) (o.bank * bankBytes + o.sector * sectorBytes + sectorBytes)

/-- A line comes into the prefetch buffer of eight; which line gives it its place is not said (log entry 141). -/
def FetchPair.fill (p : FetchPair) (line victim : Nat) : FetchPair :=
  if p.prefetch.contains line then p
  else { p with prefetch := if p.prefetch.length < 8 then p.prefetch ++ [line] else p.prefetch.set (victim % 8) line }

/-- The set of the branch cache that a line belongs to: 1,024 lines, four to a set (log entry 141). -/
def branchSet (line : Nat) : Nat := line % 256

/-- Whether the branch cache holds a line. -/
def FetchPair.inBranch (p : FetchPair) (line : Nat) : Bool := (tabGet [] p.branch (branchSet line)).contains line

/-- A line of the branch cache is used or filled: it is the most recently used one of its set, and the fifth is lost (R584). -/
def FetchPair.touch (p : FetchPair) (line : Nat) : FetchPair :=
  let old := (tabGet [] p.branch (branchSet line)).filter (fun l => l ≠ line)
  { p with branch := tabSet p.branch (branchSet line) ((line :: old).take 4) }

/-- What a fetch of the module manager reads: code in sequence, the target of a taken branch, or data (R584). -/
inductive FetchKind where
  | next
  | target
  | data
  deriving DecidableEq, Repr

/-- A fetch by a pair (R584): data uses the prefetch buffer only; a fetch that misses brings the line and the next two into the prefetch
buffer; a taken branch brings its target and the line after it into the branch cache. The answer: the pair, the lines that come from the
array, and whether the prefetch buffer or the branch cache served it. -/
def FetchPair.fetch (p : FetchPair) (kind : FetchKind) (line victim : Nat) : FetchPair × Nat × Bool × Bool :=
  let inBuf := p.prefetch.contains line
  let inBranch := kind ≠ .data && p.inBranch line
  let missing (p : FetchPair) (l : List Nat) : Nat := (l.filter (fun x => !(p.prefetch.contains x || p.inBranch x))).length
  let ahead := [line, line + 1, line + 2]
  let n := if inBuf || inBranch then 0 else (ahead.filter (fun x => !p.prefetch.contains x)).length
  let q := if inBuf || inBranch then p
    else (ahead.zipIdx).foldl (fun p e => p.fill e.1 (victim + e.2)) p
  match kind with
  | .data => (q, n, inBuf, false)
  | .next => (if inBranch && !inBuf then q.touch line else q, n, inBuf, inBranch && !inBuf)
  | .target => ((q.touch (line + 1)).touch line, n + missing q [line, line + 1], inBuf, inBranch && !inBuf)

/-- A fetch by the module manager as the counters see it (R584, R608). -/
def mmFetch (s : Block) (pairB : Bool) (kind : FetchKind) (addr victim : Nat) : Block :=
  let p := if pairB then s.cfl.pairB else s.cfl.pairA
  match p.fetch kind (addr / fetchLine) victim with
  | (q, n, buf, br) =>
    let s := updCfl s (fun c => if pairB then { c with pairB := q } else { c with pairA := q })
    bump (bump (bump s pgCfl 3 n) pgCfl 4 (if buf then 1 else 0)) pgCfl 5 (if br then 1 else 0)

/-- Where a fetch with free bits reads: code comes from the running slot, data from either bank. -/
def fetchAddr (s : Block) (kind : FetchKind) (w : Nat) : Nat :=
  match kind with
  | .data => w % (2 * bankBytes)
  | _ => slotBase s.adm.active + w % slotBytes

/-- Whether a fetch would reach the array of a busy bank: it then waits for the suspension of the operation (R589). -/
def fetchWaits (s : Block) (pairB : Bool) (kind : FetchKind) (addr : Nat) : Bool :=
  let p := if pairB then s.cfl.pairB else s.cfl.pairA
  let line := addr / fetchLine
  cflRunning s (addr / bankBytes) && !s.cfl.suspended && !(p.prefetch.contains line || (kind ≠ .data && p.inBranch line))

/-- What the module manager's processors fetch in a nanosecond: whether one of them does, which and what are free, for the spec gives
their program no rule (log entry 141). -/
def mmRuns (s : Block) : Block :=
  let w := (Config.freeWord s.fresh).toNat
  let kind : FetchKind := if natBits w 2 2 = 0 then .data else if natBits w 2 2 = 1 then .target else .next
  let addr := fetchAddr s kind (Config.freeWord (s.fresh + 1)).toNat
  let on : Bool := match s.hub.phase with
    | .started => true
    | _ => false
  if on && natBit w 0 && !fetchWaits s (natBit w 1) kind addr then
    { mmFetch s (natBit w 1) kind addr (natBits w 4 3) with fresh := s.fresh + 2 }
  else { s with fresh := s.fresh + 2 }

end Sys2Proof.Machine
end

