-- ==== Sys2Proof/Machine/Firmware.lean ====
section
/-! DEFINITION. Firmware: the module manager's handovers (R457 to R459), firmware slots and activation (R475 to R479), and the
calibration overlay (R480, R481). -/
namespace Sys2Proof.Machine

/-! Handover (R457 to R459). -/

/-- The pairs change places. -/
def swapPairs (s : Block) : Block :=
  updAdm s (fun a => { a with servingB := !a.servingB, standby := .booting, handovers := satAdd 0xFFFF a.handovers 1 })

/-- MM_HANDOVER (R457): a lockstep mismatch, or a watchdog expiry; with no standby pair that is ready no pair serves. -/
def doMmHandover (mismatch : Bool) (s : Block) : Block :=
  let s := if mismatch then bump s pgMgr 3 1 else s
  if s.adm.standby == .ready then lifeBump (bump (swapPairs s) pgMgr 2 1) lifeHandovers 1 else s

/-- The activation in progress ends with its last step: the former serving pair is the standby, on the new image (R478). -/
def activationEnds (s : Block) : Block :=
  match s.adm.commit with
  | none => s
  | some c => bump (updAdm s (fun a => { a with step := 0, commit := none, standby := .ready, minSvn := c.img.minSvn })) pgMgr 6 1

/-- STANDBY_SELF_TEST_DONE (R457, R459, R478): the pair that does not serve has tested itself, after a handover, or on the image of an
activation, in its step 2 or 7. A pair that fails there ends the activation. -/
def doStandbySelfTestDone (pass : Bool) (s : Block) : Block :=
  let tested (s : Block) : Block := settleCrit (updAdm s (fun a => { a with standby := if pass then .ready else .failed }))
  if s.adm.standby != .booting then s
  else
    match s.adm.step with
    | 5 => s
    | 6 => s
    | 7 => if pass then activationEnds s else tested (updAdm s (fun a => { a with step := 0, commit := none }))
    | _ => tested s

/-! Firmware download and commit (R476, R477). The facts of an image's header are operands (log entry 39). -/

/-- Largest image, and the granularity of a download. -/
def fwMax : Nat := 33554432
def fwUnit : Nat := 65536

/-- Firmware Image Download, into the buffer of controller p. -/
def fwDownloadBy (cmd : CmdRef) (p off : Nat) (data : List Byte) (s : Block) : Block :=
  let n := data.length
  if off % fwUnit ≠ 0 ∨ n % fwUnit ≠ 0 ∨ n = 0 ∨ fwMax < off + n then complete s cmd 0 0 stInvalidField
  else if (getCtl s p).download.any (fun e => decide (e.1 < off + n) && decide (off < e.1 + e.2.length)) then
    complete s cmd 0 0 (status 1 0x14 1)
  else complete (updCtl s p (fun c => { c with download := tabSet c.download off data })) cmd 0 0 0

/-- FIRMWARE_IMAGE_DOWNLOAD (R476). -/
def doFirmwareImageDownload (cmd : CmdRef) (off : Nat) (data : List Byte) (s : Block) : Block :=
  onBoot s cmd (fun s => fwDownloadBy cmd cmd.ctrl off data (takeData s cmd data.length))

/-- The bytes downloaded from offset 0 on without a gap. -/
def downloaded (c : Controller) : List Byte := c.download.foldl (fun b e => if e.1 = b.length then b ++ e.2 else b) []

/-- Whether another commit or an activation is in progress. -/
def fwBusy (s : Block) : Bool := s.adm.commit.isSome || s.adm.step != 0

/-- The slot that a commit names: 0 lets the module choose the one that does not run. -/
def fwSlot (s : Block) (slot : Nat) : Nat := if slot = 0 then 3 - s.adm.active else slot

/-- Whether a download is an image that may be written (R477). -/
def fwGood (s : Block) (b : List Byte) (f : FwFacts) : Bool :=
  f.signed && decide (s.adm.minSvn ≤ f.svn) && f.imageBytes == b.length && !b.isEmpty

/-- A slot is emptied. -/
def emptySlot (a : AdminState) (i : Nat) : AdminState :=
  { a with slots := tabErase a.slots i, shippedGone := a.shippedGone || i == 1, pendingSlot := if a.pendingSlot = i then 0 else a.pendingSlot }

/-- Firmware Commit, of the image in the buffer of controller p. -/
def fwCommitBy (cmd : CmdRef) (p ca slot : Nat) (f : FwFacts) (s : Block) : Block :=
  let i := fwSlot s slot
  if fwBusy s then complete s cmd 0 0 (status 1 0x13 0)
  else if 3 < ca then complete s cmd 0 0 stInvalidField
  else if 2 < i then complete s cmd 0 0 (status 1 0x06 1)
  else if ca = 2 then
    if (slotFr s i).isNone then complete s cmd 0 0 (status 1 0x07 1)
    else complete (updAdm s (fun a => { a with pendingSlot := i })) cmd 0 0 0
  else if i = s.adm.active then complete s cmd 0 0 (status 1 0x06 1)
  else
    let b := downloaded (getCtl s p)
    if !fwGood s b f then complete s cmd 0 0 (status 1 0x07 1)
    else
      let s := updCtl s p (fun c => { c with download := [] })
      updAdm s (fun a => { emptySlot a i with
        commit := some ⟨cmd, i, ca, ⟨f.fr, f.svn, f.minSvn, b⟩⟩, step := if ca = 3 then 1 else 0 })

/-- FW_COMMIT_REPLACE: Firmware Commit with CA 0. -/
def doFwCommitReplace (cmd : CmdRef) (slot : Fin 8) (f : FwFacts) (s : Block) : Block := onBoot s cmd (fwCommitBy cmd cmd.ctrl 0 slot f)
/-- FW_COMMIT_REPLACE_ACTIVATE: CA 1. -/
def doFwCommitReplaceActivate (cmd : CmdRef) (slot : Fin 8) (f : FwFacts) (s : Block) : Block :=
  onBoot s cmd (fwCommitBy cmd cmd.ctrl 1 slot f)
/-- FW_COMMIT_ACTIVATE: CA 2; no image is checked. -/
def doFwCommitActivate (cmd : CmdRef) (slot : Fin 8) (s : Block) : Block :=
  onBoot s cmd (fwCommitBy cmd cmd.ctrl 2 slot ⟨false, [], 0, 0, 0⟩)
/-- FW_COMMIT_ACTIVATE_NOW: CA 3. -/
def doFwCommitActivateNow (cmd : CmdRef) (slot : Fin 8) (f : FwFacts) (s : Block) : Block :=
  onBoot s cmd (fwCommitBy cmd cmd.ctrl 3 slot f)

/-- A slot has been written (R586, R588): 512 sectors erased and every row programmed, where MM's own operations have not done it. -/
def slotWritten (s : Block) (slot : Nat) : Block :=
  let mine (e : Nat × Byte) : Bool := decide (slotBase slot ≤ e.1) && decide (e.1 < slotBase slot + slotBytes)
  let s := updCfl s (fun c => c.dropLines (slotBase slot) (slotBase slot + slotBytes))
  if s.cfl.mem.any mine then { s with cfl := { s.cfl with mem := memDrop s.cfl.mem (slotBase slot) (slotBase slot + slotBytes) } }
  else
    let s := { s with cfl := { s.cfl with
      wear := (List.range 512).foldl (fun t k => tabSet t ((slot - 1) * 1024 + k) (tabGet 0 t ((slot - 1) * 1024 + k) + 1)) s.cfl.wear } }
    bump (bump s pgCfl 9 512) pgCfl 8 131072

/-- FW_SLOT_WRITE_DONE (R477, R479): the slot is written and verified, or the write failed and the slot is empty. -/
def doFwSlotWriteDone (ok : Bool) (s : Block) : Block :=
  match s.adm.commit with
  | none => s
  | some c =>
    if s.adm.step ≠ 0 ∧ s.adm.step ≠ 1 then s
    else if !ok then complete (updAdm s (fun a => { a with commit := none, step := 0 })) c.cmd 0 0 (status 1 0x07 1)
    else
      let s := updAdm (slotWritten s c.slot) (fun a => { a with slots := tabSet a.slots c.slot c.img })
      match c.ca with
      | 0 => complete (updAdm s (fun a => { a with commit := none })) c.cmd 0 0 0
      | 1 => complete (updAdm s (fun a => { a with commit := none, pendingSlot := c.slot })) c.cmd 0 0 0
      | _ =>
        if s.adm.standby == .failed then
          complete (updAdm s (fun a => { a with commit := none, step := 0, pendingSlot := c.slot })) c.cmd 0 0 (status 1 0x0B 1)
        else updAdm s (fun a => { a with step := 2, standby := .booting })

/-! Activation without reset (R478, R479). -/

/-- The pages that step 6 passes: flash channels and Aupen links that serve. -/
def updateUnits (s : Block) : List Nat :=
  ((List.range 32).map pgOnf ++ (List.range 24).map pgAup).filter (fun p => match (getPage s p).service with
    | .inService => true
    | _ => false)

/-- Whether a handover or a lehr is in progress, so that steps 4 and 5 cannot be held within MTFA. -/
def mtfaLost (s : Block) : Bool :=
  s.adm.standby == .booting || s.pages.any (fun e => match e.2.service with
    | .lehr => true
    | _ => false)

/-- CSTS.PP of every controller. -/
def setPp (s : Block) (b : Bool) : Block := (List.range (activePorts s)).foldl (fun s p => updCtl s p (fun c => { c with pp := b })) s

/-- Whether step 6 and a calibration apply pass a unit over: it is out of service (R639). -/
def passedOver (s : Block) (p : Nat) : Bool :=
  match (getPage s p).service with
  | .fenced => true
  | .testing => true
  | .retired => true
  | _ => false

/-- The deferred sectors of a slot that no longer runs, or has yet to start, are refreshed: erased and programmed (R593). -/
def refreshSectors (s : Block) : Block :=
  let l := s.cfl.refresh
  let s := updCfl s (fun c => l.foldl (fun c k => c.dropLines (k * sectorBytes) (k * sectorBytes + sectorBytes)) c)
  let s := { s with cfl := { s.cfl with
    refresh := [], wear := l.foldl (fun t k => tabSet t k (tabGet 0 t k + 1)) s.cfl.wear } }
  bump (bump s pgCfl 9 l.length) pgCfl 8 (256 * l.length)

/-- FW_ACTIVATION_PROGRESS (R478, R479): the step in progress ends: step 2 with the standby pair tested, step 6 when every unit has passed its
lehr. -/
def doFwActivationProgress (s : Block) : Block :=
  let toStep (s : Block) (n : Nat) : Block := updAdm s (fun a => { a with step := n })
  let later (s : Block) (c : FwCommit) (code : Nat) : Block :=
    complete (updAdm s (fun a => { a with commit := none, step := 0, pendingSlot := c.slot })) c.cmd 0 0 (status 1 code 1)
  match s.adm.step, s.adm.commit with
  | 2, some c => if s.adm.standby == .failed then later s c 0x0B else toStep (updAdm s (fun a => { a with standby := .ready })) 3
  | 3, some c =>
    if s.adm.standby == .failed then later s c 0x0B
    else if mtfaLost s then later s c 0x12
    else
      let s := setPp (toStep s 4) true
      (List.range 4).foldl (fun s p => postEvent s p ⟨2, 1, 3⟩) s
  | 4, _ => toStep s 5
  | 5, some c =>
    let s := lifeBump (bump (swapPairs (updCfl (refreshSectors s) CflState.dropAllLines)) pgMgr 2 1) lifeHandovers 1
    let s := setPp (updAdm s (fun a => { a with active := c.slot, pendingSlot := 0, step := 6, unitsLeft := updateUnits s })) false
    complete s c.cmd 0 0 0
  | 6, _ => if s.adm.unitsLeft.all (passedOver s) then toStep (updAdm s (fun a => { a with unitsLeft := [] })) 7 else s
  | 7, _ => activationEnds s
  | _, _ => s

/-- A unit has passed a lehr: step 6 and the calibration apply go on (R478, R481). -/
def unitPassed (s : Block) (p : Nat) : Block :=
  updAdm s (fun a => { a with unitsLeft := a.unitsLeft.filter (fun q => q ≠ p), calLeft := a.calLeft.filter (fun q => q ≠ p) })

/-! Calibration (R480, R481). -/

/-- Instances of an item, and its bound: least and greatest value. -/
def calItem (item : Nat) : Option (Nat × Int × Int) :=
  match item with
  | 1 => some (512, -16, 16)
  | 2 => some (512, -8, 8)
  | 3 => some (256, -8, 8)
  | 4 => some (48, -4, 4)
  | 5 => some (16, 0, 10)
  | 6 => some (24, -12, 12)
  | 7 => some (4, -10, 10)
  | _ => none

/-- Whether an instance of an item exists: sensors are numbered within their group of R465. -/
def calInst (item inst : Nat) : Bool :=
  match item with
  | 6 => (decide (inst < 5)) || (decide (8 ≤ inst) && decide (inst < 16)) || (decide (16 ≤ inst) && decide (inst < 48))
  | _ => (calItem item).any (fun e => decide (inst < e.1))

/-- The page that passes a lehr when an item's instance changes: a flash channel, or a link (log entry 40). -/
def calPage (item inst : Nat) : Option Nat :=
  match item with
  | 1 => some (pgOnf (inst / 16))
  | 2 => some (pgOnf (inst / 16))
  | 4 => some (pgAup (inst / 2))
  | _ => none

/-- The overlay's value of an instance. -/
def overlayOf (l : List CalEntry) (item inst : Nat) : Option Int := (l.reverse.find? (fun e => e.item == item && e.inst == inst)).map (·.value)
/-- The effective value: the factory's plus the offset, or the preset. -/
def effectiveCal (l : List CalEntry) (item inst : Nat) : Int :=
  let f := (Config.factoryCal item inst).toInt
  match overlayOf l item inst with
  | none => f
  | some v => if item = 5 then v else f + v

/-- The pages whose values an overlay changes against another. -/
def calChanged (a b : List CalEntry) : List Nat :=
  ((a ++ b).filter (fun e => overlayOf a e.item e.inst != overlayOf b e.item e.inst)).filterMap (fun e => calPage e.item e.inst)

/-- A new overlay is durable: the generation counts up, and an apply starts or takes it in. -/
def setOverlay (s : Block) (l : List CalEntry) : Block :=
  let left := sortBy Nat.ble (s.adm.calLeft ++ calChanged s.adm.overlay l).eraseDups
  updAdm s (fun a => { a with overlay := l, calGen := (a.calGen + 1) % 2 ^ 32, applying := true, calLeft := left })

/-- The entries of an overlay record; none if its form is not that of R481. -/
def parseOverlay (b : List Byte) : Option (List CalEntry) :=
  let n := fieldAt b 0 4
  let body := b.drop 16
  if b.length < 16 ∨ 8192 < n ∨ body.length ≠ 8 * n ∨ fieldAt b 12 4 ≠ 0 ∨ crc32cOf body ≠ fieldAt b 8 4 then none
  else if !(List.range n).all (fun i => fieldAt body (8 * i + 1) 1 == 0) then none
  else some ((List.range n).map (fun i => ⟨fieldAt body (8 * i) 1, fieldAt body (8 * i + 2) 2, signedOf 32 (fieldAt body (8 * i + 4) 4)⟩))

/-- The status with which an entry refuses the command. -/
def calStatus (e : CalEntry) : Option Nat :=
  match calItem e.item with
  | none => some (vend 0x51 1)
  | some (_, lo, hi) => if !calInst e.item e.inst then some (vend 0x51 1) else if e.value < lo ∨ hi < e.value then some (vend 0x50 1) else none

/-- Calibration Write. -/
def calWriteBy (cmd : CmdRef) (data : List Byte) (s : Block) : Block :=
  match parseOverlay data with
  | none => complete s cmd 0 0 stInvalidField
  | some l =>
    match l.findSome? calStatus with
    | some st => complete s cmd 0 0 st
    | none => complete (setOverlay s l) cmd 0 0 0

/-- CALIBRATION_WRITE (R481). -/
def doCalibrationWrite (cmd : CmdRef) (data : List Byte) (s : Block) : Block :=
  onAdmin s cmd (fun s => calWriteBy cmd data (takeData s cmd data.length))

/-- Calibration Restore. -/
def calRestoreBy (cmd : CmdRef) (s : Block) : Block := complete (setOverlay s []) cmd 0 0 0
/-- RESTORE_FACTORY (R481). -/
def doRestoreFactory (cmd : CmdRef) (s : Block) : Block := onAdmin s cmd (calRestoreBy cmd)

/-- A record of entries, with the overlay's generation. -/
def calRecord (gen : Nat) (l : List CalEntry) : List Byte :=
  let body := l.flatMap (fun e => leBytes 1 e.item ++ zeroBytes 1 ++ leBytes 2 e.inst ++ leBytes 4 (narrowInt 32 e.value))
  leBytes 4 l.length ++ leBytes 4 gen ++ leBytes 4 (crc32cOf body) ++ zeroBytes 4 ++ body

/-- Every instance of every item, in order. -/
def calAll : List (Nat × Nat) :=
  (List.range 7).flatMap (fun i => ((List.range 512).filter (calInst (i + 1))).map (fun k => (i + 1, k)))

/-- Calibration Read: which is 0 factory, 1 overlay, 2 effective. -/
def calReadBy (cmd : CmdRef) (which : Nat) (s : Block) : Block :=
  let a := s.adm
  let send (l : List CalEntry) : Block := complete (sendData s cmd 0 (calRecord a.calGen l)) cmd 0 0 0
  match which with
  | 0 => send (calAll.map (fun e => ⟨e.1, e.2, effectiveCal [] e.1 e.2⟩))
  | 1 => send a.overlay
  | 2 => send (calAll.map (fun e => ⟨e.1, e.2, effectiveCal a.overlay e.1 e.2⟩))
  | _ => complete s cmd 0 0 stInvalidField

/-- CALIBRATION_READ (R481). -/
def doCalibrationRead (cmd : CmdRef) (which : Fin 4) (s : Block) : Block := onAdmin s cmd (calReadBy cmd which)

/-- CALIBRATION_APPLY_DONE (R481): the last unit has passed its lehr. -/
def doCalibrationApplyDone (s : Block) : Block :=
  if s.adm.applying && s.adm.calLeft.all (passedOver s) then
    let s := bump (updAdm s (fun a => { a with applying := false, calLeft := [] })) pgMgr 7 1
    (List.range 4).foldl (fun s p => postEvent s p ⟨7, 6, 0xC7⟩) s
  else s

end Sys2Proof.Machine
end

