-- ==== Sys2Proof/Machine/Power.lean ====
section
/-! DEFINITION. Power: the supply governor (R25, R28, R645), the thermal actions and the trip (R664 to R666), the save that a trip, a
loss of power, a module reset and a removal share (R412, R613, R641), and the registers of the PWR, THM and DMM pages (R337, R669 to
R672). -/
namespace Sys2Proof.Machine

def updHub (s : Block) (f : HubState → HubState) : Block := { s with hub := f s.hub }
def updPower (s : Block) (f : PowerState → PowerState) : Block := { s with power := f s.power }

/-! The save (R412, R613). -/

/-- Steps 2 to 4 of R613: command fetch stops, every run is torn down and its context goes, and the commands in flight are settled
without a completion. -/
def stopWork (s : Block) : Block :=
  let s := { s with ctls := tabMap (fun _ c => { c with cmds := [], sqs := [], cqs := [], rdy := false, staging := [], map := [] }) s.ctls }
  let s := updMed s (fun m => { m with pendWrites := [], pendReads := [] })
  let s := (tabKeys s.ctxs).foldl (fun s x => closeCtx (dropRun (releaseCores s x (ctxCores (getCtx s x))) x) x) s
  { s with colls := [], aside := [], handovers := [], idxs := [] }

/-- Steps 5 to 7 of R613: the buffer is drained and the shutdown record written; the Aupen links and the ports' links go down. -/
def saveWork (s : Block) : Block :=
  let s := drainBuffer s (blocksAt s isBuffer).length
  let s := updMed (updAdm s (fun a => { a with histSaved := a.hist })) (fun m => { m with shutdown := true })
  let s := (tabKeys s.links).foldl (fun s l => if (getLink s l).st = .down then s else linkDown s l 0) s
  { s with ctls := tabMap (fun _ c => { c with rate := 0, width := 0, flit := false }) s.ctls }

/-- The dies power down, main input being absent or a trip holding the module off; nothing is ready. -/
def goOff (s : Block) : Block := updHub s (fun h => { h with phase := .off, ready := 0, remove := .serving, cancelled := none })

/-! Thermal actions (R664). -/

/-- The actions in force, as THM_ACTION of page d shows them (R671). -/
def thmActions (s : Block) (d : Nat) : Nat :=
  if d < 4 then boolNat (s.power.limited.contains d) + 2 * boolNat (s.power.admitHeld.contains d)
  else 4 * boolNat (s.med.chans.any (fun e => e.2.paced)) + 8 * boolNat (s.power.inletCap || s.power.outletCap.isSome) +
    16 * boolNat s.med.bankHot

/-- After a change of state t from s: an action that began raises ACTION, and the time with any action in force is counted (R671, R672). -/
def noteActions (s t : Block) (d : Nat) : Block :=
  let old := thmActions s d
  let new := thmActions t d
  let began := (List.range 5).any (fun i => natBit new i && !natBit old i)
  let t := if began then raiseIrq t (pgThm d) 16 else t
  match tabFind t.power.acting d with
  | none => if new = 0 then t else updPower t (fun w => { w with acting := tabSet w.acting d t.now })
  | some n => if new = 0 then updPower (bump t (pgThm d) 3 (t.now - n)) (fun w => { w with acting := tabErase w.acting d }) else t

/-- A thermal trip (R665): the buffer is saved, the dies power down, and the trip's cause, unit and reading are in the record journal. -/
def thermalTrip (s : Block) (cause unit : Nat) (deg : Int) : Block :=
  let s := if s.hub.phase = .started ∧ s.hub.remove ≠ .ready then saveWork (stopWork s) else s
  let s := updPower s (fun w => { w with
    tripLast := BitVec.ofNat 32 (cause * 2 ^ 28 + unit * 2 ^ 8 + regDeg deg), tripTime := s.now, tripNew := true })
  updHub (goOff s) (fun h => { h with tripped := true, mainLost := none })

/-- Whether the module is powered, so that its temperatures are read. -/
def powered (s : Block) : Bool := s.hub.phase != .off

/-- A member joins or leaves a list. -/
def setMem (l : List Nat) (n : Nat) (b : Bool) : List Nat := if b then (if l.contains n then l else l ++ [n]) else l.filter (fun m => m ≠ n)

/-- The supply of a die (R25) and its target: the policy's with the trim, within R25 (R480, R645). -/
def supplyTarget (s : Block) (d : Nat) : Nat :=
  let base : Int := match (getRegD s pgHub 0x140 0).toNat % 4 with
    | 1 => 550
    | 2 => 800
    | _ => 700
  (max 550 (min 800 (base + effectiveCal s.adm.overlay 7 d))).toNat

/-- JUNCTION_READING (R664): the hottest and the mean junction of a compute die, or of the hub die (4), and which sensor is hottest. -/
def doJunctionReading (d : Fin 5) (deg mean : Int) (sensor : Fin 16) (s : Block) : Block :=
  if !powered s then s
  else
    let t := bumpMax (noteTemp s d deg) (pgThm d) 2 (regDeg deg)
    let t := updPower t (fun w => { w with
      mean := tabSet w.mean d mean, sensor := tabSet w.sensor d sensor
      hot := if 115 ≤ deg then tabSet w.hot d (tabGet t.now w.hot d) else tabErase w.hot d })
    let t :=
      if d.val = 4 then t
      else updPower t (fun w => { w with
        limited := setMem w.limited d (decide (105 ≤ deg) || (w.limited.contains d && decide (103 ≤ deg)))
        admitHeld := setMem w.admitHeld d
          ((decide (110 ≤ deg) && decide (supplyOf t d ≤ 550)) || (w.admitHeld.contains d && decide (105 ≤ deg))) })
    let t := noteActions s t d
    if (tabFind t.power.hot d).any (fun n => decide (n + 1000000 ≤ t.now)) then thermalTrip t 1 d deg else t

/-- The limit that hardware sets on a stack for its temperature, and its refresh rate (R337). -/
def hwThrottle (deg : Int) : Nat := if 105 < deg then 12 else if 100 < deg then 8 else 0
def refreshRate (deg : Int) : Nat := if 95 < deg then 2 else if 85 < deg then 1 else 0

/-- A stack's limit in force: THROTTLE of CTL or that of hardware, whichever is the greater. -/
def stackThrottle (s : Block) (k : Nat) : Nat := max ((getPage s (pgDmm k)).ctl.toNat % 16) (hwThrottle (tempOf s (5 + k)))

/-- The time with a stack throttled is counted (DMM statistic 7). -/
def noteThrottle (s : Block) (k : Nat) : Block :=
  match tabFind s.power.throttled k with
  | none => if stackThrottle s k = 0 then s else updPower s (fun w => { w with throttled := tabSet w.throttled k s.now })
  | some n =>
    if stackThrottle s k = 0 then updPower (bump s (pgDmm k) 7 (s.now - n)) (fun w => { w with throttled := tabErase w.throttled k }) else s

/-- A stack's temperature (R337, R664). -/
def stackReading (s : Block) (k : Nat) (deg : Int) : Block :=
  let s := noteThrottle (noteTemp s (5 + k) deg) k
  if 110 ≤ deg then thermalTrip s 2 k deg else s

/-- DMM_TEMP_READING (R337): the refresh rate and the hardware's limit follow the reading. -/
def doDmmTempReading (k : StackNo) (deg : Int) (s : Block) : Block := if powered s then stackReading s k deg else s

/-- The judged write of CTL of a DMM page. -/
def writeDmmCtl (s : Block) (k : Nat) (w : Writer) (value : Word) : Block :=
  guardedWrite s (pgDmm k) 0x014 w value (ownerRight (getPage s (pgDmm k)) w) none
    (fun s => noteThrottle (setCtl s (pgDmm k) .dmm value.toNat) k)

/-- A reading of the board at hand: coolant inlet, outlet, hold-up bank, connector, a flash channel's hottest die, a stack. -/
def boardReading (s : Block) (b : BoardTemp) : Block :=
  let hub (t : Block) : Block := noteActions s t 4
  match b with
  | .inlet deg =>
    let t := noteTemp s 45 deg
    let w := t.power
    let held (ns : Nat) : Bool := w.inletSince.any (fun n => decide (n + ns ≤ t.now))
    let counting := if w.inletCap then decide (deg < 45) else decide (50 ≤ deg)
    let since := if counting then some (w.inletSince.getD t.now) else none
    hub (if counting && held (if w.inletCap then 10000000000 else 1000000000) then
      updPower t (fun w => { w with inletCap := !w.inletCap, inletSince := none })
    else updPower t (fun w => { w with inletSince := since }))
  | .outlet deg =>
    let t := noteTemp s 46 deg
    hub (updPower t (fun w => { w with
      outletCap := if 65 < deg then some 800 else w.outletCap
      outletCool := if deg ≤ 60 then some (w.outletCool.getD t.now) else none }))
  | .bank deg =>
    let t := noteTemp s 47 deg
    hub (updMed t (fun m => { m with bankHot := decide (75 ≤ deg) || (m.bankHot && decide (70 ≤ deg)) }))
  | .connector deg => noteTemp s 48 deg
  | .channel c pos deg =>
    let t := noteTemp s (13 + c.val) deg
    let t := hub (updChan t c (fun x => { x with
      hot := regDeg deg, hotPos := pos, paced := decide (80 ≤ deg) || (x.paced && decide (77 ≤ deg)) }))
    if 90 ≤ deg then thermalTrip t 3 c deg else t
  | .stack k deg => stackReading s k deg

/-- BOARD_READING (R664). -/
def doBoardReading (b : BoardTemp) (s : Block) : Block := if powered s then boardReading s b else s

/-- OUTLET_CAP_RELEASE (R665): the outlet has stayed at or below 60 °C for 10 s: the cap rises by 200 W, until it no longer applies. -/
def doOutletCapRelease (s : Block) : Block :=
  match s.power.outletCap, s.power.outletCool with
  | some c, some n =>
    let t := atTime s (n + 10000000000)
    noteActions s (updPower t (fun w => { w with
      outletCap := if 2200 ≤ c + 200 then none else some (c + 200), outletCool := some (n + 10000000000) })) 4
  | _, _ => s

/-- LEAK_SENSE (R666): the moisture sensor senses coolant, or no longer does. -/
def doLeakSense (wet : Bool) (s : Block) : Block :=
  if !powered s then s
  else
    let was := s.power.leak
    let s := updPower s (fun w => { w with leak := wet })
    if wet && !was then wakeCause (raiseIrq s (pgThm 4) 18) 6 0 (pgThm 4) else s

/-! The governor (R28, R453, R645). -/

/-- The envelope in force, in W: the lowest of R28, the power state, CAP and the coolant's caps. -/
def envelope (s : Block) : Nat :=
  let ps (p : Nat) : Nat := match powerState (getCtl s p) with
    | 0 => 2200
    | 1 => 1400
    | 2 => 800
    | _ => 250
  let op := (List.range (activePorts s)).filter (fun p => !suspended (getCtl s p))
  let state := if s.low || op.isEmpty then 250 else op.foldl (fun m p => min m (ps p)) 2200
  let cap := natBits (getRegD s pgHub 0x140 0).toNat 16 8
  min (min 2200 state) (min (if cap = 0 then 2200 else 10 * cap)
    (min (if s.power.inletCap then 1400 else 2200) (s.power.outletCap.getD 2200)))

/-- The time with a die's supply below its target is counted (R670). -/
def noteBelow (s : Block) (d : Nat) : Block :=
  let below := decide (supplyOf s d < supplyTarget s d)
  match tabFind s.power.below d with
  | none => if below then updPower s (fun w => { w with below := tabSet w.below d s.now }) else s
  | some n => if below then s else updPower (bump s (pgPwr d) 3 (s.now - n)) (fun w => { w with below := tabErase w.below d })

/-- The module's input power in W as a meter reads it: its mean over the last 1 ms, and over the last 100 µs. The readings are free within
the limits that the governor keeps (R28; log entry 48). -/
def meanMs (s : Block) : Nat := (Config.meter 35 s.fresh).toNat % 2201
def mean100us (s : Block) : Nat := (Config.meter 36 s.fresh).toNat % 2601

/-- Whether the module draws as much as the envelope or the limit over 100 µs allows (R28). -/
def drawsLimit (s : Block) : Bool := Nat.ble (envelope s) (meanMs s) || Nat.ble 2600 (mean100us s)

/-- POWER_GOVERNOR_ADJUST (R25, R28, R645): the supply of a die changes, by no more than 5 mV in a microsecond; it never goes above the
target, never rises while it is lowered for the junction temperature, and never rises while the module draws all that it may. -/
def doPowerGovernorAdjust (d : DieNo) (mv : Nat) (s : Block) : Block :=
  let v := supplyOf s d
  let rises := decide (v < mv)
  if !natBit s.hub.ready 3 || mv == v || decide (mv < 550) || decide (800 < mv) || decide (mv + 5 < v) || decide (v + 5 < mv) ||
      (rises && (drawsLimit s || decide (supplyTarget s d < mv) || (s.power.limited.contains d.val && decide (105 ≤ tempOf s d)))) then s
  else
    let s := match tabFind s.power.changed d with
      | some n => atTime s (n + 1000)
      | none => s
    let s := updPower { s with supply := tabSet s.supply d mv } (fun w => { w with changed := tabSet w.changed d s.now })
    noteBelow (bump s (pgPwr d) 4 1) d

/-- The code that refuses a value of HUB_MODE_POWER. -/
def modePowerBad (v : Nat) : Bool :=
  let cap := natBits v 16 8
  natBits v 0 2 == 3 || (cap != 0 && (decide (cap < 50) || decide (220 < cap)))

/-- The judged write of HUB_MODE_POWER (R644, R645). -/
def writeModePower (s : Block) (w : Writer) (value : Word) : Block :=
  plainWrite s pgHub 0x140 w (ownerRight (getPage s pgHub) w) (badIf (modePowerBad value.toNat))
    (fun s => (List.range 4).foldl noteBelow (setReg s pgHub 0x140 (value &&& 0x00FF0003)))

/-- HUB_MODE_POWER_WRITE (R645). -/
def doHubModePowerWrite (w : Writer) (value : Word) (s : Block) : Block :=
  enterWrite s pgHub w 0x140 value (fun _ _ s => writeModePower s w value)

/-- The judged write of HUB_MODE_GATHER (R644, R646). -/
def writeModeGather (s : Block) (w : Writer) (value : Word) : Block :=
  let t := value.toNat % 2 ^ 16
  plainWrite s pgHub 0x148 w (ownerRight (getPage s pgHub) w) (badIf (decide (t < 128) || decide (1024 < t) || decide (t % 128 ≠ 0)))
    (fun s => setReg s pgHub 0x148 (value &&& 0xFFFF))

/-- HUB_MODE_GATHER_WRITE (R646). -/
def doHubModeGatherWrite (w : Writer) (value : Word) (s : Block) : Block :=
  enterWrite s pgHub w 0x148 value (fun _ _ s => writeModeGather s w value)

/-- GATHER_RESIZE_STEP (R380, R646): the size in effect moves by 128 GB toward the target, a larger one where the reclaim headroom holds it, a
smaller one once folding has emptied the space that it gives up. -/
def doGatherResizeStep (s : Block) : Block :=
  let t := (getRegD s pgHub 0x148 0x200).toNat % 2 ^ 16
  let g := s.med.gatherGB
  if !mediaReady s then s
  else if g < t then (if flashHolds s (g + 128) (bandsRaw s) then updMed s (fun m => { m with gatherGB := g + 128 }) else s)
  else if t < g ∧ gatherBytes s + 4000000000 ≤ (g - 128) * 1000000000 then updMed s (fun m => { m with gatherGB := g - 128 })
  else s

/-! Registers (R337, R644, R669, R671). -/

/-- HUB_MODE_SUPPLY: a die that is not powered reads 0. -/
def modeSupply (s : Block) : Nat :=
  if natBit s.hub.ready 3 then sumNat ((List.range 4).map (fun d => (supplyOf s d - 500) / 5 * 2 ^ (8 * d))) else 0

/-- The accounted array draw of a die in 0.1 W (R29, R669); the hub die has no array. -/
def accountedDeci (s : Block) (d : Nat) : Nat :=
  let cs := (List.range 12288).filter (fun c => dieOfCore c == d && coreServed s c)
  cs.foldl (fun t c => t + arrayDraw (accounted s c) * drawScale s c) 0 / (10000 * (700 ^ 2 * 2000))

/-- The computed registers of a PWR page; what a meter reads is free (log entry 48). -/
def pwrValue (s : Block) (d off : Nat) : Option Word :=
  let m (i : Nat) : Nat := (Config.meter (8 * d + i) s.fresh).toNat % 2 ^ 16
  let on := d == 4 || natBit s.hub.ready 3
  match off with
  | 0x100 => some (if d < 4 && on then BitVec.ofNat 32 (supplyTarget s d * 2 ^ 16 + supplyOf s d) else 0)
  | 0x104 => some (if on then BitVec.ofNat 32 (min 0xFFFF (accountedDeci s d)) else 0)
  | 0x108 => some (BitVec.ofNat 32 (m 0))
  | 0x10C => some (if d = 4 then BitVec.ofNat 32 (m 1 * 2 ^ 16 + m 2) else 0)
  | 0x110 => some (if d = 4 then BitVec.ofNat 32 (envelope s * 2 ^ 16 + meanMs s) else 0)
  | _ => none

/-- The computed registers of a THM page. -/
def thmValue (s : Block) (d off : Nat) : Option Word :=
  let t (i : Nat) : Nat := regDeg (tempOf s i)
  match off with
  | 0x100 => some (BitVec.ofNat 32 (t d * 2 ^ 24 + regDeg (tabGet 0 s.power.mean d) * 2 ^ 16 + tabGet 0 s.power.sensor d * 2 ^ 8))
  | 0x104 => some (if d = 4 then BitVec.ofNat 32 (t 45 * 2 ^ 24 + t 46 * 2 ^ 16 + t 47 * 2 ^ 8 + t 48) else 0)
  | 0x108 => some (BitVec.ofNat 32 (thmActions s d))
  | 0x10C => some (if d = 4 then s.power.tripLast else 0)
  | _ => none

/-- The computed registers of a DMM page. -/
def dmmValue (s : Block) (k off : Nat) : Option Word :=
  let mine (p : PageUse → Bool) : Nat := (s.pageUse.filter (fun e => e.1 / pagesPerStack == k && p e.2)).length
  match off with
  | 0x100 => some 0x00401020
  | 0x104 => some 0x00773594
  | 0x108 => some (BitVec.ofNat 32 (refreshRate (tempOf s (5 + k)) * 2 ^ 8 + regDeg (tempOf s (5 + k))))
  | 0x10C => some (BitVec.ofNat 32 (mine (fun u => u == .used) * 2 ^ 16 + mine (fun u => u == .clean)))
  | _ => none

/-- The level of a pin that the module drives: true is high, or released. While AUX is absent every open-drain output is released
(R652, R662). -/
def pinHigh (s : Block) (n : PinName) : Bool :=
  !s.hub.aux ||
    (match n with
     | .pwrgood => s.hub.phase == .started
     | .removeOk => s.hub.remove == .ready
     | .thermtrip => !s.hub.tripped
     | .leak => !s.power.leak
     | .smbAlert => s.adm.healthChange == 0
     | .wake p => !((getCtl s p).pmeStatus && (getCtl s p).pmeEn && (getCtl s p).dstate == .d3cold))

end Sys2Proof.Machine
end

