-- ==== Sys2Proof/Machine/Service.lean ====
section
/-! DEFINITION. Service: SERVICE.CMD and the states of a unit (R53, R626 to R639): fences and what each kind of unit drains, the
hand-over of a core to its spare, lehrs and tests. -/
namespace Sys2Proof.Machine

/-! Spares (R85, R105). -/

/-- CLU_SPARE.STATE and FOR_CORE of a cluster: 0 AVAILABLE, 1 STANDING_IN, 2 TESTING, 3 FAILED, 4 ZEROISING. -/
def spareState (s : Block) (g : Nat) : Nat := (getRegD s (pgClu g) 0x100 0).toNat % 16
def spareFor (s : Block) (g : Nat) : Nat := (getRegD s (pgClu g) 0x100 0).toNat / 16 % 32
def setSpare (s : Block) (g st i : Nat) : Block := setReg s (pgClu g) 0x100 (BitVec.ofNat 32 (i * 16 + st))

/-- Whether the spare of its cluster serves a core number. -/
def spared (s : Block) (c : Nat) : Bool := spareState s (cluOfCore c) == 1 && spareFor s (cluOfCore c) == c % 16

/-- A unit is retired, and the record journal says so until a lehr returns it (R617). -/
def retireUnit (s : Block) (p : Nat) (result : Option Nat) : Block :=
  let s := if p < 0x3000 && !s.retired.contains p then lifeBump s lifeCoresRetired 1 else s
  setService { s with retired := setMem s.retired p true } p .retired result

/-! Fences (R629 to R632). -/

/-- The contexts that hold cores of a list. -/
def holders (s : Block) (cores : List Nat) : List Nat :=
  (cores.filterMap (fun c => (getCore s c).placed.map (fun p => p.ctx))).eraseDups

/-- The cores of a cluster, or of a region. -/
def unitCoreList (k : PageKind) (i : Nat) : List Nat :=
  match k with
  | .cor => [i]
  | .clu => (List.range 16).map (fun j => 16 * i + j)
  | .rgn => (List.range 256).map (fun j => 256 * i + j)
  | _ => []

/-- Whether a context has a run on its cores. -/
def running (x : Ctx) : Bool := x.run.any (fun r => !r.cores.isEmpty)

/-- The run of a context is torn down; cores that it keeps between runs go. -/
def tearOff (s : Block) (x : Nat) : Block :=
  let cx := getCtx s x
  if tearing cx then s else if running cx then beginTeardown s x true else preempt s x

/-- What a fence of a cluster or region does to a context: a best-effort run is preempted, a latency-critical one is torn down. -/
def clearOff (s : Block) (x : Nat) : Block := if (getCtx s x).cls = .be then (if tearing (getCtx s x) then s else preempt s x) else tearOff s x

/-- A link drains: the router routes no new frame to it (R517). -/
def drainLink (s : Block) (l : Nat) : Block :=
  updLink s l (fun k => match k.st with
    | .active => { k with st := .draining }
    | .quarantine => { k with st := .draining }
    | .retrain => { k with prev := .draining }
    | _ => k)

/-- A scan stops as by ABORT. -/
def stopScan (s : Block) (u : Nat) : Block :=
  let s := scanSome s u
  if (getChk s u).scan.isSome then updChk s u (fun c => { c with st := 1, scan := none }) else s

/-- A commanded FENCE of a unit that serves (R630 to R632). -/
def fence (s : Block) (p : Nat) (k : PageKind) (i : Nat) : Block :=
  let drain (s : Block) : Block := setService s p .draining (some 0)
  match k with
  | .cor =>
    if spareState s (cluOfCore i) = 0 then
      let s := setSpare s (cluOfCore i) 4 (i % 16)
      requestStop { drain s with handovers := tabSet s.handovers i {} } i .preempt
    else
      match (getCore s i).placed with
      | none => drain s
      | some q => if (getCtx s q.ctx).cls = .lc then refuseService s p else clearOff (drain s) q.ctx
  | .aup => drainLink (drain s) i
  | .chk => stopScan (drain s) i
  | .rgn => (holders s (unitCoreList k i)).foldl clearOff (loseTransfers (drain s) i)
  | _ => (holders s (unitCoreList k i)).foldl clearOff (drain s)

/-- Whether a core of a hand-over has stopped (R631): it has no run, or it is halted, ended or faulted. -/
def handoverStill (s : Block) (c : Nat) : Bool :=
  let k := getCore s c
  !(getPage s (pgCor c)).zeroising && (k.placed.isNone || k.run == .halted || k.run == .faulted || k.ended)

/-- Whether posted instructions have yet to write into a core's local store. -/
def storeAwaited (s : Block) (c : Nat) : Bool :=
  let x := ctxNoOf (getCore s c)
  s.cores.any (fun e => e.2.placed.any (fun q => q.ctx == x) && e.2.posted.any (fun p =>
    (p.kind == .move && !p.arrived && moveTarget s (.placed e.1) p == .placed c) ||
      (e.1 == c && (postDest p).any (fun d => Nat.blt d.1 csBase))))

/-- CORE_HANDOVER_COPY (R631): the core has halted and STATE becomes SPARED; once no posted instruction writes into the local store any
more, the state record and the store are copied to the spare. -/
def doCoreHandoverCopy (c : CoreNo) (s : Block) : Block :=
  let p := pgCor c
  if (tabFind s.handovers c).isNone || !handoverStill s c then s
  else
    let s := setService s p .spared none
    if (getCore s c).placed.isSome && storeAwaited s c then s else { s with handovers := tabSet s.handovers c { copied := true } }

/-- The run of a core that a spare has taken over goes on (R200, R631, R639): a core whose CTL.HALT is 1 stays halted. -/
def resumeOnSpare (s : Block) (c : Nat) : Block :=
  let k := getCore s c
  if k.placed.isNone || k.run != .halted || k.stop == some .teardown then s
  else if natBit (getPage s (pgCor c)).ctl.toNat 0 then updCore s c (fun k => { k with stop := some .halt })
  else resumeCore s c

/-- CORE_HANDOVER_DONE (R631): the spare takes the core number, which is in service, and the run resumes. -/
def doCoreHandoverDone (c : CoreNo) (s : Block) : Block :=
  match tabFind s.handovers c with
  | none => s
  | some h =>
    if !h.copied then s
    else
      let g := cluOfCore c
      let s := setSpare { s with handovers := tabErase s.handovers c } g 1 (c.val % 16)
      let s := fenceEnds s (pgCor c) .inService
      resumeOnSpare (lifeBump (bump s (pgClu g) 7 1) lifeCoresSpared 1) c

/-- The store of a cluster is zeroised, and its slices belong to no one. -/
def zeroCluster (s : Block) (g : Nat) : Block :=
  clearBuffers ((List.range 16).foldl (fun s i => setReg s (pgClu g) (0x140 + 4 * i) 0) s) (pgClu g)

/-- DRAIN_DONE (R630, R632): a unit that drains has nothing left, and is FENCED. A core whose spare takes over does not come here. -/
def doDrainDone (p : PageNo) (s : Block) : Block :=
  if (getPage s p).service ≠ .draining then s
  else
    let free (cores : List Nat) : Bool := cores.all (fun c => (getCore s c).placed.isNone)
    match pageOf p with
    | some (.cor, c) => if (tabFind s.handovers c).isSome || !free [c] || (getPage s p).zeroising then s else drained s p
    | some (.clu, g) => if free (unitCoreList .clu g) then drained (zeroCluster s g) p else s
    | some (.rgn, r) =>
      if free (unitCoreList .rgn r) then
        drained (setReg (((List.range 16).map (fun j => 16 * r + j)).foldl zeroCluster s) p 0x100 0) p
      else s
    | some (.aup, l) => if (getLink s l).st = .down then drained (updLink s l (fun k => { k with reason := 6 })) p else s
    | some _ => drained s p
    | none => s

/-! Commands (R626, R627, R633, R637). -/

/-- The READMIT of a number that the spare serves: the lehr of the replaced core begins (R633). -/
def readmitSpared (s : Block) (p c : Nat) : Block :=
  if (getCore s c).placed.isSome || s.readmits.contains c then refuseService s p
  else updPage { s with readmits := s.readmits ++ [c] } p (fun g => { g with result := 0 })

/-- The clusters of a cluster or region page. -/
def unitClusters (k : PageKind) (i : Nat) : List Nat :=
  match k with
  | .clu => [i]
  | .rgn => (List.range 16).map (fun j => 16 * i + j)
  | _ => []

/-- The available spares of a unit's clusters are under test with it, or are available again (R105, R635). -/
def testSpares (s : Block) (k : PageKind) (i : Nat) (on : Bool) : Block :=
  (unitClusters k i).foldl (fun s g => if spareState s g = (if on then 0 else 2) then setSpare s g (if on then 2 else 0) 0 else s) s

/-- A test of a unit begins (R637). -/
def beginTest (s : Block) (p : Nat) (k : PageKind) (i : Nat) : Block := testSpares (setService s p .testing (some 0)) k i true

/-- A lehr begins. The retirement of a lane whose calibration the user has changed is cleared (R518). -/
def beginLehr (s : Block) (p : Nat) (k : PageKind) (i : Nat) : Block :=
  let s := testSpares (setService s p .lehr (some 0)) k i true
  if k = .aup && s.adm.calLeft.contains p then
    updLink s i (fun x => mapLanes x (fun lane a =>
      if (overlayOf s.adm.overlay 4 (2 * i + lane)).isSome then { a with retired := false, fails := 0 } else a))
  else s

/-- An accepted command in SERVICE. -/
def serviceCmd (s : Block) (p : Nat) (k : PageKind) (i cmd : Nat) : Block :=
  if cmd = 0 then s
  else if !capFence k then refuseService s p
  else
    match (getPage s p).service, cmd with
    | .inService, 1 => fence s p k i
    | .inService, 3 => if k = .cor && spared s i then readmitSpared s p i else refuseService s p
    | .fenced, 2 => beginTest s p k i
    | .fenced, 3 => if s.readmits.contains p then refuseService s p else beginLehr s p k i
    | .retired, 3 => if s.readmits.contains p then refuseService s p else beginLehr s p k i
    | .fenced, 4 => retireUnit s p (some 1)
    | _, _ => refuseService s p

/-- The judged write of SERVICE (R60, R627). -/
def writeService (s : Block) (p : Nat) (k : PageKind) (i : Nat) (w : Writer) (value : Word) : Block :=
  guardedWrite s p 0x030 w value (serviceRight k (getPage s p) w) (badIf (decide (4 < bvBits value 4 4)))
    (fun s => serviceCmd s p k i (bvBits value 4 4))

/-- A command in SERVICE enters the control space. -/
def serviceCommand (w : Writer) (p : Nat) (guard : Byte) (cmd : Nat) (s : Block) : Block :=
  let v : Word := BitVec.ofNat 32 (guard.toNat * 2 ^ 24 + cmd * 16)
  enterWrite s p w 0x030 v (fun k i s => writeService s p k i w v)

/-- SERVICE_FENCE (R630). -/
def doServiceFence (w : Writer) (p : PageNo) (guard : Byte) (s : Block) : Block := serviceCommand w p guard 1 s
/-- SERVICE_TEST (R637). -/
def doServiceTest (w : Writer) (p : PageNo) (guard : Byte) (s : Block) : Block := serviceCommand w p guard 2 s
/-- SERVICE_READMIT (R634). -/
def doServiceReadmit (w : Writer) (p : PageNo) (guard : Byte) (s : Block) : Block := serviceCommand w p guard 3 s
/-- SERVICE_RETIRE (R626). -/
def doServiceRetire (w : Writer) (p : PageNo) (guard : Byte) (s : Block) : Block := serviceCommand w p guard 4 s

/-! Lehrs and tests (R634 to R637). -/

/-- What a unit's test and zeroise leave of it. -/
def testedUnit (s : Block) (k : PageKind) (i : Nat) : Block :=
  match k with
  | .cor => clearBuffers s (pgCor i)
  | .clu => (unitCoreList .clu i).foldl (fun s c => clearBuffers s (pgCor c)) (clearBuffers s (pgClu i))
  | .rgn =>
    (unitCoreList .rgn i).foldl (fun s c => clearBuffers s (pgCor c))
      (((List.range 16).map (fun j => 16 * i + j)).foldl (fun s g => clearBuffers s (pgClu g)) s)
  | .onf => retrain s i
  | .chk => { s with chks := tabErase s.chks i }
  | _ => s

/-- The end of the lehr of a replaced core (R633): it takes its number back, or the spare stays. -/
def readmitEnds (s : Block) (c : Nat) (pass : Bool) : Block :=
  let p := pgCor c
  let done (s : Block) (r : Nat) : Block :=
    updPage { s with readmits := s.readmits.filter (fun q => q ≠ c) } p (fun g => { g with result := r })
  if !pass then done s 3
  else if (getCore s c).placed.isSome then s
  else setSpare (clearBuffers (done s 1) p) (cluOfCore c) 0 0

/-- A test or a lehr fails: the unit is FENCED with RESULT 3, and a link is DOWN. -/
def testFails (s : Block) (p : Nat) (k : PageKind) (i : Nat) : Block :=
  let s := if k = .aup && (getLink s i).st != .down then linkDown s i 6 else s
  setService (testSpares s k i false) p .fenced (some 3)

/-- LEHR_DONE (R610, R634, R636): the lehr of a unit ends, which resets its block. The unit takes the microcode and the calibration in force, and traffic returns to it;
a unit that fails is FENCED, and one that held RETIRED stays so in the record journal. The lehr of a link ends when it is ACTIVE (R517). -/
def doLehrDone (p : PageNo) (pass : Bool) (s : Block) : Block :=
  match pageOf p with
  | none => s
  | some (k, i) =>
    if s.readmits.contains p then readmitEnds s i pass
    else if (getPage s p).service ≠ .lehr then s
    else if !pass then testFails s p k i
    else if k = .aup && (getLink s i).st != .active then s
    else
      let s := unitPassed { testedUnit (testSpares s k i false) k i with retired := setMem s.retired p false } p
      let s := setService (resetUnit s p) p .inService (some 1)
      if k = .onf then retryReads s else s

/-- The tests of the dies of a channel end (R418): each is a spare again, or fenced. -/
def dieTestsEnd (s : Block) (c : Nat) : Block :=
  (List.range 16).foldl (fun s i =>
    let d := 16 * c + i
    if (getDie s d).state = .testing then updDie s d (fun x => { x with state := if x.wasSpare then .spare else .fenced }) else s) s

/-- TEST_DONE (R637): a TEST ends; or the tests that MM ordered of a channel's dies do (R418). -/
def doTestDone (p : PageNo) (pass : Bool) (s : Block) : Block :=
  match pageOf p with
  | none => s
  | some (k, i) =>
    if (getPage s p).service = .testing then
      let s := if k = .aup && (getLink s i).st != .down then linkDown s i 6 else s
      let s := match k with
        | .onf => retrain s i
        | .aup => s
        | _ => testedUnit s k i
      setService (testSpares s k i false) p .fenced (some (if pass then 1 else 3))
    else if k = .onf then dieTestsEnd s i
    else s

/-! Faults (R629, R639). -/

/-- A unit that serves is fenced for a fault: the work that it holds has failed. target: the die that takes a failed channel's data. -/
def faultFence (s : Block) (p : Nat) (k : PageKind) (i target : Nat) : Block :=
  let s := { setService s p .draining none with faultFenced := setMem s.faultFenced p true }
  match k with
  | .cor =>
    let s := (holders s [i]).foldl tearOff s
    if spareState s (cluOfCore i) = 0 then
      { setSpare s (cluOfCore i) 4 (i % 16) with handovers := tabSet s.handovers i {} }
    else s
  | .aup => if (getLink s i).st = .down then s else linkDown s i 6
  | .chk => stopScan s i
  | .onf => (List.range 16).foldl (fun s j => dieFails s (16 * i + j) target) s
  | .rgn => (holders s (unitCoreList k i)).foldl tearOff (loseTransfers s i)
  | _ => (holders s (unitCoreList k i)).foldl tearOff s

/-- The spare fails while it takes a core over: the run is torn down, and the core number is RETIRED. -/
def spareFails (s : Block) (c : Nat) : Block :=
  let s := setSpare { s with
    handovers := tabErase s.handovers c, faultFenced := s.faultFenced.filter (fun q => q ≠ pgCor c) } (cluOfCore c) 3 0
  retireUnit ((holders s [c]).foldl tearOff s) (pgCor c) none

/-- UNIT_FAULT_FENCE (R629, R639): a fault of a unit is detected; during a lehr or a test, the test fails. -/
def doUnitFaultFence (p : PageNo) (target : Fin 512) (s : Block) : Block :=
  match pageOf p with
  | none => s
  | some (k, i) =>
    if !capFence k || !pageAnswers s k i then s
    else
      match (getPage s p).service with
      | .inService => faultFence s p k i target
      | .testing => testFails s p k i
      | .lehr => testFails s p k i
      | _ => if (tabFind s.handovers p).isSome then spareFails s i else s

end Sys2Proof.Machine
end

