-- ==== Sys2Proof/Machine/CodeFlash.lean ====
section
/-! DEFINITION. CodeFlash: the code-flash controller (R579 to R595, R605 to R608) and the option area (R597 to R604, R609). -/
namespace Sys2Proof.Machine

def updOpt (s : Block) (f : OptState → OptState) : Block := { s with opt := f s.opt }

/-! Regions (R580, R595). -/

inductive CflRegion where
  | slot
  | keys
  | factory
  | ring
  | journal
  | reserved
  deriving DecidableEq, Repr

def regionOf (sector : Nat) : CflRegion :=
  if sector < 512 then .slot
  else if sector < 514 then .keys
  else if sector < 640 then .factory
  else if sector < 648 then .ring
  else if sector < 664 then .journal
  else .reserved


/-- A byte of code flash as it stands. -/
def cflByte (s : Block) (a : Nat) : Byte :=
  let bank := a / bankBytes
  let o := a % bankBytes
  match regionOf (o / sectorBytes) with
  | .slot =>
    (match tabFind s.adm.slots (bank + 1) with
     | some im => if o < im.bytes.length then byteAt im.bytes o else 0xFF
     | none => if bank = 0 ∧ !s.adm.shippedGone then Config.shippedFlash o else memGet 0xFF s.cfl.mem a)
  | .keys => Config.factoryFlash o
  | .factory => Config.factoryFlash o
  | .reserved => 0xFF
  | _ => memGet 0xFF s.cfl.mem a

/-- Whether a program or an erase of a sector of a bank is permitted (R595). -/
def cflMay (s : Block) (bank sector : Nat) : Bool :=
  match regionOf sector with
  | .slot => bank + 1 != s.adm.active && s.adm.commit.any (fun c => c.slot == bank + 1)
  | .ring => s.opt.committing.isSome
  | .journal => true
  | _ => false

/-! Operations (R586 to R589). -/

/-- CFL_PROG_BUF. -/
def progBuf (s : Block) : List Byte := (List.range 64).flatMap (fun i => leBytes 4 (getRegD s pgCfl (0x300 + 4 * i) 0).toNat)

/-- The judged write of CFL_OP. -/
def writeCflOp (s : Block) (w : Writer) (value : Word) : Block :=
  let v := value.toNat
  let cmd := v / 2 ^ 28
  let bank := natBits v 27 1
  let sector := natBits v 16 10
  let bad := if 3 < cmd then some eBadValue
    else if cmd = 0 then none
    else if cmd ≠ 3 ∧ !cflMay s bank sector then some 0x81
    else if 65 ≤ s.cfl.ops.length then some 0x80
    else none
  plainWrite s pgCfl 0x128 w (mmRight w) bad (fun s =>
    let s := setReg s pgCfl 0x128 (value &&& 0xFBFF00FF)
    if cmd = 0 then s
    else updCfl s (fun c =>
      let d := { c with
        ops := c.ops ++ [⟨cmd, bank, sector, v % 256, progBuf s⟩], opSeq := if c.ops.isEmpty then c.opSeq + 1 else c.opSeq }
      if c.ops.isEmpty then d.dropForOp else d))

/-- A CFL_OP write as a command. -/
def cflCommand (w : Writer) (cmd bank sector row : Nat) (s : Block) : Block :=
  let v : Word := BitVec.ofNat 32 (cmd * 2 ^ 28 + bank * 2 ^ 27 + sector * 2 ^ 16 + row)
  enterWrite s pgCfl w 0x128 v (fun _ _ s => writeCflOp s w v)

/-- CFL_PROGRAM_ROW (R586, R606). -/
def doCflProgramRow (w : Writer) (bank : Fin 2) (sector : Fin 1024) (row : Fin 256) (s : Block) : Block :=
  cflCommand w 1 bank sector row s
/-- CFL_ERASE_SECTOR (R586, R606). -/
def doCflEraseSector (w : Writer) (bank : Fin 2) (sector : Fin 1024) (s : Block) : Block := cflCommand w 2 bank sector 0 s
/-- CFL_VERIFY_SECTOR (R592, R606). -/
def doCflVerifySector (w : Writer) (bank : Fin 2) (sector : Fin 1024) (s : Block) : Block := cflCommand w 3 bank sector 0 s

/-- CFL_OP_COMPLETE (R586, R592): the operation that runs has been verified; the next one begins. What a row or sector holds after an
operation that failed is not said. -/
def doCflOpComplete (pass : Bool) (s : Block) : Block :=
  match s.cfl.ops with
  | [] => s
  | op :: rest =>
    if s.cfl.suspended then s
    else
      let at_ := op.bank * bankBytes + op.sector * sectorBytes
      let unknown (n : Nat) : List Byte := (List.range n).map (fun i => Config.freeByte (s.fresh + i))
      let s := match op.cmd with
        | 1 => bump (updCfl s (fun c => { c with
            mem := memPut 0xFF c.mem (at_ + op.row * 256) (if pass then op.data else unknown 256) })) pgCfl 8 1
        | 2 => bump (updCfl s (fun c => { c with
            mem := if pass then memDrop c.mem at_ (at_ + sectorBytes) else memPut 0xFF c.mem at_ (unknown sectorBytes)
            wear := tabSet c.wear (op.bank * 1024 + op.sector) (tabGet 0 c.wear (op.bank * 1024 + op.sector) + 1) })) pgCfl 9 1
        | _ => s
      let s := if pass then s else bump (if op.cmd = 3 then s else { s with fresh := s.fresh + sectorBytes }) pgCfl 11 1
      let s := updCfl s (fun c => CflState.dropForOp { c with
        ops := rest, opSeq := if rest.isEmpty then c.opSeq else c.opSeq + 1, resumedAt := 0 })
      raiseIrq s pgCfl 16

/-- The fetch that suspended the operation is served (R584, R589): which pair fetches which line of the bank, and whether it is the target
of a branch, is free. -/
def busyFetch (s : Block) (bank : Nat) : Block :=
  let w := (Config.freeWord s.fresh).toNat
  let kind : FetchKind := if bank + 1 ≠ s.adm.active then .data else if natBit w 2 then .target else .next
  let addr := bank * bankBytes + (Config.freeWord (s.fresh + 1)).toNat % (if bank + 1 ≠ s.adm.active then bankBytes else slotBytes)
  let line := addr / fetchLine
  let pairB := natBit w 1
  let p := if pairB then s.cfl.pairB else s.cfl.pairA
  let s := { s with fresh := s.fresh + 2 }
  if p.prefetch.contains line || p.inBranch line then s else mmFetch s pairB kind addr (natBits w 4 3)

/-- CFL_SUSPEND (R589): a fetch from a busy bank suspends the operation, which has run 100 µs since it was last resumed. -/
def doCflSuspend (bank : Fin 2) (s : Block) : Block :=
  if !cflRunning s bank || s.cfl.suspended then s
  else
    let s := if s.cfl.resumedAt = 0 then s else atTime s (s.cfl.resumedAt + 100000)
    let s := bump (updCfl s (fun c => { c with suspended := true })) pgCfl 10 1
    busyFetch s bank.val

/-- CFL_RESUME (R589). -/
def doCflResume (s : Block) : Block := if s.cfl.suspended then updCfl s (fun c => { c with suspended := false, resumedAt := s.now }) else s

/-! The read window (R590, R591, R596, R607). -/

/-- The slot of `sel` for a register that holds one value for each master (see Block.sel). -/
def selKey (reg : Nat) (w : Writer) : Nat := 8 * reg + masterCode w.master

/-- A status word. -/
def cflStatus (cause bank sector progress seq : Nat) : Nat :=
  0xC5F1 * 2 ^ 48 + cause * 2 ^ 44 + bank * 2 ^ 40 + sector * 2 ^ 30 + progress * 2 ^ 20 + seq % 2 ^ 20

/-- What an access through the window finds: the state, the kind of value, the value. grade: the word decodes clean (0), corrected (1)
or not at all (2). The progress of an operation is not said by the spec. -/
def cflAccess (s : Block) (w : Writer) (a grade : Nat) : Block × Nat × Nat :=
  let bank := a / bankBytes
  let sector := a % bankBytes / sectorBytes
  let r := regionOf sector
  let data := leNat ((List.range 8).map (fun i => cflByte s (a + i)))
  let busy := (s.cfl.ops.head?).bind (fun o =>
    if o.bank = bank ∧ o.cmd ≠ 3 ∧ (!s.cfl.suspended || o.sector = sector) then some o else none)
  match busy with
  | some o =>
    let p := (Config.freeWord s.fresh).toNat % 1001
    (drawFresh s, 2, cflStatus o.cmd bank o.sector p s.cfl.opSeq)
  | none =>
    if r = .keys ∨ (r = .journal ∧ w.master ≠ .mm) then (s, 2, cflStatus 3 bank sector 0 0)
    else if grade = 0 then (s, 0, data)
    else if grade = 1 then (bump s pgCfl 6 1, 1, data)
    else
      let s := raiseIrq (bump s pgCfl 7 1) pgCfl 17
      let s := if r = .slot ∧ bank + 1 = s.adm.active then
          let other := 3 - s.adm.active
          let s := if (slotFr s other).isSome then updAdm s (fun a => { a with pendingSlot := other }) else s
          settleCrit (updCfl s (fun c => { c with damaged := true }))
        else if r = .factory then settleCrit (updCfl s (fun c => { c with factoryBad := true })) else s
      (s, 3, cflStatus 4 bank sector 0 0)

/-- A read of CFL_RDATA: 8 bytes, or the low word with the high one kept for the master. -/
def readRdata (s : Block) (w : Writer) (wide : Bool) (grade : Nat) : Block :=
  let addr := pgCfl * 4096 + 0x118
  let size := if wide then 8 else 4
  if w.master == .pk || w.master == .pe then emit s (.readData w addr size 0)
  else
    let ra := (tabGet 0 s.sel (selKey 3 w)).toNat
    let a := ra % 2 ^ 27 / 8 * 8
    match cflAccess s w a grade with
    | (s, kind, v) =>
      let s := { s with
        sel := tabSet (tabSet s.sel (selKey 4 w) (BitVec.ofNat 32 kind)) (selKey 3 w)
          (BitVec.ofNat 32 (ra / 2 ^ 27 * 2 ^ 27 + (a + 8) % 2 ^ 27)) }
      let s := bump s pgCfl 2 8
      let s := if wide then s else updPage s pgCfl (fun g => { g with
        snaps := tabSet g.snaps (masterCode w.master) (0x11C, BitVec.ofNat 32 (v / 2 ^ 32)) })
      emit s (.readData w addr size (if wide then v else v % 2 ^ 32))

/-- CFL_RDATA_READ (R590, R596, R607). -/
def doCflRdataRead (w : Writer) (wide : Bool) (grade : Fin 3) (s : Block) : Block :=
  if pageAnswers s .cfl 0 then readRdata s w wide grade else emit s (.readData w (pgCfl * 4096 + 0x118) (if wide then 8 else 4) 0)

/-! Option records (R601 to R604). -/

def optFieldBad (b : List Byte) : Option Nat :=
  if fieldAt b 0 4 ≠ 0x4F505431 then some 0
  else if fieldAt b 4 2 ≠ 1 then some 4
  else if fieldAt b 6 2 ≠ 0 then some 6
  else if fieldAt b 0xC 4 ≠ 0 then some 0xC
  else if 2 < fieldAt b 0x10 1 then some 0x10
  else if fieldAt b 0x11 1 < 8 ∨ 0x77 < fieldAt b 0x11 1 then some 0x11
  else if 3 < fieldAt b 0x12 1 then some 0x12
  else if 3 < fieldAt b 0x13 1 then some 0x13
  else if 16383 < fieldAt b 0x14 2 then some 0x14
  else if 2 < fieldAt b 0x17 1 then some 0x17
  else if !allZero b 0x1C 224 then some 0x1C
  else none

/-- The record of the defaults. -/
def optDefault : List Byte :=
  padTo 512 (leBytes 4 0x4F505431 ++ leBytes 2 1 ++ zeroBytes 10 ++ leBytes 1 0 ++ leBytes 1 0x1D ++ zeroBytes 4 ++ leBytes 1 255 ++
    zeroBytes 1 ++ leBytes 2 Config.factorySsvid.toNat ++ leBytes 2 Config.factorySsid.toNat)

/-- The latest committed record. -/
def optLatest (s : Block) : List Byte := if s.opt.committed.isEmpty then optDefault else s.opt.committed

/-- A record with its sequence number and CHECK. -/
def optSeal (b : List Byte) (seq : Nat) : List Byte :=
  let b := bytesPut (padTo 512 b) 8 (leBytes 4 seq)
  bytesPut b 0xFC (leBytes 4 (crc32cOf (b.take 0xFC ++ b.drop 0x100)))

/-- Where a record lies in a bank. -/
def ringAt (seq : Nat) : Nat := (640 + seq % 1024 / 128) * sectorBytes + seq % 128 * 512

/-- Whether a bank holds an option record (R582, R602). -/
def optHeld (s : Block) (b : List Byte) (bank : Nat) : Bool :=
  memBytes 0xFF s.cfl.mem (bank * bankBytes + ringAt (fieldAt b 8 4)) 512 == b

/-- A record is durable in both banks. What MM's own operations have not done is done: a sector is erased before the record that begins
it, and two rows are programmed. -/
def optWrite (s : Block) (b : List Byte) : Block :=
  let seq := fieldAt b 8 4
  let a := ringAt seq
  let s := [0, 1].foldl (fun s k =>
    if optHeld s b k then s else
    let s := updCfl s (fun c => c.dropLines (k * bankBytes + a / sectorBytes * sectorBytes) (k * bankBytes + a / sectorBytes * sectorBytes + sectorBytes))
    let s := if seq % 128 = 0 then bump (updCfl s (fun c => { c with
        mem := memDrop c.mem (k * bankBytes + a) (k * bankBytes + a + sectorBytes)
        wear := tabSet c.wear (k * 1024 + a / sectorBytes) (tabGet 0 c.wear (k * 1024 + a / sectorBytes) + 1) })) pgCfl 9 1 else s
    bump (updCfl s (fun c => { c with mem := memPut 0xFF c.mem (k * bankBytes + a) b })) pgCfl 8 2) s
  updOpt s (fun o => { o with committed := b, committedSeq := BitVec.ofNat 32 seq })

/-! The OPT page (R598 to R603, R609). -/

/-- Whether the page counts as unlocked for its owner. -/
def optUnlocked (o : OptState) : Bool := o.unlocked || o.password.isNone

/-- The right to write the OPT page: its owner's alone. -/
def optRight (g : Page) (w : Writer) : Option Nat :=
  if isOwner g w then none else if w.master == .pk || w.master == .pe then some eNotPermitted else some eNotOwner

def optResult (s : Block) (n : Nat) : Block := updOpt s (fun o => { o with result := n })

/-- A command of the page is refused: the error is recorded and RESULT shows why. -/
def optRefuse (s : Block) (w : Writer) (code result : Nat) : Block := optResult (recordError s pgOpt (masterCode w.master) code 0x014) result

/-- The stage takes the latest committed record. -/
def loadStage (s : Block) : Block :=
  let b := optLatest s
  updOpt s (fun o => { o with stage := b, stageBase := o.committedSeq })

/-- UNLOCK (R598). -/
def optUnlock (s : Block) (w : Writer) : Block :=
  let o := s.opt
  let typed : DWord := BitVec.ofNat 64 (o.pwHi.toNat * 2 ^ 32 + o.pwLo.toNat)
  let s := updOpt s (fun o => { o with pwLo := 0, pwHi := 0 })
  match o.password with
  | none => optResult (loadStage s) 1
  | some pw =>
    if 8 ≤ o.failed then optRefuse s w 0x82 6
    else
      let soon := o.lastFail.any (fun t => Nat.blt s.now (t + 1000000000))
      if soon || typed != pw then
        let s := updOpt s (fun o => { o with failed := min 255 (o.failed + 1), lastFail := if soon then o.lastFail else some s.now })
        optRefuse (bump s pgOpt 3 1) w 0x81 5
      else optResult (loadStage (updOpt s (fun o => { o with unlocked := true }))) 1

/-- COMMIT (R603). -/
def optCommit (s : Block) (w : Writer) : Block :=
  let o := s.opt
  let b := padTo 512 o.stage
  if !optUnlocked o then raiseIrq (optRefuse s w 0x80 4) pgOpt 16
  else
    match optFieldBad b with
    | some off =>
      let s := updOpt s (fun o => { o with fieldErr := BitVec.ofNat 32 (2 ^ 31 + off) })
      raiseIrq (optRefuse s w eBadValue 3) pgOpt 16
    | none =>
      if o.stageBase ≠ o.committedSeq then raiseIrq (optRefuse s w 0x83 2) pgOpt 16
      else updOpt s (fun o => { o with committing := some (optSeal b (o.committedSeq + 1).toNat), result := 0 })

/-- SET_PASSWORD (R600). -/
def optSetPassword (s : Block) (w : Writer) : Block :=
  let o := s.opt
  let pw : DWord := BitVec.ofNat 64 (o.pwHi.toNat * 2 ^ 32 + o.pwLo.toNat)
  if !optUnlocked o then optRefuse s w 0x80 4
  else
    let s := optResult (updOpt s (fun o => { o with password := if pw = 0 then none else some pw })) 1
    if pw = 0 then s else updOpt s (fun o => { o with unlocked := true })

/-- The judged write of CTL of the OPT page: each bit that is 1 is a command, in ascending order. -/
def writeOptCtl (s : Block) (w : Writer) (value : Word) : Block :=
  let v := value.toNat
  let busy := s.opt.committing.isSome && (natBit v 0 || natBit v 3 || natBit v 4)
  guardedWrite s pgOpt 0x014 w value (optRight (getPage s pgOpt) w) (if busy then some 0x84 else none) (fun s =>
    let s := if natBit v 0 then optUnlock s w else s
    let s := if natBit v 1 then optResult (updOpt s (fun o => { o with unlocked := false })) 1 else s
    let s := if natBit v 2 then optResult (loadStage s) 1 else s
    let s := if natBit v 3 then optCommit s w else s
    if natBit v 4 then optSetPassword s w else s)

/-- A command of the OPT page. -/
def optCommand (w : Writer) (guard : Byte) (bit : Nat) (s : Block) : Block :=
  let v : Word := BitVec.ofNat 32 (guard.toNat * 2 ^ 24 + 2 ^ bit)
  enterWrite s pgOpt w 0x014 v (fun _ _ s => writeOptCtl s w v)

/-- OPT_UNLOCK (R598). -/
def doOptUnlock (w : Writer) (guard : Byte) (s : Block) : Block := optCommand w guard 0 s
/-- OPT_LOCK (R599). -/
def doOptLock (w : Writer) (guard : Byte) (s : Block) : Block := optCommand w guard 1 s
/-- OPT_LOAD_STAGE (R603). -/
def doOptLoadStage (w : Writer) (guard : Byte) (s : Block) : Block := optCommand w guard 2 s
/-- OPT_COMMIT (R603). -/
def doOptCommit (w : Writer) (guard : Byte) (s : Block) : Block := optCommand w guard 3 s
/-- OPT_SET_PASSWORD (R600). -/
def doOptSetPassword (w : Writer) (guard : Byte) (s : Block) : Block := optCommand w guard 4 s

/-- The judged write of a word of the stage. -/
def writeStage (s : Block) (w : Writer) (off : Nat) (value : Word) : Block :=
  plainWrite s pgOpt off w (optRight (getPage s pgOpt) w) (if optUnlocked s.opt then none else some 0x80) (fun s =>
    updOpt s (fun o => { o with stage := bytesPut (padTo 512 o.stage) (off - 0x400) (leBytes 4 value.toNat) }))

/-- OPT_STAGE_WRITE (R603): a word of the stage, by its number. -/
def doOptStageWrite (w : Writer) (i : Fin 128) (value : Word) (s : Block) : Block :=
  enterWrite s pgOpt w (0x400 + 4 * i.val) value (fun _ _ s => writeStage s w (0x400 + 4 * i.val) value)

/-- The judged write of the password registers. -/
def writePassword (s : Block) (w : Writer) (off : Nat) (value : Word) : Block :=
  plainWrite s pgOpt off w (optRight (getPage s pgOpt) w) none (fun s =>
    updOpt s (fun o => if off = 0x118 then { o with pwLo := value } else { o with pwHi := value }))

/-- OPT_COMMIT_DONE (R603): the record is durable in both banks. -/
def doOptCommitDone (s : Block) : Block :=
  match s.opt.committing with
  | none => s
  | some b =>
    let s := optWrite s b
    let s := updOpt s (fun o => { o with committing := none, stageBase := o.committedSeq, result := 1 })
    raiseIrq (bump s pgOpt 2 1) pgOpt 16

/-! Margin patrol (R593). -/

/-- Whether a sector of a region is refreshed at all (R593). -/
def refreshable : CflRegion → Bool
  | .slot => true
  | .ring => true
  | .journal => true
  | _ => false

/-- MARGIN_PATROL (R593): the sectors, by bank × 1,024 + sector, that hold a word which does not pass margin. -/
def doMarginPatrol (fails : List (Fin 2048)) (s : Block) : Block :=
  fails.foldl (fun s k =>
    let bank := k.val / 1024
    let s := bump s pgCfl 11 1
    let s := if refreshable (regionOf (k.val % 1024)) then raiseIrq s pgCfl 18 else s
    match regionOf (k.val % 1024) with
    | .ring =>
      if s.opt.committed.isEmpty || s.opt.committing.isSome then s else optWrite s (optSeal s.opt.committed (s.opt.committedSeq + 1).toNat)
    | .slot =>
      if bank + 1 = s.adm.active then
        updCfl s (fun c => { c with refresh := if c.refresh.contains k.val then c.refresh else c.refresh ++ [k.val] })
      else bump (bump (updCfl s (fun c => { c.dropLines (k.val * sectorBytes) (k.val * sectorBytes + sectorBytes) with wear := tabSet c.wear k.val (tabGet 0 c.wear k.val + 1) })) pgCfl 9 1) pgCfl 8 256
    | _ => s) s

/-! Register values (R606, R607, R609). -/

def cflBank (s : Block) (b : Nat) : Nat :=
  match s.cfl.ops.head? with
  | some o => if o.bank = b ∧ o.cmd ≠ 3 then boolNat (!s.cfl.suspended) * 2 ^ 15 + boolNat s.cfl.suspended * 2 ^ 14 + o.cmd * 2 ^ 12 + o.sector else 0
  | none => 0

def cflValue (s : Block) (off : Nat) : Option Word :=
  match off with
  | 0x100 => some 0x04000240
  | 0x104 => some (BitVec.ofNat 32 (cflBank s 1 * 2 ^ 16 + cflBank s 0))
  | 0x12C => some (BitVec.ofNat 32 (min 0xFFFF ((s.cfl.wear.foldl (fun m e => max m e.2) 0) / 100) * 2 ^ 16 + min 0xFFFF s.cfl.refresh.length))
  | _ => none

def cflStat (s : Block) : Nat := boolNat (!s.cfl.refresh.isEmpty) * 2 ^ 17 + boolNat s.cfl.damaged * 2 ^ 16

def optValue (s : Block) (off : Nat) : Option Word :=
  let o := s.opt
  if 0x200 ≤ off ∧ off < 0x400 then some (BitVec.ofNat 32 (fieldAt (if o.inforce.isEmpty then optDefault else o.inforce) (off - 0x200) 4))
  else if 0x400 ≤ off ∧ off < 0x600 then some (BitVec.ofNat 32 (fieldAt o.stage (off - 0x400) 4))
  else
    match off with
    | 0x100 => some o.loadedSeq
    | 0x104 => some (BitVec.ofNat 32 o.source)
    | 0x108 => some o.committedSeq
    | 0x10C => some o.stageBase
    | 0x110 => some o.fieldErr
    | 0x118 => some 0
    | 0x11C => some 0
    | 0x120 => some (BitVec.ofNat 32 (boolNat (decide (8 ≤ o.failed)) * 2 ^ 8 + o.failed))
    | _ => none

/-- OPT STATUS.BLOCK. -/
def optStat (s : Block) : Nat :=
  let o := s.opt
  o.result * 2 ^ 21 + boolNat (o.source == 0) * 2 ^ 20 + boolNat (o.committedSeq != o.loadedSeq) * 2 ^ 19 + boolNat o.committing.isSome * 2 ^ 18 +
    boolNat (optUnlocked o) * 2 ^ 17 + boolNat o.password.isSome * 2 ^ 16

end Sys2Proof.Machine
end

