-- ==== Sys2Proof/Machine/Sideband.lean ====
section
/-! DEFINITION. Sideband: NVMe-MI over the sideband and through the admin queues (R482, R483, R604, R662). The layouts of the data
structures are those of NVMe-MI 1.2 (log entry 41). -/
namespace Sys2Proof.Machine

/-- Who asks: the sideband, or an admin queue. -/
def miCmd (tag : Nat) : CmdRef := ⟨sideband, 0, tag⟩

/-- Statuses of NVMe-MI: Invalid Command Opcode, Invalid Parameter. -/
def miBadOpcode : Nat := 0x03
def miBadParam : Nat := 0x04

/-- An answer to an NVMe-MI command: its data, then its status. -/
def miAnswer (s : Block) (cmd : CmdRef) (b : List Byte) : Block := complete (sendData s cmd 0 b) cmd 0 0 0

/-- The NVM Subsystem Health Status Poll (R463 to R465); ready: the Ready bit. -/
def subsystemPoll (s : Block) (ready : Bool) : List Byte :=
  let link (p : Nat) : Nat := boolNat (decide (p < activePorts s) && decide ((getCtl s p).rate ≠ 0))
  let c := compositeC s
  leBytes 1 (boolNat ready * 2 ^ 5 + 2 ^ 4 + link 0 * 2 ^ 3 + link 1 * 2 ^ 2) ++ leBytes 1 (255 - s.crit % 256) ++
    leBytes 1 (narrowInt 8 (max (-60) (min 127 c))) ++ leBytes 1 (min 255 ((s.med.wearMean + 9) / 10)) ++ zeroBytes 4

/-- An entry of the Controller Health Status Poll. -/
def controllerPollEntry (s : Block) (p : Nat) : List Byte :=
  let c := getCtl s p
  leBytes 2 (p + 1) ++ leBytes 2 (boolNat c.rdy + boolNat c.pp * 2 ^ 5) ++ leBytes 2 (kelvin (compositeC s)) ++
    leBytes 1 (min 255 ((s.med.wearMean + 9) / 10)) ++ leBytes 1 (s.med.poolPm / 10) ++ leBytes 1 s.crit ++ zeroBytes 7

/-- Read NVMe-MI Data Structure: 0 the subsystem, 1 a port, 2 the controllers, 3 a controller, 4 the optional commands. -/
def miStructure (s : Block) (dtyp : Nat) : Option (List Byte) :=
  match dtyp with
  | 0 => some (padTo 32 (leBytes 1 (activePorts s - 1) ++ leBytes 1 1 ++ leBytes 1 2))
  | 1 => some (padTo 32 (leBytes 1 2 ++ leBytes 1 0 ++ leBytes 2 1024 ++ leBytes 4 1024 ++ leBytes 1 (if s.opt.inforce.isEmpty then 0x1D
      else (byteAt s.opt.inforce 0x11).toNat)))
  | 2 => some (padTo 4096 (leBytes 2 (activePorts s) ++ (List.range (activePorts s)).flatMap (fun p => leBytes 2 (p + 1))))
  | 3 => some (padTo 32 (leBytes 1 0))
  | 4 => some (leBytes 2 0)
  | _ => none

/-- Whether the option record forbids sideband commands that write. -/
def writeForbid (s : Block) : Bool := natBit (byteAt s.opt.inforce 0x12).toNat 0

def isSideband (cmd : CmdRef) : Bool := cmd.ctrl == sideband

/-- VPD Write: a record that is the latest one with new VPD bytes. It waits for a commit that is in progress. -/
def vpdWriteBy (cmd : CmdRef) (data : List Byte) (s : Block) : Block :=
  let b := bytesPut (optLatest s) 0x100 (padTo 256 data)
  complete (optWrite s (optSeal b (s.opt.committedSeq + 1).toNat)) cmd 0 0 0

/-- Carries out an NVMe-MI command. -/
def miBy (cmd : CmdRef) (r : MiReq) (s : Block) : Block :=
  match r with
  | .readData d => (match miStructure s d.toNat with
    | some b => miAnswer s cmd b
    | none => complete s cmd 0 0 miBadParam)
  | .subsystemPoll => miAnswer s cmd (subsystemPoll s true)
  | .controllerPoll => miAnswer s cmd ((List.range (activePorts s)).flatMap (controllerPollEntry s))
  | .configGet i => (match i.toNat with
    | 1 => miAnswer s cmd (leBytes 4 s.adm.smbFreq)
    | 2 => miAnswer s cmd (leBytes 4 s.adm.healthChange)
    | 3 => miAnswer s cmd (leBytes 4 s.adm.mtu)
    | _ => complete s cmd 0 0 miBadParam)
  | .configSet i v => (match i.toNat with
    | 1 => if 1 ≤ v ∧ v ≤ 3 then complete (updAdm s (fun a => { a with smbFreq := v })) cmd 0 0 0 else complete s cmd 0 0 miBadParam
    | 2 => complete (updAdm s (fun a => { a with healthChange := a.healthChange &&& (2 ^ 32 - 1 - v % 2 ^ 32) })) cmd 0 0 0
    | 3 => if 64 ≤ v ∧ v ≤ 1024 then complete (updAdm s (fun a => { a with mtu := v })) cmd 0 0 0 else complete s cmd 0 0 miBadParam
    | _ => complete s cmd 0 0 miBadParam)
  | .vpdRead => miAnswer s cmd ((optLatest s).drop 0x100)
  | .vpdWrite d => vpdWriteBy cmd d s

/-- Whether an NVMe-MI command writes. -/
def miWrites : MiReq → Bool
  | .configSet _ _ => true
  | .vpdWrite _ => true
  | _ => false

/-- Whether the module manager answers the sideband: it has started, and power is there. -/
def mmUp (s : Block) : Bool := s.hub.phase == .started && natBit s.hub.ready 1

/-- Whether AUX alone powers the standby island (R662). -/
def islandOnly (s : Block) : Bool := s.hub.phase == .off && s.hub.aux

/-- An NVMe-MI command over the sideband: by the module manager, or by the standby island; while neither is up it is not heard. -/
def sidebandMi (tag : Nat) (r : MiReq) (s : Block) : Block :=
  let cmd := miCmd tag
  if islandOnly s then
    match r with
    | .vpdRead => miAnswer s cmd ((optLatest s).drop 0x100)
    | .subsystemPoll => miAnswer s cmd (subsystemPoll s false)
    | _ => complete s cmd 0 0 miBadOpcode
  else if !mmUp s || !s.hub.aux then s
  else if (miWrites r && writeForbid s) || recovering s then complete s cmd 0 0 miBadOpcode
  else if (match r with
    | .vpdWrite _ => s.opt.committing.isSome
    | _ => false) then s
  else miBy cmd r s

/-- MI_READ_DATA_STRUCTURE (R483). -/
def doMiReadDataStructure (tag : Nat) (dtyp : Byte) (s : Block) : Block := sidebandMi tag (.readData dtyp) s
/-- MI_SUBSYSTEM_HEALTH_POLL (R483). -/
def doMiSubsystemHealthPoll (tag : Nat) (s : Block) : Block := sidebandMi tag .subsystemPoll s
/-- MI_CONTROLLER_HEALTH_POLL (R483). -/
def doMiControllerHealthPoll (tag : Nat) (s : Block) : Block := sidebandMi tag .controllerPoll s
/-- MI_CONFIGURATION_GET (R483). -/
def doMiConfigurationGet (tag : Nat) (id : Byte) (s : Block) : Block := sidebandMi tag (.configGet id) s
/-- MI_CONFIGURATION_SET (R483). -/
def doMiConfigurationSet (tag : Nat) (id : Byte) (value : Nat) (s : Block) : Block := sidebandMi tag (.configSet id value) s
/-- MI_VPD_READ (R483). -/
def doMiVpdRead (tag : Nat) (s : Block) : Block := sidebandMi tag .vpdRead s
/-- MI_VPD_WRITE (R604). -/
def doMiVpdWrite (tag : Nat) (data : List Byte) (s : Block) : Block := sidebandMi tag (.vpdWrite data) s

/-- NVME_MI_SEND (R483): an NVMe-MI command that writes, through an admin queue. -/
def doNvmeMiSend (cmd : CmdRef) (r : MiReq) (s : Block) : Block :=
  if s.opt.committing.isSome then s
  else onAdmin s cmd (fun s => if miWrites r then miBy cmd r s else complete s cmd 0 0 stInvalidField)

/-- NVME_MI_RECEIVE (R483): an NVMe-MI command that reads, through an admin queue. -/
def doNvmeMiReceive (cmd : CmdRef) (r : MiReq) (s : Block) : Block :=
  onAdmin s cmd (fun s => if miWrites r then complete s cmd 0 0 stInvalidField else miBy cmd r s)

/-- The admin commands that the recovery loader serves over the sideband (R594). -/
def bootAdmin : AdminReq → Bool
  | .identify _ _ _ => true
  | .fwDownload _ _ => true
  | .fwCommit _ _ _ => true
  | _ => false

/-- Whether a tunnelled admin command writes. -/
def adminWrites : AdminReq → Bool
  | .identify _ _ _ => false
  | .getLog _ _ _ _ => false
  | .getFeature _ _ _ _ => false
  | .calRead _ => false
  | _ => true

/-- Carries out an admin command for controller p. -/
def adminBy (cmd : CmdRef) (p : Nat) (r : AdminReq) (s : Block) : Block :=
  match r with
  | .identify cns nsid cntid => identifyBy cmd p cns nsid cntid s
  | .getLog lid rae off len => getLogBy cmd p lid rae off len s
  | .getFeature fid sel nsid dw => getFeatureBy cmd p fid sel nsid dw s
  | .setFeature fid save nsid dw11 dw12 data => setFeatureBy cmd p fid save nsid dw11 dw12 data s
  | .fwDownload off data => fwDownloadBy cmd p off data s
  | .fwCommit ca slot facts => fwCommitBy cmd p ca slot facts s
  | .format nsid lbaf ext pi pil ses => formatBy cmd p nsid lbaf ext pi pil ses s
  | .sanitize a => sanitizeBy cmd a s
  | .nsManage sel nsid data => nsManageBy cmd sel nsid data s
  | .nsAttach sel nsid ctrls => nsAttachBy cmd p sel nsid ctrls s
  | .calWrite data => calWriteBy cmd data s
  | .calRestore => calRestoreBy cmd s
  | .calRead w => calReadBy cmd w s

/-- MI_TUNNELLED_ADMIN (R474, R483): an admin command for a named controller. It is held while an activation hands service over (R478). -/
def doMiTunnelledAdmin (tag : Nat) (p : PortNo) (r : AdminReq) (s : Block) : Block :=
  let cmd := miCmd tag
  if islandOnly s then complete s cmd 0 0 miBadOpcode
  else if !mmUp s || !s.hub.aux || (getCtl s p).pp then s
  else if (adminWrites r && writeForbid s) || (recovering s && !bootAdmin r) then complete s cmd 0 0 miBadOpcode
  else if activePorts s ≤ p.val then complete s cmd 0 0 miBadParam
  else adminBy cmd p r s

end Sys2Proof.Machine
end

