-- ==== Sys2Proof/Machine/Stu.lean ====
section
/-! DEFINITION. Stu: the system time unit (R524 to R544): exchanges over the links, domains and grandmasters, action slots, epochs. -/
namespace Sys2Proof.Machine

/-! Stamps and TIME frames (R529, R530). -/

/-- A stamp of now: the low 48 bits of the count and the fraction. -/
def stampNow (s : Block) : Nat := s.now % 2 ^ 48 * 65536 + s.stu.frac % 65536

/-- The signed difference of two stamps. -/
def stampDiff (a b : Nat) : Int := signedOf 64 (a + 2 ^ 64 - b % 2 ^ 64)

/-- This module's PRIORITY (R528). -/
def ownPriority (s : Block) : Nat := natBits (getPage s pgStu).ctl.toNat 16 8

/-- Sends a TIME frame over a link. -/
def sendTime (s : Block) (l kind num stamp : Nat) : Block :=
  let u := s.stu
  let flags := boolNat (u.st == .locked) + 2 * boolNat (u.st == .holdover) + 4 * boolNat u.gm + 8 * boolNat u.claimed
  let d := u.domain.getD (0, 0)
  let hops := if u.domain.isSome then u.hops % 256 else 0xFF
  sendLocal (bump s pgStu 2 1) l
    { type := 0x05, vc := 2, dst := 0, src := s.self,
      payload := leBytes 1 kind ++ leBytes 1 hops ++ leBytes 1 (if u.gm then ownPriority s else u.gmPrio) ++ leBytes 1 flags ++ leBytes 2 d.1 ++ leBytes 2 d.2 ++
        leBytes 2 num ++ leBytes 2 u.announce ++ zeroBytes 4 ++ leBytes 8 stamp ++ zeroBytes 8 }

/-- TIME_REQUEST_TIMER (R530): every 16 µs each end of a trained link asks. -/
def doTimeRequestTimer (l : LinkNo) (s : Block) : Block :=
  let k := getLink s l
  if !linkTrained k || k.st == .retrain then s
  else
    let s := atTime s (k.asked + 16000)
    let n := (k.num + 1) % 65536
    let s := updLink s l (fun k => { k with num := n, asked := s.now, exch := some { num := n, t1 := stampNow s } })
    sendTime s l 0 n 0

/-- TIME_EXCHANGE_TIMEOUT (R530): no FOLLOW has come within 50 µs of the RESPONSE. -/
def doTimeExchangeTimeout (l : LinkNo) (s : Block) : Block :=
  match (getLink s l).exch with
  | some e =>
    (match e.answer with
     | some (_, _, t) => updLink (atTime s (t + 50000)) l (fun k => { k with exch := none })
     | none => s)
  | none => s

/-- ANNOUNCE_TICK (R529): the grandmaster's count advances every 16 µs. -/
def doAnnounceTick (s : Block) : Block :=
  if !s.stu.gm then s
  else
    let s := atTime s (s.stu.announceAt + 16000)
    updStu s (fun u => { u with announce := (u.announce + 1) % 65536, announceAt := s.now })

/-! Domains (R528). -/

/-- A module enters the domain that a link hears: it will step to its time with the first exchange (R531). -/
def adoptDomain (s : Block) (h : Heard) : Block :=
  let s := setStuState s .locking
  settleTime (updStu s (fun u => { u with
    gm := false, claimed := natBit h.flags 3, gmPrio := h.prio, domain := some (h.domain, h.gm), step := true, thetas := [],
    wasLocked := false, announceAt := s.now, claimDue := none }))

/-- Whether one candidate is better: the lower PRIORITY, then the lower number. -/
def better (p n q m : Nat) : Bool := Nat.blt p q || (p == q && Nat.blt n m)

/-- With no link ACTIVE, a module joins the best domain that it hears. -/
def joinBest (s : Block) : Block :=
  if anyActive s then s
  else
    let best := (hearing s).foldl (fun (b : Option Heard) e =>
      match b with
      | none => some e.2
      | some h => if better e.2.prio e.2.domain h.prio h.domain then some e.2 else b) none
    match best, s.stu.domain with
    | none, _ => s
    | some h, none => adoptDomain s h
    | some h, some (d, _) => if h.domain ≠ d ∧ better h.prio h.domain s.stu.gmPrio d then adoptDomain s h else s

/-- What a frame of the own domain says of its grandmaster: an announcement that advances, or a claim (R528). -/
def hearGm (s : Block) (h : Heard) (announce : Nat) : Block :=
  match s.stu.domain with
  | none => s
  | some (d, g) =>
    if h.domain ≠ d then s
    else if h.gm = g then
      let ahead := (announce + 65536 - s.stu.announce) % 65536
      if s.stu.gm ∨ ahead = 0 ∨ 32768 ≤ ahead then s
      else updStu s (fun u => { u with announce := announce, announceAt := s.now, claimDue := none, claimed := u.claimed || natBit h.flags 3 })
    else
      let rival := s.stu.gm || s.stu.claimDue.isSome
      if natBit h.flags 3 && (!rival || better h.prio h.gm (ownPriority s) s.self) then
        updStu s (fun u => { u with
          gm := false, claimed := true, gmPrio := h.prio, domain := some (d, h.gm), announce := announce, announceAt := s.now,
          claimDue := none, exchAt := if u.gm then s.now else u.exchAt })
      else s

/-- DOMAIN_FOUNDING (R528): 10 ms without a domain on any link, with PRIORITY below 255. -/
def doDomainFounding (s : Block) : Block :=
  if s.hub.phase ≠ .started ∨ s.stu.domain.isSome ∨ 255 ≤ ownPriority s ∨ !(hearing s).isEmpty then s
  else
    let s := atTime s (s.stu.since + 10000000)
    setStuState (updStu s (fun u => { u with
      gm := true, gmPrio := ownPriority s, domain := some (s.self, s.self), hops := 0, parent := none, announceAt := s.now })) .locked

/-- GM_LOSS_TIMEOUT (R528): no announcement has advanced for 1 ms; the wait before a claim begins. -/
def doGmLossTimeout (s : Block) : Block :=
  if s.stu.gm || s.stu.domain.isNone || s.stu.claimDue.isSome || Nat.ble 255 (ownPriority s) then s
  else
    let s := atTime s (s.stu.announceAt + 1000000)
    updStu s (fun u => { u with claimDue := some (s.now + 100000 * ownPriority s + 2 * (s.self % 4096)) })

/-- GM_CLAIM (R528): the wait ends, and no better claim or announcement has come. No claim steps time. -/
def doGmClaim (s : Block) : Block :=
  match s.stu.claimDue, s.stu.domain with
  | some t, some (d, _) =>
    let s := atTime s t
    setStuState (updStu s (fun u => { u with
      gm := true, claimed := true, gmPrio := ownPriority s, domain := some (d, s.self), hops := 0, parent := none, step := false,
      claimDue := none, announceAt := s.now })) .locked
  | _, _ => s

/-- HOLDOVER_ENTRY (R527, R531): 200 µs without an exchange with an eligible parent. -/
def doHoldoverEntry (s : Block) : Block :=
  let u := s.stu
  if u.gm || !(u.st == .locked || (u.st == .locking && u.wasLocked)) then s
  else
    updStu (setStuState (atTime s (u.exchAt + 200000)) .holdover) (fun u => { u with thetas := [] })

/-! Offsets (R530 to R532). -/

/-- The first step: time moves by θ at once (R531), and the pace readings return to 0 until the next microsecond (R90). -/
def stepTime (s : Block) (theta : Int) : Block :=
  let s := stuAccount s
  let t := (((s.now * 65536 + s.stu.frac : Nat) : Int) + theta).toNat
  let s := { s with now := t / 65536, paceEnd := tabMap (fun _ _ => t / 65536 / 1000) s.paceEnd }
  let s := updStu s (fun u => { u with
    frac := t % 65536, step := false, thetas := [], mark := s.now, exchAt := s.now, announceAt := s.now })
  let s := { s with links := tabMap (fun _ k => { k with asked := s.now, exch := none }) s.links }
  (List.range 48).foldl (fun s r => setReg s (pgRgn r) 0x100 0) s

/-- A value of θ from the parent is acted on: time slews, which changes the length of its ticks alone (log entry 47). -/
def slew (s : Block) (theta : Int) : Block :=
  let u := s.stu
  let l := (u.thetas ++ [theta])
  let l := l.drop (l.length - 8)
  let far := decide (655360 < theta.natAbs)
  let near := l.length == 8 && l.all (fun t => decide (t.natAbs ≤ 65536))
  let s := updStu s (fun u => { u with thetas := if far && u.st == .locked then [] else l })
  if u.st = .locked then (if far then setStuState s .locking else s)
  else if near then setStuState s .locked
  else setStuState s .locking

/-- An exchange is complete: θ and d over the link (R530). -/
def exchangeDone (s : Block) (l t1 t2 t3 t4 : Nat) : Block :=
  let asym := signedOf 16 (getRegD s pgStu (0x200 + 4 * l) 0).toNat
  let theta := Int.tdiv (stampDiff t2 t1 - stampDiff t4 t3) 2 + asym * 256
  let d := Int.tdiv (stampDiff t4 t1 - stampDiff t3 t2) 2
  let s := bump (updLink s l (fun k => { k with exch := none, theta := some theta })) pgStu 4 1
  if s.stu.parent ≠ some l then s
  else
    let s := updStu s (fun u => { u with offset := theta / 256, delay := d / 256, exchAt := s.now })
    let s := bumpMax s pgStu 9 (theta.natAbs / 256)
    if s.stu.step then stepTime s theta else slew s theta

/-- TIME_FRAME (R529, R530): a REQUEST is answered, a RESPONSE or FOLLOW completes an exchange; each tells of a domain. -/
def doTimeFrame (s : Block) : Block :=
  onInbox s 5 (fun s r =>
    match r.via with
    | none => s
    | some l =>
      let b := r.frame.payload
      let now := stampNow s
      let num := fieldAt b 8 2
      let h : Heard := ⟨fieldAt b 1 1, fieldAt b 2 1, fieldAt b 3 1, fieldAt b 4 2, fieldAt b 6 2⟩
      let s := updLink (bump s pgStu 3 1) l (fun k => { k with heard := some h })
      let s := settleTime (hearGm (joinBest s) h (fieldAt b 10 2))
      let kind := fieldAt b 0 1
      let stamp := fieldAt b 16 8
      if kind = 0 then sendTime (sendTime s l 1 num now) l 2 num (stampNow s)
      else
        match (getLink s l).exch with
        | none => s
        | some e =>
          if e.num ≠ num then s
          else if kind = 1 then updLink s l (fun k => { k with exch := some { e with answer := some (stamp, now, s.now) } })
          else if kind = 2 then
            (match e.answer with
             | some (t2, t4, t) =>
               if t + 50000 < s.now then updLink s l (fun k => { k with exch := none }) else exchangeDone s l e.t1 t2 stamp t4
             | none => s)
          else s)

/-! CTL (R543). -/

/-- The judged write of CTL of the STU page. ADOPT of the module's own domain changes nothing (R524, R528). -/
def writeStuCtl (s : Block) (w : Writer) (value : Word) : Block :=
  let adopt := natBit value.toNat 0
  let link := bvBits value 8 5
  let right := (ownerRight (getPage s pgStu) w).or (if adopt && w.master != .mm then some eNotPermitted else none)
  guardedWrite s pgStu 0x014 w value right (badIf (decide (23 < link))) (fun s =>
    let s := setCtl s pgStu .stu value.toNat
    match (getLink s link).heard with
    | some h => if adopt && h.hops != 0xFF && s.stu.domain.all (fun d => d.1 != h.domain) then adoptDomain s h else s
    | none => s)

/-- STU_ADOPT (R528): a write of CTL with ADOPT = 1, its other fields with it. -/
def doStuAdopt (w : Writer) (value : Word) (s : Block) : Block :=
  let value := value ||| 1
  enterWrite s pgStu w 0x014 value (fun _ _ s => writeStuCtl s w value)

/-! Epochs (R539, R540). -/

/-- The first boundary of the schedule at or after a time. -/
def schedFrom (s : Block) (t : Nat) : Option Nat :=
  let period := (getRegD s pgStu 0x138 0).toNat * 1000
  let origin := pairValue s pgStu 0x130
  if period = 0 then none
  else if t ≤ origin then some origin
  else some (origin + (t - origin + period - 1) / period * period)

/-- The schedule has been written. -/
def reschedule (s : Block) : Block := updStu s (fun u => { u with sched := schedFrom s (s.now + 2000) })

/-- A boundary at time t: every page closes the current epoch (R67), and the next takes its number. -/
def boundary (s : Block) (t : Nat) : Block :=
  let s := latchAll (accountTimes (stuAccount s)) s.stu.epoch t
  updStu s (fun u => { u with epoch := u.nextNo.getD (u.epoch + 1), nextNo := none, last := some t })

/-- Whether a boundary at time t would fall less than 100 µs after the previous one. -/
def tooSoon (s : Block) (t : Nat) : Bool := s.stu.last.any (fun l => decide (t < l + 100000))

/-- EPOCH_BOUNDARY (R67, R539): the next boundary of the schedule. -/
def doEpochBoundary (s : Block) : Block :=
  match s.stu.sched with
  | none => s
  | some t =>
    let s := atTime s t
    let s := updStu s (fun u => { u with sched := schedFrom s (t + 1) })
    if s.stu.last = some t then s
    else if tooSoon s t then bump s pgStu 8 1
    else boundary s t

/-! Action slots (R536 to R538). -/

/-- The slot that a master's STU_ACT_INDEX names. -/
def slotIndex (s : Block) (w : Writer) : Nat := (tabGet 0 s.sel (8 * 2 + masterCode w.master)).toNat % 64
def getSlot (s : Block) (i : Nat) : Slot := tabGet {} s.stu.slots i
def updSlot (s : Block) (i : Nat) (f : Slot → Slot) : Block := updStu s (fun u => { u with slots := tabSet u.slots i (f (getSlot s i)) })

/-- Whether a target names a register that a slot may write (R537). -/
def targetOk (v : Word) : Bool :=
  let p := bvBits v 16 14
  let off := bvBits v 0 12
  (match pageOf p with
   | some (k, _) => isReg k off
   | none => false) && !(p == pgStu && within off 0x150 0x168)

/-- A slot is finished in a state: counted, signalled (R536). -/
def slotEnds (s : Block) (i st : Nat) : Block :=
  let s := updSlot s i (fun x => { x with st := st })
  let s := if st = 3 ∨ st = 5 ∨ st = 6 then bump s pgStu 8 1 else s
  let s := if st = 3 then raiseIrq s pgStu 19 else s
  raiseIrq s pgStu 20

/-- What refuses a write of STU_ACT_CTL. -/
def actBad (x : Slot) (v : Nat) : Bool :=
  let cmd := natBits v 4 4
  if cmd = 0 then x.st == 1
  else if cmd = 1 then x.st == 1 || (if natBit v 0 then x.time % 1000 != 0 else !targetOk x.target)
  else cmd != 2

/-- STU_ACT_CTL: ARM, CANCEL, KIND. -/
def actCtl (s : Block) (w : Writer) (v : Nat) : Block :=
  let i := slotIndex s w
  let cmd := natBits v 4 4
  if cmd = 1 then updSlot s i (fun x => { x with st := 1, by_ := w, epoch := natBit v 0 })
  else if cmd = 2 then (if (getSlot s i).st = 1 then slotEnds s i 4 else s)
  else updSlot s i (fun x => { x with epoch := natBit v 0 })

/-- The judged write of a block register of the STU page; none for an offset that takes no write. -/
def writeStuReg (s : Block) (off : Nat) (w : Writer) (v : Word) : Option Block :=
  let right := ownerRight (getPage s pgStu) w
  let put (bad : Bool) (f : Block → Block) : Option Block := some (plainWrite s pgStu off w right (badIf bad) f)
  let lo (base : Nat) : Nat := ((getLow s pgStu base w).getD 0).toNat
  let armed := (getSlot s (slotIndex s w)).st == 1
  if off = 0x150 then some { s with sel := tabSet s.sel (8 * 2 + masterCode w.master) (v &&& 0x3F) }
  else if off = 0x128 ∨ off = 0x130 ∨ off = 0x160 then put false (fun s => putLow s pgStu off w v)
  else if off = 0x12C then
    (let n := lo 0x128 + v.toNat * 2 ^ 32
     put (decide (n ≤ s.stu.epoch)) (fun s => updStu s (fun u => { u with nextNo := some n })))
  else if off = 0x134 then
    (let n := (((getLow s pgStu 0x130 w).getD (getRegD s pgStu 0x130 0)).toNat + v.toNat * 2 ^ 32)
     put (n % 1000 != 0) (fun s =>
       reschedule (setReg (setReg s pgStu 0x130 (BitVec.ofNat 32 n)) pgStu 0x134 v)))
  else if off = 0x138 then
    put (within v.toNat 1 100) (fun s => reschedule (setReg s pgStu 0x138 v))
  else if off = 0x154 then put (actBad (getSlot s (slotIndex s w)) v.toNat) (fun s => actCtl s w v.toNat)
  else if off = 0x158 then put armed (fun s => updSlot s (slotIndex s w) (fun x => { x with target := v &&& 0x3FFF0FFC }))
  else if off = 0x15C then put armed (fun s => updSlot s (slotIndex s w) (fun x => { x with value := v }))
  else if off = 0x164 then put armed (fun s => updSlot s (slotIndex s w) (fun x => { x with time := lo 0x160 + v.toNat * 2 ^ 32 }))
  else if within off 0x200 0x260 then put false (fun s => setReg s pgStu off (v &&& 0xFFFF))
  else none

/-- A write of a block register of the STU page enters the control space. -/
def stuWrite (s : Block) (off : Nat) (w : Writer) (v : Word) : Block :=
  enterWrite s pgStu w off v (fun _ _ s => (writeStuReg s off w v).getD s)

/-- ACTION_ARM (R537): STU_ACT_CTL with CMD = ARM. -/
def doActionArm (w : Writer) (epoch : Bool) (s : Block) : Block := stuWrite s 0x154 w (BitVec.ofNat 32 (0x10 + boolNat epoch))
/-- ACTION_CANCEL (R538): STU_ACT_CTL with CMD = CANCEL. -/
def doActionCancel (w : Writer) (s : Block) : Block := stuWrite s 0x154 w 0x20
/-- EPOCH_SCHEDULE_WRITE (R539): STU_EPOCH_PERIOD, or STU_EPOCH_ORIGIN as an 8-byte write or by its high word alone. -/
def doEpochScheduleWrite (w : Writer) (origin : Bool) (lo : Option Word) (v : Word) (s : Block) : Block :=
  if origin then
    stuWrite (match lo with
      | some x => stuWrite s 0x130 w x
      | none => s) 0x134 w v
  else stuWrite s 0x138 w v
/-- EPOCH_NEXT_WRITE (R540): an 8-byte write, or the high word alone. -/
def doEpochNextWrite (w : Writer) (lo : Option Word) (hi : Word) (s : Block) : Block :=
  stuWrite (match lo with
    | some x => stuWrite s 0x128 w x
    | none => s) 0x12C w hi

/-- TIMED_ACTION_DUE (R454, R541): in LOW, an armed slot or the next boundary comes within 5 ms of its time. -/
def doTimedActionDue (s : Block) : Block :=
  if !s.low then s
  else
    let slots := (s.stu.slots.filter (fun e => e.2.st == 1)).map (fun e => (e.2.time, e.1))
    let all : List (Nat × Nat) := (slots ++ (s.stu.sched.map (fun t => (t, 0xFFFFFFFF))).toList).filter (fun e => !s.stu.woken.contains e.1)
    match all.foldl (fun (b : Option (Nat × Nat)) e => match b with
      | none => some e
      | some q => if e.1 < q.1 then some e else b) none with
    | none => s
    | some (t, i) =>
      let s := atTime s (t - 5000000)
      wakeCause (updStu s (fun u => { u with woken := (u.woken.filter (fun x => decide (s.now ≤ x))) ++ [t] })) 2 0 i

/-! Register values (R543). -/

def stuStCode : StuSt → Nat
  | .free => 0
  | .locking => 1
  | .locked => 2
  | .holdover => 3

/-- STATUS.BLOCK of the STU page. -/
def stuStatus (s : Block) : Nat :=
  let u := s.stu
  stuStCode u.st * 2 ^ 16 + boolNat u.gm * 2 ^ 20 + boolNat u.foreign * 2 ^ 21 + boolNat (decide (32 < u.hops)) * 2 ^ 22

/-- The computed registers of the STU page for a reader; none for a stored one. -/
def stuValue (s : Block) (w : Writer) (off : Nat) : Option Word :=
  let u := s.stu
  let x := getSlot s (slotIndex s w)
  let word (n : Nat) : Option Word := some (BitVec.ofNat 32 n)
  let hi (n : Nat) : Option Word := some (BitVec.ofNat 32 (n / 2 ^ 32))
  if off = 0x100 then word (match u.parent with
    | some l => 2 ^ 31 + l * 2 ^ 24 + u.hops * 2 ^ 16 + (((getLink s l).peer.map (·.1)).getD 0)
    | none => u.hops * 2 ^ 16)
  else if off = 0x104 then word (match u.domain with
    | some (d, g) => d % 2 ^ 14 * 2 ^ 16 + g % 2 ^ 14
    | none => 0)
  else if off = 0x108 then some (BitVec.ofInt 32 u.offset)
  else if off = 0x10C then some (BitVec.ofInt 32 u.delay)
  else if off = 0x110 then word s.now
  else if off = 0x114 then hi s.now
  else if off = 0x118 then word (u.frac % 65536 * 2 ^ 16 + s.now % 2 ^ 16)
  else if off = 0x120 then word u.epoch
  else if off = 0x124 then hi u.epoch
  else if off = 0x128 then word (u.nextNo.getD 0)
  else if off = 0x12C then hi (u.nextNo.getD 0)
  else if off = 0x140 then word (u.last.getD 0)
  else if off = 0x144 then hi (u.last.getD 0)
  else if off = 0x150 then word (slotIndex s w)
  else if off = 0x154 then word (x.st * 2 ^ 28 + masterCode x.by_.master * 2 ^ 24 + boolNat x.epoch)
  else if off = 0x158 then some x.target
  else if off = 0x15C then some x.value
  else if off = 0x160 then word x.time
  else if off = 0x164 then hi x.time
  else none

end Sys2Proof.Machine
end

