-- ==== Sys2Proof/Machine/Start.lean ====
section
/-! DEFINITION. Start: power, the reset levels and what each clears (R423, R450, R610 to R613), the start and its parts (R614 to R624,
R659, R660, R662), orderly removal (R641). -/
namespace Sys2Proof.Machine

/-! What a reset clears (R611). -/

/-- A controller after a module reset: the host's features come from their saved values, and the port's link trains afresh. -/
def resetCtl (c : Controller) : Controller :=
  { released := c.released, attached := c.attached, savedFeats := c.savedFeats, feats := c.savedFeats
    vecNoCoalesce := (c.savedFeats.filter (fun e => Nat.ble (vecKey 0) e.1 && e.2 == 1)).map (fun e => e.1 - vecKey 0) }

/-- A namespace after a reset; a reservation that does not persist through power loss is gone after one. -/
def resetNs (cold : Bool) (n : Namespace) : Namespace :=
  let n := { n with
    resvMask := n.savedResvMask, tler := n.savedRecovery % 2 ^ 16, dulbe := natBit n.savedRecovery 16 }
  if cold && !n.ptpl then { n with registrants := [], holder := none, resvGen := 0 } else n

/-- A die that a reset finds in a test is what it was before. -/
def resetDie (d : FlashDie) : FlashDie :=
  if d.state = .testing then { d with state := if d.wasSpare then .spare else .fenced } else d

/-- The media after a reset: the map and the data are kept; channels have yet to train, the hold-up bank to be tested. -/
def resetMedia (cold : Bool) (m : Media) : Media :=
  { m with
    holdupOk := false, holdupUs := 0, holdupAt := none, testing := false
    chans := tabMap (fun _ c => { c with trained := false, retrains := 0 }) m.chans
    dies := tabMap (fun _ d => resetDie d) m.dies
    pendWrites := [], pendReads := [], recovered := cold && !m.shutdown, shutdown := false }

/-- The module manager's own state after a reset: what its records hold stays. -/
def resetAdmin (cold : Bool) (a : AdminState) : AdminState :=
  { a with
    servingB := false, standby := .ready, handovers := 0, step := 0, unitsLeft := [], commit := none, applying := false, calLeft := []
    overK := a.overKSaved, underK := a.underKSaved, stamp := none, smbFreq := 1, mtu := 64, healthChange := 0
    hist := if cold then a.histSaved else a.hist, minute := if cold then 0 else a.minute }

/-- The time unit after a module reset (R541). -/
def resetStu (u : StuState) : StuState :=
  { u with slots := [], sched := none, nextNo := none, parent := none, woken := [], foreign := false, claimDue := none }

/-- The pages after a reset: their reset values, but for units that stay retired and marks of DRAM dies. -/
def resetPages (s : Block) : Tab Page :=
  let t := s.retired.foldl (fun t p => tabSet t p (firstPage p { service := .retired })) ([] : Tab Page)
  (List.range 8).foldl (fun t k =>
    match dmMark s k with
    | some d => tabSet t (pgChk k) { tabGet ({} : Page) t (pgChk k) with regs := [(0x200, BitVec.ofNat 32 (2 ^ 31 + d))] }
    | none => t) t

/-- The option record that stands after a reset (R582, R602): the one that a commit was writing, if a bank holds it whole. -/
def optStands (s : Block) : List Byte :=
  match s.opt.committing with
  | some b => if optHeld s b 0 || optHeld s b 1 then b else s.opt.committed
  | none => s.opt.committed

/-- The bytes that the operation in progress programs or erases: what they hold when a reset cuts it short is not said. -/
def tornBytes (s : Block) : Option (Nat × Nat) :=
  match s.cfl.ops with
  | [] => none
  | op :: _ =>
    let at_ := op.bank * bankBytes + op.sector * sectorBytes
    if op.cmd = 1 then some (at_ + op.row * 256, 256) else if op.cmd = 2 then some (at_, sectorBytes) else none

/-- The code flash after a reset: an operation in progress is cut short, and those that wait are lost. -/
def resetCfl (s : Block) : CflState :=
  { mem := match tornBytes s with
      | some (a, n) => memPut 0xFF s.cfl.mem a ((List.range n).map (fun i => Config.freeByte (s.fresh + i)))
      | none => s.cfl.mem
    wear := s.cfl.wear, refresh := s.cfl.refresh, damaged := s.cfl.damaged, factoryBad := s.cfl.factoryBad }

/-- The whole module but for what R611 keeps; cold: at a cold power-on. -/
def resetBlock (s : Block) (cold : Bool) : Block :=
  { now := if cold then 0 else s.now
    fresh := match tornBytes s with
      | some (_, n) => s.fresh + n
      | none => s.fresh
    out := s.out
    nextPost := s.nextPost
    pages := resetPages s
    ctls := tabMap (fun _ c => resetCtl c) s.ctls
    pageUse := s.pageUse.filter (fun e => e.2 == .heldOut)
    nss := tabMap (fun _ n => resetNs cold n) s.nss
    med := resetMedia cold s.med
    evts := tabMap (fun p _ => { config := BitVec.ofNat 32 (tabGet 0xFFFFFFFF (getCtl s p).savedFeats 0x0B) }) s.evts
    links := tabMap (fun _ k => { lane0 := { retired := k.lane0.retired }, lane1 := { retired := k.lane1.retired } }) s.links
    stu := if cold then {} else resetStu s.stu
    adm := resetAdmin cold s.adm
    crit := s.crit
    life := s.life
    paceEnd := if cold then [] else s.paceEnd
    hub := { aux := s.hub.aux, cause := s.hub.cause, removeReq := s.hub.removeReq }
    power := { tripLast := s.power.tripLast, tripTime := s.power.tripTime, tripNew := s.power.tripNew, leak := s.power.leak }
    retired := s.retired
    opt := { committed := optStands s, password := s.opt.password
             committedSeq := if optStands s = s.opt.committed then s.opt.committedSeq else BitVec.ofNat 32 (fieldAt (optStands s) 8 4) }
    cfl := resetCfl s }

/-! The start (R602, R614, R621, R623, R624). -/

/-- The fields of an option record that may be out of range, with their sizes. -/
def optFields : List (Nat × Nat) := [(0x10, 1), (0x11, 1), (0x12, 1), (0x13, 1), (0x14, 2), (0x17, 1)]

/-- A record with the default in place of every field that is out of range (R601). -/
def optFit (b : List Byte) : List Byte :=
  optFields.foldl (fun b f =>
    if (optFieldBad (bytesPut optDefault f.1 (bytesAt b f.1 f.2))).isSome then bytesPut b f.1 (bytesAt optDefault f.1 f.2) else b) b

/-- The option record is loaded. -/
def loadOption (s : Block) : Block :=
  let some_ := !s.opt.committed.isEmpty
  let b := optLatest s
  let s := updOpt s (fun o => { o with
    inforce := optFit b, loadedSeq := if some_ then o.committedSeq else 0, source := if some_ && !optHeld s b 0 && optHeld s b 1 then 2 else boolNat some_
    fieldErr := match (if some_ then optFields.find? (fun f => (optFieldBad (bytesPut optDefault f.1 (bytesAt b f.1 f.2))).isSome) else none) with
      | some f => BitVec.ofNat 32 (2 ^ 31 + f.1)
      | none => 0 })
  { s with self := fieldAt s.opt.inforce 0x14 2 }

/-- What the record in force gives the AUP and STU pages. -/
def loadPages (s : Block) : Block :=
  let b := s.opt.inforce
  let adm := boolNat (natBit (byteAt b 0x13).toNat 1)
  let s := (List.range 24).foldl (fun s l => updPage s (pgAup l) (fun g => { g with ctl := BitVec.ofNat 24 (0x200000 + adm) })) s
  updPage s pgStu (fun g => { g with ctl := BitVec.ofNat 24 ((byteAt b 0x16).toNat * 2 ^ 16) })

/-- HUB_RESET_CAUSE takes the cause of a start. -/
def takeCause (s : Block) (cause master : Nat) : Block :=
  updHub s (fun h => { h with
    cause := BitVec.ofNat 32 (cause * 2 ^ 28 + master * 2 ^ 24 + (if cause = 0 then 0 else satAdd 0xFFFF (bvBits h.cause 0 16) 1)) })

/-- Steps 2 to 4 of R614: the hub is released from reset, the record loaded, the ports ready to train. A trip that no start has followed
yet raises TRIP. -/
def startUp (s : Block) : Block :=
  let s := loadPages (loadOption s)
  let s := updHub s (fun h => { h with phase := .started, ready := 1, startTime := s.now, selftest := 0, mrst := false })
  let s := settleTime s
  if s.power.tripNew then raiseIrq (updPower s (fun w => { w with tripNew := false })) (pgThm 4) 17 else s

/-- R613 up to step 8: the work in progress is saved, and everything is reset but for what R611 keeps. -/
def resetModule (s : Block) (cause master : Nat) : Block :=
  let s := takeCause s cause master
  let s := if s.hub.remove = .ready then s else saveWork (stopWork s)
  resetBlock s false

/-- A module reset that nothing holds. -/
def moduleReset (s : Block) (cause master : Nat) : Block := startUp (resetModule s cause master)

/-! Power and the reset input (R412, R613, R641, R642, R659, R662). -/

/-- MAIN_VALID (R659, R614, R665): a cold power-on. After a thermal trip, main input must have been absent for 1 s. -/
def doMainValid (s : Block) : Block :=
  if s.hub.phase ≠ .off || (s.hub.tripped && s.hub.mainLost.isNone) then s
  else
    let clean := s.med.shutdown
    let s := lifeBump (resetBlock s true) lifePowerCycles 1
    startUp (takeCause (if clean then s else lifeBump s lifeUnsafeShutdowns 1) 0 0)

/-- MAIN_LOSS (R394, R412, R642, R659): the buffer is saved on the hold-up bank. holds: whether the bank lasts for that; a bank that passed
its test may fail still. -/
def doMainLoss (holds : Bool) (s : Block) : Block :=
  match s.hub.phase with
  | .off => updHub s (fun h => { h with mainLost := some s.now })
  | .held => goOff s
  | .started =>
    if s.hub.remove = .ready then goOff s
    else
      let half := s.med.pendWrites.map (fun w => (⟨w.nsid, w.slba, w.nlb⟩ : LbaSpan))
      let t := stopWork s
      goOff (if holds then saveWork t else { t with
        med := { t.med with halfDone := half }
        ctls := tabMap (fun _ c => { c with rate := 0, width := 0, flit := false }) t.ctls })

/-- AUX_APPLIED (R662). -/
def doAuxApplied (s : Block) : Block := updHub s (fun h => { h with aux := true })
/-- AUX_LOSS (R662). -/
def doAuxLoss (s : Block) : Block := updHub s (fun h => { h with aux := false })

/-- MRST_ASSERT (R613, R622): the reset input has been low for 100 µs: a module reset, which waits at step 8. -/
def doMrstAssert (s : Block) : Block :=
  match s.hub.phase with
  | .started => updHub (resetModule s 1 0) (fun h => { h with phase := .held, mrst := true })
  | _ => s

/-- MRST_RELEASE (R613). -/
def doMrstRelease (s : Block) : Block := if s.hub.phase = .held then startUp s else s

/-- The code that refuses a write of HUB_RESET_CTL: MM and a host that owns the page may make it. -/
def resetRight (s : Block) (w : Writer) : Option Nat :=
  if w.master == .pk || w.master == .pe then some eNotPermitted else ownerRight (getPage s pgHub) w

/-- The judged write of HUB_RESET_CTL (R624). -/
def writeResetCtl (s : Block) (w : Writer) (value : Word) : Block :=
  plainWrite s pgHub 0x100 w (resetRight s w) (badIf (decide (bvBits value 16 16 ≠ 0xD1CE)))
    (fun s => if natBit value.toNat 0 then moduleReset s 2 (masterCode w.master) else s)

/-- HUB_RESET_CTL_WRITE (R624). -/
def doHubResetCtlWrite (w : Writer) (value : Word) (s : Block) : Block := enterWrite s pgHub w 0x100 value (fun _ _ s => writeResetCtl s w value)

/-- HUB_WATCHDOG_EXPIRY (R612, R622): no pair serves, and no standby pair can take service. -/
def doHubWatchdogExpiry (s : Block) : Block :=
  if s.hub.phase = .started ∧ natBit s.hub.ready 1 ∧ s.adm.standby ≠ .ready then moduleReset s 3 0 else s

/-! Removal (R641, R660). -/

/-- PREPARE: steps 2 to 4 of R613. -/
def prepare (s : Block) : Block :=
  if s.hub.remove = .serving then updHub (stopWork s) (fun h => { h with remove := .preparing, removeReq := false, cancelled := none }) else s

/-- An accepted write of HUB_REMOVE. -/
def removeWritten (s : Block) (w : Writer) (value : Word) : Block :=
  let s := if natBit value.toNat 0 then prepare s else s
  if !natBit value.toNat 1 then s
  else
    match s.hub.remove with
    | .serving => s
    | .preparing => updHub s (fun h => { h with cancelled := some (masterCode w.master) })
    | .ready => moduleReset s 2 (masterCode w.master)

/-- The judged write of HUB_REMOVE. -/
def writeRemove (s : Block) (w : Writer) (value : Word) : Block :=
  plainWrite s pgHub 0x154 w (ownerRight (getPage s pgHub) w) (badIf (decide (bvBits value 16 16 ≠ 0x7E40)))
    (fun s => removeWritten s w value)

/-- A write of HUB_REMOVE, which READY takes too, although it answers headers alone. -/
def enterRemove (s : Block) (w : Writer) (value : Word) : Block :=
  if s.hub.phase = .started ∧ s.hub.remove = .ready then writeRemove s w value
  else enterWrite s pgHub w 0x154 value (fun _ _ s => writeRemove s w value)

/-- REMOVE_PREPARE (R641). -/
def doRemovePrepare (w : Writer) (key : Half) (s : Block) : Block := enterRemove s w (BitVec.ofNat 32 (key.toNat * 2 ^ 16 + 1))
/-- REMOVE_CANCEL (R641). -/
def doRemoveCancel (w : Writer) (key : Half) (s : Block) : Block := enterRemove s w (BitVec.ofNat 32 (key.toNat * 2 ^ 16 + 2))

/-- REMOVAL_READY (R641): steps 5 to 7 of R613 are done, and the compute dies power down; a CANCEL that came before applies. -/
def doRemovalReady (s : Block) : Block :=
  if s.hub.phase ≠ .started || s.hub.remove ≠ .preparing then s
  else
    let was := s.hub.cancelled
    let s := updHub (saveWork s) (fun h => { h with remove := .ready, ready := 0, cancelled := none })
    match was with
    | some m => moduleReset s 2 m
    | none => s

/-- The module manager writes PREPARE as MM (R660). -/
def prepareAsMm (s : Block) : Block := writeRemove s ⟨.mm, 0⟩ 0x7E400001

/-- REMOVE_REQ_ASSERT (R660): REMOVE_REQ# has been low for 1 s. -/
def doRemoveReqAssert (s : Block) : Block :=
  if s.hub.phase ≠ .started || s.hub.remove ≠ .serving then s
  else if natBit s.hub.ready 1 then prepareAsMm s
  else updHub s (fun h => { h with removeReq := true })

/-! Readiness (R594, R614 to R619). -/

/-- Bits of HUB_READY become 1. -/
def addReady (s : Block) (bits : Nat) : Block := updHub s (fun h => { h with ready := h.ready ||| bits })

/-- Whether no run of a command that a reset has settled is still being torn down (R450). -/
def settled (s : Block) (p : Nat) : Bool :=
  s.ctxs.all (fun e => e.2.port != p || (!e.2.closing && e.2.run.all (fun r => isOutstanding s r.cc.cmd || (e.2.search && !tearing e.2))))

/-- CSTS.RDY of a controller that is enabled becomes 1 once the module manager serves and its earlier commands are settled. -/
def settleRdy (s : Block) (p : Nat) : Block :=
  if natBit s.hub.ready 1 && (getCtl s p).en && settled s p then updCtl s p (fun c => { c with rdy := true }) else s

/-- The slot that starts: the one that the activation record names, else the other; none if neither passes. -/
def bootSlot (s : Block) (f : BootFacts) : Option Nat :=
  let want := if s.adm.pendingSlot = 0 then s.adm.active else s.adm.pendingSlot
  let ok (i : Nat) : Bool := (slotFr s i).isSome && (if i = 1 then f.slot1 else f.slot2)
  if ok want then some want else if ok (3 - want) then some (3 - want) else none

/-- MANAGER_START_DONE (R457, R593, R594, R614, R615, R622): the slot and a pair serve; or the recovery loader does, and nothing more
becomes ready. -/
def doManagerStartDone (f : BootFacts) (s : Block) : Block :=
  if s.hub.phase ≠ .started || natBit s.hub.ready 1 || !(f.pairA || f.pairB) then s
  else
    let slot := bootSlot s f
    let s := updCfl (refreshSectors s) CflState.dropAllLines
    let s := updAdm s (fun a => { a with
      active := slot.getD a.active, pendingSlot := 0, servingB := !f.pairA
      standby := if f.pairA && f.pairB then .ready else .failed })
    let s := settleCrit (addReady s (if slot.isSome then 2 + 4 else 2 + 128))
    let s := updStu s (fun u => { u with since := s.now })
    let s := (List.range 4).foldl settleRdy s
    if s.hub.removeReq then prepareAsMm s else s

/-- The compute dies are powered, at the supply that the policy and the trim give. -/
def powerDies (s : Block) : Block :=
  { s with supply := (List.range 4).foldl (fun t d => tabSet t d (supplyTarget s d)) s.supply }

/-- A core that fails its self-test: its cluster's spare serves its number, or no core does. -/
def testCore (s : Block) (c : Nat) : Block :=
  if (getPage s (pgCor c)).service = .retired then s
  else if spareState s (cluOfCore c) = 0 then lifeBump (bump (setSpare s (cluOfCore c) 1 (c % 16)) (pgClu (cluOfCore c)) 7 1) lifeCoresSpared 1
  else retireUnit s (pgCor c) none

/-- Pages of device memory that a self-test holds out; how many are new. -/
def holdOut (s : Block) (l : List Nat) : Block × Nat :=
  let new := (l.filter (fun p => decide (p < 8 * pagesPerStack) && tabGet PageUse.dirty s.pageUse p != .heldOut)).eraseDups
  ({ s with pageUse := new.foldl (fun t p => tabSet t p .heldOut) s.pageUse }, new.length)

/-- HUB_SELFTEST. -/
def selftestWord (s : Block) (rows pages : Nat) : Word :=
  let spared := ((List.range 768).filter (fun g => spareState s g == 1)).length
  let gone := (s.retired.filter (fun p => decide (p < 0x3000))).length
  BitVec.ofNat 32 (min 255 spared * 2 ^ 24 + min 255 gone * 2 ^ 16 + min 255 rows * 2 ^ 8 + min 255 pages)

/-- COMPUTE_READY (R566, R571, R572, R617, R619): steps 7 and 8 are done: what the self-test finds is in force, and the compute side is
ready. -/
def doComputeReady (t : SelfTest) (s : Block) : Block :=
  if s.hub.phase ≠ .started || !natBit s.hub.ready 2 || natBit s.hub.ready 3 then s
  else
    let s := t.spares.foldl (fun s g => setSpare s g 3 0) (powerDies s)
    let s := t.cores.foldl (fun s c => testCore s c) s
    let s := t.clusters.foldl (fun s g => retireUnit s (pgClu g) none) s
    let s := t.chks.foldl (fun s u => setService s (pgChk u) .fenced none) s
    let s := t.dies.foldl (fun s e => markDie s e.1 e.2) s
    let r := holdOut s t.pages
    let s := updHub r.1 (fun h => { h with selftest := selftestWord r.1 t.rows r.2 })
    settleCrit (addReady s (8 + 16))

/-- Whether a block is one of a write that had not completed. -/
def halfWritten (s : Block) (k : BlkKey) : Bool :=
  s.med.halfDone.any (fun a => a.nsid == k.nsid && Nat.ble a.slba k.lba && Nat.blt k.lba (a.slba + a.nlb))

/-- MEDIA_READY (R413, R614, R616): the channels are trained and the map is complete; what the buffer still held of completed writes when
the bank failed is lost. -/
def doMediaReady (s : Block) : Block :=
  if s.hub.phase ≠ .started || !natBit s.hub.ready 3 || natBit s.hub.ready 5 then s
  else
    let s := (List.range 32).foldl (fun s c => updChan s c (fun x => { x with trained := true, trainTemp := x.hot })) s
    let s := if s.med.recovered then (runsOf ((blocksAt s isBuffer).filter (fun k => !halfWritten s k))).foldl (fun s r => deferError s r.1 r.2.1 r.2.2) s else s
    addReady (updMed s (fun m => { m with halfDone := [] })) 32

/-! Controller and port resets (R423, R450, R610, R611). -/

/-- Search commands, merges and rebuilds of a controller end without a completion. -/
def dropSearches (s : Block) (p : Nat) : Block :=
  let mine (cmd : CmdRef) : Bool := cmd.ctrl == p
  let out (l : List IQuery) : List IQuery := l.filter (fun q => !mine q.cmd)
  { s with idxs := tabMap (fun _ i =>
      let i := { i with
        searches := i.searches.filter (fun q => !mine q.cmd), waiting := out i.waiting
        openWin := i.openWin.bind (fun w => if (out w.queries).isEmpty then none else some { w with queries := out w.queries })
        mergeCmds := i.mergeCmds.filter (fun m => !mine m.1)
        rebuild := i.rebuild.bind (fun r => if mine r.cmd then none else some r) }
      refill s i) s.idxs }

/-- What a reset of its controller does to a context: an open that is not done fails, commands that wait and a Join that is not done go,
the run is torn down. -/
def settleCtx (s : Block) (x : Nat) : Block :=
  let cx := getCtx s x
  if cx.phase = .opening then openFail s x 0 0
  else
    let s := updCtx s x (fun c => { c with queue := [], job := c.job.bind (fun j => if j.joined then some j else none) })
    if cx.run.isNone || tearing cx then s
    else if cx.phase = .waiting ∧ cx.run.all (fun r => r.firstStart.isNone) then
      updCtx (dropRun s x) x (fun c => { c with phase := if c.heldCores.isEmpty then .idle else .held })
    else beginTeardown s x true

/-- Every command of a controller is settled, and its queues and volatile features go. -/
def resetController (s : Block) (p : Nat) : Block :=
  let s := updMed s (fun m => { m with
    pendWrites := m.pendWrites.filter (fun e => e.cmd.ctrl ≠ p), pendReads := m.pendReads.filter (fun e => e.cmd.ctrl ≠ p) })
  let s := updCtl s p (fun c => { resetCtl c with
    rate := c.rate, width := c.width, flit := c.flit, dstate := c.dstate, pmeEn := c.pmeEn, pmeStatus := c.pmeStatus, pp := c.pp
    staging := c.staging, map := c.map, changed := c.changed, resvLog := c.resvLog, resvCount := c.resvCount })
  let s := updEvt s p (fun q => { q with
    aers := [], queued := [], reported := [], config := BitVec.ofNat 32 (tabGet 0xFFFFFFFF (getCtl s p).savedFeats 0x0B) })
  let s := dropSearches s p
  ((s.ctxs.filter (fun e => e.2.port == p)).map (·.1)).foldl settleCtx s

/-- CONTROLLER_RESET (R423): the host clears CC.EN. -/
def doControllerReset (p : PortNo) (s : Block) : Block :=
  if s.hub.phase ≠ .started || activePorts s ≤ p.val then s else resetController s p

/-- A context of a port that is reset closes, at once or after the teardown of its run. Pages lent to it are its own until then. -/
def closeForPort (s : Block) (x : Nat) : Block :=
  let cx := getCtx s x
  if cx.run.isNone then closeCtx (releaseCores s x cx.heldCores) x
  else updCtx s x (fun c => { c with closing := true, lends := [] })

/-- The staging of a port goes: its map is empty, its pages are released but for those that a context keeps until it has closed. -/
def dropStaging (s : Block) (p : Nat) : Block :=
  let busy := s.ctxs.flatMap (fun e => e.2.pages)
  let keys := (((getCtl s p).staging).filter (fun e => !busy.contains e.2)).map (·.1)
  updCtl (freeStaging s p keys) p (fun c => { c with staging := [], map := [] })

/-- Pages that a port's host owns are released to no owner. -/
def dropPages (s : Block) (p : Nat) : Block :=
  ((s.pages.filter (fun e => ownerMaster e.2 == p + 1)).map (·.1)).foldl (fun s q => giveOwner s q 0 0) s

/-- PORT_RESET (R423, R610): its controller is reset, what was made through the port goes, and but for a function level reset its link
goes down. -/
def doPortReset (p : PortNo) (kind : PortResetKind) (s : Block) : Block :=
  if s.hub.phase ≠ .started || activePorts s ≤ p.val then s
  else
    let s := resetController s p
    let s := ((s.ctxs.filter (fun e => e.2.port == p.val)).map (·.1)).foldl closeForPort s
    let s := dropPages (dropStaging s p) p
    updCtl s p (fun c => { c with
      rate := if kind = .flr then c.rate else 0, width := if kind = .flr then c.width else 0, flit := c.flit && kind == .flr
      dstate := .d0, pmeEn := false, pmeStatus := false, released := c.released && kind != .perst })

/-- CONTROLLER_ENABLE (R424, R619): the host sets CC.EN, with the sizes of the admin queues; the controller is ready once the module
manager serves and what a reset left to settle is settled. -/
def doControllerEnable (p : PortNo) (asq acq : Fin 4097) (s : Block) : Block :=
  let c := getCtl s p
  if s.hub.phase ≠ .started || s.hub.remove ≠ .serving || activePorts s ≤ p.val || c.rate = 0 then s
  else if c.en then settleRdy s p
  else if asq.val < 2 || acq.val < 2 then s
  else settleRdy (updCtl s p (fun c => { c with en := true, sqs := [(0, { size := asq, cq := 0 })], cqs := [(0, { size := acq })] })) p

/-- PERST_RELEASE (R610). -/
def doPerstRelease (p : PortNo) (s : Block) : Block := updCtl s p (fun c => { c with released := true })

/-- The highest rate code that the option record permits. -/
def maxRate (s : Block) : Nat := 6 - (byteAt s.opt.inforce 0x17).toNat

/-- PCIE_LINK_UP (R421, R423, R601): a port's link has trained at a rate and a width that the split and the option record permit. -/
def doPcieLinkUp (p : PortNo) (rate : Fin 7) (width : Fin 17) (flit : Bool) (s : Block) : Block :=
  let c := getCtl s p
  let free := !s.ctxs.any (fun e => e.2.port == p.val && e.2.closing)
  if s.hub.phase ≠ .started || s.hub.remove ≠ .serving || !natBit s.hub.ready 0 || activePorts s ≤ p.val || !c.released || !free then s
  else if rate.val = 0 || maxRate s < rate.val || (rate.val = 6 && !flit) then s
  else if !([1, 2, 4, 8, 16].contains width.val) || 16 / activePorts s < width.val then s
  else updCtl s p (fun c => { c with rate := rate, width := width, flit := flit })

end Sys2Proof.Machine
end

