-- ==== Sys2Proof/Machine/Registers.lean ====
section
/-! DEFINITION. Registers: the value of every register of the control space (R11, R39, R41 to R53, R65, R68, R70, R96, R362, R519 and
the register maps of every block). -/
namespace Sys2Proof.Machine

/-! The header (R41 to R53). -/

/-- Whether no placement is in progress while PAUSE is in effect (R369). -/
def dspStatus (s : Block) : Nat := boolNat (dspPaused s && s.ctxs.all (fun e => e.2.phase != .placing && e.2.phase != .restoring)) * 2 ^ 16

/-- STATUS.BLOCK of a page, in its place. -/
def statusBlock (s : Block) (k : PageKind) (i : Nat) : Nat :=
  match k with
  | .dmm => hwThrottle (tempOf s (5 + i)) * 2 ^ 16
  | .chk => chkStatus s i
  | .med => medStatus s
  | .dsp => dspStatus s
  | .stu => stuStatus s
  | .cfl => cflStat s
  | .opt => optStat s
  | _ => 0

/-- STATUS (R46): READY falls while the page's buffers are zeroised (R57). -/
def statusWord (s : Block) (k : PageKind) (i : Nat) (g : Page) : Word :=
  BitVec.ofNat 32 ((if pageAnswers s k i then statusBlock s k i else 0) + boolNat g.zeroising * 8 + boolNat g.shadowValid * 4 +
    boolNat (g.service == .inService) * 2 + boolNat (pageReady s k i && !g.zeroising))

/-- A word of a 64-bit value: the low one at an offset that is a multiple of 8. -/
def half64 (v : DWord) (off : Nat) : Word := if off % 8 = 0 then v.extractLsb' 0 32 else v.extractLsb' 32 32

/-- A register of the header, the shadow with it. -/
def headerReg (s : Block) (k : PageKind) (i : Nat) (g : Page) (off : Nat) : Word :=
  match off with
  | 0x000 => idWord k i
  | 0x004 => versionWord
  | 0x008 => capsWord k i
  | 0x00C => g.owner
  | 0x010 => g.gen
  | 0x014 => g.ctl.setWidth 32
  | 0x018 => statusWord s k i g
  | 0x01C => g.irqStatus
  | 0x020 => g.irqEnable
  | 0x024 => g.errFirst
  | 0x028 => g.errCount
  | 0x02C => g.epoch
  | 0x030 => BitVec.ofNat 32 (g.result * 2 ^ 8 + svcCode g.service)
  | 0x034 => g.conflict
  | _ => if within off 0x080 0x100 then half64 (tabGet 0 g.shadow ((off - 0x080) / 8)) off else 0

/-! Block registers of the compute pages (R97 to R111, R335). -/

def runCode : RunState → Nat
  | .idle => 0
  | .running => 1
  | .operandWait => 2
  | .admitWait => 3
  | .halted => 4
  | .faulted => 5
  | .zeroising => 6

def arrayCode : ArrayMode → Nat
  | .idle => 0
  | .hold => 1
  | .stream => 2

/-- COR_CTX, COR_RUN, COR_PC and COR_FAULT. -/
def corValue (s : Block) (c off : Nat) : Option Word :=
  let k := getCore s c
  match off with
  | 0x100 => some (match k.placed with
    | some p => BitVec.ofNat 32 (2 ^ 31 + (if (getCtx s p.ctx).cls = .be then 2 ^ 30 else 0) + p.ctx % 2 ^ 15)
    | none => 0)
  | 0x104 => some (BitVec.ofNat 32 (boolNat (spared s c) * 2 ^ 8 + arrayCode k.array * 2 ^ 4 + runCode k.run))
  | 0x108 => some (BitVec.ofNat 32 k.pc)
  | 0x10C => some (if k.placed.isSome then k.fault else 0)
  | _ => none

/-- CLU_SLICE_FREE. -/
def cluValue (s : Block) (g off : Nat) : Option Word :=
  if off = 0x104 then
    some (BitVec.ofNat 32 (sumNat ((List.range 16).map (fun i => boolNat (!natBit (sliceOwner s g i).toNat 31) * 2 ^ i))))
  else none

/-- RGN_CORES. -/
def rgnValue (s : Block) (r off : Nat) : Option Word :=
  if off = 0x104 then
    (let up := (List.range 256).filter (fun j => (getPage s (pgCor (256 * r + j))).service == .inService)
     some (BitVec.ofNat 32 ((up.filter (fun j => (getCore s (256 * r + j)).placed.isNone)).length * 2 ^ 16 + up.length)))
  else none

/-- Whether a posted instruction is a move of the tier engine. -/
def isMove (k : PostKind) : Bool := k == .move || k == .mrd || k == .mwr

/-- The share that carries out a posted move (R307): that of the die of its destination; the destination of an MWR lies on no compute die, and the
share of its core's die carries it out (log entry 140). -/
def postShare (s : Block) (t : Seat) (p : Posted) : Nat :=
  if p.kind = .mwr then shareOf t else destShare s (moveTarget s t p) (descOf p.td).addr

/-- TIE_QUEUE: accepted moves that the share carries out, and the fills that run or wait for it. -/
def tieQueue (s : Block) (d : Nat) : Word :=
  let seats : List Seat := s.cores.filterMap (fun e => if e.2.placed.isSome then some (.placed e.1) else none) ++
    s.ctxs.flatMap (fun e => e.2.saved.map (fun r => Seat.saved e.1 r.1))
  let moves := sumNat (seats.map (fun t => ((seatCore s t).posted.filter (fun p => isMove p.kind && postShare s t p == d)).length))
  let fills := sumNat (s.ctxs.map (fun e =>
    let here (y : Copy) : Bool := shareOf (copySeat s e.1 y) == d
    if caravanActs e.2 then
      (e.2.copies.filter (fun y => y.state == .filling && here y)).length + ((wantedFills s e.2).filter (fun q => here q.1)).length
    else 0))
  BitVec.ofNat 32 (min 0xFFFF moves * 2 ^ 16 + min 0xFFFF fills)

/-! Block registers of the hub (R624, R644) and of the module manager (R484). -/

/-- HUB_REMOVE.STATE. -/
def removeCode : RemoveState → Nat
  | .serving => 0
  | .preparing => 1
  | .ready => 2

def hubValue (s : Block) (off : Nat) : Option Word :=
  let h := s.hub
  match off with
  | 0x100 => some 0
  | 0x104 => some h.cause
  | 0x108 => some (BitVec.ofNat 32 (h.ready + boolNat s.med.holdupOk * 2 ^ 6))
  | 0x110 => some (BitVec.ofNat 32 h.startTime)
  | 0x114 => some (BitVec.ofNat 32 (h.startTime / 2 ^ 32))
  | 0x118 => some h.selftest
  | 0x144 => some (BitVec.ofNat 32 (modeSupply s))
  | 0x148 => some (BitVec.ofNat 32 ((if mediaReady s then s.med.gatherGB else 0) * 2 ^ 16) ||| (getRegD s pgHub 0x148 0x200 &&& 0xFFFF))
  | 0x154 => some (BitVec.ofNat 32 (removeCode h.remove * 4))
  | _ => none

def mgrValue (s : Block) (off : Nat) : Option Word :=
  match off with
  | 0x100 => some (BitVec.ofNat 32 (mgrRole s))
  | 0x104 => some (BitVec.ofNat 32 (mgrFw s))
  | 0x108 => some (BitVec.ofNat 32 (mgrCal s))
  | _ => none

/-! Registers that hold a value for each master (R370, R521, R543, R606). -/

def dspReg (s : Block) (w : Writer) (off : Nat) : Option Word :=
  let sel := tabGet 0 s.sel (selKey 0 w)
  match off with
  | 0x120 => some sel
  | 0x124 => some (ctxStateWord s (getCtx s sel.toNat))
  | _ => dspValue s off

def cflReg (s : Block) (w : Writer) (off : Nat) : Option Word :=
  match off with
  | 0x110 => some (tabGet 0 s.sel (selKey 3 w))
  | 0x120 => some (tabGet 0 s.sel (selKey 4 w))
  | 0x11C => some (Config.freeWord s.fresh)
  | _ => if within off 0x300 0x400 then some 0 else cflValue s off

/-- A part that a check-value page lacks reads zero (R573). -/
def chkReg (s : Block) (u off : Nat) : Option Word :=
  if (within off 0x200 0x21C && Nat.ble 8 u) || (within off 0x220 0x228 && !within u 8 12) || within off 0x130 0x148 then some 0
  else chkValue s u off

/-- The value that a stored register has before anything has set it. -/
def regReset (k : PageKind) (off : Nat) : Word :=
  match k, off with
  | .tie, 0x110 => 8
  | .dsp, 0x114 => 0x3E8
  | .hub, 0x14C => 0x07000018
  | .chk, 0x204 => 0x100
  | _, _ => 0

/-- A block register of a page, for a reader. -/
def blockValue (s : Block) (k : PageKind) (i : Nat) (w : Writer) (off : Nat) : Word :=
  let v : Option Word := match k with
    | .cor => corValue s i off
    | .clu => cluValue s i off
    | .rgn => rgnValue s i off
    | .tie => if off = 0x100 then some (tieQueue s i) else none
    | .dmm => dmmValue s i off
    | .chk => chkReg s i off
    | .nve => nveValue s i off
    | .onf => onfValue s i off
    | .aup => aupValue s i w off
    | .pwr => pwrValue s i off
    | .thm => thmValue s i off
    | .hub => hubValue s off
    | .med => medValue s off
    | .dsp => dspReg s w off
    | .stu => stuValue s w off
    | .mgr => mgrValue s off
    | .cfl => cflReg s w off
    | .opt => optValue s off
  v.getD (getRegD s (match k with
    | .cor => pgCor i
    | .clu => pgClu i
    | .rgn => pgRgn i
    | .tie => pgTie i
    | .dmm => pgDmm i
    | .chk => pgChk i
    | .nve => pgNve i
    | .onf => pgOnf i
    | .aup => pgAup i
    | .pwr => pgPwr i
    | .thm => pgThm i
    | .hub => pgHub
    | .med => pgMed
    | .dsp => pgDsp
    | .stu => pgStu
    | .mgr => pgMgr
    | .cfl => pgCfl
    | .opt => pgOpt) off (regReset k off))

/-! Reads (R38, R39, R58, R362, R519). -/

/-- Whether a register is the one or the other of a 64-bit counter (R65, R335, R526, R624). -/
def isCounter (k : PageKind) (off : Nat) : Bool :=
  within off 0x080 0x100 || within off 0x180 (0x180 + 8 * statCount k) ||
    (match k with
     | .tie => within off 0x108 0x110
     | .hub => within off 0x110 0x118
     | .stu => within off 0x110 0x118 || within off 0x120 0x128
     | .chk => within off 0x128 0x130
     | .cfl => within off 0x118 0x120
     | _ => false)

/-- The registers that a read limited to the header of a page sees: what the hub answers for a unit that does not (R39), and what PK
sees of a page that is not its context's (R362). -/
def hubAnswers (off : Nat) : Bool := off == 0x000 || off == 0x004 || off == 0x008 || off == 0x00C || off == 0x010 || off == 0x018 || off == 0x030
def pkSees (off : Nat) : Bool := off == 0x000 || off == 0x004 || off == 0x008 || off == 0x00C || off == 0x010 || off == 0x018

/-- Whether a reader sees a register of a page. -/
def readable (s : Block) (k : PageKind) (i : Nat) (g : Page) (w : Writer) (off : Nat) : Bool :=
  (pageAnswers s k i || hubAnswers off) &&
    (match w.master with
     | .pk => isOwner g w || pkSees off
     | .pe => !peerForbidden s && (Nat.blt off 0x100 || k == .aup || k == .stu || isOwner g w)
     | _ => true)

/-- The word at an offset of a page, for a reader, as it stands. -/
def readWord (s : Block) (p : Nat) (w : Writer) (off : Nat) : Word :=
  match pageOf p with
  | none => 0
  | some (k, i) =>
    let g := getPage s p
    if !isReg k off || !readable s k i g w off then 0
    else if off < 0x100 then headerReg s k i g off
    else if k == .nve && Nat.ble (activePorts s) i then 0
    else if within off 0x180 (0x180 + 8 * statCount k) then half64 (tabGet 0 g.live ((off - 0x180) / 8)) off
    else blockValue s k i w off

/-- What a read brings up to date before it looks: nanosecond counts, a scan that runs, and the readings of meters. -/
def settleRead (s : Block) (p off : Nat) : Block :=
  match pageOf p with
  | some (.stu, _) => if 0x180 ≤ off then stuAccount s else s
  | some (.chk, u) => if 0x100 ≤ off then scanSome s u else s
  | some (.hub, _) => if 0x180 ≤ off then accountTimes s else s
  | some (.nve, _) => if 0x180 ≤ off then accountTimes s else s
  | some (.aup, _) => if 0x180 ≤ off then accountTimes s else s
  | some (.dmm, _) => if 0x180 ≤ off then accountTimes s else s
  | some (.thm, _) => if 0x180 ≤ off then accountTimes s else s
  | some (.pwr, _) => if 0x100 ≤ off then accountTimes s else s
  | some (.cfl, _) => if off = 0x11C then drawFresh s else s
  | _ => s

/-- What a read clears (R49, R577): ERR_FIRST for the owner and MM, CHK_DM_CE_DIES for MM. -/
def clearRead (s : Block) (p : Nat) (w : Writer) (off : Nat) : Block :=
  match pageOf p with
  | none => s
  | some (k, i) =>
    let g := getPage s p
    if !readable s k i g w off then s
    else if off = 0x024 ∧ (w.master = .mm ∨ isOwner g w) then setPage s p { g with errFirst := 0 }
    else if k = .chk ∧ off = 0x214 ∧ i < 8 ∧ w.master = .mm then setReg s p 0x214 0
    else s

/-- The snapshot slot of a master in a page. -/
def snapOf (s : Block) (p : Nat) (w : Writer) : Option (Nat × Word) := tabFind (getPage s p).snaps (masterCode w.master)

/-- Whether a 4-byte read of a counter's word takes part in the snapshot rule. -/
def snapped (s : Block) (p : Nat) (w : Writer) (off : Nat) : Bool :=
  match pageOf p with
  | none => false
  | some (k, i) => isCounter k off && readable s k i (getPage s p) w off

/-- A 4-byte read (R49, R63, R65): the low word of a counter stores the high one in the master's slot; the high word of the same
counter comes from it and empties it. -/
def read4 (s : Block) (p : Nat) (w : Writer) (off : Nat) : Block × Word :=
  let s := settleRead s p off
  let v := readWord s p w off
  let m := masterCode w.master
  if !snapped s p w off then (clearRead s p w off, v)
  else if off % 8 = 0 then (updPage s p (fun g => { g with snaps := tabSet g.snaps m (off + 4, readWord s p w (off + 4)) }), v)
  else
    match snapOf s p w with
    | some (o, x) => if o = off then (updPage s p (fun g => { g with snaps := tabErase g.snaps m }), x) else (s, v)
    | none => (s, v)

/-- A read of 4 or 8 bytes: the two words of an 8-byte read are of one instant. -/
def readValue (s : Block) (p : Nat) (w : Writer) (off size : Nat) : Block × Nat :=
  if size = 8 then
    (let s := settleRead (settleRead s p off) p (off + 4)
     (clearRead (clearRead s p w off) p w (off + 4), (readWord s p w off).toNat + (readWord s p w (off + 4)).toNat * 2 ^ 32))
  else
    (let r := read4 s p w off
     (r.1, r.2.toNat))

end Sys2Proof.Machine
end

