-- ==== Sys2Proof/Machine/Access.lean ====
section
/-! DEFINITION. Access: accesses to the control space from every path (R34, R38, R57, R58, R61, R362, R443, R519), the end of a zeroise
(R94), and action slots that fire (R536, R538, R539). -/
namespace Sys2Proof.Machine

/-! The judged write of every register (R58, R60, R61). -/

/-- The registers of the DSP page that are written (R369, R370). -/
def writeDspReg (s : Block) (off : Nat) (w : Writer) (v : Word) : Block :=
  let put (bad : Bool) (mask : Word) : Block :=
    plainWrite s pgDsp off w (ownerRight (getPage s pgDsp) w) (badIf bad) (fun s => setReg s pgDsp off (v &&& mask))
  match off with
  | 0x10C => put (Nat.blt 12288 (bvBits v 0 14 + bvBits v 16 14)) 0x3FFF3FFF
  | 0x110 => put false 0xFFFFF
  | 0x114 => put false 0xFFFFF
  | 0x118 => put false 0xFFFFF
  | 0x120 => { s with sel := tabSet s.sel (selKey 0 w) (v &&& 0x7FFF) }
  | _ => s

/-- The registers of the HUB page that are written (R624, R644). -/
def writeHubReg (s : Block) (off : Nat) (w : Writer) (v : Word) : Block :=
  let put (bad : Bool) (mask : Word) : Block :=
    plainWrite s pgHub off w (ownerRight (getPage s pgHub) w) (badIf bad) (fun s => setReg s pgHub off (v &&& mask))
  match off with
  | 0x100 => writeResetCtl s w v
  | 0x140 => writeModePower s w v
  | 0x148 => writeModeGather s w v
  | 0x14C => put (!within (bvBits v 24 8) 1 31 || !within (bvBits v 0 16) 1 169) 0xFF00FFFF
  | 0x150 => put (Nat.blt 8192 (bvBits v 2 14)) 0xFFFFFFFF
  | 0x154 => writeRemove s w v
  | _ => s

/-- The registers of the CFL page that are written (R586, R606). -/
def writeCflReg (s : Block) (off : Nat) (w : Writer) (v : Word) : Block :=
  if off = 0x110 then
    plainWrite s pgCfl off w none (badIf (bvBits v 30 2 == 3)) (fun s => { s with sel := tabSet s.sel (selKey 3 w) (v &&& 0xC7FFFFFF) })
  else if off = 0x128 then writeCflOp s w v
  else if within off 0x300 0x400 then plainWrite s pgCfl off w (mmRight w) none (fun s => setReg s pgCfl off v)
  else s

/-- The registers of the OPT page that are written (R600, R603). -/
def writeOptReg (s : Block) (off : Nat) (w : Writer) (v : Word) : Block :=
  if off = 0x118 ∨ off = 0x11C then writePassword s w off v
  else if within off 0x400 0x600 then writeStage s w off v
  else s

/-- The registers of a check-value page that are written; a part that the page lacks takes none (R573, R574, R577). -/
def writeChkPage (s : Block) (u off : Nat) (w : Writer) (v : Word) : Block :=
  if off = 0x200 then writeDmMark s u w v
  else if off = 0x204 then writeDmThresh s u w v
  else if (within off 0x208 0x21C && Nat.ble 8 u) || (within off 0x220 0x228 && !within u 8 12) then rejectWrite s (pgChk u) w eBadValue off
  else (writeChkReg s u off w v).getD s

/-- The registers of an AUP page that are written (R521). -/
def writeAupReg (s : Block) (l off : Nat) (w : Writer) (v : Word) : Block :=
  if off = 0x118 then { s with sel := tabSet s.sel (selKey 1 w) (v &&& 0x3FFF) }
  else if off = 0x11C then writeRoute s l w v
  else s

/-- The block registers of a page; a register that is read only, and a reserved offset, ignore a write (R11). -/
def writeBlockReg (s : Block) (k : PageKind) (i off : Nat) (w : Writer) (v : Word) : Block :=
  match k with
  | .clu => if within off 0x140 0x180 then writeSlice s i ((off - 0x140) / 4) off w v else s
  | .tie => if off = 0x110 then writeLeadMax s i w v else s
  | .chk => writeChkPage s i off w v
  | .onf => if within off 0x140 0x180 then writeDie s (16 * i + (off - 0x140) / 4) off w v else s
  | .aup => writeAupReg s i off w v
  | .hub => writeHubReg s off w v
  | .dsp => writeDspReg s off w v
  | .stu => (writeStuReg s off w v).getD s
  | .cfl => writeCflReg s off w v
  | .opt => writeOptReg s off w v
  | _ => s

/-- CTL of a page. An ABORT in a write of CTL of a check-value page meets the scan wherever it has got to. -/
def writeCtl (s : Block) (p : Nat) (k : PageKind) (i : Nat) (w : Writer) (v : Word) : Block :=
  match k with
  | .cor => writeCorCtl s i w v
  | .dmm => writeDmmCtl s i w v
  | .chk => writeChkCtl (scanSome s i) i w v 0
  | .aup => writeAupCtl s i w v
  | .med => writeMedCtl s w v
  | .stu => writeStuCtl s w v
  | .opt => writeOptCtl s w v
  | _ => guardedWrite s p 0x014 w v (ownerRight (getPage s p) w) none (fun s => setCtl s p k v.toNat)

/-- The judged write of a register. -/
def writeReg (s : Block) (p : Nat) (k : PageKind) (i : Nat) (w : Writer) (off : Nat) (v : Word) : Block :=
  match off with
  | 0x00C => writeOwner s p w v
  | 0x014 => writeCtl s p k i w v
  | 0x01C => writeIrqStatus s p w v
  | 0x020 => writeIrqEnable s p k i w v
  | 0x030 => writeService s p k i w v
  | _ => if 0x100 ≤ off then writeBlockReg s k i off w v else s

/-- A 4-byte write, by whatever path. -/
def regWrite (s : Block) (p : Nat) (w : Writer) (off : Nat) (v : Word) : Block :=
  if p = pgHub ∧ off = 0x154 then enterRemove s w v else enterWrite s p w off v (fun k i s => writeReg s p k i w off v)

/-! Accesses and their answers. -/

/-- The answer of an access whose value is v. -/
def answer (s : Block) (p : Nat) (w : Writer) (off : Nat) (r : Reply) (v : Nat) : Block :=
  match r with
  | .posted => s
  | .bus size => emit s (.readData w (p * 4096 + off) size v)
  | .ctxRead cmd => complete s cmd v 0 0
  | .ctxWrite cmd => complete s cmd (getPage s p).gen.toNat 0 0
  | .peer via tag _ =>
    let f : Frame := { type := 0x03, vc := 1, dst := w.tag.toNat, src := s.self, spec := tag, payload := leBytes 8 v ++ zeroBytes 8 }
    match numberFrame s f .mm with
    | (s, none) => s
    | (s, some f) =>
      match via with
      | some l => sendLocal s l f
      | none => sendFrame s f

/-- The size of the read that an answer is of; none for a write. -/
def readSize (r : Reply) : Option Nat :=
  match r with
  | .posted => none
  | .bus size => some size
  | .ctxRead _ => some 4
  | .ctxWrite _ => none
  | .peer _ _ size => some size

/-- Whether an access waits for the zeroise of its page (R57, R61). -/
def mustWait (s : Block) (p : Nat) (w : Writer) (off : Nat) : Bool :=
  match pageOf p with
  | none => false
  | some (k, i) => pageAnswers s k i && !(w.master == .pe && peerForbidden s) && holdsWrite (getPage s p) k w off

/-- An access of 4 bytes, or a read of 8 (R57, R61). -/
def access (s : Block) (p : Nat) (h : HeldAccess) : Block :=
  if mustWait s p h.w h.off then updPage s p (fun g => { g with held := g.held ++ [h] })
  else
    match readSize h.reply with
    | none => answer (regWrite s p h.w h.off h.value) p h.w h.off h.reply 0
    | some size =>
      let r := readValue s p h.w h.off size
      answer r.1 p h.w h.off h.reply r.2

/-- Whether the control space takes an access of a size at an offset (R34). -/
def sizeOk (off size : Nat) : Bool := (size == 4 || size == 8) && off % size == 0

/-- An access of another size or alignment: a write is recorded on its page; both are counted, in statistic 5 of the HUB page alone where there
is no page (R34, R38, R50, R625; log entry 153). -/
def badAccess (s : Block) (p : Nat) (w : Writer) (off : Nat) (write : Bool) : Block :=
  let s := if w.master = .pe then s else bump s pgHub 5 1
  if write && (pageOf p).isSome then recordError s p (masterCode w.master) eBadSize off else s

/-- Whether the window onto the control space answers at all: the hub runs (R613, R619). -/
def hubUp (s : Block) : Bool := s.hub.phase == .started && (s.hub.remove == .ready || natBit s.hub.ready 0)

/-- A write of 4 or 8 bytes (R34): 8 bytes act as two writes in ascending order. -/
def writeAccess (s : Block) (p : Nat) (w : Writer) (off size : Nat) (v : DWord) : Block :=
  if !hubUp s then s
  else if !sizeOk off size then badAccess s p w off true
  else
    let s := access s p ⟨w, off, v.extractLsb' 0 32, .posted⟩
    if size = 8 then access s p ⟨w, off + 4, v.extractLsb' 32 32, .posted⟩ else s

/-- A read of the window (R34, R607). -/
def readAccess (s : Block) (p : Nat) (w : Writer) (off size : Nat) : Block :=
  if !hubUp s then s
  else if !sizeOk off size then emit (badAccess s p w off false) (.readError w (p * 4096 + off) false)
  else if p = pgCfl ∧ off = 0x118 ∧ pageAnswers s .cfl 0 then readRdata s w (size == 8) 0
  else access s p ⟨w, off, 0, .bus size⟩

/-- REGISTER_WRITE (R61). -/
def doRegisterWrite (w : Writer) (p : PageNo) (off : Fin 4096) (size : Nat) (value : DWord) (s : Block) : Block :=
  writeAccess s p w off size value

/-- COUNTER_LOW_READ (R65): a read of any register of the window. -/
def doCounterLowRead (w : Writer) (p : PageNo) (off : Fin 4096) (size : Nat) (s : Block) : Block := readAccess s p w off size

/-- ERR_FIRST_READ (R49). -/
def doErrFirstRead (w : Writer) (p : PageNo) (s : Block) : Block := readAccess s p w 0x024 4

/-- CE_DIES_READ (R577). -/
def doCeDiesRead (w : Writer) (u : ChkNo) (s : Block) : Block := readAccess s (pgChk u) w 0x214 4

/-! The end of a zeroise (R57, R92 to R94). -/

/-- The order of the masters at the arbiter (R61). -/
def arbiterOrder : List Master := [.mm, .h0, .h1, .h2, .h3, .pe, .pk]

/-- The accesses that waited are applied: those of each master in the order in which they came. -/
def replay (s : Block) (p : Nat) : Block :=
  let h := (getPage s p).held
  (arbiterOrder.flatMap (fun m => h.filter (fun e => e.w.master == m))).foldl (fun s e => access s p e)
    (updPage s p (fun g => { g with held := [] }))

/-- ZEROISE_COMPLETE (R94): of a page, or of a slice of a cluster. A core that cannot complete it is retired. -/
def doZeroiseComplete (p : PageNo) (slice : Option (Fin 16)) (ok : Bool) (s : Block) : Block :=
  match pageOf p, slice with
  | some (.clu, g), some i => sliceZeroised s g i
  | some (k, _), none =>
    if !(getPage s p).zeroising then s
    else
      let done (s : Block) : Block := replay (updPage s p (fun g => { g with zeroising := false })) p
      if k = .cor ∧ !ok then done (retireUnit s p none) else done (clearBuffers s p)
  | _, _ => s

/-! Accesses with the masters PK and PE. -/

/-- CONTEXT_CONTROL (R362, R443): one access with master PK and the named context as its tag. -/
def doContextControl (cmd : CmdRef) (x : Nat) (p : PageNo) (off : Fin 4096) (write : Bool) (value : Word) (s : Block) : Block :=
  onCmd s (computeReady s) cmd (fun s =>
    match ctxStatus s cmd x with
    | some st => complete s cmd 0 0 st
    | none =>
      if off.val % 4 ≠ 0 then complete s cmd 0 0 stInvalidField
      else access s p ⟨⟨.pk, BitVec.ofNat 15 x⟩, off, value, if write then .ctxWrite cmd else .ctxRead cmd⟩)

/-- The writer of a frame. -/
def peerOf (f : Frame) : Writer := ⟨.pe, BitVec.ofNat 15 f.src⟩

/-- PWRITE_FRAME (R497, R519). -/
def doPwriteFrame (s : Block) : Block :=
  onInbox s 1 (fun s r =>
    let b := r.frame.payload
    writeAccess s (fieldAt b 0 2) (peerOf r.frame) (fieldAt b 2 2) (fieldAt b 4 1) (BitVec.ofNat 64 (fieldAt b 8 8)))

/-- READ_FRAME (R497, R519): the answer is a COMPLETION with the frame's tag. A size or alignment that R34 refuses has no value: the
answer's value is free. -/
def doReadFrame (s : Block) : Block :=
  onInbox s 2 (fun s r =>
    let b := r.frame.payload
    let p := fieldAt b 0 2
    let off := fieldAt b 2 2
    let size := fieldAt b 4 1
    let w := peerOf r.frame
    let reply : Reply := .peer (if r.frame.linkLocal then r.via else none) r.frame.spec size
    if !sizeOk off size || Nat.ble 4096 off then
      answer (drawFresh (badAccess s p w off false)) p w off reply (Config.freeWord s.fresh).toNat
    else access s p ⟨w, off, 0, reply⟩)

/-! Action slots (R536 to R539). -/

/-- A WRITE slot: its write is that of the master that armed it. -/
def fireWrite (s : Block) (i : Nat) (x : Slot) (late : Bool) : Block :=
  let p := bvBits x.target 16 14
  let rejected (t : Block) : Bool := tabGet 0 (getPage t p).live 1 != tabGet 0 (getPage s p).live 1
  let t := access s p ⟨x.by_, bvBits x.target 0 12, x.value, .posted⟩
  if (getSlot t i).st ≠ 1 then t else slotEnds t i (if rejected t then 6 else if late then 3 else 2)

/-- An EPOCH slot: a boundary at its time, or at the next microsecond if it is late. -/
def fireEpoch (s : Block) (i : Nat) (late : Bool) : Block :=
  let t := (s.now + 999) / 1000 * 1000
  let s := atTime s t
  let st := if late then 3 else 2
  if s.stu.last = some t then slotEnds s i st
  else if tooSoon s t then slotEnds s i 5
  else slotEnds (boundary s t) i st

/-- ACTION_FIRE (R536): slot i is launched at its time, or at once if that has passed. -/
def doActionFire (i : Fin 64) (s : Block) : Block :=
  let x := getSlot s i
  if x.st ≠ 1 then s
  else
    let s := atTime s x.time
    let late := Nat.blt (x.time + 50) s.now
    if x.epoch then fireEpoch s i late else fireWrite s i x late

end Sys2Proof.Machine
end

