-- ==== Sys2Proof/Machine/Issue.lean ====
section
/-! DEFINITION. Issue: the instruction that the words at a core's pc spell (R173 to R176, R215, R216). -/
namespace Sys2Proof.Machine

/-- The instruction that the words of CODE at the core's pc spell, or the ILLEGAL kind of a reserved major or function; bytes beyond CODE
read as zeros (R173). -/
def spelling (s : Block) (c : CoreNo) : Instr ⊕ Nat :=
  let k := getCore s c.val
  let code := (ctxOf s k).image.code
  decodeWord c (fieldAt code k.pc 4) (fieldAt code (k.pc + 4) 4)

/-- The command i of core c, whose effect is f: it takes effect where the words at the core's pc spell it. A word that spells no
instruction faults at decode with class ILLEGAL, kind 1 or 2, whichever instruction the command names, and has no other effect (R175,
R176). A command that the words do not spell does nothing (log entry 5). -/
def issueWord (c : CoreNo) (i : Instr) (f : Block → Block) (s : Block) : Block :=
  match spelling s c with
  | .inl j => if j = i then f s else s
  | .inr kind =>
    let k := getCore s c.val
    if canIssue k && !gateShut s k then faultCore s c.val 1 (detail20 kind k.pc) k.pc else s

end Sys2Proof.Machine
end

