-- ==== Sys2Proof/Machine/Operands.lean ====
section
/-! DEFINITION. Operands: the operand forms of loads and stores (R180, R186): the addressing modes, how an access is judged
(R77), what waits (R196, R222, R311), what the two error codes do to it (R562, R565), and the loads, stores, gathers and
scatters themselves. -/
namespace Sys2Proof.Machine

/-- The ILLEGAL kinds of the mode and immediate of format MA: mode 3 is reserved, mode 2 uses imm12[4:0] alone. -/
def maKinds (x : MA) : List Nat :=
  mustZero (decide (x.mode.val ≠ 3)) ++ (if x.mode.val = 2 then mustZero (bvBits x.imm12 5 7 == 0) else [])

/-- The scalar register that mode 2 reads. -/
def maIndex (x : MA) : List Nat := if x.mode.val = 2 then [bvBits x.imm12 0 5] else []

/-- The address that an operand of access width w forms (R180). -/
def maAddr (k : Core) (x : MA) (w : Nat) : Nat :=
  let base := (getA k x.an.val).base
  if x.mode.val = 2 then (base + (getS k (bvBits x.imm12 0 5) <<< Nat.log2 w)).toNat
  else (base + x.imm12.signExtend 64 * BitVec.ofNat 64 w).toNat

/-- The A register that the access steps: in mode 1. -/
def maStep (x : MA) : Option Nat := if x.mode.val = 1 then some x.an.val else none
/-- Mode 1 adds STRIDE to BASE after the access. -/
def maAfter (k : Core) (x : MA) : Core := stepBase k (maStep x)

/-- Judges an access of n bytes at a program address (R77): the fault, or the places of its bytes. -/
def judge (s : Block) (c a n align : Nat) : List Loc ⊕ (Nat × Nat) :=
  if a % align ≠ 0 then .inr (2, detail20 3 a)
  else
    match locateAll s c a n with
    | .inl l => .inl l
    | .inr (kind, b) => .inr (2, detail20 kind b)

/-- Judges one access of n bytes at each address of a list, in order; the first that faults decides (R77). -/
def judgeAll (s : Block) (c n align : Nat) : List Nat → List (List Loc) ⊕ (Nat × Nat)
  | [] => .inl []
  | a :: as =>
    match judge s c a n align with
    | .inr e => .inr e
    | .inl l =>
      match judgeAll s c n align as with
      | .inr e => .inr e
      | .inl ls => .inl (l :: ls)

/-- The local-store, cluster-store and device-memory addresses among places. -/
def lsAddrs (l : List Loc) : List Nat := l.filterMap (fun x => match x with
  | .ls a => some a
  | _ => none)
def csAddrs (l : List Loc) : List Nat := l.filterMap (fun x => match x with
  | .cs a => some a
  | _ => none)
def dmAddrs (l : List Loc) : List Nat := l.filterMap (fun x => match x with
  | .dm a => some a
  | _ => none)

/-- Counts the words of the stores that an access reads through the core's port and decodes them (R564, R565). -/
def sramReads (s : Block) (c : Nat) (l : List Loc) : Block × Option Nat :=
  let r := sramRead s 1 c ((lsAddrs l).map (· / 8)).eraseDups
  let q := sramRead (countClu r.1 (cluOfCore c) 2 (csAddrs l).length) 2 (cluOfCore c) ((csAddrs l).map (· / 8)).eraseDups
  (q.1, r.2.or q.2)

/-- Counts the waiting steps of an access of core c to places l: in its own ports, where the words that fall into one bank are served one a
step, and with other requesters (R72, R73, R79). A cluster store's port carries 8 words a step, so that an access waits for banks only
beyond the steps that its words take. -/
def usePort (s : Block) (c : Nat) (l : List Loc) : Block :=
  let ls := lsAddrs l
  let cs := csAddrs l
  let s :=
    if ls.isEmpty then s
    else
      let n := bankWaits 64 ls
      let k := getCore s c
      updCore (contend (bump s (pgCor c) 8 n) (pgCor c) 8 (portShared s c || k.portWaits)) c
        (fun k => { k with portWaits := decide (0 < n) })
  if cs.isEmpty then s
  else bump s (pgClu (cluOfCore c)) 6 (bankWaits 128 cs + 1 - ((cs.map (· / 8)).eraseDups.length + 7) / 8)

/-- Writes a loaded value into its register (R180, R186). -/
def writeLoad (k : Core) (dst : LoadDst) (data : List Byte) : Core :=
  match dst with
  | .scalar sd size =>
    let v := leNat data
    setS k sd (match size with
      | 4 => BitVec.ofInt 64 (signedOf 8 v)
      | 5 => BitVec.ofInt 64 (signedOf 16 v)
      | 6 => BitVec.ofInt 64 (signedOf 32 v)
      | _ => BitVec.ofNat 64 v)
  | .vector vd => setV k vd (BitVec.ofNat 1024 (leNat data))
  | .gather vd lanes =>
    setV k vd ((lanes.zipIdx).foldl (fun v e => bvPut v (32 * e.1) 32 (fieldAt data (4 * e.2) 4)) (getV k vd))

/-- A load of the bytes at places l, the first at program address a: an uncorrectable store word faults with DATA SRAM and
changes no register; where bytes lie in device memory the load waits for its lines (R675), with the bytes it read at issue;
else the register is written at once. step: the A register that the access steps once it has been made, which for a load that waits is when
its lines have returned. -/
def loadLocs (s : Block) (c a : Nat) (l : List Loc) (dst : LoadDst) (step : Option Nat) : Exec :=
  let off := (getCore s c).pc
  let data := l.map (readLoc s c)
  let r := sramReads (usePort s c l) c l
  match r.2 with
  | some w => .stay (faultCore r.1 c 0x0B (detail20 3 w) off)
  | none =>
    let dm := dmAddrs l
    if dm.isEmpty then .done (updCore r.1 c (fun k => stepBase (writeLoad k dst data) step))
    else
      let lines := ((dm.map (· / 64)).eraseDups).map (fun n => (n, lineSyms s n))
      .done (updCore (drawFresh r.1) c (fun k =>
        { k with loads := k.loads ++ [⟨s.fresh, off, dst, a, lines, data, step⟩] }))

/-- Whether n bytes from a cover a line of device memory. -/
def coversLine (a n line : Nat) : Bool := decide (a ≤ line * 64) && decide (line * 64 + 64 ≤ a + n)

/-- The first device-memory line that a store to places l would merge into and that is uncorrectable. -/
def storeBad (s : Block) (l : List Loc) : Option Nat :=
  (addrRuns (dmAddrs l)).findSome? (fun r =>
    (linesOf r.1 r.2).find? (fun line => !coversLine r.1 r.2 line && decodeLine s line == .uncorrectable))

/-- Writes bytes to places through the codes of the stores and of device memory; those of device memory leave the core's region (R112). -/
def storeApply (s : Block) (c : Nat) (l : List Loc) (data : List Byte) : Block :=
  let g := cluOfCore c
  let s := (addrRuns (lsAddrs l)).foldl (fun s r => sramNoteWrite s (wordLs c 0) r.1 r.2) s
  let s := (addrRuns (csAddrs l)).foldl (fun s r => sramNoteWrite s (wordCs g 0) r.1 r.2) (countClu s g 3 (csAddrs l).length)
  let s := (addrRuns (dmAddrs l)).foldl (fun s r =>
    (linesOf r.1 r.2).foldl (fun s line => dmNoteWrite s line (coversLine r.1 r.2 line)) s) s
  writeLocs (countRgn s (rgnOfCore c) 6 (dmAddrs l).length) c l data

/-- A store to places l: where it would merge into an uncorrectable line it has no effect, and the answer is that line (R562). -/
def storeLocs (s : Block) (c : Nat) (l : List Loc) (data : List Byte) : Block × Option Nat :=
  match storeBad s l with
  | some line => (dmUncorrectable s line ⟨2, some (ctxNoOf (getCore s c))⟩, some line)
  | none => (storeApply s c l data, none)

/-- The fault of a store whose merge met an uncorrectable line (R562, R563). -/
def storeResult (s : Block) (c a : Nat) (after : Core → Core) (r : Block × Option Nat) : Exec :=
  let off := (getCore s c).pc
  match r.2 with
  | some _ => .stay (faultCore r.1 c 0x0B (detail20 2 a) off)
  | none => .done (updCore r.1 c after)

/-- The access width of a size code (R180). -/
def sizeWidth (size : Nat) : Nat :=
  match size with
  | 0 => 1
  | 1 => 2
  | 2 => 4
  | 3 => 8
  | 4 => 1
  | 5 => 2
  | 6 => 4
  | _ => 128

/-- The alignment of an access: a scalar to its width, a vector to 8 bytes. -/
def sizeAlign (size : Nat) : Nat := if size = 7 then 8 else sizeWidth size

/-- LD and VLD. -/
def loadForm (s : Block) (c : Nat) (x : MA) (size : Nat) : Block :=
  let sr := maIndex x ++ (if size = 7 then [] else [x.d.val])
  let vr := if size = 7 then [x.d.val] else []
  issueShort s c 4 (maKinds x) sr vr (fun s =>
    let w := sizeWidth size
    let a := maAddr (getCore s c) x w
    if baseBusy (getCore s c) x.an.val then .wait
    else
      match judge s c a w (sizeAlign size) with
      | .inr e => .fault e.1 e.2
      | .inl l =>
        if accessWaits s c (a, a + w) false then .wait
        else loadLocs s c a l (if size = 7 then .vector x.d.val else .scalar x.d.val size) (maStep x))

/-- ST and VST; ST with size 6 is a reserved field value. -/
def storeForm (s : Block) (c : Nat) (x : MA) (size : Nat) : Block :=
  let sr := maIndex x ++ (if size = 7 then [] else [x.d.val])
  let vr := if size = 7 then [x.d.val] else []
  issueShort s c 4 (maKinds x ++ mustZero (decide (size ≠ 6))) sr vr (fun s =>
    let k := getCore s c
    let w := sizeWidth size
    let a := maAddr k x w
    if baseBusy k x.an.val then .wait
    else
      match judge s c a w (sizeAlign size) with
      | .inr e => .fault e.1 e.2
      | .inl l =>
        if accessWaits s c (a, a + w) true then .wait
        else
          let data := if size = 7 then leBytes 128 (getV k x.d.val).toNat else leBytes w (getS k x.d.val).toNat
          storeResult s c a (fun k => maAfter k x) (storeLocs (usePort s c l) c l data))

def doLd (c : CoreNo) (size : Fin 7) (x : MA) (s : Block) : Block := loadForm s c x size.val
def doVld (c : CoreNo) (x : MA) (s : Block) : Block := loadForm s c x 7
def doSt (c : CoreNo) (size : Fin 7) (x : MA) (s : Block) : Block := storeForm s c x size.val
def doVst (c : CoreNo) (x : MA) (s : Block) : Block := storeForm s c x 7

/-! Gather and scatter (R186). -/

/-- The active lanes of 32-lane work, ascending (R185). -/
def lanes32 (k : Core) (pred : Nat) : List Nat := (List.range 32).filter (fun i => (getP k pred).getLsbD i)

/-- The address of lane i: BASE + 4 × the lane of Vb, read as S32. -/
def laneAddr (k : Core) (x : VV) (i : Nat) : Nat :=
  let lane : Word := BitVec.ofNat 32 (bvBits (getV k x.vb.val) (32 * i) 32)
  ((getA k (x.va.val % 16)).base + lane.signExtend 64 * 4).toNat

/-- The ILLEGAL kinds of VGTH and VSCT: the va field names an A register, and the type is 0 (BF16 lanes are K2 too). -/
def gatherKinds (s : Block) (c : Nat) (x : VV) : List Nat :=
  mustZero (decide (x.va.val < 16)) ++ mustZero (!x.bf16) ++ k2 s c x.bf16

def doVgth (c : CoreNo) (x : VV) (s : Block) : Block :=
  issueShort s c 4 (gatherKinds s c x) [] [x.vd.val, x.vb.val] (fun s =>
    let k := getCore s c
    let lanes := lanes32 k x.pred.val
    let addrs := lanes.map (laneAddr k x)
    if baseBusy k (x.va.val % 16) then .wait
    else
      match judgeAll s c 4 4 addrs with
      | .inr e => .fault e.1 e.2
      | .inl ls =>
        if addrs.any (fun a => accessWaits s c (a, a + 4) false) then .wait
        else
          let dmFirst := (addrs.zip ls).find? (fun e => !(dmAddrs e.2).isEmpty)
          loadLocs s c ((dmFirst.map (·.1)).getD 0) ls.flatten (.gather x.vd.val lanes) none)

/-- VSCT stores the lanes in ascending order, so that of two lanes with one address the higher remains. -/
def doVsct (c : CoreNo) (x : VV) (s : Block) : Block :=
  issueShort s c 4 (gatherKinds s c x) [] [x.vd.val, x.vb.val] (fun s =>
    let k := getCore s c
    let lanes := lanes32 k x.pred.val
    let addrs := lanes.map (laneAddr k x)
    if baseBusy k (x.va.val % 16) then .wait
    else
      match judgeAll s c 4 4 addrs with
      | .inr e => .fault e.1 e.2
      | .inl ls =>
        if addrs.any (fun a => accessWaits s c (a, a + 4) true) then .wait
        else
          match (addrs.zip ls).findSome? (fun e => (storeBad s e.2).map (fun line => (e.1, line))) with
          | some (a, line) => storeResult s c a (fun k => k) (dmUncorrectable s line ⟨2, some (ctxNoOf k)⟩, some line)
          | none =>
            .done ((lanes.zip ls).foldl (fun s e => storeApply s c e.2 (leBytes 4 (bvBits (getV k x.vd.val) (32 * e.1) 32)))
              (usePort s c ls.flatten)))

/-- DEVICE_MEMORY_LINE_RETURN (R675, R558, R562): the lines of the oldest waiting load of core c with this number return, are
decoded as they stood when it was issued, the register is written and mode 1 steps BASE; an uncorrectable line faults with DATA LOAD and
leaves both unchanged, FAULT_OFFSET naming the load. -/
def doDeviceMemoryLineReturn (c : CoreNo) (id : Nat) (s : Block) : Block :=
  let k := getCore s c
  match k.loads.find? (fun l => l.id == id) with
  | none => s
  | some l =>
    let r := dmReadSyms s l.lines ⟨1, some (ctxNoOf k)⟩
    let s := countRgn (updCore r.1 c (fun k => { k with loads := k.loads.filter (fun q => q.id ≠ id) })) (rgnOfCore c) 7 (64 * l.lines.length)
    match r.2 with
    | some line =>
      -- the first byte of the load that lies in the line; pages and windows keep the low bits of an address
      let a := if l.lines.head?.map (·.1) = some line then l.addr else line * 64
      if k.run == .faulted then s else faultCore s c 0x0B (detail20 1 a) l.off
    | none => updCore s c (fun k => stepBase (writeLoad k l.dst l.data) l.step)

end Sys2Proof.Machine
end

