-- ==== Sys2Proof/Machine/Scalar.lean ====
section
/-! DEFINITION. Scalar: the scalar instructions of R177 to R179, the address registers of R181, the branches of R188, JR and
JALR of R189 and the hardware loops of R190 to R195. -/
namespace Sys2Proof.Machine

/-- A two-operand scalar instruction: Sd from Sa and Sb (R177). -/
def scalar2 (s : Block) (c : Nat) (x : SR) (kinds : List Nat) (f : DWord → DWord → DWord) : Block :=
  issueShort s c 4 kinds [x.sd.val, x.sa.val, x.sb.val] []
    (onCore c (fun k => setS k x.sd.val (f (getS k x.sa.val) (getS k x.sb.val))))

/-- An immediate scalar instruction: Sd from Sa and the immediate (R179). -/
def scalarI (s : Block) (c : Nat) (x : SI) (kinds : List Nat) (f : DWord → DWord) : Block :=
  issueShort s c 4 kinds [x.sd.val, x.sa.val] [] (onCore c (fun k => setS k x.sd.val (f (getS k x.sa.val))))

/-- A truth value as a scalar (R177). -/
def truth (b : Bool) : DWord := if b then 1 else 0

/-- Signed quotient truncated toward zero; by zero all ones; of -2^63 by -1 it wraps to -2^63 (R178). -/
def divS (a b : DWord) : DWord := if b = 0 then 0xFFFFFFFFFFFFFFFF else BitVec.ofInt 64 (a.toInt.tdiv b.toInt)
/-- Unsigned quotient; by zero all ones (R178). -/
def divU (a b : DWord) : DWord := if b = 0 then 0xFFFFFFFFFFFFFFFF else BitVec.ofNat 64 (a.toNat / b.toNat)
/-- Signed remainder with the sign of the dividend; by zero the dividend (R178). -/
def remS (a b : DWord) : DWord := if b = 0 then a else BitVec.ofInt 64 (a.toInt.tmod b.toInt)
/-- Unsigned remainder; by zero the dividend (R178). -/
def remU (a b : DWord) : DWord := if b = 0 then a else BitVec.ofNat 64 (a.toNat % b.toNat)

/-- Set bits of a word. -/
def popCount {w : Nat} (v : BitVec w) : Nat := ((List.range w).filter (fun i => v.getLsbD i)).length
/-- Leading zeros of a 64-bit word; 64 for zero. -/
def clz64 (v : DWord) : Nat := if v = 0 then 64 else 63 - Nat.log2 v.toNat
/-- The index of the lowest set bit; 64 if there is none. -/
def lowestBit (v : DWord) : Nat := ((List.range 64).find? (fun i => v.getLsbD i)).getD 64

def doAdd (c : CoreNo) (x : SR) (s : Block) : Block := scalar2 s c x [] (fun a b => a + b)
def doSub (c : CoreNo) (x : SR) (s : Block) : Block := scalar2 s c x [] (fun a b => a - b)
def doMul (c : CoreNo) (x : SR) (s : Block) : Block := scalar2 s c x [] (fun a b => a * b)
/-- High half of the signed product. -/
def doMulhs (c : CoreNo) (x : SR) (s : Block) : Block :=
  scalar2 s c x [] (fun a b => BitVec.ofInt 64 (a.toInt * b.toInt / (2 ^ 64 : Nat)))
/-- High half of the unsigned product. -/
def doMulhu (c : CoreNo) (x : SR) (s : Block) : Block :=
  scalar2 s c x [] (fun a b => BitVec.ofNat 64 (a.toNat * b.toNat / 2 ^ 64))
def doDivs (c : CoreNo) (x : SR) (s : Block) : Block := scalar2 s c x [] divS
def doDivu (c : CoreNo) (x : SR) (s : Block) : Block := scalar2 s c x [] divU
def doRems (c : CoreNo) (x : SR) (s : Block) : Block := scalar2 s c x [] remS
def doRemu (c : CoreNo) (x : SR) (s : Block) : Block := scalar2 s c x [] remU
def doAnd (c : CoreNo) (x : SR) (s : Block) : Block := scalar2 s c x [] (fun a b => a &&& b)
def doOr (c : CoreNo) (x : SR) (s : Block) : Block := scalar2 s c x [] (fun a b => a ||| b)
def doXor (c : CoreNo) (x : SR) (s : Block) : Block := scalar2 s c x [] (fun a b => a ^^^ b)
def doShl (c : CoreNo) (x : SR) (s : Block) : Block := scalar2 s c x [] (fun a b => a <<< (b.toNat % 64))
def doShr (c : CoreNo) (x : SR) (s : Block) : Block := scalar2 s c x [] (fun a b => a >>> (b.toNat % 64))
def doSra (c : CoreNo) (x : SR) (s : Block) : Block := scalar2 s c x [] (fun a b => a.sshiftRight (b.toNat % 64))
def doMin (c : CoreNo) (x : SR) (s : Block) : Block := scalar2 s c x [] (fun a b => if a.toInt < b.toInt then a else b)
def doMax (c : CoreNo) (x : SR) (s : Block) : Block := scalar2 s c x [] (fun a b => if a.toInt < b.toInt then b else a)
def doMinu (c : CoreNo) (x : SR) (s : Block) : Block := scalar2 s c x [] (fun a b => if a.toNat < b.toNat then a else b)
def doMaxu (c : CoreNo) (x : SR) (s : Block) : Block := scalar2 s c x [] (fun a b => if a.toNat < b.toNat then b else a)
def doSlt (c : CoreNo) (x : SR) (s : Block) : Block := scalar2 s c x [] (fun a b => truth (decide (a.toInt < b.toInt)))
def doSltu (c : CoreNo) (x : SR) (s : Block) : Block := scalar2 s c x [] (fun a b => truth (decide (a.toNat < b.toNat)))
def doSeq (c : CoreNo) (x : SR) (s : Block) : Block := scalar2 s c x [] (fun a b => truth (a == b))
/-- POPC: K2, the sb field zero. -/
def doPopc (c : CoreNo) (x : SR) (s : Block) : Block :=
  scalar2 s c x (k2 s c true ++ mustZero (x.sb.val == 0)) (fun a _ => BitVec.ofNat 64 (popCount a))
/-- CLZ: K2, the sb field zero. -/
def doClz (c : CoreNo) (x : SR) (s : Block) : Block :=
  scalar2 s c x (k2 s c true ++ mustZero (x.sb.val == 0)) (fun a _ => BitVec.ofNat 64 (clz64 a))

def doAddi (c : CoreNo) (x : SI) (s : Block) : Block := scalarI s c x [] (fun a => a + x.imm16.signExtend 64)
def doAndi (c : CoreNo) (x : SI) (s : Block) : Block := scalarI s c x [] (fun a => a &&& x.imm16.zeroExtend 64)
def doOri (c : CoreNo) (x : SI) (s : Block) : Block := scalarI s c x [] (fun a => a ||| x.imm16.zeroExtend 64)
def doXori (c : CoreNo) (x : SI) (s : Block) : Block := scalarI s c x [] (fun a => a ^^^ x.imm16.zeroExtend 64)
def doSlti (c : CoreNo) (x : SI) (s : Block) : Block :=
  scalarI s c x [] (fun a => truth (decide (a.toInt < x.imm16.toInt)))
/-- LUI: the sa field zero. -/
def doLui (c : CoreNo) (x : SI) (s : Block) : Block :=
  scalarI s c x (mustZero (x.sa.val == 0)) (fun _ => x.imm16.signExtend 64 <<< 16)
/-- SHIFTI: imm16[7:6] chooses the shift, 3 is a reserved function, imm16[15:8] must be zero. -/
def doShifti (c : CoreNo) (x : SI) (s : Block) : Block :=
  let n := bvBits x.imm16 0 6
  let m := bvBits x.imm16 6 2
  scalarI s c x ((if m = 3 then [2] else []) ++ mustZero (bvBits x.imm16 8 8 == 0))
    (fun a => if m = 0 then a <<< n else if m = 1 then a >>> n else a.sshiftRight n)

/-! Address registers (R181). A field that names an A register has bit 4 zero (R174). -/

/-- An instruction that changes an A register by a scalar, once no load is still to step it. -/
def aregOp (s : Block) (c : Nat) (x : SR) (kinds : List Nat) (f : AReg → DWord → AReg) : Block :=
  issueShort s c 4 (kinds ++ mustZero (decide (x.sd.val < 16))) [x.sa.val] [] (fun s =>
    if baseBusy (getCore s c) x.sd.val then .wait
    else onCore c (fun k => setA k x.sd.val (f (getA k x.sd.val) (getS k x.sa.val))) s)

def doAset (c : CoreNo) (x : SR) (s : Block) : Block :=
  aregOp s c x (mustZero (x.sb.val == 0)) (fun r v => { r with base := v })
def doAstride (c : CoreNo) (x : SR) (s : Block) : Block :=
  aregOp s c x (mustZero (x.sb.val == 0)) (fun r v => { r with stride := v.truncate 32 })
/-- ALSTEP: the sb field k names LSTEP0 to LSTEP3; 2 and 3 are K2, above 3 is a field fault at both levels. -/
def doAlstep (c : CoreNo) (x : SR) (s : Block) : Block :=
  aregOp s c x (mustZero (decide (x.sb.val < 4)) ++ k2 s c (x.sb.val == 2 || x.sb.val == 3)) (fun r v =>
    let w : Word := v.truncate 32
    match x.sb.val with
    | 0 => { r with lstep0 := w }
    | 1 => { r with lstep1 := w }
    | 2 => { r with lstep2 := w }
    | _ => { r with lstep3 := w })
def doAadd (c : CoreNo) (x : SR) (s : Block) : Block :=
  aregOp s c x (mustZero (x.sb.val == 0)) (fun r v => { r with base := r.base + v })
/-- AGET: Sd = BASE of the A register named by the sa field. -/
def doAget (c : CoreNo) (x : SR) (s : Block) : Block :=
  issueShort s c 4 (mustZero (x.sb.val == 0) ++ mustZero (decide (x.sa.val < 16))) [x.sd.val] [] (fun s =>
    if baseBusy (getCore s c) x.sa.val then .wait
    else onCore c (fun k => setS k x.sd.val (getA k x.sa.val).base) s)

/-! Branches (R188). -/

/-- The target o + 4 × off18, of a branch at offset o; negative when it lies before the code. -/
def branchTarget (o : Nat) (off : BitVec 18) : Int := (o : Int) + 4 * off.toInt

/-- A taken branch: a target outside CODE faults as kind TARGET (log entry 12). -/
def takeBranch (s : Block) (c : Nat) (off : BitVec 18) : Exec :=
  let t := branchTarget (getCore s c).pc off
  if t < 0 then .fault 1 (detail20 6 (narrowInt 20 t)) else jumpTo s c t.toNat

/-- A branch on a scalar. -/
def branchS (s : Block) (c : Nat) (x : BR) (cond : DWord → Bool) : Block :=
  issueShort s c 4 [] [x.sa.val] [] (fun s => if cond (getS (getCore s c) x.sa.val) then takeBranch s c x.off18 else .done s)

/-- A branch on a predicate: sa[4:3] zero. -/
def branchP (s : Block) (c : Nat) (x : BR) (cond : DWord → Bool) : Block :=
  issueShort s c 4 (mustZero (decide (x.sa.val < 8))) [] []
    (fun s => if cond (getP (getCore s c) x.sa.val) then takeBranch s c x.off18 else .done s)

def doBz (c : CoreNo) (x : BR) (s : Block) : Block := branchS s c x (fun v => v == 0)
def doBnz (c : CoreNo) (x : BR) (s : Block) : Block := branchS s c x (fun v => v != 0)
def doBltz (c : CoreNo) (x : BR) (s : Block) : Block := branchS s c x (fun v => decide (v.toInt < 0))
def doBgez (c : CoreNo) (x : BR) (s : Block) : Block := branchS s c x (fun v => decide (0 ≤ v.toInt))
def doBany (c : CoreNo) (x : BR) (s : Block) : Block := branchP s c x (fun v => v != 0)
def doBnone (c : CoreNo) (x : BR) (s : Block) : Block := branchP s c x (fun v => v == 0)
/-- B: always; the sa field zero. -/
def doB (c : CoreNo) (x : BR) (s : Block) : Block :=
  issueShort s c 4 (mustZero (x.sa.val == 0)) [] [] (fun s => takeBranch s c x.off18)
/-- CALL: always, with S31 the offset after it; the sa field zero. -/
def doCall (c : CoreNo) (x : BR) (s : Block) : Block :=
  issueShort s c 4 (mustZero (x.sa.val == 0)) [31] [] (fun s =>
    match takeBranch s c x.off18 with
    | .jump s' t => .jump (updCore s' c (fun k => setS k 31 (BitVec.ofNat 64 (k.pc + 4)))) t
    | e => e)

/-- JR: to the offset in S[sa]; sd and sb zero. -/
def doJr (c : CoreNo) (x : SR) (s : Block) : Block :=
  issueShort s c 4 (mustZero (x.sd.val == 0 && x.sb.val == 0)) [x.sa.val] []
    (fun s => jumpTo s c (getS (getCore s c) x.sa.val).toNat)
/-- JALR: also writes the offset of the following instruction to Sd; sb zero. The target is read before Sd is written. -/
def doJalr (c : CoreNo) (x : SR) (s : Block) : Block :=
  issueShort s c 4 (mustZero (x.sb.val == 0)) [x.sd.val, x.sa.val] [] (fun s =>
    match jumpTo s c (getS (getCore s c) x.sa.val).toNat with
    | .jump s' t => .jump (updCore s' c (fun k => setS k x.sd.val (BitVec.ofNat 64 (k.pc + 4)))) t
    | e => e)

/-! Hardware loops (R190 to R195). -/

/-- LOOP and LOOPI: counter lc, count n, a body of the given number of words behind the instruction; where several kinds of the
LOOP fault apply, the lowest is reported (R195; log entry 156). -/
def startLoop (s : Block) (c lc : Nat) (n body : Nat) : Exec :=
  let k := getCore s c
  let first := k.pc + 4
  let past := first + 4 * body
  if body = 0 then .fault 3 (detail20 1 0)
  else if k.loops.any (fun l => l.lc = lc) then .fault 3 (detail20 2 0)
  else if k.loops.any (fun l => decide (l.past < past) && decide (l.first ≤ k.pc) && decide (k.pc < l.past)) then .fault 3 (detail20 3 0)
  else if codeLen s k < past then .fault 3 (detail20 4 0)
  else if n = 0 then
    -- the body is skipped: execution goes on after it
    .stay (advance s c (4 + 4 * body))
  else
    let k := setLC k lc (BitVec.ofNat 64 n)
    .done (setCore s c { k with loops := ⟨lc, first, past⟩ :: k.loops })

/-- LOOP: the count from S[sa]; bits [17:16] zero; lc 2 and 3 are K2 (R207). -/
def doLoop (c : CoreNo) (x : LP) (s : Block) : Block :=
  issueShort s c 4 (mustZero (x.zero.val == 0) ++ k2 s c (decide (2 ≤ x.lc.val))) [x.sa.val] []
    (fun s => startLoop s c x.lc.val (getS (getCore s c) x.sa.val).toNat x.body.toNat)
/-- LOOPI: an immediate count of 0 to 2,047. -/
def doLoopi (c : CoreNo) (x : LPI) (s : Block) : Block :=
  issueShort s c 4 (k2 s c (decide (2 ≤ x.lc.val))) [] []
    (fun s => startLoop s c x.lc.val x.count.toNat x.body.toNat)

/-! Predicates (R187). -/

/-- A predicate result from predicates; the s field must be zero. -/
def predOp (s : Block) (c : Nat) (x : PD) (kinds : List Nat) (f : DWord → DWord → DWord) : Block :=
  issueShort s c 4 (kinds ++ mustZero (x.s.val == 0)) [] []
    (onCore c (fun k => setP k x.pd.val (f (getP k x.pa.val) (getP k x.pb.val))))
/-- A scalar result from a predicate; pd and pb must be zero. -/
def predToS (s : Block) (c : Nat) (x : PD) (f : DWord → DWord) : Block :=
  issueShort s c 4 (mustZero (x.pd.val == 0 && x.pb.val == 0)) [x.s.val] []
    (onCore c (fun k => setS k x.s.val (f (getP k x.pa.val))))

def doPand (c : CoreNo) (x : PD) (s : Block) : Block := predOp s c x [] (fun a b => a &&& b)
def doPor (c : CoreNo) (x : PD) (s : Block) : Block := predOp s c x [] (fun a b => a ||| b)
def doPxor (c : CoreNo) (x : PD) (s : Block) : Block := predOp s c x [] (fun a b => a ^^^ b)
def doPandn (c : CoreNo) (x : PD) (s : Block) : Block := predOp s c x [] (fun a b => a &&& ~~~b)
def doPnot (c : CoreNo) (x : PD) (s : Block) : Block := predOp s c x (mustZero (x.pb.val == 0)) (fun a _ => ~~~a)
def doPmovs (c : CoreNo) (x : PD) (s : Block) : Block :=
  issueShort s c 4 (mustZero (x.pa.val == 0 && x.pb.val == 0)) [x.s.val] []
    (onCore c (fun k => setP k x.pd.val (getS k x.s.val)))
def doSmovp (c : CoreNo) (x : PD) (s : Block) : Block := predToS s c x (fun a => a)
def doPcnt (c : CoreNo) (x : PD) (s : Block) : Block := predToS s c x (fun a => BitVec.ofNat 64 (popCount a))
def doPfirst (c : CoreNo) (x : PD) (s : Block) : Block := predToS s c x (fun a => BitVec.ofNat 64 (lowestBit a))

end Sys2Proof.Machine
end

