-- ==== Sys2Proof/Machine/State.lean ====
section
/-! DEFINITION. State: the block and its queue of waiting commands, the faults and refusals of a step, and the state after reset. -/
namespace Sys2Proof.Machine

/-- The state: everything the spec gives the module, and the commands that wait for it, first in, first out. -/
structure State where
  block : Block
  pending : List Instr
  deriving DecidableEq, Repr

/-- What could stop the block. No command stops it: a step always answers a next state or, for a command that is not modelled, a
refusal. -/
inductive Fault where
  /-- raised by no command; safe -/
  | impossible
  deriving DecidableEq, Repr

/-- Why a command is not carried out. -/
inductive Refusal where
  /-- the command has no meaning yet; safe -/
  | notModelled (mnemonic : String)
  deriving DecidableEq, Repr

/-- The module right after a module reset, no command waiting. -/
def State.reset : State := { block := {}, pending := [] }

end Sys2Proof.Machine
end

