-- ==== Sys2Proof/Machine/Exec.lean ====
section
/-! DEFINITION. Exec: the meaning of every command as an outcome on the whole state: its effect on the block, and the queue as
it stands. The effect itself is the definition of the family file that the meaning calls. -/
namespace Sys2Proof.Machine

/-- A command that completes: its effect on the block, nothing on the queue. -/
def onBlock (f : Block → Block) (s : State) : Host.Outcome State Fault Refusal := .next { s with block := f s.block }

/-- A command that acts on a started module alone: the module is powered and started and not ready for removal (R39, R619, R641).
-/
def onStarted (f : Block → Block) (s : State) : Host.Outcome State Fault Refusal :=
  onBlock (fun b => if b.hub.phase = .started ∧ b.hub.remove ≠ .ready then f b else b) s

/-- REGISTER_WRITE (R61). -/
def execRegisterWrite (w : Writer) (p : PageNo) (off : Fin 4096) (size : Nat) (value : DWord) (s : State) : Host.Outcome State Fault Refusal :=
  onBlock (doRegisterWrite w p off size value) s

/-- OWNER_WRITE (R56). -/
def execOwnerWrite (w : Writer) (p : PageNo) (value : Word) (s : State) : Host.Outcome State Fault Refusal :=
  onBlock (doOwnerWrite w p value) s

/-- ERR_FIRST_READ (R49). -/
def execErrFirstRead (w : Writer) (p : PageNo) (s : State) : Host.Outcome State Fault Refusal :=
  onBlock (doErrFirstRead w p) s

/-- COUNTER_LOW_READ (R65). -/
def execCounterLowRead (w : Writer) (p : PageNo) (off : Fin 4096) (size : Nat) (s : State) : Host.Outcome State Fault Refusal :=
  onBlock (doCounterLowRead w p off size) s

/-- BAR4_READ (R35). -/
def execBar4Read (p : PortNo) (o : Nat) (n : Fin 4097) (s : State) : Host.Outcome State Fault Refusal :=
  onStarted (doBar4Read p o n) s

/-- BAR4_WRITE (R35). -/
def execBar4Write (p : PortNo) (o : Nat) (b : List Byte) (s : State) : Host.Outcome State Fault Refusal :=
  onStarted (doBar4Write p o b) s

/-- EPOCH_BOUNDARY (R67). -/
def execEpochBoundary (s : State) : Host.Outcome State Fault Refusal :=
  onStarted (doEpochBoundary) s

/-- RGN_SHADOW_LATCH (R112). -/
def execRgnShadowLatch (r : RgnNo) (s : State) : Host.Outcome State Fault Refusal :=
  onStarted (doRgnShadowLatch r) s

/-- CORE_HALT (R98). -/
def execCoreHalt (w : Writer) (c : CoreNo) (guard : Byte) (s : State) : Host.Outcome State Fault Refusal :=
  onBlock (doCoreHalt w c guard) s

/-- CORE_RESUME (R200). -/
def execCoreResume (w : Writer) (c : CoreNo) (guard : Byte) (s : State) : Host.Outcome State Fault Refusal :=
  onBlock (doCoreResume w c guard) s

/-- ZEROISE_COMPLETE (R94). -/
def execZeroiseComplete (p : PageNo) (slice : Option (Fin 16)) (ok : Bool) (s : State) : Host.Outcome State Fault Refusal :=
  onStarted (doZeroiseComplete p slice ok) s

/-- CLU_SLICE_OWNER_WRITE (R107). -/
def execCluSliceOwnerWrite (w : Writer) (g : CluNo) (j : Fin 16) (value : Word) (s : State) : Host.Outcome State Fault Refusal :=
  onBlock (doCluSliceOwnerWrite w g j value) s

/-- PACE_WINDOW_END (R90). -/
def execPaceWindowEnd (r : RgnNo) (micro : Nat) (steps : BitVec 16) (s : State) : Host.Outcome State Fault Refusal :=
  onStarted (doPaceWindowEnd r micro steps) s

/-- FABRIC_TRANSFER_ARRIVAL (R87). -/
def execFabricTransferArrival (x : CtxNo) (rank id : Nat) (s : State) : Host.Outcome State Fault Refusal :=
  onBlock (doFabricTransferArrival x rank id) s

/-- FABRIC_TRANSFER_ERROR (R89). -/
def execFabricTransferError (x : CtxNo) (rank id : Nat) (s : State) : Host.Outcome State Fault Refusal :=
  onBlock (doFabricTransferError x rank id) s

/-- MERGE_READY (R84). -/
def execMergeReady (x : CtxNo) (group n : Nat) (s : State) : Host.Outcome State Fault Refusal :=
  onBlock (doMergeReady x group n) s

/-- MERGE_COMPLETE (R82). -/
def execMergeComplete (x : CtxNo) (group n : Nat) (s : State) : Host.Outcome State Fault Refusal :=
  onBlock (doMergeComplete x group n) s

/-- POWER_GOVERNOR_ADJUST (R28). -/
def execPowerGovernorAdjust (d : DieNo) (mv : Nat) (s : State) : Host.Outcome State Fault Refusal :=
  onStarted (doPowerGovernorAdjust d mv) s

/-- ADMISSION_GRANT (R30). -/
def execAdmissionGrant (c : CoreNo) (s : State) : Host.Outcome State Fault Refusal :=
  onBlock (doAdmissionGrant c) s

/-- ARRAY_ISSUE_POINT (R128). -/
def execArrayIssuePoint (c : CoreNo) (s : State) : Host.Outcome State Fault Refusal :=
  onBlock (doArrayIssuePoint c) s

/-- ARRAY_RESUMABLE_POINT (R138). -/
def execArrayResumablePoint (c : CoreNo) (s : State) : Host.Outcome State Fault Refusal :=
  onBlock (doArrayResumablePoint c) s

/-- ARRAY_RESULT_READY (R132). -/
def execArrayResultReady (c : CoreNo) (s : State) : Host.Outcome State Fault Refusal :=
  onBlock (doArrayResultReady c) s

/-- ARRAY_RAMP_DOWN_END (R136). -/
def execArrayRampDownEnd (c : CoreNo) (s : State) : Host.Outcome State Fault Refusal :=
  onBlock (doArrayRampDownEnd c) s

/-- ADD (R177). -/
def execAdd (c : CoreNo) (x : SR) (s : State) : Host.Outcome State Fault Refusal :=
  onBlock (issueWord c (.add c x) (doAdd c x)) s

/-- SUB (R177). -/
def execSub (c : CoreNo) (x : SR) (s : State) : Host.Outcome State Fault Refusal :=
  onBlock (issueWord c (.sub c x) (doSub c x)) s

/-- MUL (R177). -/
def execMul (c : CoreNo) (x : SR) (s : State) : Host.Outcome State Fault Refusal :=
  onBlock (issueWord c (.mul c x) (doMul c x)) s

/-- MULHS (R177). -/
def execMulhs (c : CoreNo) (x : SR) (s : State) : Host.Outcome State Fault Refusal :=
  onBlock (issueWord c (.mulhs c x) (doMulhs c x)) s

/-- MULHU (R177). -/
def execMulhu (c : CoreNo) (x : SR) (s : State) : Host.Outcome State Fault Refusal :=
  onBlock (issueWord c (.mulhu c x) (doMulhu c x)) s

/-- DIVS (R178). -/
def execDivs (c : CoreNo) (x : SR) (s : State) : Host.Outcome State Fault Refusal :=
  onBlock (issueWord c (.divs c x) (doDivs c x)) s

/-- DIVU (R178). -/
def execDivu (c : CoreNo) (x : SR) (s : State) : Host.Outcome State Fault Refusal :=
  onBlock (issueWord c (.divu c x) (doDivu c x)) s

/-- REMS (R178). -/
def execRems (c : CoreNo) (x : SR) (s : State) : Host.Outcome State Fault Refusal :=
  onBlock (issueWord c (.rems c x) (doRems c x)) s

/-- REMU (R178). -/
def execRemu (c : CoreNo) (x : SR) (s : State) : Host.Outcome State Fault Refusal :=
  onBlock (issueWord c (.remu c x) (doRemu c x)) s

/-- AND (R177). -/
def execAnd (c : CoreNo) (x : SR) (s : State) : Host.Outcome State Fault Refusal :=
  onBlock (issueWord c (.andOp c x) (doAnd c x)) s

/-- OR (R177). -/
def execOr (c : CoreNo) (x : SR) (s : State) : Host.Outcome State Fault Refusal :=
  onBlock (issueWord c (.orOp c x) (doOr c x)) s

/-- XOR (R177). -/
def execXor (c : CoreNo) (x : SR) (s : State) : Host.Outcome State Fault Refusal :=
  onBlock (issueWord c (.xorOp c x) (doXor c x)) s

/-- SHL (R177). -/
def execShl (c : CoreNo) (x : SR) (s : State) : Host.Outcome State Fault Refusal :=
  onBlock (issueWord c (.shl c x) (doShl c x)) s

/-- SHR (R177). -/
def execShr (c : CoreNo) (x : SR) (s : State) : Host.Outcome State Fault Refusal :=
  onBlock (issueWord c (.shr c x) (doShr c x)) s

/-- SRA (R177). -/
def execSra (c : CoreNo) (x : SR) (s : State) : Host.Outcome State Fault Refusal :=
  onBlock (issueWord c (.sra c x) (doSra c x)) s

/-- MIN (R177). -/
def execMin (c : CoreNo) (x : SR) (s : State) : Host.Outcome State Fault Refusal :=
  onBlock (issueWord c (.minOp c x) (doMin c x)) s

/-- MAX (R177). -/
def execMax (c : CoreNo) (x : SR) (s : State) : Host.Outcome State Fault Refusal :=
  onBlock (issueWord c (.maxOp c x) (doMax c x)) s

/-- MINU (R177). -/
def execMinu (c : CoreNo) (x : SR) (s : State) : Host.Outcome State Fault Refusal :=
  onBlock (issueWord c (.minu c x) (doMinu c x)) s

/-- MAXU (R177). -/
def execMaxu (c : CoreNo) (x : SR) (s : State) : Host.Outcome State Fault Refusal :=
  onBlock (issueWord c (.maxu c x) (doMaxu c x)) s

/-- SLT (R177). -/
def execSlt (c : CoreNo) (x : SR) (s : State) : Host.Outcome State Fault Refusal :=
  onBlock (issueWord c (.slt c x) (doSlt c x)) s

/-- SLTU (R177). -/
def execSltu (c : CoreNo) (x : SR) (s : State) : Host.Outcome State Fault Refusal :=
  onBlock (issueWord c (.sltu c x) (doSltu c x)) s

/-- SEQ (R177). -/
def execSeq (c : CoreNo) (x : SR) (s : State) : Host.Outcome State Fault Refusal :=
  onBlock (issueWord c (.seq c x) (doSeq c x)) s

/-- POPC (R177). -/
def execPopc (c : CoreNo) (x : SR) (s : State) : Host.Outcome State Fault Refusal :=
  onBlock (issueWord c (.popc c x) (doPopc c x)) s

/-- CLZ (R177). -/
def execClz (c : CoreNo) (x : SR) (s : State) : Host.Outcome State Fault Refusal :=
  onBlock (issueWord c (.clz c x) (doClz c x)) s

/-- ADDI (R179). -/
def execAddi (c : CoreNo) (x : SI) (s : State) : Host.Outcome State Fault Refusal :=
  onBlock (issueWord c (.addi c x) (doAddi c x)) s

/-- ANDI (R179). -/
def execAndi (c : CoreNo) (x : SI) (s : State) : Host.Outcome State Fault Refusal :=
  onBlock (issueWord c (.andi c x) (doAndi c x)) s

/-- ORI (R179). -/
def execOri (c : CoreNo) (x : SI) (s : State) : Host.Outcome State Fault Refusal :=
  onBlock (issueWord c (.ori c x) (doOri c x)) s

/-- XORI (R179). -/
def execXori (c : CoreNo) (x : SI) (s : State) : Host.Outcome State Fault Refusal :=
  onBlock (issueWord c (.xori c x) (doXori c x)) s

/-- SLTI (R179). -/
def execSlti (c : CoreNo) (x : SI) (s : State) : Host.Outcome State Fault Refusal :=
  onBlock (issueWord c (.slti c x) (doSlti c x)) s

/-- LUI (R179). -/
def execLui (c : CoreNo) (x : SI) (s : State) : Host.Outcome State Fault Refusal :=
  onBlock (issueWord c (.lui c x) (doLui c x)) s

/-- SHIFTI (R179). -/
def execShifti (c : CoreNo) (x : SI) (s : State) : Host.Outcome State Fault Refusal :=
  onBlock (issueWord c (.shifti c x) (doShifti c x)) s

/-- NOP (R189). -/
def execNop (c : CoreNo) (x : SY) (s : State) : Host.Outcome State Fault Refusal :=
  onBlock (issueWord c (.nop c x) (doNop c x)) s

/-- END (R224). -/
def execEnd (c : CoreNo) (x : SY) (s : State) : Host.Outcome State Fault Refusal :=
  onBlock (issueWord c (.endOp c x) (doEnd c x)) s

/-- END_DONE (R224). -/
def execEndDone (c : CoreNo) (s : State) : Host.Outcome State Fault Refusal :=
  onBlock (doEndDone c) s

/-- TRAP (R189). -/
def execTrap (c : CoreNo) (x : SY) (s : State) : Host.Outcome State Fault Refusal :=
  onBlock (issueWord c (.trap c x) (doTrap c x)) s

/-- MFS (R171). -/
def execMfs (c : CoreNo) (x : SY) (s : State) : Host.Outcome State Fault Refusal :=
  onBlock (issueWord c (.mfs c x) (doMfs c x)) s

/-- MTS (R171). -/
def execMts (c : CoreNo) (x : SY) (s : State) : Host.Outcome State Fault Refusal :=
  onBlock (issueWord c (.mts c x) (doMts c x)) s

/-- QCAP (R204). -/
def execQcap (c : CoreNo) (x : SY) (s : State) : Host.Outcome State Fault Refusal :=
  onBlock (issueWord c (.qcap c x) (doQcap c x)) s

/-- LD (R180). -/
def execLd (c : CoreNo) (size : Fin 7) (x : MA) (s : State) : Host.Outcome State Fault Refusal :=
  onBlock (issueWord c (.ld c size x) (doLd c size x)) s

/-- ST (R180). -/
def execSt (c : CoreNo) (size : Fin 7) (x : MA) (s : State) : Host.Outcome State Fault Refusal :=
  onBlock (issueWord c (.st c size x) (doSt c size x)) s

/-- VLD (R180). -/
def execVld (c : CoreNo) (x : MA) (s : State) : Host.Outcome State Fault Refusal :=
  onBlock (issueWord c (.vld c x) (doVld c x)) s

/-- VST (R180). -/
def execVst (c : CoreNo) (x : MA) (s : State) : Host.Outcome State Fault Refusal :=
  onBlock (issueWord c (.vst c x) (doVst c x)) s

/-- LOOP (R190). -/
def execLoop (c : CoreNo) (x : LP) (s : State) : Host.Outcome State Fault Refusal :=
  onBlock (issueWord c (.loop c x) (doLoop c x)) s

/-- LOOPI (R190). -/
def execLoopi (c : CoreNo) (x : LPI) (s : State) : Host.Outcome State Fault Refusal :=
  onBlock (issueWord c (.loopi c x) (doLoopi c x)) s

/-- BZ (R188). -/
def execBz (c : CoreNo) (x : BR) (s : State) : Host.Outcome State Fault Refusal :=
  onBlock (issueWord c (.bz c x) (doBz c x)) s

/-- BNZ (R188). -/
def execBnz (c : CoreNo) (x : BR) (s : State) : Host.Outcome State Fault Refusal :=
  onBlock (issueWord c (.bnz c x) (doBnz c x)) s

/-- BLTZ (R188). -/
def execBltz (c : CoreNo) (x : BR) (s : State) : Host.Outcome State Fault Refusal :=
  onBlock (issueWord c (.bltz c x) (doBltz c x)) s

/-- BGEZ (R188). -/
def execBgez (c : CoreNo) (x : BR) (s : State) : Host.Outcome State Fault Refusal :=
  onBlock (issueWord c (.bgez c x) (doBgez c x)) s

/-- BANY (R188). -/
def execBany (c : CoreNo) (x : BR) (s : State) : Host.Outcome State Fault Refusal :=
  onBlock (issueWord c (.bany c x) (doBany c x)) s

/-- BNONE (R188). -/
def execBnone (c : CoreNo) (x : BR) (s : State) : Host.Outcome State Fault Refusal :=
  onBlock (issueWord c (.bnone c x) (doBnone c x)) s

/-- B (R188). -/
def execB (c : CoreNo) (x : BR) (s : State) : Host.Outcome State Fault Refusal :=
  onBlock (issueWord c (.b c x) (doB c x)) s

/-- CALL (R188). -/
def execCall (c : CoreNo) (x : BR) (s : State) : Host.Outcome State Fault Refusal :=
  onBlock (issueWord c (.call c x) (doCall c x)) s

/-- JR (R189). -/
def execJr (c : CoreNo) (x : SR) (s : State) : Host.Outcome State Fault Refusal :=
  onBlock (issueWord c (.jr c x) (doJr c x)) s

/-- JALR (R189). -/
def execJalr (c : CoreNo) (x : SR) (s : State) : Host.Outcome State Fault Refusal :=
  onBlock (issueWord c (.jalr c x) (doJalr c x)) s

/-- ASET (R181). -/
def execAset (c : CoreNo) (x : SR) (s : State) : Host.Outcome State Fault Refusal :=
  onBlock (issueWord c (.aset c x) (doAset c x)) s

/-- ASTRIDE (R181). -/
def execAstride (c : CoreNo) (x : SR) (s : State) : Host.Outcome State Fault Refusal :=
  onBlock (issueWord c (.astride c x) (doAstride c x)) s

/-- ALSTEP (R181). -/
def execAlstep (c : CoreNo) (x : SR) (s : State) : Host.Outcome State Fault Refusal :=
  onBlock (issueWord c (.alstep c x) (doAlstep c x)) s

/-- AGET (R181). -/
def execAget (c : CoreNo) (x : SR) (s : State) : Host.Outcome State Fault Refusal :=
  onBlock (issueWord c (.aget c x) (doAget c x)) s

/-- AADD (R181). -/
def execAadd (c : CoreNo) (x : SR) (s : State) : Host.Outcome State Fault Refusal :=
  onBlock (issueWord c (.aadd c x) (doAadd c x)) s

/-- VADD (R183). -/
def execVadd (c : CoreNo) (x : VV) (s : State) : Host.Outcome State Fault Refusal :=
  onBlock (issueWord c (.vadd c x) (doVadd c x)) s

/-- VSUB (R183). -/
def execVsub (c : CoreNo) (x : VV) (s : State) : Host.Outcome State Fault Refusal :=
  onBlock (issueWord c (.vsub c x) (doVsub c x)) s

/-- VMUL (R183). -/
def execVmul (c : CoreNo) (x : VV) (s : State) : Host.Outcome State Fault Refusal :=
  onBlock (issueWord c (.vmul c x) (doVmul c x)) s

/-- VMIN (R184). -/
def execVmin (c : CoreNo) (x : VV) (s : State) : Host.Outcome State Fault Refusal :=
  onBlock (issueWord c (.vmin c x) (doVmin c x)) s

/-- VMAX (R184). -/
def execVmax (c : CoreNo) (x : VV) (s : State) : Host.Outcome State Fault Refusal :=
  onBlock (issueWord c (.vmax c x) (doVmax c x)) s

/-- VABS (R183). -/
def execVabs (c : CoreNo) (x : VV) (s : State) : Host.Outcome State Fault Refusal :=
  onBlock (issueWord c (.vabs c x) (doVabs c x)) s

/-- VNEG (R183). -/
def execVneg (c : CoreNo) (x : VV) (s : State) : Host.Outcome State Fault Refusal :=
  onBlock (issueWord c (.vneg c x) (doVneg c x)) s

/-- VRCP (R184). -/
def execVrcp (c : CoreNo) (x : VV) (s : State) : Host.Outcome State Fault Refusal :=
  onBlock (issueWord c (.vrcp c x) (doVrcp c x)) s

/-- VRSQ (R184). -/
def execVrsq (c : CoreNo) (x : VV) (s : State) : Host.Outcome State Fault Refusal :=
  onBlock (issueWord c (.vrsq c x) (doVrsq c x)) s

/-- VEXP2 (R184). -/
def execVexp2 (c : CoreNo) (x : VV) (s : State) : Host.Outcome State Fault Refusal :=
  onBlock (issueWord c (.vexp2 c x) (doVexp2 c x)) s

/-- VLOG2 (R184). -/
def execVlog2 (c : CoreNo) (x : VV) (s : State) : Host.Outcome State Fault Refusal :=
  onBlock (issueWord c (.vlog2 c x) (doVlog2 c x)) s

/-- VTANH (R184). -/
def execVtanh (c : CoreNo) (x : VV) (s : State) : Host.Outcome State Fault Refusal :=
  onBlock (issueWord c (.vtanh c x) (doVtanh c x)) s

/-- VSEL (R183). -/
def execVsel (c : CoreNo) (x : VV) (s : State) : Host.Outcome State Fault Refusal :=
  onBlock (issueWord c (.vsel c x) (doVsel c x)) s

/-- VRSUM (R184). -/
def execVrsum (c : CoreNo) (x : VV) (s : State) : Host.Outcome State Fault Refusal :=
  onBlock (issueWord c (.vrsum c x) (doVrsum c x)) s

/-- VRMAX (R184). -/
def execVrmax (c : CoreNo) (x : VV) (s : State) : Host.Outcome State Fault Refusal :=
  onBlock (issueWord c (.vrmax c x) (doVrmax c x)) s

/-- VBCAST (R183). -/
def execVbcast (c : CoreNo) (x : VV) (s : State) : Host.Outcome State Fault Refusal :=
  onBlock (issueWord c (.vbcast c x) (doVbcast c x)) s

/-- VEXTR (R183). -/
def execVextr (c : CoreNo) (x : VV) (s : State) : Host.Outcome State Fault Refusal :=
  onBlock (issueWord c (.vextr c x) (doVextr c x)) s

/-- VIADD (R183). -/
def execViadd (c : CoreNo) (x : VV) (s : State) : Host.Outcome State Fault Refusal :=
  onBlock (issueWord c (.viadd c x) (doViadd c x)) s

/-- VISUB (R183). -/
def execVisub (c : CoreNo) (x : VV) (s : State) : Host.Outcome State Fault Refusal :=
  onBlock (issueWord c (.visub c x) (doVisub c x)) s

/-- VIMUL (R183). -/
def execVimul (c : CoreNo) (x : VV) (s : State) : Host.Outcome State Fault Refusal :=
  onBlock (issueWord c (.vimul c x) (doVimul c x)) s

/-- VAND (R183). -/
def execVand (c : CoreNo) (x : VV) (s : State) : Host.Outcome State Fault Refusal :=
  onBlock (issueWord c (.vand c x) (doVand c x)) s

/-- VOR (R183). -/
def execVor (c : CoreNo) (x : VV) (s : State) : Host.Outcome State Fault Refusal :=
  onBlock (issueWord c (.vor c x) (doVor c x)) s

/-- VXOR (R183). -/
def execVxor (c : CoreNo) (x : VV) (s : State) : Host.Outcome State Fault Refusal :=
  onBlock (issueWord c (.vxor c x) (doVxor c x)) s

/-- VSHL (R183). -/
def execVshl (c : CoreNo) (x : VV) (s : State) : Host.Outcome State Fault Refusal :=
  onBlock (issueWord c (.vshl c x) (doVshl c x)) s

/-- VSHR (R183). -/
def execVshr (c : CoreNo) (x : VV) (s : State) : Host.Outcome State Fault Refusal :=
  onBlock (issueWord c (.vshr c x) (doVshr c x)) s

/-- VCVTIF (R183). -/
def execVcvtif (c : CoreNo) (x : VV) (s : State) : Host.Outcome State Fault Refusal :=
  onBlock (issueWord c (.vcvtif c x) (doVcvtif c x)) s

/-- VCVTFI (R183). -/
def execVcvtfi (c : CoreNo) (x : VV) (s : State) : Host.Outcome State Fault Refusal :=
  onBlock (issueWord c (.vcvtfi c x) (doVcvtfi c x)) s

/-- VNARROW (R183). -/
def execVnarrow (c : CoreNo) (x : VV) (s : State) : Host.Outcome State Fault Refusal :=
  onBlock (issueWord c (.vnarrow c x) (doVnarrow c x)) s

/-- VWIDENL (R183). -/
def execVwidenl (c : CoreNo) (x : VV) (s : State) : Host.Outcome State Fault Refusal :=
  onBlock (issueWord c (.vwidenl c x) (doVwidenl c x)) s

/-- VWIDENH (R183). -/
def execVwidenh (c : CoreNo) (x : VV) (s : State) : Host.Outcome State Fault Refusal :=
  onBlock (issueWord c (.vwidenh c x) (doVwidenh c x)) s

/-- VFMA (R183). -/
def execVfma (c : CoreNo) (x : VV) (s : State) : Host.Outcome State Fault Refusal :=
  onBlock (issueWord c (.vfma c x) (doVfma c x)) s

/-- VCMP (R183). -/
def execVcmp (c : CoreNo) (fn : Fin 6) (x : VV) (s : State) : Host.Outcome State Fault Refusal :=
  onBlock (issueWord c (.vcmp c fn x) (doVcmp c fn x)) s

/-- VGTH (R186). -/
def execVgth (c : CoreNo) (x : VV) (s : State) : Host.Outcome State Fault Refusal :=
  onBlock (issueWord c (.vgth c x) (doVgth c x)) s

/-- VSCT (R186). -/
def execVsct (c : CoreNo) (x : VV) (s : State) : Host.Outcome State Fault Refusal :=
  onBlock (issueWord c (.vsct c x) (doVsct c x)) s

/-- PAND (R187). -/
def execPand (c : CoreNo) (x : PD) (s : State) : Host.Outcome State Fault Refusal :=
  onBlock (issueWord c (.pand c x) (doPand c x)) s

/-- POR (R187). -/
def execPor (c : CoreNo) (x : PD) (s : State) : Host.Outcome State Fault Refusal :=
  onBlock (issueWord c (.por c x) (doPor c x)) s

/-- PXOR (R187). -/
def execPxor (c : CoreNo) (x : PD) (s : State) : Host.Outcome State Fault Refusal :=
  onBlock (issueWord c (.pxor c x) (doPxor c x)) s

/-- PANDN (R187). -/
def execPandn (c : CoreNo) (x : PD) (s : State) : Host.Outcome State Fault Refusal :=
  onBlock (issueWord c (.pandn c x) (doPandn c x)) s

/-- PNOT (R187). -/
def execPnot (c : CoreNo) (x : PD) (s : State) : Host.Outcome State Fault Refusal :=
  onBlock (issueWord c (.pnot c x) (doPnot c x)) s

/-- PMOVS (R187). -/
def execPmovs (c : CoreNo) (x : PD) (s : State) : Host.Outcome State Fault Refusal :=
  onBlock (issueWord c (.pmovs c x) (doPmovs c x)) s

/-- SMOVP (R187). -/
def execSmovp (c : CoreNo) (x : PD) (s : State) : Host.Outcome State Fault Refusal :=
  onBlock (issueWord c (.smovp c x) (doSmovp c x)) s

/-- PCNT (R187). -/
def execPcnt (c : CoreNo) (x : PD) (s : State) : Host.Outcome State Fault Refusal :=
  onBlock (issueWord c (.pcnt c x) (doPcnt c x)) s

/-- PFIRST (R187). -/
def execPfirst (c : CoreNo) (x : PD) (s : State) : Host.Outcome State Fault Refusal :=
  onBlock (issueWord c (.pfirst c x) (doPfirst c x)) s

/-- TLD (R214). -/
def execTld (c : CoreNo) (x : XT) (s : State) : Host.Outcome State Fault Refusal :=
  onBlock (issueWord c (.tld c x) (doTld c x)) s

/-- TST (R214). -/
def execTst (c : CoreNo) (x : XT) (s : State) : Host.Outcome State Fault Refusal :=
  onBlock (issueWord c (.tst c x) (doTst c x)) s

/-- TMOV (R214). -/
def execTmov (c : CoreNo) (x : XT) (s : State) : Host.Outcome State Fault Refusal :=
  onBlock (issueWord c (.tmov c x) (doTmov c x)) s

/-- TADDR (R214). -/
def execTaddr (c : CoreNo) (x : XT) (s : State) : Host.Outcome State Fault Refusal :=
  onBlock (issueWord c (.taddr c x) (doTaddr c x)) s

/-- TSETF (R214). -/
def execTsetf (c : CoreNo) (x : XT) (s : State) : Host.Outcome State Fault Refusal :=
  onBlock (issueWord c (.tsetf c x) (doTsetf c x)) s

/-- TGETF (R214). -/
def execTgetf (c : CoreNo) (x : XT) (s : State) : Host.Outcome State Fault Refusal :=
  onBlock (issueWord c (.tgetf c x) (doTgetf c x)) s

/-- AMUL (R225). -/
def execAmul (c : CoreNo) (x : XT) (s : State) : Host.Outcome State Fault Refusal :=
  onBlock (issueWord c (.amul c x) (doAmul c x)) s

/-- RANGE (R229). -/
def execRange (c : CoreNo) (x : XT) (s : State) : Host.Outcome State Fault Refusal :=
  onBlock (issueWord c (.range c x) (doRange c x)) s

/-- QCONV (R230). -/
def execQconv (c : CoreNo) (x : XT) (s : State) : Host.Outcome State Fault Refusal :=
  onBlock (issueWord c (.qconv c x) (doQconv c x)) s

/-- DQCONV (R231). -/
def execDqconv (c : CoreNo) (x : XT) (s : State) : Host.Outcome State Fault Refusal :=
  onBlock (issueWord c (.dqconv c x) (doDqconv c x)) s

/-- TPACK (R232). -/
def execTpack (c : CoreNo) (x : XT) (s : State) : Host.Outcome State Fault Refusal :=
  onBlock (issueWord c (.tpack c x) (doTpack c x)) s

/-- LONG_ISSUE_POINT (R197). -/
def execLongIssuePoint (c : CoreNo) (s : State) : Host.Outcome State Fault Refusal :=
  onBlock (doLongIssuePoint c) s

/-- LONG_RESUMABLE_POINT (R233). -/
def execLongResumablePoint (c : CoreNo) (s : State) : Host.Outcome State Fault Refusal :=
  onBlock (doLongResumablePoint c) s

/-- LONG_COMPLETE (R196). -/
def execLongComplete (c : CoreNo) (s : State) : Host.Outcome State Fault Refusal :=
  onBlock (doLongComplete c) s

/-- MOVE (R234). -/
def execMove (c : CoreNo) (x : XT) (s : State) : Host.Outcome State Fault Refusal :=
  onBlock (issueWord c (.move c x) (doMove c x)) s

/-- MRD (R236). -/
def execMrd (c : CoreNo) (x : XT) (s : State) : Host.Outcome State Fault Refusal :=
  onBlock (issueWord c (.mrd c x) (doMrd c x)) s

/-- MWR (R236). -/
def execMwr (c : CoreNo) (x : XT) (s : State) : Host.Outcome State Fault Refusal :=
  onBlock (issueWord c (.mwr c x) (doMwr c x)) s

/-- POSTED_ACCEPT (R220). -/
def execPostedAccept (c : CoreNo) (s : State) : Host.Outcome State Fault Refusal :=
  onBlock (doPostedAccept c) s

/-- POSTED_FINISH (R221). -/
def execPostedFinish (x : CtxNo) (rank id : Nat) (bad : List Nat) (s : State) : Host.Outcome State Fault Refusal :=
  onBlock (doPostedFinish x rank id bad) s

/-- POSTED_FAILURE (R237). -/
def execPostedFailure (x : CtxNo) (rank id : Nat) (kind : Fin 3) (block : BitVec 16) (s : State) : Host.Outcome State Fault Refusal :=
  onBlock (doPostedFailure x rank id kind block) s

/-- SELT (R258). -/
def execSelt (c : CoreNo) (x : XT) (s : State) : Host.Outcome State Fault Refusal :=
  onBlock (issueWord c (.selt c x) (doSelt c x)) s

/-- TOPK (R265). -/
def execTopk (c : CoreNo) (x : XT) (s : State) : Host.Outcome State Fault Refusal :=
  onBlock (issueWord c (.topk c x) (doTopk c x)) s

/-- PQLOAD (R242). -/
def execPqload (c : CoreNo) (x : XT) (s : State) : Host.Outcome State Fault Refusal :=
  onBlock (issueWord c (.pqload c x) (doPqload c x)) s

/-- PQSCAN (R243). -/
def execPqscan (c : CoreNo) (x : XT) (s : State) : Host.Outcome State Fault Refusal :=
  onBlock (issueWord c (.pqscan c x) (doPqscan c x)) s

/-- CHKV (R244). -/
def execChkv (c : CoreNo) (x : XT) (s : State) : Host.Outcome State Fault Refusal :=
  onBlock (issueWord c (.chkv c x) (doChkv c x)) s

/-- CRED (R248). -/
def execCred (c : CoreNo) (x : XT) (s : State) : Host.Outcome State Fault Refusal :=
  onBlock (issueWord c (.cred c x) (doCred c x)) s

/-- CBCAST (R248). -/
def execCbcast (c : CoreNo) (x : XT) (s : State) : Host.Outcome State Fault Refusal :=
  onBlock (issueWord c (.cbcast c x) (doCbcast c x)) s

/-- CCAT (R272). -/
def execCcat (c : CoreNo) (x : XT) (s : State) : Host.Outcome State Fault Refusal :=
  onBlock (issueWord c (.ccat c x) (doCcat c x)) s

/-- CTOPK (R274). -/
def execCtopk (c : CoreNo) (x : XT) (s : State) : Host.Outcome State Fault Refusal :=
  onBlock (issueWord c (.ctopk c x) (doCtopk c x)) s

/-- CBAR (R248). -/
def execCbar (c : CoreNo) (x : XT) (s : State) : Host.Outcome State Fault Refusal :=
  onBlock (issueWord c (.cbar c x) (doCbar c x)) s

/-- COLLECTIVE_FINISH (R249). -/
def execCollectiveFinish (x : CtxNo) (rank id : Nat) (s : State) : Host.Outcome State Fault Refusal :=
  onBlock (doCollectiveFinish x rank id) s

/-- COLLECTIVE_MEMBER_LOST (R249). -/
def execCollectiveMemberLost (x : CtxNo) (rank id : Nat) (remote : Bool) (s : State) : Host.Outcome State Fault Refusal :=
  onBlock (doCollectiveMemberLost x rank id remote) s

/-- TWAIT (R223). -/
def execTwait (c : CoreNo) (x : XT) (s : State) : Host.Outcome State Fault Refusal :=
  onBlock (issueWord c (.twait c x) (doTwait c x)) s

/-- TWAIT_DONE (R223). -/
def execTwaitDone (c : CoreNo) (s : State) : Host.Outcome State Fault Refusal :=
  onBlock (doTwaitDone c) s

/-- TAT (R250). -/
def execTat (c : CoreNo) (x : XT) (s : State) : Host.Outcome State Fault Refusal :=
  onBlock (issueWord c (.tat c x) (doTat c x)) s

/-- TIMED_LAUNCH_TIME (R251). -/
def execTimedLaunchTime (c : CoreNo) (s : State) : Host.Outcome State Fault Refusal :=
  onBlock (doTimedLaunchTime c) s

/-- STOP_PREEMPT (R198). -/
def execStopPreempt (c : CoreNo) (s : State) : Host.Outcome State Fault Refusal :=
  onBlock (doStopPreempt c) s

/-- STOP_TEARDOWN (R198). -/
def execStopTeardown (c : CoreNo) (s : State) : Host.Outcome State Fault Refusal :=
  onBlock (doStopTeardown c) s

/-- CORE_STOP_DONE (R198). -/
def execCoreStopDone (c : CoreNo) (s : State) : Host.Outcome State Fault Refusal :=
  onBlock (doCoreStopDone c) s

/-- CARAVAN_FILL_START (R319). -/
def execCaravanFillStart (x : CtxNo) (s : State) : Host.Outcome State Fault Refusal :=
  onBlock (doCaravanFillStart x) s

/-- COPY_RESIDENT (R310). -/
def execCopyResident (x : CtxNo) (tid : Nat) (cluster : Bool) (place : Nat) (s : State) : Host.Outcome State Fault Refusal :=
  onBlock (doCopyResident x tid cluster place) s

/-- GATE_REACH (R317). -/
def execGateReach (c : CoreNo) (s : State) : Host.Outcome State Fault Refusal :=
  onBlock (doGateReach c) s

/-- LAYER_DEADLINE (R322). -/
def execLayerDeadline (x : CtxNo) (layer iter : Nat) (s : State) : Host.Outcome State Fault Refusal :=
  onBlock (doLayerDeadline x layer iter) s

/-- FILL_FAILED (R328). -/
def execFillFailed (x : CtxNo) (tid : Nat) (cluster : Bool) (place : Nat) (kind : FillError) (s : State) : Host.Outcome State Fault Refusal :=
  onBlock (doFillFailed x tid cluster place kind) s

/-- DECISION_DELIVERY (R324). -/
def execDecisionDelivery (c : CoreNo) (s : State) : Host.Outcome State Fault Refusal :=
  onBlock (doDecisionDelivery c) s

/-- COPY_RELEASE (R320). -/
def execCopyRelease (x : CtxNo) (tid : Nat) (cluster : Bool) (place : Nat) (s : State) : Host.Outcome State Fault Refusal :=
  onBlock (doCopyRelease x tid cluster place) s

/-- DEVMEM_PAGE_ZEROISE (R331). -/
def execDevmemPageZeroise (p : Fin 196608) (s : State) : Host.Outcome State Fault Refusal :=
  onStarted (doDevmemPageZeroise p) s

/-- TIE_LEAD_MAX_WRITE (R335). -/
def execTieLeadMaxWrite (w : Writer) (d : DieNo) (value : Word) (s : State) : Host.Outcome State Fault Refusal :=
  onBlock (doTieLeadMaxWrite w d value) s

/-- DMM_TEMP_READING (R337). -/
def execDmmTempReading (k : StackNo) (deg : Int) (s : State) : Host.Outcome State Fault Refusal :=
  onBlock (doDmmTempReading k deg) s

/-- CONTEXT_OPEN (R339). -/
def execContextOpen (cmd : CmdRef) (data : List Byte) (s : State) : Host.Outcome State Fault Refusal :=
  onBlock (doContextOpen cmd data) s

/-- OPEN_PAGES_ZEROISED (R340). -/
def execOpenPagesZeroised (x : CtxNo) (s : State) : Host.Outcome State Fault Refusal :=
  onBlock (doOpenPagesZeroised x) s

/-- OPEN_TIMEOUT (R340). -/
def execOpenTimeout (x : CtxNo) (s : State) : Host.Outcome State Fault Refusal :=
  onBlock (doOpenTimeout x) s

/-- COMPUTE (R341). -/
def execCompute (cmd : CmdRef) (x : Nat) (data : List Byte) (s : State) : Host.Outcome State Fault Refusal :=
  onBlock (doCompute cmd x data) s

/-- RUN_PLACEMENT (R349). -/
def execRunPlacement (s : State) : Host.Outcome State Fault Refusal :=
  onBlock (doRunPlacement) s

/-- DSP_QUANTUM_EXPIRY (R352). -/
def execDspQuantumExpiry (s : State) : Host.Outcome State Fault Refusal :=
  onBlock (doDspQuantumExpiry) s

/-- DSP_AGE_LIMIT_REACHED (R348). -/
def execDspAgeLimitReached (x : CtxNo) (s : State) : Host.Outcome State Fault Refusal :=
  onBlock (doDspAgeLimitReached x) s

/-- RUN_START (R350). -/
def execRunStart (x : CtxNo) (s : State) : Host.Outcome State Fault Refusal :=
  onBlock (doRunStart x) s

/-- RUN_SAVE_DONE (R353). -/
def execRunSaveDone (x : CtxNo) (s : State) : Host.Outcome State Fault Refusal :=
  onBlock (doRunSaveDone x) s

/-- RUN_RESTORE_DONE (R355). -/
def execRunRestoreDone (x : CtxNo) (s : State) : Host.Outcome State Fault Refusal :=
  onBlock (doRunRestoreDone x) s

/-- RUN_TEARDOWN (R357). -/
def execRunTeardown (x : CtxNo) (byMm : Bool) (s : State) : Host.Outcome State Fault Refusal :=
  onBlock (doRunTeardown x byMm) s

/-- RUN_COMPLETE (R341). -/
def execRunComplete (x : CtxNo) (s : State) : Host.Outcome State Fault Refusal :=
  onBlock (doRunComplete x) s

/-- RUN_ABORT (R443). -/
def execRunAbort (cmd : CmdRef) (x : Nat) (s : State) : Host.Outcome State Fault Refusal :=
  onBlock (doRunAbort cmd x) s

/-- CONTEXT_CLOSE (R443). -/
def execContextClose (cmd : CmdRef) (x : Nat) (force : Bool) (s : State) : Host.Outcome State Fault Refusal :=
  onBlock (doContextClose cmd x force) s

/-- JOIN (R364). -/
def execJoin (cmd : CmdRef) (x : CtxNo) (id : Word) (count index : BitVec 15) (s : State) : Host.Outcome State Fault Refusal :=
  onBlock (doJoin cmd x id count index) s

/-- CONTEXT_CONTROL (R362). -/
def execContextControl (cmd : CmdRef) (x : Nat) (p : PageNo) (off : Fin 4096) (write : Bool) (value : Word) (s : State) : Host.Outcome State Fault Refusal :=
  onStarted (doContextControl cmd x p off write value) s

/-- STAGING_ALLOCATE (R437). -/
def execStagingAllocate (cmd : CmdRef) (n : Nat) (s : State) : Host.Outcome State Fault Refusal :=
  onBlock (doStagingAllocate cmd n) s

/-- STAGING_RELEASE (R437). -/
def execStagingRelease (cmd : CmdRef) (first n : Nat) (s : State) : Host.Outcome State Fault Refusal :=
  onBlock (doStagingRelease cmd first n) s

/-- STAGING_MAP (R437). -/
def execStagingMap (cmd : CmdRef) (entries : List (Word × Word)) (s : State) : Host.Outcome State Fault Refusal :=
  onBlock (doStagingMap cmd entries) s

/-- ABORT_BY_TAG (R448). -/
def execAbortByTag (cmd : CmdRef) (sqid cid : BitVec 16) (s : State) : Host.Outcome State Fault Refusal :=
  onBlock (doAbortByTag cmd sqid cid) s

/-- ABORT (R448). -/
def execAbort (cmd : CmdRef) (sqid cid : BitVec 16) (s : State) : Host.Outcome State Fault Refusal :=
  onBlock (doAbort cmd sqid cid) s

/-- INDEX_CREATE (R436). -/
def execIndexCreate (cmd : CmdRef) (nsid : Nat) (data : List Byte) (s : State) : Host.Outcome State Fault Refusal :=
  onBlock (doIndexCreate cmd nsid data) s

/-- INDEX_ATTACH (R277). -/
def execIndexAttach (cmd : CmdRef) (nsid : Nat) (be : Bool) (gran : Fin 4) (ncores : Nat) (window : BitVec 16) (batchMax : BitVec 15) (s : State) : Host.Outcome State Fault Refusal :=
  onBlock (doIndexAttach cmd nsid be gran ncores window batchMax) s

/-- INDEX_DETACH (R435). -/
def execIndexDetach (cmd : CmdRef) (x : Nat) (s : State) : Host.Outcome State Fault Refusal :=
  onBlock (doIndexDetach cmd x) s

/-- SEARCH (R288). -/
def execSearch (cmd : CmdRef) (x : Nat) (data : List Byte) (s : State) : Host.Outcome State Fault Refusal :=
  onBlock (doSearch cmd x data) s

/-- SEARCH_WINDOW_CLOSE (R294). -/
def execSearchWindowClose (x : CtxNo) (s : State) : Host.Outcome State Fault Refusal :=
  onBlock (doSearchWindowClose x) s

/-- WINDOW_SCAN_END (R296). -/
def execWindowScanEnd (x : CtxNo) (s : State) : Host.Outcome State Fault Refusal :=
  onBlock (doWindowScanEnd x) s

/-- INSERT (R299). -/
def execInsert (cmd : CmdRef) (x : Nat) (data : List Byte) (s : State) : Host.Outcome State Fault Refusal :=
  onBlock (doInsert cmd x data) s

/-- DELETE (R300). -/
def execDelete (cmd : CmdRef) (x : Nat) (ids : List (BitVec 64)) (s : State) : Host.Outcome State Fault Refusal :=
  onBlock (doDelete cmd x ids) s

/-- MERGE (R442). -/
def execMerge (cmd : CmdRef) (x : Nat) (s : State) : Host.Outcome State Fault Refusal :=
  onBlock (doMerge cmd x) s

/-- LIST_MERGE_START (R303). -/
def execListMergeStart (x : CtxNo) (l : Nat) (s : State) : Host.Outcome State Fault Refusal :=
  onBlock (doListMergeStart x l) s

/-- LIST_MERGE_COMPLETE (R302). -/
def execListMergeComplete (x : CtxNo) (l : Nat) (s : State) : Host.Outcome State Fault Refusal :=
  onBlock (doListMergeComplete x l) s

/-- VERSION_RELEASE (R302). -/
def execVersionRelease (x : CtxNo) (s : State) : Host.Outcome State Fault Refusal :=
  onBlock (doVersionRelease x) s

/-- REBUILD (R304). -/
def execRebuild (cmd : CmdRef) (x : Nat) (nlist m codeBits sample iterations seed : Nat) (s : State) : Host.Outcome State Fault Refusal :=
  onBlock (doRebuild cmd x nlist m codeBits sample iterations seed) s

/-- REBUILD_PROMOTION (R305). -/
def execRebuildPromotion (x : CtxNo) (s : State) : Host.Outcome State Fault Refusal :=
  onBlock (doRebuildPromotion x) s

/-- READ (R392). -/
def execRead (cmd : CmdRef) (a : LbaSpan) (pr : PrInfo) (d : Decodes) (s : State) : Host.Outcome State Fault Refusal :=
  onBlock (doRead cmd a pr d) s

/-- WRITE (R381). -/
def execWrite (cmd : CmdRef) (a : LbaSpan) (pr : PrInfo) (data : Option (List Byte)) (s : State) : Host.Outcome State Fault Refusal :=
  onBlock (doWrite cmd a pr data) s

/-- WRITE_ZEROES (R405). -/
def execWriteZeroes (cmd : CmdRef) (a : LbaSpan) (pr : PrInfo) (deac full : Bool) (s : State) : Host.Outcome State Fault Refusal :=
  onBlock (doWriteZeroes cmd a pr deac full) s

/-- DATASET_MANAGEMENT (R402). -/
def execDatasetManagement (cmd : CmdRef) (nsid : Nat) (deallocate : Bool) (ranges : List (Nat × Nat × Bool)) (s : State) : Host.Outcome State Fault Refusal :=
  onBlock (doDatasetManagement cmd nsid deallocate ranges) s

/-- COMPARE (R449). -/
def execCompare (cmd : CmdRef) (a : LbaSpan) (pr : PrInfo) (d : Decodes) (data : List Byte) (s : State) : Host.Outcome State Fault Refusal :=
  onBlock (doCompare cmd a pr d data) s

/-- VERIFY (R449). -/
def execVerify (cmd : CmdRef) (a : LbaSpan) (pr : PrInfo) (d : Decodes) (s : State) : Host.Outcome State Fault Refusal :=
  onBlock (doVerify cmd a pr d) s

/-- FLUSH (R424). -/
def execFlush (cmd : CmdRef) (nsid : Nat) (s : State) : Host.Outcome State Fault Refusal :=
  onBlock (doFlush cmd nsid) s

/-- RESERVATION_REGISTER (R424). -/
def execReservationRegister (cmd : CmdRef) (nsid : Nat) (rrega : Fin 8) (iekey : Bool) (cptpl : Fin 4) (crkey nrkey : DWord) (s : State) : Host.Outcome State Fault Refusal :=
  onBlock (doReservationRegister cmd nsid rrega iekey cptpl crkey nrkey) s

/-- RESERVATION_ACQUIRE (R424). -/
def execReservationAcquire (cmd : CmdRef) (nsid : Nat) (racqa : Fin 8) (rtype : Nat) (crkey prkey : DWord) (s : State) : Host.Outcome State Fault Refusal :=
  onBlock (doReservationAcquire cmd nsid racqa rtype crkey prkey) s

/-- RESERVATION_RELEASE (R424). -/
def execReservationRelease (cmd : CmdRef) (nsid : Nat) (rrela : Fin 8) (rtype : Nat) (crkey : DWord) (s : State) : Host.Outcome State Fault Refusal :=
  onBlock (doReservationRelease cmd nsid rrela rtype crkey) s

/-- RESERVATION_REPORT (R424). -/
def execReservationReport (cmd : CmdRef) (nsid bytes : Nat) (s : State) : Host.Outcome State Fault Refusal :=
  onBlock (doReservationReport cmd nsid bytes) s

/-- GATHER_STRIPE_PROGRAMMED (R382). -/
def execGatherStripeProgrammed (g : Fin 15) (failed : List (Fin 512)) (s : State) : Host.Outcome State Fault Refusal :=
  onStarted (doGatherStripeProgrammed g failed) s

/-- DIRECT_PATH_PROGRAMMED (R383). -/
def execDirectPathProgrammed (die : Fin 512) (failed : Bool) (s : State) : Host.Outcome State Fault Refusal :=
  onStarted (doDirectPathProgrammed die failed) s

/-- FOLD (R384). -/
def execFold (die : Fin 512) (failed : Bool) (s : State) : Host.Outcome State Fault Refusal :=
  onStarted (doFold die failed) s

/-- BAND_CLOSE (R386). -/
def execBandClose (b : Nat) (s : State) : Host.Outcome State Fault Refusal :=
  onStarted (doBandClose b) s

/-- BAND_VERIFY_START (R388). -/
def execBandVerifyStart (b : Nat) (s : State) : Host.Outcome State Fault Refusal :=
  onStarted (doBandVerifyStart b) s

/-- BAND_VERIFY_END (R388). -/
def execBandVerifyEnd (b : Nat) (fails : List (Nat × Nat)) (target : Fin 512) (retired : List (Fin 512)) (s : State) : Host.Outcome State Fault Refusal :=
  onStarted (doBandVerifyEnd b fails target retired) s

/-- BAND_RELEASE (R389). -/
def execBandRelease (b : Nat) (s : State) : Host.Outcome State Fault Refusal :=
  onStarted (doBandRelease b) s

/-- DEFERRED_ERROR_CREATE (R394). -/
def execDeferredErrorCreate (nsid slba nlb : Nat) (s : State) : Host.Outcome State Fault Refusal :=
  onStarted (doDeferredErrorCreate nsid slba nlb) s

/-- CHANNEL_RETRAIN (R375). -/
def execChannelRetrain (c : ChanNo) (s : State) : Host.Outcome State Fault Refusal :=
  onStarted (doChannelRetrain c) s

/-- PATROL_READ (R398). -/
def execPatrolRead (stripe : Bool) (id : Nat) (die : Fin 512) (weak : Bool) (target : Fin 512) (s : State) : Host.Outcome State Fault Refusal :=
  onStarted (doPatrolRead stripe id die weak target) s

/-- READ_DISTURB_LIMIT (R398). -/
def execReadDisturbLimit (stripe : Bool) (id : Nat) (die : Fin 512) (fail : Bool) (target : Fin 512) (s : State) : Host.Outcome State Fault Refusal :=
  onStarted (doReadDisturbLimit stripe id die fail target) s

/-- RETENTION_LIMIT (R398). -/
def execRetentionLimit (stripe : Bool) (id : Nat) (die : Fin 512) (deg : Nat) (target : Fin 512) (s : State) : Host.Outcome State Fault Refusal :=
  onStarted (doRetentionLimit stripe id die deg target) s

/-- DIE_EVACUATION (R399). -/
def execDieEvacuation (d : Fin 512) (target : Fin 512) (s : State) : Host.Outcome State Fault Refusal :=
  onStarted (doDieEvacuation d target) s

/-- DIE_FAILURE (R400). -/
def execDieFailure (d : Fin 512) (target : Fin 512) (s : State) : Host.Outcome State Fault Refusal :=
  onStarted (doDieFailure d target) s

/-- READ_ONLY_ENTRY (R401). -/
def execReadOnlyEntry (pm : Fin 20) (s : State) : Host.Outcome State Fault Refusal :=
  onStarted (doReadOnlyEntry pm) s

/-- HOLDUP_TEST (R411). -/
def execHoldupTest (us : Nat) (s : State) : Host.Outcome State Fault Refusal :=
  onStarted (doHoldupTest us) s

/-- MED_TEST_HOLDUP (R411). -/
def execMedTestHoldup (w : Writer) (guard : Byte) (writeThrough : Bool) (s : State) : Host.Outcome State Fault Refusal :=
  onBlock (doMedTestHoldup w guard writeThrough) s

/-- ONF_DIE_EVACUATE (R418). -/
def execOnfDieEvacuate (w : Writer) (c : ChanNo) (pos : Fin 16) (s : State) : Host.Outcome State Fault Refusal :=
  onBlock (doOnfDieEvacuate w c pos) s

/-- ONF_DIE_RETIRE (R418). -/
def execOnfDieRetire (w : Writer) (c : ChanNo) (pos : Fin 16) (s : State) : Host.Outcome State Fault Refusal :=
  onBlock (doOnfDieRetire w c pos) s

/-- ONF_DIE_TEST (R418). -/
def execOnfDieTest (w : Writer) (c : ChanNo) (pos : Fin 16) (s : State) : Host.Outcome State Fault Refusal :=
  onBlock (doOnfDieTest w c pos) s

/-- SANITIZE (R410). -/
def execSanitize (cmd : CmdRef) (action : Fin 8) (s : State) : Host.Outcome State Fault Refusal :=
  onBlock (doSanitize cmd action) s

/-- FORMAT_NVM (R410). -/
def execFormatNvm (cmd : CmdRef) (nsid : Nat) (lbaf : Fin 16) (ext : Bool) (pi : Fin 8) (pil : Bool) (ses : Fin 8) (s : State) : Host.Outcome State Fault Refusal :=
  onBlock (doFormatNvm cmd nsid lbaf ext pi pil ses) s

/-- NAMESPACE_MANAGEMENT (R409). -/
def execNamespaceManagement (cmd : CmdRef) (sel : Fin 16) (nsid : Nat) (data : List Byte) (s : State) : Host.Outcome State Fault Refusal :=
  onBlock (doNamespaceManagement cmd sel nsid data) s

/-- NAMESPACE_ATTACHMENT (R424). -/
def execNamespaceAttachment (cmd : CmdRef) (sel : Fin 16) (nsid : Nat) (ctrls : List Nat) (s : State) : Host.Outcome State Fault Refusal :=
  onBlock (doNamespaceAttachment cmd sel nsid ctrls) s

/-- SQ_TAIL_DOORBELL (R432). -/
def execSqTailDoorbell (p : PortNo) (y : Fin 4097) (tail : BitVec 16) (s : State) : Host.Outcome State Fault Refusal :=
  onStarted (doSqTailDoorbell p y tail) s

/-- CQ_HEAD_DOORBELL (R428). -/
def execCqHeadDoorbell (p : PortNo) (y : Fin 4097) (head : BitVec 16) (s : State) : Host.Outcome State Fault Refusal :=
  onStarted (doCqHeadDoorbell p y head) s

/-- COMMAND_FETCH (R431). -/
def execCommandFetch (cid : BitVec 16) (op : Byte) (s : State) : Host.Outcome State Fault Refusal :=
  onStarted (doCommandFetch cid op) s

/-- COALESCING_TIMER (R433). -/
def execCoalescingTimer (p : PortNo) (v : Fin 2048) (s : State) : Host.Outcome State Fault Refusal :=
  onStarted (doCoalescingTimer p v) s

/-- CREATE_IO_SQ (R429). -/
def execCreateIoSq (cmd : CmdRef) (qid size cq : Nat) (prio : Fin 4) (s : State) : Host.Outcome State Fault Refusal :=
  onBlock (doCreateIoSq cmd qid size cq prio) s

/-- CREATE_IO_CQ (R429). -/
def execCreateIoCq (cmd : CmdRef) (qid size vector : Nat) (ien : Bool) (s : State) : Host.Outcome State Fault Refusal :=
  onBlock (doCreateIoCq cmd qid size vector ien) s

/-- DELETE_IO_SQ (R429). -/
def execDeleteIoSq (cmd : CmdRef) (qid : Nat) (s : State) : Host.Outcome State Fault Refusal :=
  onBlock (doDeleteIoSq cmd qid) s

/-- DELETE_IO_CQ (R429). -/
def execDeleteIoCq (cmd : CmdRef) (qid : Nat) (s : State) : Host.Outcome State Fault Refusal :=
  onBlock (doDeleteIoCq cmd qid) s

/-- DOORBELL_BUFFER_CONFIG (R424). -/
def execDoorbellBufferConfig (cmd : CmdRef) (s : State) : Host.Outcome State Fault Refusal :=
  onBlock (doDoorbellBufferConfig cmd) s

/-- ASYNC_EVENT_REQUEST (R469). -/
def execAsyncEventRequest (cmd : CmdRef) (s : State) : Host.Outcome State Fault Refusal :=
  onBlock (doAsyncEventRequest cmd) s

/-- IDENTIFY (R460). -/
def execIdentify (cmd : CmdRef) (cns : Byte) (nsid cntid : Nat) (s : State) : Host.Outcome State Fault Refusal :=
  onBlock (doIdentify cmd cns nsid cntid) s

/-- GET_LOG_PAGE (R469). -/
def execGetLogPage (cmd : CmdRef) (lid : Byte) (rae : Bool) (off len : Nat) (s : State) : Host.Outcome State Fault Refusal :=
  onBlock (doGetLogPage cmd lid rae off len) s

/-- SET_FEATURES (R474). -/
def execSetFeatures (cmd : CmdRef) (fid : Byte) (save : Bool) (nsid dw11 dw12 : Nat) (data : List Byte) (s : State) : Host.Outcome State Fault Refusal :=
  onBlock (doSetFeatures cmd fid save nsid dw11 dw12 data) s

/-- GET_FEATURES (R471). -/
def execGetFeatures (cmd : CmdRef) (fid : Byte) (sel : Fin 8) (nsid dw11 : Nat) (s : State) : Host.Outcome State Fault Refusal :=
  onBlock (doGetFeatures cmd fid sel nsid dw11) s

/-- NVME_MI_SEND (R483). -/
def execNvmeMiSend (cmd : CmdRef) (r : MiReq) (s : State) : Host.Outcome State Fault Refusal :=
  onBlock (doNvmeMiSend cmd r) s

/-- NVME_MI_RECEIVE (R483). -/
def execNvmeMiReceive (cmd : CmdRef) (r : MiReq) (s : State) : Host.Outcome State Fault Refusal :=
  onBlock (doNvmeMiReceive cmd r) s

/-- FIRMWARE_IMAGE_DOWNLOAD (R476). -/
def execFirmwareImageDownload (cmd : CmdRef) (off : Nat) (data : List Byte) (s : State) : Host.Outcome State Fault Refusal :=
  onBlock (doFirmwareImageDownload cmd off data) s

/-- FW_COMMIT_REPLACE (R477). -/
def execFwCommitReplace (cmd : CmdRef) (slot : Fin 8) (f : FwFacts) (s : State) : Host.Outcome State Fault Refusal :=
  onBlock (doFwCommitReplace cmd slot f) s

/-- FW_COMMIT_REPLACE_ACTIVATE (R477). -/
def execFwCommitReplaceActivate (cmd : CmdRef) (slot : Fin 8) (f : FwFacts) (s : State) : Host.Outcome State Fault Refusal :=
  onBlock (doFwCommitReplaceActivate cmd slot f) s

/-- FW_COMMIT_ACTIVATE (R477). -/
def execFwCommitActivate (cmd : CmdRef) (slot : Fin 8) (s : State) : Host.Outcome State Fault Refusal :=
  onBlock (doFwCommitActivate cmd slot) s

/-- FW_COMMIT_ACTIVATE_NOW (R478). -/
def execFwCommitActivateNow (cmd : CmdRef) (slot : Fin 8) (f : FwFacts) (s : State) : Host.Outcome State Fault Refusal :=
  onBlock (doFwCommitActivateNow cmd slot f) s

/-- FW_SLOT_WRITE_DONE (R477). -/
def execFwSlotWriteDone (ok : Bool) (s : State) : Host.Outcome State Fault Refusal :=
  onStarted (doFwSlotWriteDone ok) s

/-- FW_ACTIVATION_PROGRESS (R478). -/
def execFwActivationProgress (s : State) : Host.Outcome State Fault Refusal :=
  onStarted (doFwActivationProgress) s

/-- CALIBRATION_WRITE (R481). -/
def execCalibrationWrite (cmd : CmdRef) (data : List Byte) (s : State) : Host.Outcome State Fault Refusal :=
  onBlock (doCalibrationWrite cmd data) s

/-- RESTORE_FACTORY (R481). -/
def execRestoreFactory (cmd : CmdRef) (s : State) : Host.Outcome State Fault Refusal :=
  onBlock (doRestoreFactory cmd) s

/-- CALIBRATION_READ (R481). -/
def execCalibrationRead (cmd : CmdRef) (which : Fin 4) (s : State) : Host.Outcome State Fault Refusal :=
  onBlock (doCalibrationRead cmd which) s

/-- CALIBRATION_APPLY_DONE (R481). -/
def execCalibrationApplyDone (s : State) : Host.Outcome State Fault Refusal :=
  onStarted (doCalibrationApplyDone) s

/-- MM_HANDOVER (R457). -/
def execMmHandover (mismatch : Bool) (s : State) : Host.Outcome State Fault Refusal :=
  onStarted (doMmHandover mismatch) s

/-- TEMP_HISTORY_SAVE (R467). -/
def execTempHistorySave (s : State) : Host.Outcome State Fault Refusal :=
  onStarted (doTempHistorySave) s

/-- MI_READ_DATA_STRUCTURE (R483). -/
def execMiReadDataStructure (tag : Nat) (dtyp : Byte) (s : State) : Host.Outcome State Fault Refusal :=
  onBlock (doMiReadDataStructure tag dtyp) s

/-- MI_SUBSYSTEM_HEALTH_POLL (R483). -/
def execMiSubsystemHealthPoll (tag : Nat) (s : State) : Host.Outcome State Fault Refusal :=
  onBlock (doMiSubsystemHealthPoll tag) s

/-- MI_CONTROLLER_HEALTH_POLL (R483). -/
def execMiControllerHealthPoll (tag : Nat) (s : State) : Host.Outcome State Fault Refusal :=
  onBlock (doMiControllerHealthPoll tag) s

/-- MI_CONFIGURATION_GET (R483). -/
def execMiConfigurationGet (tag : Nat) (id : Byte) (s : State) : Host.Outcome State Fault Refusal :=
  onBlock (doMiConfigurationGet tag id) s

/-- MI_CONFIGURATION_SET (R483). -/
def execMiConfigurationSet (tag : Nat) (id : Byte) (value : Nat) (s : State) : Host.Outcome State Fault Refusal :=
  onBlock (doMiConfigurationSet tag id value) s

/-- MI_VPD_READ (R483). -/
def execMiVpdRead (tag : Nat) (s : State) : Host.Outcome State Fault Refusal :=
  onBlock (doMiVpdRead tag) s

/-- MI_VPD_WRITE (R604). -/
def execMiVpdWrite (tag : Nat) (data : List Byte) (s : State) : Host.Outcome State Fault Refusal :=
  onBlock (doMiVpdWrite tag data) s

/-- MI_TUNNELLED_ADMIN (R483). -/
def execMiTunnelledAdmin (tag : Nat) (p : PortNo) (r : AdminReq) (s : State) : Host.Outcome State Fault Refusal :=
  onBlock (doMiTunnelledAdmin tag p r) s

/-- LANE_LOCK (R488). -/
def execLaneLock (l : LinkNo) (lane : Fin 2) (decodes : Fin 8) (field : Fin 2) (cw0 cw1 cw2 : Fin 64) (s : State) : Host.Outcome State Fault Refusal :=
  onStarted (doLaneLock l lane decodes field cw0 cw1 cw2) s

/-- BLOCK_RECEIVE (R491). -/
def execBlockReceive (l : LinkNo) (lane : Fin 2) (w : CodeWord) (s : State) : Host.Outcome State Fault Refusal :=
  onStarted (doBlockReceive l lane w) s

/-- REPLAY_TIMEOUT (R492). -/
def execReplayTimeout (l : LinkNo) (s : State) : Host.Outcome State Fault Refusal :=
  onStarted (doReplayTimeout l) s

/-- LINK_RETRAIN (R493). -/
def execLinkRetrain (l : LinkNo) (s : State) : Host.Outcome State Fault Refusal :=
  onStarted (doLinkRetrain l) s

/-- LINK_RETRAIN_DONE (R493). -/
def execLinkRetrainDone (l : LinkNo) (pass : Bool) (s : State) : Host.Outcome State Fault Refusal :=
  onStarted (doLinkRetrainDone l pass) s

/-- LINK_DOWN (R505). -/
def execLinkDown (l : LinkNo) (s : State) : Host.Outcome State Fault Refusal :=
  onStarted (doLinkDown l) s

/-- TRAIN_RECORD_RECEIVE (R514). -/
def execTrainRecordReceive (l : LinkNo) (r : TrainRec) (s : State) : Host.Outcome State Fault Refusal :=
  onStarted (doTrainRecordReceive l r) s

/-- LINK_ADMIT (R516). -/
def execLinkAdmit (l : LinkNo) (far : Bool) (s : State) : Host.Outcome State Fault Refusal :=
  onStarted (doLinkAdmit l far) s

/-- FRAME_FORWARD (R498). -/
def execFrameForward (s : State) : Host.Outcome State Fault Refusal :=
  onStarted (doFrameForward) s

/-- PWRITE_FRAME (R519). -/
def execPwriteFrame (s : State) : Host.Outcome State Fault Refusal :=
  onStarted (doPwriteFrame) s

/-- READ_FRAME (R519). -/
def execReadFrame (s : State) : Host.Outcome State Fault Refusal :=
  onStarted (doReadFrame) s

/-- COMPLETION_FRAME (R497). -/
def execCompletionFrame (s : State) : Host.Outcome State Fault Refusal :=
  onStarted (doCompletionFrame) s

/-- COLL_FRAME (R508). -/
def execCollFrame (s : State) : Host.Outcome State Fault Refusal :=
  onStarted (doCollFrame) s

/-- NOTICE_FRAME (R507). -/
def execNoticeFrame (s : State) : Host.Outcome State Fault Refusal :=
  onStarted (doNoticeFrame) s

/-- SACK_FRAME (R501). -/
def execSackFrame (s : State) : Host.Outcome State Fault Refusal :=
  onStarted (doSackFrame) s

/-- GAP_CHECK_FRAME (R504). -/
def execGapCheckFrame (s : State) : Host.Outcome State Fault Refusal :=
  onStarted (doGapCheckFrame) s

/-- JOIN_FRAME (R364). -/
def execJoinFrame (s : State) : Host.Outcome State Fault Refusal :=
  onStarted (doJoinFrame) s

/-- TIME_FRAME (R530). -/
def execTimeFrame (s : State) : Host.Outcome State Fault Refusal :=
  onStarted (doTimeFrame) s

/-- REORDER_HOLD_TIMEOUT (R502). -/
def execReorderHoldTimeout (src : Fin 16384) (vc : Fin 2) (s : State) : Host.Outcome State Fault Refusal :=
  onStarted (doReorderHoldTimeout src vc) s

/-- POISON_REPEAT_TIMER (R503). -/
def execPoisonRepeatTimer (src : Fin 16384) (vc : Fin 2) (s : State) : Host.Outcome State Fault Refusal :=
  onStarted (doPoisonRepeatTimer src vc) s

/-- SACK_TIMER (R504). -/
def execSackTimer (src : Fin 16384) (vc : Fin 2) (s : State) : Host.Outcome State Fault Refusal :=
  onStarted (doSackTimer src vc) s

/-- GAP_CHECK_TIMER (R504). -/
def execGapCheckTimer (dst : Fin 16384) (vc : Fin 3) (s : State) : Host.Outcome State Fault Refusal :=
  onStarted (doGapCheckTimer dst vc) s

/-- LINK_DRAIN_DONE (R517). -/
def execLinkDrainDone (l : LinkNo) (s : State) : Host.Outcome State Fault Refusal :=
  onStarted (doLinkDrainDone l) s

/-- LINK_TEST_END (R517). -/
def execLinkTestEnd (l : LinkNo) (n : Nat) (s : State) : Host.Outcome State Fault Refusal :=
  onStarted (doLinkTestEnd l n) s

/-- AUP_RETRAIN_WRITE (R521). -/
def execAupRetrainWrite (w : Writer) (l : LinkNo) (value : Word) (s : State) : Host.Outcome State Fault Refusal :=
  onBlock (doAupRetrainWrite w l value) s

/-- AUP_ROUTE_ENTRY_WRITE (R522). -/
def execAupRouteEntryWrite (w : Writer) (l : LinkNo) (value : Word) (s : State) : Host.Outcome State Fault Refusal :=
  onBlock (doAupRouteEntryWrite w l value) s

/-- TIME_REQUEST_TIMER (R530). -/
def execTimeRequestTimer (l : LinkNo) (s : State) : Host.Outcome State Fault Refusal :=
  onStarted (doTimeRequestTimer l) s

/-- TIME_EXCHANGE_TIMEOUT (R530). -/
def execTimeExchangeTimeout (l : LinkNo) (s : State) : Host.Outcome State Fault Refusal :=
  onStarted (doTimeExchangeTimeout l) s

/-- ANNOUNCE_TICK (R529). -/
def execAnnounceTick (s : State) : Host.Outcome State Fault Refusal :=
  onStarted (doAnnounceTick) s

/-- DOMAIN_FOUNDING (R528). -/
def execDomainFounding (s : State) : Host.Outcome State Fault Refusal :=
  onStarted (doDomainFounding) s

/-- GM_LOSS_TIMEOUT (R528). -/
def execGmLossTimeout (s : State) : Host.Outcome State Fault Refusal :=
  onStarted (doGmLossTimeout) s

/-- GM_CLAIM (R528). -/
def execGmClaim (s : State) : Host.Outcome State Fault Refusal :=
  onStarted (doGmClaim) s

/-- HOLDOVER_ENTRY (R531). -/
def execHoldoverEntry (s : State) : Host.Outcome State Fault Refusal :=
  onStarted (doHoldoverEntry) s

/-- STU_ADOPT (R528). -/
def execStuAdopt (w : Writer) (value : Word) (s : State) : Host.Outcome State Fault Refusal :=
  onBlock (doStuAdopt w value) s

/-- ACTION_ARM (R537). -/
def execActionArm (w : Writer) (epoch : Bool) (s : State) : Host.Outcome State Fault Refusal :=
  onBlock (doActionArm w epoch) s

/-- ACTION_CANCEL (R538). -/
def execActionCancel (w : Writer) (s : State) : Host.Outcome State Fault Refusal :=
  onBlock (doActionCancel w) s

/-- ACTION_FIRE (R536). -/
def execActionFire (n : Fin 64) (s : State) : Host.Outcome State Fault Refusal :=
  onStarted (doActionFire n) s

/-- EPOCH_SCHEDULE_WRITE (R539). -/
def execEpochScheduleWrite (w : Writer) (origin : Bool) (lo : Option Word) (v : Word) (s : State) : Host.Outcome State Fault Refusal :=
  onBlock (doEpochScheduleWrite w origin lo v) s

/-- EPOCH_NEXT_WRITE (R540). -/
def execEpochNextWrite (w : Writer) (lo : Option Word) (hi : Word) (s : State) : Host.Outcome State Fault Refusal :=
  onBlock (doEpochNextWrite w lo hi) s

/-- CHK_START (R548). -/
def execChkStart (w : Writer) (u : ChkNo) (guard : Byte) (scan : Bool) (s : State) : Host.Outcome State Fault Refusal :=
  onBlock (doChkStart w u guard scan) s

/-- CHK_SCAN (R551). -/
def execChkScan (w : Writer) (u : ChkNo) (guard : Byte) (s : State) : Host.Outcome State Fault Refusal :=
  onBlock (doChkScan w u guard) s

/-- CHK_ABORT (R553). -/
def execChkAbort (w : Writer) (u : ChkNo) (guard : Byte) (taken : Nat) (s : State) : Host.Outcome State Fault Refusal :=
  onBlock (doChkAbort w u guard taken) s

/-- CHK_FINISH (R553). -/
def execChkFinish (w : Writer) (u : ChkNo) (guard : Byte) (s : State) : Host.Outcome State Fault Refusal :=
  onBlock (doChkFinish w u guard) s

/-- CHK_DATA8 (R550). -/
def execChkData8 (w : Writer) (u : ChkNo) (value : Word) (s : State) : Host.Outcome State Fault Refusal :=
  onBlock (doChkData8 w u value) s

/-- CHK_DATA16 (R550). -/
def execChkData16 (w : Writer) (u : ChkNo) (value : Word) (s : State) : Host.Outcome State Fault Refusal :=
  onBlock (doChkData16 w u value) s

/-- CHK_DATA32 (R550). -/
def execChkData32 (w : Writer) (u : ChkNo) (value : Word) (s : State) : Host.Outcome State Fault Refusal :=
  onBlock (doChkData32 w u value) s

/-- CHK_DATA64 (R550). -/
def execChkData64 (w : Writer) (u : ChkNo) (lo : Option Word) (hi : Word) (s : State) : Host.Outcome State Fault Refusal :=
  onBlock (doChkData64 w u lo hi) s

/-- CHK_SCAN_DONE (R553). -/
def execChkScanDone (u : ChkNo) (s : State) : Host.Outcome State Fault Refusal :=
  onStarted (doChkScanDone u) s

/-- CHK_SCAN_FAILURE (R552). -/
def execChkScanFailure (u : ChkNo) (bad : List Nat) (s : State) : Host.Outcome State Fault Refusal :=
  onStarted (doChkScanFailure u bad) s

/-- DM_WRITE_BACK (R559). -/
def execDmWriteBack (line : Nat) (s : State) : Host.Outcome State Fault Refusal :=
  onStarted (doDmWriteBack line) s

/-- CHK_DM_MARK_WRITE (R557). -/
def execChkDmMarkWrite (w : Writer) (u : ChkNo) (value : Word) (s : State) : Host.Outcome State Fault Refusal :=
  onBlock (doChkDmMarkWrite w u value) s

/-- CE_DIES_READ (R577). -/
def execCeDiesRead (w : Writer) (u : ChkNo) (s : State) : Host.Outcome State Fault Refusal :=
  onBlock (doCeDiesRead w u) s

/-- SRAM_WRITE_BACK (R564). -/
def execSramWriteBack (word : Nat) (s : State) : Host.Outcome State Fault Refusal :=
  onStarted (doSramWriteBack word) s

/-- STATE_PARITY_ERROR (R567). -/
def execStateParityError (c : CoreNo) (s : State) : Host.Outcome State Fault Refusal :=
  onStarted (doStateParityError c) s

/-- DM_SCRUB_READ (R568). -/
def execDmScrubRead (k : StackNo) (n : Fin 858993459) (fresh : List (Fin 40)) (s : State) : Host.Outcome State Fault Refusal :=
  onStarted (doDmScrubRead k n fresh) s

/-- SRAM_SCRUB_READ (R569). -/
def execSramScrubRead (cluster : Bool) (unit : Fin 12288) (word : Fin 2097152) (fresh : Fin 3) (s : State) : Host.Outcome State Fault Refusal :=
  onStarted (doSramScrubRead cluster unit word fresh) s

/-- CFL_PROGRAM_ROW (R586). -/
def execCflProgramRow (w : Writer) (bank : Fin 2) (sector : Fin 1024) (row : Fin 256) (s : State) : Host.Outcome State Fault Refusal :=
  onBlock (doCflProgramRow w bank sector row) s

/-- CFL_ERASE_SECTOR (R586). -/
def execCflEraseSector (w : Writer) (bank : Fin 2) (sector : Fin 1024) (s : State) : Host.Outcome State Fault Refusal :=
  onBlock (doCflEraseSector w bank sector) s

/-- CFL_VERIFY_SECTOR (R592). -/
def execCflVerifySector (w : Writer) (bank : Fin 2) (sector : Fin 1024) (s : State) : Host.Outcome State Fault Refusal :=
  onBlock (doCflVerifySector w bank sector) s

/-- CFL_OP_COMPLETE (R586). -/
def execCflOpComplete (pass : Bool) (s : State) : Host.Outcome State Fault Refusal :=
  onStarted (doCflOpComplete pass) s

/-- CFL_SUSPEND (R589). -/
def execCflSuspend (bank : Fin 2) (s : State) : Host.Outcome State Fault Refusal :=
  onStarted (doCflSuspend bank) s

/-- CFL_RESUME (R589). -/
def execCflResume (s : State) : Host.Outcome State Fault Refusal :=
  onStarted (doCflResume) s

/-- CFL_RDATA_READ (R607). -/
def execCflRdataRead (w : Writer) (wide : Bool) (grade : Fin 3) (s : State) : Host.Outcome State Fault Refusal :=
  onBlock (doCflRdataRead w wide grade) s

/-- MARGIN_PATROL (R593). -/
def execMarginPatrol (fails : List (Fin 2048)) (s : State) : Host.Outcome State Fault Refusal :=
  onStarted (doMarginPatrol fails) s

/-- OPT_UNLOCK (R598). -/
def execOptUnlock (w : Writer) (guard : Byte) (s : State) : Host.Outcome State Fault Refusal :=
  onBlock (doOptUnlock w guard) s

/-- OPT_LOCK (R599). -/
def execOptLock (w : Writer) (guard : Byte) (s : State) : Host.Outcome State Fault Refusal :=
  onBlock (doOptLock w guard) s

/-- OPT_LOAD_STAGE (R603). -/
def execOptLoadStage (w : Writer) (guard : Byte) (s : State) : Host.Outcome State Fault Refusal :=
  onBlock (doOptLoadStage w guard) s

/-- OPT_COMMIT (R603). -/
def execOptCommit (w : Writer) (guard : Byte) (s : State) : Host.Outcome State Fault Refusal :=
  onBlock (doOptCommit w guard) s

/-- OPT_SET_PASSWORD (R600). -/
def execOptSetPassword (w : Writer) (guard : Byte) (s : State) : Host.Outcome State Fault Refusal :=
  onBlock (doOptSetPassword w guard) s

/-- OPT_STAGE_WRITE (R603). -/
def execOptStageWrite (w : Writer) (n : Fin 128) (value : Word) (s : State) : Host.Outcome State Fault Refusal :=
  onBlock (doOptStageWrite w n value) s

/-- OPT_COMMIT_DONE (R603). -/
def execOptCommitDone (s : State) : Host.Outcome State Fault Refusal :=
  onStarted (doOptCommitDone) s

/-- MAIN_VALID (R659). -/
def execMainValid (s : State) : Host.Outcome State Fault Refusal :=
  onBlock (doMainValid) s

/-- MAIN_LOSS (R412). -/
def execMainLoss (holds : Bool) (s : State) : Host.Outcome State Fault Refusal :=
  onBlock (doMainLoss holds) s

/-- AUX_APPLIED (R662). -/
def execAuxApplied (s : State) : Host.Outcome State Fault Refusal :=
  onBlock (doAuxApplied) s

/-- AUX_LOSS (R662). -/
def execAuxLoss (s : State) : Host.Outcome State Fault Refusal :=
  onBlock (doAuxLoss) s

/-- MRST_ASSERT (R613). -/
def execMrstAssert (s : State) : Host.Outcome State Fault Refusal :=
  onBlock (doMrstAssert) s

/-- HUB_RESET_CTL_WRITE (R624). -/
def execHubResetCtlWrite (w : Writer) (value : Word) (s : State) : Host.Outcome State Fault Refusal :=
  onBlock (doHubResetCtlWrite w value) s

/-- HUB_WATCHDOG_EXPIRY (R612). -/
def execHubWatchdogExpiry (s : State) : Host.Outcome State Fault Refusal :=
  onBlock (doHubWatchdogExpiry) s

/-- MEDIA_READY (R616). -/
def execMediaReady (s : State) : Host.Outcome State Fault Refusal :=
  onBlock (doMediaReady) s

/-- COMPUTE_READY (R619). -/
def execComputeReady (t : SelfTest) (s : State) : Host.Outcome State Fault Refusal :=
  onBlock (doComputeReady t) s

/-- PORT_RESET (R423). -/
def execPortReset (p : PortNo) (kind : PortResetKind) (s : State) : Host.Outcome State Fault Refusal :=
  onBlock (doPortReset p kind) s

/-- CONTROLLER_RESET (R423). -/
def execControllerReset (p : PortNo) (s : State) : Host.Outcome State Fault Refusal :=
  onBlock (doControllerReset p) s

/-- CONTROLLER_ENABLE (R619). -/
def execControllerEnable (p : PortNo) (asq acq : Fin 4097) (s : State) : Host.Outcome State Fault Refusal :=
  onBlock (doControllerEnable p asq acq) s

/-- PMCSR_WRITE (R456). -/
def execPmcsrWrite (p : PortNo) (d : PowerD) (pmeEn clear : Bool) (s : State) : Host.Outcome State Fault Refusal :=
  onStarted (doPmcsrWrite p d pmeEn clear) s

/-- WAKE_ARBITRATION (R456). -/
def execWakeArbitration (s : State) : Host.Outcome State Fault Refusal :=
  onStarted (doWakeArbitration) s

/-- PME_RESEND (R456). -/
def execPmeResend (p : PortNo) (s : State) : Host.Outcome State Fault Refusal :=
  onStarted (doPmeResend p) s

/-- RESUME_COMPLETE (R456). -/
def execResumeComplete (s : State) : Host.Outcome State Fault Refusal :=
  onStarted (doResumeComplete) s

/-- SERVICE_FENCE (R630). -/
def execServiceFence (w : Writer) (p : PageNo) (guard : Byte) (s : State) : Host.Outcome State Fault Refusal :=
  onBlock (doServiceFence w p guard) s

/-- SERVICE_TEST (R637). -/
def execServiceTest (w : Writer) (p : PageNo) (guard : Byte) (s : State) : Host.Outcome State Fault Refusal :=
  onBlock (doServiceTest w p guard) s

/-- SERVICE_READMIT (R634). -/
def execServiceReadmit (w : Writer) (p : PageNo) (guard : Byte) (s : State) : Host.Outcome State Fault Refusal :=
  onBlock (doServiceReadmit w p guard) s

/-- SERVICE_RETIRE (R626). -/
def execServiceRetire (w : Writer) (p : PageNo) (guard : Byte) (s : State) : Host.Outcome State Fault Refusal :=
  onBlock (doServiceRetire w p guard) s

/-- UNIT_FAULT_FENCE (R629). -/
def execUnitFaultFence (p : PageNo) (target : Fin 512) (s : State) : Host.Outcome State Fault Refusal :=
  onStarted (doUnitFaultFence p target) s

/-- DRAIN_DONE (R630). -/
def execDrainDone (p : PageNo) (s : State) : Host.Outcome State Fault Refusal :=
  onStarted (doDrainDone p) s

/-- CORE_HANDOVER_COPY (R631). -/
def execCoreHandoverCopy (c : CoreNo) (s : State) : Host.Outcome State Fault Refusal :=
  onStarted (doCoreHandoverCopy c) s

/-- CORE_HANDOVER_DONE (R631). -/
def execCoreHandoverDone (c : CoreNo) (s : State) : Host.Outcome State Fault Refusal :=
  onStarted (doCoreHandoverDone c) s

/-- LEHR_DONE (R634). -/
def execLehrDone (p : PageNo) (pass : Bool) (s : State) : Host.Outcome State Fault Refusal :=
  onStarted (doLehrDone p pass) s

/-- TEST_DONE (R637). -/
def execTestDone (p : PageNo) (pass : Bool) (s : State) : Host.Outcome State Fault Refusal :=
  onStarted (doTestDone p pass) s

/-- REMOVE_PREPARE (R641). -/
def execRemovePrepare (w : Writer) (key : Half) (s : State) : Host.Outcome State Fault Refusal :=
  onBlock (doRemovePrepare w key) s

/-- REMOVE_CANCEL (R641). -/
def execRemoveCancel (w : Writer) (key : Half) (s : State) : Host.Outcome State Fault Refusal :=
  onBlock (doRemoveCancel w key) s

/-- REMOVAL_READY (R641). -/
def execRemovalReady (s : State) : Host.Outcome State Fault Refusal :=
  onBlock (doRemovalReady) s

/-- REMOVE_REQ_ASSERT (R660). -/
def execRemoveReqAssert (s : State) : Host.Outcome State Fault Refusal :=
  onBlock (doRemoveReqAssert) s

/-- HUB_MODE_POWER_WRITE (R645). -/
def execHubModePowerWrite (w : Writer) (value : Word) (s : State) : Host.Outcome State Fault Refusal :=
  onBlock (doHubModePowerWrite w value) s

/-- HUB_MODE_GATHER_WRITE (R646). -/
def execHubModeGatherWrite (w : Writer) (value : Word) (s : State) : Host.Outcome State Fault Refusal :=
  onBlock (doHubModeGatherWrite w value) s

/-- GATHER_RESIZE_STEP (R646). -/
def execGatherResizeStep (s : State) : Host.Outcome State Fault Refusal :=
  onStarted (doGatherResizeStep) s

/-- JUNCTION_READING (R664). -/
def execJunctionReading (d : Fin 5) (deg mean : Int) (sensor : Fin 16) (s : State) : Host.Outcome State Fault Refusal :=
  onBlock (doJunctionReading d deg mean sensor) s

/-- BOARD_READING (R664). -/
def execBoardReading (b : BoardTemp) (s : State) : Host.Outcome State Fault Refusal :=
  onBlock (doBoardReading b) s

/-- OUTLET_CAP_RELEASE (R665). -/
def execOutletCapRelease (s : State) : Host.Outcome State Fault Refusal :=
  onBlock (doOutletCapRelease) s

/-- LEAK_SENSE (R666). -/
def execLeakSense (wet : Bool) (s : State) : Host.Outcome State Fault Refusal :=
  onBlock (doLeakSense wet) s

/-- MRST_RELEASE (R613). -/
def execMrstRelease (s : State) : Host.Outcome State Fault Refusal :=
  onBlock (doMrstRelease) s

/-- PERST_RELEASE (R610). -/
def execPerstRelease (p : PortNo) (s : State) : Host.Outcome State Fault Refusal :=
  onBlock (doPerstRelease p) s

/-- PCIE_LINK_UP (R421). -/
def execPcieLinkUp (p : PortNo) (rate : Fin 7) (width : Fin 17) (flit : Bool) (s : State) : Host.Outcome State Fault Refusal :=
  onBlock (doPcieLinkUp p rate width flit) s

/-- MANAGER_START_DONE (R614). -/
def execManagerStartDone (f : BootFacts) (s : State) : Host.Outcome State Fault Refusal :=
  onBlock (doManagerStartDone f) s

/-- STANDBY_SELF_TEST_DONE (R457). -/
def execStandbySelfTestDone (pass : Bool) (s : State) : Host.Outcome State Fault Refusal :=
  onStarted (doStandbySelfTestDone pass) s

/-- RECLAIM (R397). -/
def execReclaim (b : Nat) (target : Fin 512) (failed : List (Fin 512)) (pm : Fin 1001) (wearMax wearMean : BitVec 16) (s : State) : Host.Outcome State Fault Refusal :=
  onStarted (doReclaim b target failed pm wearMax wearMean) s

/-- FENCED_READ_TIMEOUT (R395). -/
def execFencedReadTimeout (cmd : CmdRef) (s : State) : Host.Outcome State Fault Refusal :=
  onBlock (doFencedReadTimeout cmd) s

/-- JOIN_TIMEOUT (R364). -/
def execJoinTimeout (x : CtxNo) (s : State) : Host.Outcome State Fault Refusal :=
  onStarted (doJoinTimeout x) s

/-- TIMED_ACTION_DUE (R454). -/
def execTimedActionDue (s : State) : Host.Outcome State Fault Refusal :=
  onStarted (doTimedActionDue) s

/-- DEVICE_MEMORY_LINE_RETURN (R675). -/
def execDeviceMemoryLineReturn (c : CoreNo) (id : Nat) (s : State) : Host.Outcome State Fault Refusal :=
  onBlock (doDeviceMemoryLineReturn c id) s

end Sys2Proof.Machine
end

