-- ==== Sys2Proof/Machine/Dispatch.lean ====
section
/-! DEFINITION. exec: the effect of one command on everything but the queue; one arm per constructor of Instr. -/
namespace Sys2Proof.Machine

def exec (i : Instr) (s : State) : Host.Outcome State Fault Refusal :=
  match i with
  | .registerWrite w p off size value => Sys2Proof.Machine.execRegisterWrite w p off size value s
  | .ownerWrite w p value => Sys2Proof.Machine.execOwnerWrite w p value s
  | .errFirstRead w p => Sys2Proof.Machine.execErrFirstRead w p s
  | .counterLowRead w p off size => Sys2Proof.Machine.execCounterLowRead w p off size s
  | .bar4Read p o n => Sys2Proof.Machine.execBar4Read p o n s
  | .bar4Write p o b => Sys2Proof.Machine.execBar4Write p o b s
  | .epochBoundary => Sys2Proof.Machine.execEpochBoundary s
  | .rgnShadowLatch r => Sys2Proof.Machine.execRgnShadowLatch r s
  | .coreHalt w c guard => Sys2Proof.Machine.execCoreHalt w c guard s
  | .coreResume w c guard => Sys2Proof.Machine.execCoreResume w c guard s
  | .zeroiseComplete p slice ok => Sys2Proof.Machine.execZeroiseComplete p slice ok s
  | .cluSliceOwnerWrite w g j value => Sys2Proof.Machine.execCluSliceOwnerWrite w g j value s
  | .paceWindowEnd r micro steps => Sys2Proof.Machine.execPaceWindowEnd r micro steps s
  | .fabricTransferArrival x rank id => Sys2Proof.Machine.execFabricTransferArrival x rank id s
  | .fabricTransferError x rank id => Sys2Proof.Machine.execFabricTransferError x rank id s
  | .mergeReady x group n => Sys2Proof.Machine.execMergeReady x group n s
  | .mergeComplete x group n => Sys2Proof.Machine.execMergeComplete x group n s
  | .powerGovernorAdjust d mv => Sys2Proof.Machine.execPowerGovernorAdjust d mv s
  | .admissionGrant c => Sys2Proof.Machine.execAdmissionGrant c s
  | .arrayIssuePoint c => Sys2Proof.Machine.execArrayIssuePoint c s
  | .arrayResumablePoint c => Sys2Proof.Machine.execArrayResumablePoint c s
  | .arrayResultReady c => Sys2Proof.Machine.execArrayResultReady c s
  | .arrayRampDownEnd c => Sys2Proof.Machine.execArrayRampDownEnd c s
  | .add c x => Sys2Proof.Machine.execAdd c x s
  | .sub c x => Sys2Proof.Machine.execSub c x s
  | .mul c x => Sys2Proof.Machine.execMul c x s
  | .mulhs c x => Sys2Proof.Machine.execMulhs c x s
  | .mulhu c x => Sys2Proof.Machine.execMulhu c x s
  | .divs c x => Sys2Proof.Machine.execDivs c x s
  | .divu c x => Sys2Proof.Machine.execDivu c x s
  | .rems c x => Sys2Proof.Machine.execRems c x s
  | .remu c x => Sys2Proof.Machine.execRemu c x s
  | .andOp c x => Sys2Proof.Machine.execAnd c x s
  | .orOp c x => Sys2Proof.Machine.execOr c x s
  | .xorOp c x => Sys2Proof.Machine.execXor c x s
  | .shl c x => Sys2Proof.Machine.execShl c x s
  | .shr c x => Sys2Proof.Machine.execShr c x s
  | .sra c x => Sys2Proof.Machine.execSra c x s
  | .minOp c x => Sys2Proof.Machine.execMin c x s
  | .maxOp c x => Sys2Proof.Machine.execMax c x s
  | .minu c x => Sys2Proof.Machine.execMinu c x s
  | .maxu c x => Sys2Proof.Machine.execMaxu c x s
  | .slt c x => Sys2Proof.Machine.execSlt c x s
  | .sltu c x => Sys2Proof.Machine.execSltu c x s
  | .seq c x => Sys2Proof.Machine.execSeq c x s
  | .popc c x => Sys2Proof.Machine.execPopc c x s
  | .clz c x => Sys2Proof.Machine.execClz c x s
  | .addi c x => Sys2Proof.Machine.execAddi c x s
  | .andi c x => Sys2Proof.Machine.execAndi c x s
  | .ori c x => Sys2Proof.Machine.execOri c x s
  | .xori c x => Sys2Proof.Machine.execXori c x s
  | .slti c x => Sys2Proof.Machine.execSlti c x s
  | .lui c x => Sys2Proof.Machine.execLui c x s
  | .shifti c x => Sys2Proof.Machine.execShifti c x s
  | .nop c x => Sys2Proof.Machine.execNop c x s
  | .endOp c x => Sys2Proof.Machine.execEnd c x s
  | .endDone c => Sys2Proof.Machine.execEndDone c s
  | .trap c x => Sys2Proof.Machine.execTrap c x s
  | .mfs c x => Sys2Proof.Machine.execMfs c x s
  | .mts c x => Sys2Proof.Machine.execMts c x s
  | .qcap c x => Sys2Proof.Machine.execQcap c x s
  | .ld c size x => Sys2Proof.Machine.execLd c size x s
  | .st c size x => Sys2Proof.Machine.execSt c size x s
  | .vld c x => Sys2Proof.Machine.execVld c x s
  | .vst c x => Sys2Proof.Machine.execVst c x s
  | .loop c x => Sys2Proof.Machine.execLoop c x s
  | .loopi c x => Sys2Proof.Machine.execLoopi c x s
  | .bz c x => Sys2Proof.Machine.execBz c x s
  | .bnz c x => Sys2Proof.Machine.execBnz c x s
  | .bltz c x => Sys2Proof.Machine.execBltz c x s
  | .bgez c x => Sys2Proof.Machine.execBgez c x s
  | .bany c x => Sys2Proof.Machine.execBany c x s
  | .bnone c x => Sys2Proof.Machine.execBnone c x s
  | .b c x => Sys2Proof.Machine.execB c x s
  | .call c x => Sys2Proof.Machine.execCall c x s
  | .jr c x => Sys2Proof.Machine.execJr c x s
  | .jalr c x => Sys2Proof.Machine.execJalr c x s
  | .aset c x => Sys2Proof.Machine.execAset c x s
  | .astride c x => Sys2Proof.Machine.execAstride c x s
  | .alstep c x => Sys2Proof.Machine.execAlstep c x s
  | .aget c x => Sys2Proof.Machine.execAget c x s
  | .aadd c x => Sys2Proof.Machine.execAadd c x s
  | .vadd c x => Sys2Proof.Machine.execVadd c x s
  | .vsub c x => Sys2Proof.Machine.execVsub c x s
  | .vmul c x => Sys2Proof.Machine.execVmul c x s
  | .vmin c x => Sys2Proof.Machine.execVmin c x s
  | .vmax c x => Sys2Proof.Machine.execVmax c x s
  | .vabs c x => Sys2Proof.Machine.execVabs c x s
  | .vneg c x => Sys2Proof.Machine.execVneg c x s
  | .vrcp c x => Sys2Proof.Machine.execVrcp c x s
  | .vrsq c x => Sys2Proof.Machine.execVrsq c x s
  | .vexp2 c x => Sys2Proof.Machine.execVexp2 c x s
  | .vlog2 c x => Sys2Proof.Machine.execVlog2 c x s
  | .vtanh c x => Sys2Proof.Machine.execVtanh c x s
  | .vsel c x => Sys2Proof.Machine.execVsel c x s
  | .vrsum c x => Sys2Proof.Machine.execVrsum c x s
  | .vrmax c x => Sys2Proof.Machine.execVrmax c x s
  | .vbcast c x => Sys2Proof.Machine.execVbcast c x s
  | .vextr c x => Sys2Proof.Machine.execVextr c x s
  | .viadd c x => Sys2Proof.Machine.execViadd c x s
  | .visub c x => Sys2Proof.Machine.execVisub c x s
  | .vimul c x => Sys2Proof.Machine.execVimul c x s
  | .vand c x => Sys2Proof.Machine.execVand c x s
  | .vor c x => Sys2Proof.Machine.execVor c x s
  | .vxor c x => Sys2Proof.Machine.execVxor c x s
  | .vshl c x => Sys2Proof.Machine.execVshl c x s
  | .vshr c x => Sys2Proof.Machine.execVshr c x s
  | .vcvtif c x => Sys2Proof.Machine.execVcvtif c x s
  | .vcvtfi c x => Sys2Proof.Machine.execVcvtfi c x s
  | .vnarrow c x => Sys2Proof.Machine.execVnarrow c x s
  | .vwidenl c x => Sys2Proof.Machine.execVwidenl c x s
  | .vwidenh c x => Sys2Proof.Machine.execVwidenh c x s
  | .vfma c x => Sys2Proof.Machine.execVfma c x s
  | .vcmp c fn x => Sys2Proof.Machine.execVcmp c fn x s
  | .vgth c x => Sys2Proof.Machine.execVgth c x s
  | .vsct c x => Sys2Proof.Machine.execVsct c x s
  | .pand c x => Sys2Proof.Machine.execPand c x s
  | .por c x => Sys2Proof.Machine.execPor c x s
  | .pxor c x => Sys2Proof.Machine.execPxor c x s
  | .pandn c x => Sys2Proof.Machine.execPandn c x s
  | .pnot c x => Sys2Proof.Machine.execPnot c x s
  | .pmovs c x => Sys2Proof.Machine.execPmovs c x s
  | .smovp c x => Sys2Proof.Machine.execSmovp c x s
  | .pcnt c x => Sys2Proof.Machine.execPcnt c x s
  | .pfirst c x => Sys2Proof.Machine.execPfirst c x s
  | .tld c x => Sys2Proof.Machine.execTld c x s
  | .tst c x => Sys2Proof.Machine.execTst c x s
  | .tmov c x => Sys2Proof.Machine.execTmov c x s
  | .taddr c x => Sys2Proof.Machine.execTaddr c x s
  | .tsetf c x => Sys2Proof.Machine.execTsetf c x s
  | .tgetf c x => Sys2Proof.Machine.execTgetf c x s
  | .amul c x => Sys2Proof.Machine.execAmul c x s
  | .range c x => Sys2Proof.Machine.execRange c x s
  | .qconv c x => Sys2Proof.Machine.execQconv c x s
  | .dqconv c x => Sys2Proof.Machine.execDqconv c x s
  | .tpack c x => Sys2Proof.Machine.execTpack c x s
  | .longIssuePoint c => Sys2Proof.Machine.execLongIssuePoint c s
  | .longResumablePoint c => Sys2Proof.Machine.execLongResumablePoint c s
  | .longComplete c => Sys2Proof.Machine.execLongComplete c s
  | .move c x => Sys2Proof.Machine.execMove c x s
  | .mrd c x => Sys2Proof.Machine.execMrd c x s
  | .mwr c x => Sys2Proof.Machine.execMwr c x s
  | .postedAccept c => Sys2Proof.Machine.execPostedAccept c s
  | .postedFinish x rank id bad => Sys2Proof.Machine.execPostedFinish x rank id bad s
  | .postedFailure x rank id kind block => Sys2Proof.Machine.execPostedFailure x rank id kind block s
  | .selt c x => Sys2Proof.Machine.execSelt c x s
  | .topk c x => Sys2Proof.Machine.execTopk c x s
  | .pqload c x => Sys2Proof.Machine.execPqload c x s
  | .pqscan c x => Sys2Proof.Machine.execPqscan c x s
  | .chkv c x => Sys2Proof.Machine.execChkv c x s
  | .cred c x => Sys2Proof.Machine.execCred c x s
  | .cbcast c x => Sys2Proof.Machine.execCbcast c x s
  | .ccat c x => Sys2Proof.Machine.execCcat c x s
  | .ctopk c x => Sys2Proof.Machine.execCtopk c x s
  | .cbar c x => Sys2Proof.Machine.execCbar c x s
  | .collectiveFinish x rank id => Sys2Proof.Machine.execCollectiveFinish x rank id s
  | .collectiveMemberLost x rank id remote => Sys2Proof.Machine.execCollectiveMemberLost x rank id remote s
  | .twait c x => Sys2Proof.Machine.execTwait c x s
  | .twaitDone c => Sys2Proof.Machine.execTwaitDone c s
  | .tat c x => Sys2Proof.Machine.execTat c x s
  | .timedLaunchTime c => Sys2Proof.Machine.execTimedLaunchTime c s
  | .stopPreempt c => Sys2Proof.Machine.execStopPreempt c s
  | .stopTeardown c => Sys2Proof.Machine.execStopTeardown c s
  | .coreStopDone c => Sys2Proof.Machine.execCoreStopDone c s
  | .caravanFillStart x => Sys2Proof.Machine.execCaravanFillStart x s
  | .copyResident x tid cluster place => Sys2Proof.Machine.execCopyResident x tid cluster place s
  | .gateReach c => Sys2Proof.Machine.execGateReach c s
  | .layerDeadline x layer iter => Sys2Proof.Machine.execLayerDeadline x layer iter s
  | .fillFailed x tid cluster place kind => Sys2Proof.Machine.execFillFailed x tid cluster place kind s
  | .decisionDelivery c => Sys2Proof.Machine.execDecisionDelivery c s
  | .copyRelease x tid cluster place => Sys2Proof.Machine.execCopyRelease x tid cluster place s
  | .devmemPageZeroise p => Sys2Proof.Machine.execDevmemPageZeroise p s
  | .tieLeadMaxWrite w d value => Sys2Proof.Machine.execTieLeadMaxWrite w d value s
  | .dmmTempReading k deg => Sys2Proof.Machine.execDmmTempReading k deg s
  | .contextOpen cmd data => Sys2Proof.Machine.execContextOpen cmd data s
  | .openPagesZeroised x => Sys2Proof.Machine.execOpenPagesZeroised x s
  | .openTimeout x => Sys2Proof.Machine.execOpenTimeout x s
  | .compute cmd x data => Sys2Proof.Machine.execCompute cmd x data s
  | .runPlacement => Sys2Proof.Machine.execRunPlacement s
  | .dspQuantumExpiry => Sys2Proof.Machine.execDspQuantumExpiry s
  | .dspAgeLimitReached x => Sys2Proof.Machine.execDspAgeLimitReached x s
  | .runStart x => Sys2Proof.Machine.execRunStart x s
  | .runSaveDone x => Sys2Proof.Machine.execRunSaveDone x s
  | .runRestoreDone x => Sys2Proof.Machine.execRunRestoreDone x s
  | .runTeardown x byMm => Sys2Proof.Machine.execRunTeardown x byMm s
  | .runComplete x => Sys2Proof.Machine.execRunComplete x s
  | .runAbort cmd x => Sys2Proof.Machine.execRunAbort cmd x s
  | .contextClose cmd x force => Sys2Proof.Machine.execContextClose cmd x force s
  | .join cmd x id count index => Sys2Proof.Machine.execJoin cmd x id count index s
  | .contextControl cmd x p off write value => Sys2Proof.Machine.execContextControl cmd x p off write value s
  | .stagingAllocate cmd n => Sys2Proof.Machine.execStagingAllocate cmd n s
  | .stagingRelease cmd first n => Sys2Proof.Machine.execStagingRelease cmd first n s
  | .stagingMap cmd entries => Sys2Proof.Machine.execStagingMap cmd entries s
  | .abortByTag cmd sqid cid => Sys2Proof.Machine.execAbortByTag cmd sqid cid s
  | .abort cmd sqid cid => Sys2Proof.Machine.execAbort cmd sqid cid s
  | .indexCreate cmd nsid data => Sys2Proof.Machine.execIndexCreate cmd nsid data s
  | .indexAttach cmd nsid be gran ncores window batchMax => Sys2Proof.Machine.execIndexAttach cmd nsid be gran ncores window batchMax s
  | .indexDetach cmd x => Sys2Proof.Machine.execIndexDetach cmd x s
  | .search cmd x data => Sys2Proof.Machine.execSearch cmd x data s
  | .searchWindowClose x => Sys2Proof.Machine.execSearchWindowClose x s
  | .windowScanEnd x => Sys2Proof.Machine.execWindowScanEnd x s
  | .insert cmd x data => Sys2Proof.Machine.execInsert cmd x data s
  | .delete cmd x ids => Sys2Proof.Machine.execDelete cmd x ids s
  | .merge cmd x => Sys2Proof.Machine.execMerge cmd x s
  | .listMergeStart x l => Sys2Proof.Machine.execListMergeStart x l s
  | .listMergeComplete x l => Sys2Proof.Machine.execListMergeComplete x l s
  | .versionRelease x => Sys2Proof.Machine.execVersionRelease x s
  | .rebuild cmd x nlist m codeBits sample iterations seed => Sys2Proof.Machine.execRebuild cmd x nlist m codeBits sample iterations seed s
  | .rebuildPromotion x => Sys2Proof.Machine.execRebuildPromotion x s
  | .read cmd a pr d => Sys2Proof.Machine.execRead cmd a pr d s
  | .write cmd a pr data => Sys2Proof.Machine.execWrite cmd a pr data s
  | .writeZeroes cmd a pr deac full => Sys2Proof.Machine.execWriteZeroes cmd a pr deac full s
  | .datasetManagement cmd nsid deallocate ranges => Sys2Proof.Machine.execDatasetManagement cmd nsid deallocate ranges s
  | .compare cmd a pr d data => Sys2Proof.Machine.execCompare cmd a pr d data s
  | .verify cmd a pr d => Sys2Proof.Machine.execVerify cmd a pr d s
  | .flush cmd nsid => Sys2Proof.Machine.execFlush cmd nsid s
  | .reservationRegister cmd nsid rrega iekey cptpl crkey nrkey => Sys2Proof.Machine.execReservationRegister cmd nsid rrega iekey cptpl crkey nrkey s
  | .reservationAcquire cmd nsid racqa rtype crkey prkey => Sys2Proof.Machine.execReservationAcquire cmd nsid racqa rtype crkey prkey s
  | .reservationRelease cmd nsid rrela rtype crkey => Sys2Proof.Machine.execReservationRelease cmd nsid rrela rtype crkey s
  | .reservationReport cmd nsid bytes => Sys2Proof.Machine.execReservationReport cmd nsid bytes s
  | .gatherStripeProgrammed g failed => Sys2Proof.Machine.execGatherStripeProgrammed g failed s
  | .directPathProgrammed die failed => Sys2Proof.Machine.execDirectPathProgrammed die failed s
  | .fold die failed => Sys2Proof.Machine.execFold die failed s
  | .bandClose b => Sys2Proof.Machine.execBandClose b s
  | .bandVerifyStart b => Sys2Proof.Machine.execBandVerifyStart b s
  | .bandVerifyEnd b fails target retired => Sys2Proof.Machine.execBandVerifyEnd b fails target retired s
  | .bandRelease b => Sys2Proof.Machine.execBandRelease b s
  | .deferredErrorCreate nsid slba nlb => Sys2Proof.Machine.execDeferredErrorCreate nsid slba nlb s
  | .channelRetrain c => Sys2Proof.Machine.execChannelRetrain c s
  | .patrolRead stripe id die weak target => Sys2Proof.Machine.execPatrolRead stripe id die weak target s
  | .readDisturbLimit stripe id die fail target => Sys2Proof.Machine.execReadDisturbLimit stripe id die fail target s
  | .retentionLimit stripe id die deg target => Sys2Proof.Machine.execRetentionLimit stripe id die deg target s
  | .dieEvacuation d target => Sys2Proof.Machine.execDieEvacuation d target s
  | .dieFailure d target => Sys2Proof.Machine.execDieFailure d target s
  | .readOnlyEntry pm => Sys2Proof.Machine.execReadOnlyEntry pm s
  | .holdupTest us => Sys2Proof.Machine.execHoldupTest us s
  | .medTestHoldup w guard writeThrough => Sys2Proof.Machine.execMedTestHoldup w guard writeThrough s
  | .onfDieEvacuate w c pos => Sys2Proof.Machine.execOnfDieEvacuate w c pos s
  | .onfDieRetire w c pos => Sys2Proof.Machine.execOnfDieRetire w c pos s
  | .onfDieTest w c pos => Sys2Proof.Machine.execOnfDieTest w c pos s
  | .sanitize cmd action => Sys2Proof.Machine.execSanitize cmd action s
  | .formatNvm cmd nsid lbaf ext pi pil ses => Sys2Proof.Machine.execFormatNvm cmd nsid lbaf ext pi pil ses s
  | .namespaceManagement cmd sel nsid data => Sys2Proof.Machine.execNamespaceManagement cmd sel nsid data s
  | .namespaceAttachment cmd sel nsid ctrls => Sys2Proof.Machine.execNamespaceAttachment cmd sel nsid ctrls s
  | .sqTailDoorbell p y tail => Sys2Proof.Machine.execSqTailDoorbell p y tail s
  | .cqHeadDoorbell p y head => Sys2Proof.Machine.execCqHeadDoorbell p y head s
  | .commandFetch cid op => Sys2Proof.Machine.execCommandFetch cid op s
  | .coalescingTimer p v => Sys2Proof.Machine.execCoalescingTimer p v s
  | .createIoSq cmd qid size cq prio => Sys2Proof.Machine.execCreateIoSq cmd qid size cq prio s
  | .createIoCq cmd qid size vector ien => Sys2Proof.Machine.execCreateIoCq cmd qid size vector ien s
  | .deleteIoSq cmd qid => Sys2Proof.Machine.execDeleteIoSq cmd qid s
  | .deleteIoCq cmd qid => Sys2Proof.Machine.execDeleteIoCq cmd qid s
  | .doorbellBufferConfig cmd => Sys2Proof.Machine.execDoorbellBufferConfig cmd s
  | .asyncEventRequest cmd => Sys2Proof.Machine.execAsyncEventRequest cmd s
  | .identify cmd cns nsid cntid => Sys2Proof.Machine.execIdentify cmd cns nsid cntid s
  | .getLogPage cmd lid rae off len => Sys2Proof.Machine.execGetLogPage cmd lid rae off len s
  | .setFeatures cmd fid save nsid dw11 dw12 data => Sys2Proof.Machine.execSetFeatures cmd fid save nsid dw11 dw12 data s
  | .getFeatures cmd fid sel nsid dw11 => Sys2Proof.Machine.execGetFeatures cmd fid sel nsid dw11 s
  | .nvmeMiSend cmd r => Sys2Proof.Machine.execNvmeMiSend cmd r s
  | .nvmeMiReceive cmd r => Sys2Proof.Machine.execNvmeMiReceive cmd r s
  | .firmwareImageDownload cmd off data => Sys2Proof.Machine.execFirmwareImageDownload cmd off data s
  | .fwCommitReplace cmd slot f => Sys2Proof.Machine.execFwCommitReplace cmd slot f s
  | .fwCommitReplaceActivate cmd slot f => Sys2Proof.Machine.execFwCommitReplaceActivate cmd slot f s
  | .fwCommitActivate cmd slot => Sys2Proof.Machine.execFwCommitActivate cmd slot s
  | .fwCommitActivateNow cmd slot f => Sys2Proof.Machine.execFwCommitActivateNow cmd slot f s
  | .fwSlotWriteDone ok => Sys2Proof.Machine.execFwSlotWriteDone ok s
  | .fwActivationProgress => Sys2Proof.Machine.execFwActivationProgress s
  | .calibrationWrite cmd data => Sys2Proof.Machine.execCalibrationWrite cmd data s
  | .restoreFactory cmd => Sys2Proof.Machine.execRestoreFactory cmd s
  | .calibrationRead cmd which => Sys2Proof.Machine.execCalibrationRead cmd which s
  | .calibrationApplyDone => Sys2Proof.Machine.execCalibrationApplyDone s
  | .mmHandover mismatch => Sys2Proof.Machine.execMmHandover mismatch s
  | .tempHistorySave => Sys2Proof.Machine.execTempHistorySave s
  | .miReadDataStructure tag dtyp => Sys2Proof.Machine.execMiReadDataStructure tag dtyp s
  | .miSubsystemHealthPoll tag => Sys2Proof.Machine.execMiSubsystemHealthPoll tag s
  | .miControllerHealthPoll tag => Sys2Proof.Machine.execMiControllerHealthPoll tag s
  | .miConfigurationGet tag id => Sys2Proof.Machine.execMiConfigurationGet tag id s
  | .miConfigurationSet tag id value => Sys2Proof.Machine.execMiConfigurationSet tag id value s
  | .miVpdRead tag => Sys2Proof.Machine.execMiVpdRead tag s
  | .miVpdWrite tag data => Sys2Proof.Machine.execMiVpdWrite tag data s
  | .miTunnelledAdmin tag p r => Sys2Proof.Machine.execMiTunnelledAdmin tag p r s
  | .laneLock l lane decodes field cw0 cw1 cw2 => Sys2Proof.Machine.execLaneLock l lane decodes field cw0 cw1 cw2 s
  | .blockReceive l lane w => Sys2Proof.Machine.execBlockReceive l lane w s
  | .replayTimeout l => Sys2Proof.Machine.execReplayTimeout l s
  | .linkRetrain l => Sys2Proof.Machine.execLinkRetrain l s
  | .linkRetrainDone l pass => Sys2Proof.Machine.execLinkRetrainDone l pass s
  | .linkDown l => Sys2Proof.Machine.execLinkDown l s
  | .trainRecordReceive l r => Sys2Proof.Machine.execTrainRecordReceive l r s
  | .linkAdmit l far => Sys2Proof.Machine.execLinkAdmit l far s
  | .frameForward => Sys2Proof.Machine.execFrameForward s
  | .pwriteFrame => Sys2Proof.Machine.execPwriteFrame s
  | .readFrame => Sys2Proof.Machine.execReadFrame s
  | .completionFrame => Sys2Proof.Machine.execCompletionFrame s
  | .collFrame => Sys2Proof.Machine.execCollFrame s
  | .noticeFrame => Sys2Proof.Machine.execNoticeFrame s
  | .sackFrame => Sys2Proof.Machine.execSackFrame s
  | .gapCheckFrame => Sys2Proof.Machine.execGapCheckFrame s
  | .joinFrame => Sys2Proof.Machine.execJoinFrame s
  | .timeFrame => Sys2Proof.Machine.execTimeFrame s
  | .reorderHoldTimeout src vc => Sys2Proof.Machine.execReorderHoldTimeout src vc s
  | .poisonRepeatTimer src vc => Sys2Proof.Machine.execPoisonRepeatTimer src vc s
  | .sackTimer src vc => Sys2Proof.Machine.execSackTimer src vc s
  | .gapCheckTimer dst vc => Sys2Proof.Machine.execGapCheckTimer dst vc s
  | .linkDrainDone l => Sys2Proof.Machine.execLinkDrainDone l s
  | .linkTestEnd l n => Sys2Proof.Machine.execLinkTestEnd l n s
  | .aupRetrainWrite w l value => Sys2Proof.Machine.execAupRetrainWrite w l value s
  | .aupRouteEntryWrite w l value => Sys2Proof.Machine.execAupRouteEntryWrite w l value s
  | .timeRequestTimer l => Sys2Proof.Machine.execTimeRequestTimer l s
  | .timeExchangeTimeout l => Sys2Proof.Machine.execTimeExchangeTimeout l s
  | .announceTick => Sys2Proof.Machine.execAnnounceTick s
  | .domainFounding => Sys2Proof.Machine.execDomainFounding s
  | .gmLossTimeout => Sys2Proof.Machine.execGmLossTimeout s
  | .gmClaim => Sys2Proof.Machine.execGmClaim s
  | .holdoverEntry => Sys2Proof.Machine.execHoldoverEntry s
  | .stuAdopt w value => Sys2Proof.Machine.execStuAdopt w value s
  | .actionArm w epoch => Sys2Proof.Machine.execActionArm w epoch s
  | .actionCancel w => Sys2Proof.Machine.execActionCancel w s
  | .actionFire n => Sys2Proof.Machine.execActionFire n s
  | .epochScheduleWrite w origin lo v => Sys2Proof.Machine.execEpochScheduleWrite w origin lo v s
  | .epochNextWrite w lo hi => Sys2Proof.Machine.execEpochNextWrite w lo hi s
  | .chkStart w u guard scan => Sys2Proof.Machine.execChkStart w u guard scan s
  | .chkScan w u guard => Sys2Proof.Machine.execChkScan w u guard s
  | .chkAbort w u guard taken => Sys2Proof.Machine.execChkAbort w u guard taken s
  | .chkFinish w u guard => Sys2Proof.Machine.execChkFinish w u guard s
  | .chkData8 w u value => Sys2Proof.Machine.execChkData8 w u value s
  | .chkData16 w u value => Sys2Proof.Machine.execChkData16 w u value s
  | .chkData32 w u value => Sys2Proof.Machine.execChkData32 w u value s
  | .chkData64 w u lo hi => Sys2Proof.Machine.execChkData64 w u lo hi s
  | .chkScanDone u => Sys2Proof.Machine.execChkScanDone u s
  | .chkScanFailure u bad => Sys2Proof.Machine.execChkScanFailure u bad s
  | .dmWriteBack line => Sys2Proof.Machine.execDmWriteBack line s
  | .chkDmMarkWrite w u value => Sys2Proof.Machine.execChkDmMarkWrite w u value s
  | .ceDiesRead w u => Sys2Proof.Machine.execCeDiesRead w u s
  | .sramWriteBack word => Sys2Proof.Machine.execSramWriteBack word s
  | .stateParityError c => Sys2Proof.Machine.execStateParityError c s
  | .dmScrubRead k n fresh => Sys2Proof.Machine.execDmScrubRead k n fresh s
  | .sramScrubRead cluster unit word fresh => Sys2Proof.Machine.execSramScrubRead cluster unit word fresh s
  | .cflProgramRow w bank sector row => Sys2Proof.Machine.execCflProgramRow w bank sector row s
  | .cflEraseSector w bank sector => Sys2Proof.Machine.execCflEraseSector w bank sector s
  | .cflVerifySector w bank sector => Sys2Proof.Machine.execCflVerifySector w bank sector s
  | .cflOpComplete pass => Sys2Proof.Machine.execCflOpComplete pass s
  | .cflSuspend bank => Sys2Proof.Machine.execCflSuspend bank s
  | .cflResume => Sys2Proof.Machine.execCflResume s
  | .cflRdataRead w wide grade => Sys2Proof.Machine.execCflRdataRead w wide grade s
  | .marginPatrol fails => Sys2Proof.Machine.execMarginPatrol fails s
  | .optUnlock w guard => Sys2Proof.Machine.execOptUnlock w guard s
  | .optLock w guard => Sys2Proof.Machine.execOptLock w guard s
  | .optLoadStage w guard => Sys2Proof.Machine.execOptLoadStage w guard s
  | .optCommit w guard => Sys2Proof.Machine.execOptCommit w guard s
  | .optSetPassword w guard => Sys2Proof.Machine.execOptSetPassword w guard s
  | .optStageWrite w n value => Sys2Proof.Machine.execOptStageWrite w n value s
  | .optCommitDone => Sys2Proof.Machine.execOptCommitDone s
  | .mainValid => Sys2Proof.Machine.execMainValid s
  | .mainLoss holds => Sys2Proof.Machine.execMainLoss holds s
  | .auxApplied => Sys2Proof.Machine.execAuxApplied s
  | .auxLoss => Sys2Proof.Machine.execAuxLoss s
  | .mrstAssert => Sys2Proof.Machine.execMrstAssert s
  | .hubResetCtlWrite w value => Sys2Proof.Machine.execHubResetCtlWrite w value s
  | .hubWatchdogExpiry => Sys2Proof.Machine.execHubWatchdogExpiry s
  | .mediaReady => Sys2Proof.Machine.execMediaReady s
  | .computeReady t => Sys2Proof.Machine.execComputeReady t s
  | .portReset p kind => Sys2Proof.Machine.execPortReset p kind s
  | .controllerReset p => Sys2Proof.Machine.execControllerReset p s
  | .controllerEnable p asq acq => Sys2Proof.Machine.execControllerEnable p asq acq s
  | .pmcsrWrite p d pmeEn clear => Sys2Proof.Machine.execPmcsrWrite p d pmeEn clear s
  | .wakeArbitration => Sys2Proof.Machine.execWakeArbitration s
  | .pmeResend p => Sys2Proof.Machine.execPmeResend p s
  | .resumeComplete => Sys2Proof.Machine.execResumeComplete s
  | .serviceFence w p guard => Sys2Proof.Machine.execServiceFence w p guard s
  | .serviceTest w p guard => Sys2Proof.Machine.execServiceTest w p guard s
  | .serviceReadmit w p guard => Sys2Proof.Machine.execServiceReadmit w p guard s
  | .serviceRetire w p guard => Sys2Proof.Machine.execServiceRetire w p guard s
  | .unitFaultFence p target => Sys2Proof.Machine.execUnitFaultFence p target s
  | .drainDone p => Sys2Proof.Machine.execDrainDone p s
  | .coreHandoverCopy c => Sys2Proof.Machine.execCoreHandoverCopy c s
  | .coreHandoverDone c => Sys2Proof.Machine.execCoreHandoverDone c s
  | .lehrDone p pass => Sys2Proof.Machine.execLehrDone p pass s
  | .testDone p pass => Sys2Proof.Machine.execTestDone p pass s
  | .removePrepare w key => Sys2Proof.Machine.execRemovePrepare w key s
  | .removeCancel w key => Sys2Proof.Machine.execRemoveCancel w key s
  | .removalReady => Sys2Proof.Machine.execRemovalReady s
  | .removeReqAssert => Sys2Proof.Machine.execRemoveReqAssert s
  | .hubModePowerWrite w value => Sys2Proof.Machine.execHubModePowerWrite w value s
  | .hubModeGatherWrite w value => Sys2Proof.Machine.execHubModeGatherWrite w value s
  | .gatherResizeStep => Sys2Proof.Machine.execGatherResizeStep s
  | .junctionReading d deg mean sensor => Sys2Proof.Machine.execJunctionReading d deg mean sensor s
  | .boardReading b => Sys2Proof.Machine.execBoardReading b s
  | .outletCapRelease => Sys2Proof.Machine.execOutletCapRelease s
  | .leakSense wet => Sys2Proof.Machine.execLeakSense wet s
  | .mrstRelease => Sys2Proof.Machine.execMrstRelease s
  | .perstRelease p => Sys2Proof.Machine.execPerstRelease p s
  | .pcieLinkUp p rate width flit => Sys2Proof.Machine.execPcieLinkUp p rate width flit s
  | .managerStartDone f => Sys2Proof.Machine.execManagerStartDone f s
  | .standbySelfTestDone pass => Sys2Proof.Machine.execStandbySelfTestDone pass s
  | .reclaim b target failed pm wearMax wearMean => Sys2Proof.Machine.execReclaim b target failed pm wearMax wearMean s
  | .fencedReadTimeout cmd => Sys2Proof.Machine.execFencedReadTimeout cmd s
  | .joinTimeout x => Sys2Proof.Machine.execJoinTimeout x s
  | .timedActionDue => Sys2Proof.Machine.execTimedActionDue s
  | .deviceMemoryLineReturn c id => Sys2Proof.Machine.execDeviceMemoryLineReturn c id s

end Sys2Proof.Machine
end

