-- ==== Sys2Proof/Machine/Step.lean ====
section
/-! DEFINITION. Step: the block takes the command at the front of its queue; on an empty queue a nanosecond passes, in which
the module manager may fetch from code flash. -/
namespace Sys2Proof.Machine

/-- The system time of an idle block goes on by one nanosecond, and the module manager runs its program (log entries 4, 141). -/
def idle (s : State) : State :=
  let b := mmRuns s.block
  { s with block := { b with now := b.now + 1 } }

/-- One step: the command at the front of the queue has its effect on the state with the queue's rest. -/
def step (s : State) : Host.Outcome State Fault Refusal :=
  match s.pending with
  | [] => .next (idle s)
  | c :: rest => exec c { s with pending := rest }

/-- The state with the command that a word spells at the front of its queue; the state itself where the word spells none. -/
def State.withFetchWord (s : State) (nbits w : Nat) : State :=
  match decodeTableWord nbits w with
  | some c => { s with pending := c :: s.pending }
  | none => s

end Sys2Proof.Machine
end

