-- ==== Sys2Proof/Safety.lean ====
section
/-! DEFINITION. Safety: what counts as a safe step and a safe state, and the words that the statements use: a command completes with a
property of the block after it; a core can issue an instruction; what issuing it leaves. -/
namespace Sys2Proof.Machine

/-- The next state of an outcome, if it is one. -/
def nextOf (o : Host.Outcome State Fault Refusal) : Option State :=
  match o with
  | .next s => some s
  | .fault _ => none
  | .refused _ => none

/-- A run of n steps that none of them stops. -/
def stepsTo : Nat → State → Option State
  | 0, s => some s
  | n + 1, s => (nextOf (step s)).bind (stepsTo n)

/-- The byte memories of the block stand in their canonical form: device memory, local stores, cluster stores, saved slices, code
flash. -/
def Memory.wf (s : Block) : Bool :=
  memWf 0 s.dm && s.cores.all (fun e => memWf 0 e.2.ls) && s.cs.all (fun e => memWf 0 e.2) &&
    s.ctxs.all (fun e => e.2.savedSlices.all (fun m => memWf 0 m.2)) && memWf 0xFF s.cfl.mem

/-- The command answers a next state, with the queue as it was and a block that has the property Q. -/
def Completes (i : Instr) (s : State) (Q : Block → Prop) : Prop :=
  ∃ t, exec i s = .next t ∧ t.pending = s.pending ∧ Q t.block

/-- Where the words at the pc of core c spell the instruction i (R173 to R176), its command completes with the property Q of the block after
it. (A command that they do not spell stands for nothing that the core does: log entry 5.) -/
def Runs (c : CoreNo) (i : Instr) (s : State) (Q : Block → Prop) : Prop := spelling s.block c = .inl i → Completes i s Q

/-- The module is powered and started and not ready for removal: the condition under which events and commands of its parts act
(R39, R619, R641). -/
def started (s : Block) : Bool := decide (s.hub.phase = .started) && decide (s.hub.remove ≠ .ready)

/-! Issue of an instruction by a core. -/

/-- Whether core c can issue, at its pc, a well-formed short instruction of len bytes that uses scalar registers sr and vector registers
vr (R173, R190, R191, R196, R250, R317): it runs and nothing holds it back, no gate or launch time stands before the instruction, the
instruction lies in CODE and no loop body ends inside it, no unfinished load or long instruction writes what it uses, and execution
does not leave CODE behind it. -/
def issuable (s : Block) (c len : Nat) (sr vr : List Nat) : Bool :=
  let k := getCore s c
  canIssue k && !gateShut s k && k.timed.isNone && decide (k.pc + len ≤ codeLen s k) &&
    (len != 8 || k.loops.all (fun l => l.past != k.pc + 4)) && !loadPending k sr vr && !(longDst k).any (fun r => sr.contains r) &&
    decide ((loopEnd 4 k (k.pc + len)).2 < codeLen s k)

/-- Whether core c can decode, at its pc, a long or posted instruction that uses scalar registers regs (R196, R218): as issuable, but for
the end of CODE behind it, which it meets at its issue point; timed: a TAT may stand before it (R250). -/
def decodable (s : Block) (c : Nat) (regs : List Nat) (timed : Bool) : Bool :=
  let k := getCore s c
  canIssue k && !gateShut s k && (timed || k.timed.isNone) && decide (k.pc + 8 ≤ codeLen s k) &&
    k.loops.all (fun l => l.past != k.pc + 4) && !loadPending k regs [] && !(longDst k).any (fun r => regs.contains r)

/-- The core as the instruction at its pc finds it: it has left the layer instances whose END that is (R317). -/
def issuing (s : Block) (c : Nat) : Core := getCore (noteIssue s c) c

/-- The core once it has gone on in sequence past an instruction of len bytes, with the loop bodies that end there (R191). -/
def inSequence (k : Core) (len : Nat) : Core :=
  let r := loopEnd 4 k (k.pc + len)
  setPc r.1 r.2

/-- The core once a taken branch or jump has put it at offset t: the loops whose bodies t lies outside have ended (R192). -/
def jumped (k : Core) (t : Nat) : Core := { setPc k t with loops := loopsAfterJump t k.loops }

/-- STEPS has grown by n (R171). -/
def counted (k : Core) (n : Nat) : Core := { k with steps := k.steps + BitVec.ofNat 64 n }

/-- What an instruction of core c leaves of block s as it is: every other core, device memory and the cluster stores. -/
def othersKept (s b : Block) (c : Nat) : Prop :=
  (∀ o, o ≠ c → getCore b o = getCore s o) ∧ b.dm = s.dm ∧ b.cs = s.cs

/-- Core c has issued the instruction at its pc, which did f to it and went on in sequence; nothing else of the core changed but STEPS,
which grew by at least one, and nothing of the other cores, of device memory or of the cluster stores. -/
def Issued (s b : Block) (c len : Nat) (f : Core → Core) : Prop :=
  (∃ n, 1 ≤ n ∧ getCore b c = inSequence (counted (f (issuing s c)) n) len) ∧ othersKept s b c

/-- The posted instruction p of core c has ended with a failure word, 0 for none: its set counts one fewer, the first failure word that
the set met stays in it, and the instruction is no longer unfinished (R221). -/
def PostEnded (s b : Block) (c : Nat) (p : Posted) (word : Word) : Prop :=
  let k := getCore s c
  let q := getSet k p.x.set.val
  (getCore b c).posted = k.posted.filter (fun o => o.id ≠ p.id) ∧
    getSet (getCore b c) p.x.set.val = { unfinished := q.unfinished - 1, word := if q.word = 0 then word else q.word } ∧
    (getCore b c).s = k.s ∧ (getCore b c).v = k.v ∧ (getCore b c).pc = k.pc

/-- Core c has issued the instruction at its pc, which did f to it and went to offset t. -/
def Jumps (s b : Block) (c t : Nat) (f : Core → Core) : Prop :=
  (∃ n, 1 ≤ n ∧ getCore b c = jumped (counted (f (issuing s c)) n) t) ∧ othersKept s b c

/-- Core c has faulted with a class and a detail at the instruction at its pc: it executes no further, COR_FAULT and FAULT_OFFSET say
why and where, and no register changed (R203). -/
def Faulted (s b : Block) (c cls detail : Nat) : Prop :=
  let k := getCore b c
  k.run = .faulted ∧ k.fault = faultWord cls detail ∧ k.faultOff = BitVec.ofNat 32 (getCore s c).pc ∧
    k.pc = (getCore s c).pc ∧ k.s = (getCore s c).s ∧ k.a = (getCore s c).a ∧ k.v = (getCore s c).v ∧ k.p = (getCore s c).p ∧
    k.t = (getCore s c).t ∧ k.fstat = (getCore s c).fstat ∧ k.ls = (getCore s c).ls ∧ othersKept s b c

/-! Commands of controllers, and accesses to the control space. -/

/-- The command came by a submission queue and holds a tag, its completion queue exists, and it is no request for an event (R431, R433,
R469). -/
def awaited (s : Block) (cmd : CmdRef) : Bool :=
  decide (cmd.ctrl ≠ sideband) && isOutstanding s cmd &&
    ((cqOf (getCtl s cmd.ctrl) cmd.sqid).bind (tabFind (getCtl s cmd.ctrl).cqs)).isSome && s.evts.all (fun e => !e.2.aers.contains cmd)

/-- So is a command that has yet to act. -/
def asked (s : Block) (cmd : CmdRef) : Bool := awaited s cmd && isFetched s cmd

/-- So is an admin command of a host controller, while no activation hands service over and no recovery loader runs (R478, R594). -/
def adminAsked (s : Block) (cmd : CmdRef) : Bool :=
  asked s cmd && decide (cmd.sqid = 0) && !(getCtl s cmd.ctrl).pp && !natBit s.hub.ready 7

/-- The command has completed with DW0, DW1 and a status: its entry is sent, or waits in its completion queue for room, and it holds no
tag any more (R431, R433). -/
def Answered (s b : Block) (cmd : CmdRef) (dw0 dw1 st : Nat) : Prop :=
  ((∃ l, b.out = s.out ++ l ∧ Output.completion cmd dw0 dw1 st ∈ l) ∨
    ∃ q cq, tabFind (getCtl b cmd.ctrl).cqs q = some cq ∧ (⟨cmd, dw0, dw1, st⟩ : Entry) ∈ cq.waiting) ∧
  ∀ f ∈ (getCtl b cmd.ctrl).cmds, f.cmd ≠ cmd

/-- A write of writer w to offset off of page p reaches the page's own unit and is judged there: the module is started, the page exists
and its unit answers, no zeroise keeps the write waiting, and the unit's service does not forbid it (R39, R57, R61, R519, R628). -/
def judged (s : Block) (p : Nat) (w : Writer) (off : Nat) : Bool :=
  match pageOf p with
  | none => false
  | some (k, i) =>
    decide (s.hub.phase = .started) && !(w.master == .pe && peerForbidden s) && pageAnswers s k i &&
      !holdsWrite (getPage s p) k w off && !serviceForbids (getPage s p) k off

/-- Whether a writer is the module manager or the owner of page p (R58). -/
def mmOrOwner (s : Block) (p : Nat) (w : Writer) : Bool := w.master == .mm || isOwner (getPage s p) w

/-- A write has been rejected with a code: the first error, the count of errors, the conflict and the rejections of its page say so,
and the page's owner, guard, control, service and block registers are as they were (R49 to R52, R62). -/
def Rejected (s b : Block) (p : Nat) (w : Writer) (code off : Nat) : Prop :=
  let g := getPage s p
  let h := getPage b p
  h.errFirst = (if g.errFirst = 0 then BitVec.ofNat 32 (masterCode w.master * 2 ^ 28 + code * 2 ^ 16 + off % 2 ^ 16) else g.errFirst) ∧
    h.errCount = (if g.errCount = 0xFFFFFFFF then g.errCount else g.errCount + 1) ∧ h.irqStatus = g.irqStatus ||| 3 ∧
    tabGet 0 h.live 1 = tabGet 0 g.live 1 + 1 ∧
    (code = 1 ∨ code = 2 ∨ code = 3 → h.conflict = BitVec.ofNat 32 (g.gen.toNat % 256 * 2 ^ 24 + ownerMaster g * 2 ^ 20 +
      masterCode w.master * 2 ^ 16 + min 0xFFFF (g.conflict.toNat % 2 ^ 16 + 1))) ∧
    (code ≠ 1 → code ≠ 2 → code ≠ 3 → h.conflict = g.conflict) ∧
    h.owner = g.owner ∧ h.gen = g.gen ∧ h.ctl = g.ctl ∧ h.service = g.service ∧ h.regs = g.regs ∧ b.cores = s.cores ∧ b.dm = s.dm

/-- No register of any page changed, but for the live statistics. -/
def statsOnly (s b : Block) : Prop := ∀ q, { getPage b q with live := [] } = { getPage s q with live := [] }

/-- Nothing changed but what answering a command of controller p changes: statistics, what the module sent, the error log, the counts
over its life, and that controller. -/
def answerOnly (s b : Block) (p : Nat) : Prop :=
  b = { s with pages := b.pages, out := b.out, ctls := b.ctls, adm := { s.adm with errLog := b.adm.errLog }, life := b.life } ∧
    statsOnly s b ∧ ∀ q, q ≠ p → getCtl b q = getCtl s q

/-- The asynchronous event e has been raised on controller p (R469): if it has not been reported already, it completes the oldest
outstanding request, or waits for one. -/
def Notified (s b : Block) (p : Nat) (e : AEvent) : Prop :=
  let q := getEvt s p
  if e ∈ q.reported ∨ e ∈ q.queued then b = s
  else
    match q.aers with
    | [] => getEvt b p = { q with queued := q.queued ++ [e] } ∧ b = { s with evts := b.evts }
    | a :: rest => getEvt b p = { q with aers := rest, reported := q.reported ++ [e] } ∧
        (isOutstanding s a = true → a.ctrl = p → a.sqid = 0 → (tabFind (getCtl s p).cqs 0).isSome → Answered s b a (eventDw0 e) 0 0)

/-! Commands of namespaces and indexes. -/

/-- A command of namespace nsid may act on it: it has yet to act, no deferred record waits for it, the namespace n is attached and
ready, and neither a read-only module nor a reservation stands against it (R401, R424, R446, R619). -/
def blocksServe (s : Block) (cmd : CmdRef) (nsid : Nat) (n : Namespace) (write : Bool) : Prop :=
  asked s cmd = true ∧ deferredFor s cmd nsid = none ∧ getNs s nsid = some n ∧ nsid ∈ (getCtl s cmd.ctrl).attached ∧
    mediaReady s = true ∧ (write = true → s.med.readOnly = false) ∧ resvBlocks n (hostOf s cmd) write = false

/-- A command of index x may act: it has yet to act, and its port has attached the index i (R435, R436, R619). -/
def indexServes (s : Block) (cmd : CmdRef) (x : Nat) (i : SIndex) : Prop :=
  asked s cmd = true ∧ computeReady s = true ∧ getIdx s x = some i ∧ (getCtx s x).phase ≠ .opening ∧ (getCtx s x).phase ≠ .closing ∧
    (getCtx s x).closing = false ∧ (getCtx s x).port = cmd.ctrl

/-- What a command wrote is in the protected write buffer: it has completed with DW0, or under write-through waits for the media
(R381). -/
def Accepted (s b : Block) (cmd : CmdRef) (dw0 : Nat) : Prop :=
  if writeThrough s then isOutstanding b cmd = true ∧ ∃ w ∈ b.med.pendWrites, w.cmd = cmd ∧ w.dw0 = dw0 else Answered s b cmd dw0 0 0

/-! Blocks of namespaces. -/

/-- What the map holds of a logical block. -/
def blkOf (s : Block) (nsid lba : Nat) : Option Blk := (getNs s nsid).bind (fun n => tabFind n.store lba)

/-- Whether a block lies in a whole indirection unit of a range (R402). -/
def inUnits (n : Namespace) (slba nlb lba : Nat) : Bool :=
  let k := max 1 (iuBlocks n)
  decide (roundUp slba k ≤ lba) && decide (lba < (slba + nlb) / k * k)

/-- The listed blocks that held data hold the same data, in places that p allows. -/
def Moved (s b : Block) (l : List BlkKey) (p : FLoc → Prop) : Prop :=
  ∀ k ∈ l, ∀ dt md loc q, blkOf s k.nsid k.lba = some (.data dt md loc q) →
    ∃ o, blkOf b k.nsid k.lba = some (.data dt md o q) ∧ p o

/-- Every block outside a list is as it was. -/
def restKept (s b : Block) (l : List BlkKey) : Prop :=
  ∀ nsid lba, (∀ k ∈ l, k.nsid ≠ nsid ∨ k.lba ≠ lba) → blkOf b nsid lba = blkOf s nsid lba

/-- A place in a band, on a die. -/
def onBand (d : Nat) : FLoc → Prop
  | .band _ iu => iu / dieIus = d
  | _ => False

/-- Whether parity covers a block's data, and no other page of its stripe is lost. -/
def coveredBlk (s : Block) (k : BlkKey) : Bool :=
  match blkOf s k.nsid k.lba with
  | some (.data _ _ loc _) => !beyondMend s loc
  | _ => false

/-! Links. -/

/-- Link l is k now, and nothing else changed but statistics and what the module sent. -/
def linkIs (s b : Block) (l : Nat) (k : Link) : Prop :=
  getLink b l = k ∧ (∀ m, m ≠ l → getLink b m = getLink s m) ∧ statsOnly s b ∧
    b = { s with links := b.links, pages := b.pages, out := b.out }

/-- A lane that searches for lock again (R493). -/
def unlocked (a : LaneRx) : LaneRx := { a with locked := false, bad := 0, shift := none }

/-- A link that has entered RETRAIN: its lanes search again, its traffic is kept (R493). -/
def retraining (k : Link) : Link :=
  { k with lane0 := unlocked k.lane0, lane1 := unlocked k.lane1, st := .retrain, prev := k.st, peerReady := none, phase := 0 }

/-- A link as it is once a block has been sent on it: a NAK goes once, and the next selector's credit is next (R491, R494). -/
def blockSent (k : Link) : Link := { k with nak := false, turn := (k.turn + 1) % 6 }

/-- A training record with this side's VERSION, module, link, lanes, ACK_SEQ and phase went out over a link (R514). -/
def trainSent (s b : Block) (l phase : Nat) : Prop :=
  let k := getLink b l
  ∃ x, b.out = s.out ++ [.block l x] ∧ recordOf (bytesAt x 16 16) = some ⟨natBits (getPage s (pgAup l)).ctl.toNat 16 8, 0x12,
    s.self % 16384, l, laneBits k, if k.st = .retrain then some ((k.expect + 4095) % 4096) else none, phase⟩

/-- A link is DOWN for a reason and holds nothing of its traffic (R493, R505, R521). -/
def isDown (k : Link) (reason : Nat) : Prop :=
  k.st = .down ∧ k.reason = reason ∧ k.queue = [] ∧ k.replay = [] ∧ k.tail = [] ∧ k.nextSeq = 0 ∧ k.expect = 0 ∧ k.peer = none

/-- A link carries a frame: it waits in a queue, is partly sent, or has cells in the replay buffer. -/
def carries (k : Link) (f : Frame) : Prop :=
  f ∈ tabGet [] k.queue (selOf f) ∨ (k.tailFrame = some f ∧ k.tail ≠ []) ∨ ∃ h ∈ k.replay, f ∈ h.frames

/-- The frame is the one that the destination of its stream expects, in the generation in force (R502). -/
def nextInStream (s : Block) (f : Frame) : Bool :=
  let t := getRx s f.src f.vc
  decide (t.gen = f.gen) && !t.poison && decide (t.expect = f.sseq)

/-! NVMe-MI and the option area. -/

/-- The data that a reading NVMe-MI command returns (R483). -/
def miData (s : Block) (r : MiReq) : Option (List Byte) :=
  match r with
  | .readData d => miStructure s d.toNat
  | .subsystemPoll => some (subsystemPoll s true)
  | .controllerPoll => some ((List.range (activePorts s)).flatMap (controllerPollEntry s))
  | .configGet i => match i.toNat with
    | 1 => some (leBytes 4 s.adm.smbFreq)
    | 2 => some (leBytes 4 s.adm.healthChange)
    | 3 => some (leBytes 4 s.adm.mtu)
    | _ => none
  | .vpdRead => some ((optLatest s).drop 0x100)
  | .configSet _ _ => none
  | .vpdWrite _ => none

/-- The option record r of 512 bytes is committed, and lies in both banks of code flash (R602, R603). -/
def Recorded (s b : Block) (r : List Byte) : Prop :=
  b.opt.committed = r ∧ b.opt.committedSeq = BitVec.ofNat 32 (fieldAt r 8 4) ∧
    (memWf 0xFF s.cfl.mem = true → ∀ k < 2, memBytes 0xFF b.cfl.mem (k * bankBytes + ringAt (fieldAt r 8 4)) 512 = r)

/-- A write of CTL of the option page is judged and may command: by the page's owner, with the guard (R598, R609). -/
def optMay (s : Block) (w : Writer) (guard : Byte) : Bool :=
  judged s pgOpt w 0x014 && isOwner (getPage s pgOpt) w && decide (guard.toNat = (getPage s pgOpt).gen.toNat % 256)

end Sys2Proof.Machine
end

