-- ==== Sys2Proof/WellFormed.lean ====
section
/-! DEFINITION. WellFormed: the operands that a command can have (R34 to R36, R54, R55, R421, R425, R433, R486): what the widths of their
types do not say. -/
namespace Sys2Proof

/-- A master that writes has a code, and only PK and PE have a tag (R54, R55). -/
def wfWriter (w : Writer) : Bool := w.master != .none && (w.tag == 0 || w.master == .pk || w.master == .pe)

/-- A command has a controller, a queue and an identifier; the sideband's number is 4 (R425, R433). -/
def wfCmd (c : CmdRef) : Bool := decide (c.ctrl ≤ 4) && decide (c.sqid ≤ 4096) && decide (c.cid < 65536) && (c.ctrl != 4 || c.sqid == 0)

/-- A field of a doubleword. -/
def wfDword (n : Nat) : Bool := decide (n < 2 ^ 32)

/-- A span of 1 to 65,536 blocks. -/
def wfSpan (a : LbaSpan) : Bool := decide (a.nsid < 2 ^ 32) && decide (a.slba < 2 ^ 64) && decide (1 ≤ a.nlb) && decide (a.nlb ≤ 65536)

/-- A codeword carries a block of 640 bytes, and shifts by up to 16 bits (R486, R490). -/
def wfCode (w : CodeWord) : Bool := w.block.length == 640 && w.shift.all (fun i => decide (-16 ≤ i) && decide (i ≤ 16))

/-- The fields of a training record (R514). -/
def wfTrain (r : TrainRec) : Bool :=
  decide (r.vmax < 256) && decide (r.vmin < 256) && decide (r.module < 16384) && decide (r.link < 24) && decide (r.lanes < 4) &&
    r.ackSeq.all (fun n => decide (n < 4096)) && decide (r.phase < 256)

/-- A revision has 8 bytes (R475). -/
def wfFacts (f : FwFacts) : Bool := f.fr.length == 8

/-- A self-test names each unit once. -/
def wfSelfTest (t : SelfTest) : Bool := decide t.cores.Nodup && decide t.spares.Nodup && decide t.clusters.Nodup && t.pages.all (fun p => decide (p < 196608))

/-- A size of an access that a byte count can give. -/
def sizeOk8 (n : Nat) : Bool := decide (1 ≤ n) && decide (n ≤ 4096)

/-- Whether the operands of a command can be what they are. -/
def wellFormed (i : Instr) : Bool :=
  match i with
  | .registerWrite w _ _ size _ => wfWriter w && sizeOk8 size
  | .ownerWrite w _ _ => wfWriter w
  | .errFirstRead w _ => wfWriter w
  | .counterLowRead w _ _ size => wfWriter w && sizeOk8 size
  | .bar4Read _ o n => decide (o + n.val ≤ 2 ^ 34)
  | .bar4Write _ o b => decide (o + b.length ≤ 2 ^ 34) && decide (b.length ≤ 4096)
  | .epochBoundary => true
  | .rgnShadowLatch _ => true
  | .coreHalt w _ _ => wfWriter w
  | .coreResume w _ _ => wfWriter w
  | .zeroiseComplete p slice _ => slice.isNone || (decide (0x3000 ≤ p.val) && decide (p.val < 0x3300))
  | .cluSliceOwnerWrite w _ _ _ => wfWriter w
  | .paceWindowEnd _ _ steps => (steps == 0 || (decide (1300 ≤ steps.toNat) && decide (steps.toNat ≤ 2600)))
  | .fabricTransferArrival _ rank _ => decide (rank < 12288)
  | .fabricTransferError _ rank _ => decide (rank < 12288)
  | .mergeReady _ _ _ => true
  | .mergeComplete _ _ _ => true
  | .powerGovernorAdjust _ _ => true
  | .admissionGrant _ => true
  | .arrayIssuePoint _ => true
  | .arrayResumablePoint _ => true
  | .arrayResultReady _ => true
  | .arrayRampDownEnd _ => true
  | .add _ _ => true
  | .sub _ _ => true
  | .mul _ _ => true
  | .mulhs _ _ => true
  | .mulhu _ _ => true
  | .divs _ _ => true
  | .divu _ _ => true
  | .rems _ _ => true
  | .remu _ _ => true
  | .andOp _ _ => true
  | .orOp _ _ => true
  | .xorOp _ _ => true
  | .shl _ _ => true
  | .shr _ _ => true
  | .sra _ _ => true
  | .minOp _ _ => true
  | .maxOp _ _ => true
  | .minu _ _ => true
  | .maxu _ _ => true
  | .slt _ _ => true
  | .sltu _ _ => true
  | .seq _ _ => true
  | .popc _ _ => true
  | .clz _ _ => true
  | .addi _ _ => true
  | .andi _ _ => true
  | .ori _ _ => true
  | .xori _ _ => true
  | .slti _ _ => true
  | .lui _ _ => true
  | .shifti _ _ => true
  | .nop _ _ => true
  | .endOp _ _ => true
  | .endDone _ => true
  | .trap _ _ => true
  | .mfs _ _ => true
  | .mts _ _ => true
  | .qcap _ _ => true
  | .ld _ _ _ => true
  | .st _ _ _ => true
  | .vld _ _ => true
  | .vst _ _ => true
  | .loop _ _ => true
  | .loopi _ _ => true
  | .bz _ _ => true
  | .bnz _ _ => true
  | .bltz _ _ => true
  | .bgez _ _ => true
  | .bany _ _ => true
  | .bnone _ _ => true
  | .b _ _ => true
  | .call _ _ => true
  | .jr _ _ => true
  | .jalr _ _ => true
  | .aset _ _ => true
  | .astride _ _ => true
  | .alstep _ _ => true
  | .aget _ _ => true
  | .aadd _ _ => true
  | .vadd _ _ => true
  | .vsub _ _ => true
  | .vmul _ _ => true
  | .vmin _ _ => true
  | .vmax _ _ => true
  | .vabs _ _ => true
  | .vneg _ _ => true
  | .vrcp _ _ => true
  | .vrsq _ _ => true
  | .vexp2 _ _ => true
  | .vlog2 _ _ => true
  | .vtanh _ _ => true
  | .vsel _ _ => true
  | .vrsum _ _ => true
  | .vrmax _ _ => true
  | .vbcast _ _ => true
  | .vextr _ _ => true
  | .viadd _ _ => true
  | .visub _ _ => true
  | .vimul _ _ => true
  | .vand _ _ => true
  | .vor _ _ => true
  | .vxor _ _ => true
  | .vshl _ _ => true
  | .vshr _ _ => true
  | .vcvtif _ _ => true
  | .vcvtfi _ _ => true
  | .vnarrow _ _ => true
  | .vwidenl _ _ => true
  | .vwidenh _ _ => true
  | .vfma _ _ => true
  | .vcmp _ _ _ => true
  | .vgth _ _ => true
  | .vsct _ _ => true
  | .pand _ _ => true
  | .por _ _ => true
  | .pxor _ _ => true
  | .pandn _ _ => true
  | .pnot _ _ => true
  | .pmovs _ _ => true
  | .smovp _ _ => true
  | .pcnt _ _ => true
  | .pfirst _ _ => true
  | .tld _ _ => true
  | .tst _ _ => true
  | .tmov _ _ => true
  | .taddr _ _ => true
  | .tsetf _ _ => true
  | .tgetf _ _ => true
  | .amul _ _ => true
  | .range _ _ => true
  | .qconv _ _ => true
  | .dqconv _ _ => true
  | .tpack _ _ => true
  | .longIssuePoint _ => true
  | .longResumablePoint _ => true
  | .longComplete _ => true
  | .move _ _ => true
  | .mrd _ _ => true
  | .mwr _ _ => true
  | .postedAccept _ => true
  | .postedFinish _ rank _ _ => decide (rank < 12288)
  | .postedFailure _ rank _ _ _ => decide (rank < 12288)
  | .selt _ _ => true
  | .topk _ _ => true
  | .pqload _ _ => true
  | .pqscan _ _ => true
  | .chkv _ _ => true
  | .cred _ _ => true
  | .cbcast _ _ => true
  | .ccat _ _ => true
  | .ctopk _ _ => true
  | .cbar _ _ => true
  | .collectiveFinish _ rank _ => decide (rank < 12288)
  | .collectiveMemberLost _ rank _ _ => decide (rank < 12288)
  | .twait _ _ => true
  | .twaitDone _ => true
  | .tat _ _ => true
  | .timedLaunchTime _ => true
  | .stopPreempt _ => true
  | .stopTeardown _ => true
  | .coreStopDone _ => true
  | .caravanFillStart _ => true
  | .copyResident _ _ _ _ => true
  | .gateReach _ => true
  | .layerDeadline _ _ _ => true
  | .fillFailed _ _ _ _ _ => true
  | .decisionDelivery _ => true
  | .copyRelease _ _ _ _ => true
  | .devmemPageZeroise _ => true
  | .tieLeadMaxWrite w _ _ => wfWriter w
  | .dmmTempReading _ _ => true
  | .contextOpen cmd _ => wfCmd cmd
  | .openPagesZeroised _ => true
  | .openTimeout _ => true
  | .compute cmd x _ => wfCmd cmd && wfDword x
  | .runPlacement => true
  | .dspQuantumExpiry => true
  | .dspAgeLimitReached _ => true
  | .runStart _ => true
  | .runSaveDone _ => true
  | .runRestoreDone _ => true
  | .runTeardown _ _ => true
  | .runComplete _ => true
  | .runAbort cmd x => wfCmd cmd && wfDword x
  | .contextClose cmd x _ => wfCmd cmd && wfDword x
  | .join cmd _ _ _ _ => wfCmd cmd
  | .contextControl cmd x _ _ _ _ => wfCmd cmd && wfDword x
  | .stagingAllocate cmd n => wfCmd cmd && wfDword n
  | .stagingRelease cmd first n => wfCmd cmd && wfDword first && wfDword n
  | .stagingMap cmd _ => wfCmd cmd
  | .abortByTag cmd _ _ => wfCmd cmd
  | .abort cmd _ _ => wfCmd cmd
  | .indexCreate cmd nsid _ => wfCmd cmd && wfDword nsid
  | .indexAttach cmd nsid _ _ ncores _ _ => wfCmd cmd && wfDword nsid && wfDword ncores
  | .indexDetach cmd x => wfCmd cmd && wfDword x
  | .search cmd x _ => wfCmd cmd && wfDword x
  | .searchWindowClose _ => true
  | .windowScanEnd _ => true
  | .insert cmd x _ => wfCmd cmd && wfDword x
  | .delete cmd x _ => wfCmd cmd && wfDword x
  | .merge cmd x => wfCmd cmd && wfDword x
  | .listMergeStart _ _ => true
  | .listMergeComplete _ _ => true
  | .versionRelease _ => true
  | .rebuild cmd x nlist m codeBits sample iterations seed => wfCmd cmd && wfDword x && wfDword nlist && wfDword m && wfDword codeBits && wfDword sample && wfDword iterations && wfDword seed
  | .rebuildPromotion _ => true
  | .read cmd a _ _ => wfCmd cmd && wfSpan a
  | .write cmd a _ _ => wfCmd cmd && wfSpan a
  | .writeZeroes cmd a _ _ _ => wfCmd cmd && wfSpan a
  | .datasetManagement cmd nsid _ _ => wfCmd cmd && wfDword nsid
  | .compare cmd a _ _ _ => wfCmd cmd && wfSpan a
  | .verify cmd a _ _ => wfCmd cmd && wfSpan a
  | .flush cmd nsid => wfCmd cmd && wfDword nsid
  | .reservationRegister cmd nsid _ _ _ _ _ => wfCmd cmd && wfDword nsid
  | .reservationAcquire cmd nsid _ rtype _ _ => wfCmd cmd && wfDword nsid && decide (rtype < 256)
  | .reservationRelease cmd nsid _ rtype _ => wfCmd cmd && wfDword nsid && decide (rtype < 256)
  | .reservationReport cmd nsid bytes => wfCmd cmd && wfDword nsid && wfDword bytes
  | .gatherStripeProgrammed _ _ => true
  | .directPathProgrammed _ _ => true
  | .fold _ _ => true
  | .bandClose _ => true
  | .bandVerifyStart _ => true
  | .bandVerifyEnd _ _ _ _ => true
  | .bandRelease _ => true
  | .deferredErrorCreate nsid _ _ => wfDword nsid
  | .channelRetrain _ => true
  | .patrolRead _ _ _ _ _ => true
  | .readDisturbLimit _ _ _ _ _ => true
  | .retentionLimit _ _ _ _ _ => true
  | .dieEvacuation _ _ => true
  | .dieFailure _ _ => true
  | .readOnlyEntry _ => true
  | .holdupTest us => decide (us < 2 ^ 32)
  | .medTestHoldup w _ _ => wfWriter w
  | .onfDieEvacuate w _ _ => wfWriter w
  | .onfDieRetire w _ _ => wfWriter w
  | .onfDieTest w _ _ => wfWriter w
  | .sanitize cmd _ => wfCmd cmd
  | .formatNvm cmd nsid _ _ _ _ _ => wfCmd cmd && wfDword nsid
  | .namespaceManagement cmd _ nsid _ => wfCmd cmd && wfDword nsid
  | .namespaceAttachment cmd _ nsid _ => wfCmd cmd && wfDword nsid
  | .sqTailDoorbell _ _ _ => true
  | .cqHeadDoorbell _ _ _ => true
  | .commandFetch _ _ => true
  | .coalescingTimer _ _ => true
  | .createIoSq cmd qid size cq _ => wfCmd cmd && decide (qid < 65536) && decide (size ≤ 65536) && decide (cq < 65536)
  | .createIoCq cmd qid size vector _ => wfCmd cmd && decide (qid < 65536) && decide (size ≤ 65536) && decide (vector < 65536)
  | .deleteIoSq cmd qid => wfCmd cmd && decide (qid < 65536)
  | .deleteIoCq cmd qid => wfCmd cmd && decide (qid < 65536)
  | .doorbellBufferConfig cmd => wfCmd cmd
  | .asyncEventRequest cmd => wfCmd cmd
  | .identify cmd _ nsid cntid => wfCmd cmd && wfDword nsid && wfDword cntid
  | .getLogPage cmd _ _ off len => wfCmd cmd && wfDword off && wfDword len
  | .setFeatures cmd _ _ nsid dw11 dw12 _ => wfCmd cmd && wfDword nsid && wfDword dw11 && wfDword dw12
  | .getFeatures cmd _ _ nsid dw11 => wfCmd cmd && wfDword nsid && wfDword dw11
  | .nvmeMiSend cmd _ => wfCmd cmd
  | .nvmeMiReceive cmd _ => wfCmd cmd
  | .firmwareImageDownload cmd off _ => wfCmd cmd && wfDword off
  | .fwCommitReplace cmd _ f => wfCmd cmd && wfFacts f
  | .fwCommitReplaceActivate cmd _ f => wfCmd cmd && wfFacts f
  | .fwCommitActivate cmd _ => wfCmd cmd
  | .fwCommitActivateNow cmd _ f => wfCmd cmd && wfFacts f
  | .fwSlotWriteDone _ => true
  | .fwActivationProgress => true
  | .calibrationWrite cmd _ => wfCmd cmd
  | .restoreFactory cmd => wfCmd cmd
  | .calibrationRead cmd _ => wfCmd cmd
  | .calibrationApplyDone => true
  | .mmHandover _ => true
  | .tempHistorySave => true
  | .miReadDataStructure tag _ => decide (tag < 65536)
  | .miSubsystemHealthPoll tag => decide (tag < 65536)
  | .miControllerHealthPoll tag => decide (tag < 65536)
  | .miConfigurationGet tag _ => decide (tag < 65536)
  | .miConfigurationSet tag _ value => decide (tag < 65536) && wfDword value
  | .miVpdRead tag => decide (tag < 65536)
  | .miVpdWrite tag _ => decide (tag < 65536)
  | .miTunnelledAdmin tag _ _ => decide (tag < 65536)
  | .laneLock _ _ _ _ _ _ _ => true
  | .blockReceive _ _ w => wfCode w
  | .replayTimeout _ => true
  | .linkRetrain _ => true
  | .linkRetrainDone _ _ => true
  | .linkDown _ => true
  | .trainRecordReceive _ r => wfTrain r
  | .linkAdmit _ _ => true
  | .frameForward => true
  | .pwriteFrame => true
  | .readFrame => true
  | .completionFrame => true
  | .collFrame => true
  | .noticeFrame => true
  | .sackFrame => true
  | .gapCheckFrame => true
  | .joinFrame => true
  | .timeFrame => true
  | .reorderHoldTimeout _ _ => true
  | .poisonRepeatTimer _ _ => true
  | .sackTimer _ _ => true
  | .gapCheckTimer _ _ => true
  | .linkDrainDone _ => true
  | .linkTestEnd _ _ => true
  | .aupRetrainWrite w _ _ => wfWriter w
  | .aupRouteEntryWrite w _ _ => wfWriter w
  | .timeRequestTimer _ => true
  | .timeExchangeTimeout _ => true
  | .announceTick => true
  | .domainFounding => true
  | .gmLossTimeout => true
  | .gmClaim => true
  | .holdoverEntry => true
  | .stuAdopt w _ => wfWriter w
  | .actionArm w _ => wfWriter w
  | .actionCancel w => wfWriter w
  | .actionFire _ => true
  | .epochScheduleWrite w _ _ _ => wfWriter w
  | .epochNextWrite w _ _ => wfWriter w
  | .chkStart w _ _ _ => wfWriter w
  | .chkScan w _ _ => wfWriter w
  | .chkAbort w _ _ _ => wfWriter w
  | .chkFinish w _ _ => wfWriter w
  | .chkData8 w _ _ => wfWriter w
  | .chkData16 w _ _ => wfWriter w
  | .chkData32 w _ _ => wfWriter w
  | .chkData64 w _ _ _ => wfWriter w
  | .chkScanDone _ => true
  | .chkScanFailure _ _ => true
  | .dmWriteBack line => decide (line < 2 ^ 33)
  | .chkDmMarkWrite w _ _ => wfWriter w
  | .ceDiesRead w _ => wfWriter w
  | .sramWriteBack word => decide (word < 12288 * 131072 + 768 * 2 ^ 21)
  | .stateParityError _ => true
  | .dmScrubRead _ _ _ => true
  | .sramScrubRead cluster unit word _ => if cluster then decide (unit.val < 768) else decide (word.val < 131072)
  | .cflProgramRow w _ _ _ => wfWriter w
  | .cflEraseSector w _ _ => wfWriter w
  | .cflVerifySector w _ _ => wfWriter w
  | .cflOpComplete _ => true
  | .cflSuspend _ => true
  | .cflResume => true
  | .cflRdataRead w _ _ => wfWriter w
  | .marginPatrol _ => true
  | .optUnlock w _ => wfWriter w
  | .optLock w _ => wfWriter w
  | .optLoadStage w _ => wfWriter w
  | .optCommit w _ => wfWriter w
  | .optSetPassword w _ => wfWriter w
  | .optStageWrite w _ _ => wfWriter w
  | .optCommitDone => true
  | .mainValid => true
  | .mainLoss _ => true
  | .auxApplied => true
  | .auxLoss => true
  | .mrstAssert => true
  | .hubResetCtlWrite w _ => wfWriter w
  | .hubWatchdogExpiry => true
  | .mediaReady => true
  | .computeReady t => wfSelfTest t
  | .portReset _ _ => true
  | .controllerReset _ => true
  | .controllerEnable _ _ _ => true
  | .pmcsrWrite _ _ _ _ => true
  | .wakeArbitration => true
  | .pmeResend _ => true
  | .resumeComplete => true
  | .serviceFence w _ _ => wfWriter w
  | .serviceTest w _ _ => wfWriter w
  | .serviceReadmit w _ _ => wfWriter w
  | .serviceRetire w _ _ => wfWriter w
  | .unitFaultFence _ _ => true
  | .drainDone _ => true
  | .coreHandoverCopy _ => true
  | .coreHandoverDone _ => true
  | .lehrDone _ _ => true
  | .testDone _ _ => true
  | .removePrepare w _ => wfWriter w
  | .removeCancel w _ => wfWriter w
  | .removalReady => true
  | .removeReqAssert => true
  | .hubModePowerWrite w _ => wfWriter w
  | .hubModeGatherWrite w _ => wfWriter w
  | .gatherResizeStep => true
  | .junctionReading _ _ _ _ => true
  | .boardReading _ => true
  | .outletCapRelease => true
  | .leakSense _ => true
  | .mrstRelease => true
  | .perstRelease _ => true
  | .pcieLinkUp _ _ _ _ => true
  | .managerStartDone _ => true
  | .standbySelfTestDone _ => true
  | .reclaim _ _ _ _ _ _ => true
  | .fencedReadTimeout cmd => wfCmd cmd
  | .joinTimeout _ => true
  | .timedActionDue => true
  | .deviceMemoryLineReturn _ _ => true

end Sys2Proof
end

