-- ==== Sys2Proof/Certificates/Slice0/Obligations.lean ====
section
/-! DEFINITION. The statements for the provers. A statement that a command completes has the effect of the command itself as its
conclusion, for every state and operands that meet its hypotheses. -/
open Sys2Proof Sys2Proof.Machine

/-- A step takes the command at the front of the queue. -/
def Obligations.StepTakesFront : Prop :=
  ∀ (s : State) (c : Instr) (rest : List Instr), s.pending = c :: rest → step s = exec c { s with pending := rest }

/-- No command stops the block or touches the queue, and a queue of commands drains to its end in as many steps. An idle block lets a
nanosecond of system time pass and changes nothing else but the module manager's buffers of code flash, statistics and the count of free
values drawn (the model's choice, log entries 4 and 141). -/
def Obligations.QueueDrains : Prop :=
  (∀ (i : Instr) (s : State), ∃ t, exec i s = .next t ∧ t.pending = s.pending) ∧
    (∀ s : State, ∃ t, stepsTo s.pending.length s = some t ∧ t.pending = []) ∧
    ∀ s : State, s.pending = [] → ∃ b, step s = .next { s with block := b } ∧ statsOnly s.block b ∧ b = { s.block with
      now := s.block.now + 1, fresh := s.block.fresh + 2, pages := b.pages
      cfl := { s.block.cfl with pairA := b.cfl.pairA, pairB := b.cfl.pairB } }

/-- Every step keeps the canonical form of device memory, whose unlisted bytes read zero, and of code flash, whose unlisted bytes read
erased (the form is the model's own, log entry 8). -/
def Obligations.MemoriesStayCanonical : Prop :=
  ∀ s t : State, memWf 0 s.block.dm = true → memWf 0xFF s.block.cfl.mem = true → step s = .next t →
    memWf 0 t.block.dm = true ∧ memWf 0xFF t.block.cfl.mem = true

/-- What reset leaves and what the first MAIN_VALID makes of it (R55, R59, R81, R611, R614, R624; that the run begins unpowered is the
model's choice, log entries 8 and 9, and so is the owner of cluster pages, entry 120). -/
def Obligations.ResetState : Prop :=
  State.reset.pending = [] ∧ Memory.wf State.reset.block = true ∧ Completes .mainValid State.reset (fun b =>
    b.hub.phase = .started ∧ b.hub.ready = 1 ∧ b.hub.cause = 0 ∧ b.now = 0 ∧ Memory.wf b = true ∧
      (∀ p, let g := getPage b p
        g.owner = (if 0x3000 ≤ p ∧ p < 0x3300 then 5 else 0) ∧ g.gen = 0 ∧ g.errFirst = 0 ∧ g.errCount = 0 ∧ g.conflict = 0 ∧ g.irqStatus = 0 ∧ g.irqEnable = 0 ∧
          g.service = .inService ∧ g.zeroising = false) ∧ ∀ c, getCore b c = {})

/-- Decoding and encoding agree (R173 to R176, R215, R216). -/
def Obligations.WordsDecode : Prop :=
  (∀ (i : Instr) (n w : Nat), encode i = some (n, w) →
    (∃ c : CoreNo, decodeWord c (w % 2 ^ 32) (w / 2 ^ 32) = .inl i) ∧ wordLen (w % 2 ^ 32) = n ∧ w < 2 ^ (8 * n)) ∧
    ∀ (c : CoreNo) (w ext : Nat), w < 2 ^ 32 → ext < 2 ^ 32 →
      (∀ i, decodeWord c w ext = .inl i → encode i = some (wordLen w, if wordLen w = 8 then w + 2 ^ 32 * ext else w)) ∧
        (decodeWord c w ext = .inr 1 ↔ w / 2 ^ 26 = 0 ∨ (0x15 ≤ w / 2 ^ 26 ∧ w / 2 ^ 26 ≤ 0x2F) ∨ 0x39 ≤ w / 2 ^ 26)

/-- The scalar instructions of R177, the divisions apart; POPC and CLZ are K2 (R207). -/
def Obligations.ScalarArithmetic : Prop :=
  ∀ (s : State) (c : CoreNo) (x : SR), issuable s.block c 4 [x.sd.val, x.sa.val, x.sb.val] [] = true →
    let does (i : Instr) (f : DWord → DWord → DWord) : Prop := Runs c i s (fun b =>
      Issued s.block b c 4 (fun k => setS k x.sd.val (f (getS k x.sa.val) (getS k x.sb.val))))
    does (.add c x) (fun a b => a + b) ∧ does (.sub c x) (fun a b => a - b) ∧ does (.mul c x) (fun a b => a * b) ∧
    does (.mulhs c x) (fun a b => BitVec.ofInt 64 (a.toInt * b.toInt / 2 ^ 64)) ∧
    does (.mulhu c x) (fun a b => BitVec.ofNat 64 (a.toNat * b.toNat / 2 ^ 64)) ∧
    does (.andOp c x) (fun a b => a &&& b) ∧ does (.orOp c x) (fun a b => a ||| b) ∧ does (.xorOp c x) (fun a b => a ^^^ b) ∧
    does (.shl c x) (fun a b => a <<< (b.toNat % 64)) ∧ does (.shr c x) (fun a b => a >>> (b.toNat % 64)) ∧
    does (.sra c x) (fun a b => a.sshiftRight (b.toNat % 64)) ∧
    does (.minOp c x) (fun a b => if a.toInt < b.toInt then a else b) ∧ does (.maxOp c x) (fun a b => if a.toInt < b.toInt then b else a) ∧
    does (.minu c x) (fun a b => if a.toNat < b.toNat then a else b) ∧ does (.maxu c x) (fun a b => if a.toNat < b.toNat then b else a) ∧
    does (.slt c x) (fun a b => if a.toInt < b.toInt then 1 else 0) ∧ does (.sltu c x) (fun a b => if a.toNat < b.toNat then 1 else 0) ∧
    does (.seq c x) (fun a b => if a = b then 1 else 0) ∧
    (x.sb.val = 0 → levelOf s.block (getCore s.block c) ≠ 1 →
      Runs c (.popc c x) s (fun b => Issued s.block b c 4 (fun k => setS k x.sd.val
        (BitVec.ofNat 64 ((List.range 64).countP (fun i => (getS k x.sa.val).getLsbD i))))) ∧
      ∃ n, (∀ v, v = getS (issuing s.block c) x.sa.val → n ≤ 64 ∧ v.toNat < 2 ^ (64 - n) ∧ (n = 64 ∨ 2 ^ (63 - n) ≤ v.toNat)) ∧
        Runs c (.clz c x) s (fun b => Issued s.block b c 4 (fun k => setS k x.sd.val (BitVec.ofNat 64 n)))) ∧
    (x.sb.val = 0 → levelOf s.block (getCore s.block c) = 1 →
      Runs c (.popc c x) s (fun b => Faulted s.block b c 1 (detail20 4 (getCore s.block c).pc)) ∧
      Runs c (.clz c x) s (fun b => Faulted s.block b c 1 (detail20 4 (getCore s.block c).pc)))

/-- R178: the divisions with their corners, and no scalar arithmetic instruction faults. -/
def Obligations.ScalarDivision : Prop :=
  ∀ (s : State) (c : CoreNo) (x : SR), issuable s.block c 4 [x.sd.val, x.sa.val, x.sb.val] [] = true →
    let a := getS (issuing s.block c) x.sa.val
    let b := getS (issuing s.block c) x.sb.val
    let writes (i : Instr) (p : DWord → Prop) : Prop := ∃ v, p v ∧ Runs c i s (fun b =>
      Issued s.block b c 4 (fun k => setS k x.sd.val v))
    writes (.divs c x) (fun q => (b = 0 → q = BitVec.allOnes 64) ∧ (b ≠ 0 → q = BitVec.ofInt 64 (a.toInt.tdiv b.toInt)) ∧
      (a = BitVec.intMin 64 ∧ b = BitVec.allOnes 64 → q = a)) ∧
    writes (.rems c x) (fun r => (b = 0 → r = a) ∧ (b ≠ 0 → r = BitVec.ofInt 64 (a.toInt.tmod b.toInt)) ∧
      (a = BitVec.intMin 64 ∧ b = BitVec.allOnes 64 → r = 0)) ∧
    writes (.divu c x) (fun q => (b = 0 → q = BitVec.allOnes 64) ∧ (b ≠ 0 → q.toNat = a.toNat / b.toNat)) ∧
    writes (.remu c x) (fun r => (b = 0 → r = a) ∧ (b ≠ 0 → r.toNat = a.toNat % b.toNat)) ∧
    ∀ i ∈ [Instr.add c x, .sub c x, .mul c x, .mulhs c x, .mulhu c x, .divs c x, .divu c x, .rems c x, .remu c x, .andOp c x, .orOp c x,
      .xorOp c x, .shl c x, .shr c x, .sra c x, .minOp c x, .maxOp c x, .minu c x, .maxu c x, .slt c x, .sltu c x, .seq c x],
      writes i (fun _ => True)

/-- The immediate instructions of R179. -/
def Obligations.ScalarImmediate : Prop :=
  ∀ (s : State) (c : CoreNo) (x : SI), issuable s.block c 4 [x.sd.val, x.sa.val] [] = true →
    let does (i : Instr) (f : DWord → DWord) : Prop := Runs c i s (fun b =>
      Issued s.block b c 4 (fun k => setS k x.sd.val (f (getS k x.sa.val))))
    does (.addi c x) (fun a => a + x.imm16.signExtend 64) ∧ does (.andi c x) (fun a => a &&& x.imm16.zeroExtend 64) ∧
    does (.ori c x) (fun a => a ||| x.imm16.zeroExtend 64) ∧ does (.xori c x) (fun a => a ^^^ x.imm16.zeroExtend 64) ∧
    does (.slti c x) (fun a => if a.toInt < x.imm16.toInt then 1 else 0) ∧
    (x.sa.val = 0 → does (.lui c x) (fun _ => x.imm16.signExtend 64 <<< 16)) ∧
    (x.sa.val ≠ 0 → Runs c (.lui c x) s (fun b => Faulted s.block b c 1 (detail20 3 (getCore s.block c).pc))) ∧
    (bvBits x.imm16 8 8 = 0 →
      (bvBits x.imm16 6 2 = 0 → does (.shifti c x) (fun a => a <<< bvBits x.imm16 0 6)) ∧
      (bvBits x.imm16 6 2 = 1 → does (.shifti c x) (fun a => a >>> bvBits x.imm16 0 6)) ∧
      (bvBits x.imm16 6 2 = 2 → does (.shifti c x) (fun a => a.sshiftRight (bvBits x.imm16 0 6)))) ∧
    (bvBits x.imm16 6 2 = 3 → Runs c (.shifti c x) s (fun b => Faulted s.block b c 1 (detail20 2 (getCore s.block c).pc))) ∧
    (bvBits x.imm16 6 2 ≠ 3 → bvBits x.imm16 8 8 ≠ 0 →
      Runs c (.shifti c x) s (fun b => Faulted s.block b c 1 (detail20 3 (getCore s.block c).pc)))

/-- The address-register instructions of R181. -/
def Obligations.AddressRegisters : Prop :=
  ∀ (s : State) (c : CoreNo) (x : SR), issuable s.block c 4 [x.sd.val, x.sa.val] [] = true →
    let does (i : Instr) (f : AReg → DWord → AReg) : Prop := Runs c i s (fun b =>
      Issued s.block b c 4 (fun k => setA k x.sd.val (f (getA k x.sd.val) (getS k x.sa.val))))
    (x.sd.val < 16 → x.sb.val = 0 → baseBusy (getCore s.block c) x.sd.val = false →
      does (.aset c x) (fun r v => { r with base := v }) ∧ does (.astride c x) (fun r v => { r with stride := v.truncate 32 }) ∧
      does (.aadd c x) (fun r v => { r with base := r.base + v }) ∧
      does (.alstep c x) (fun r v => { r with lstep0 := v.truncate 32 })) ∧
    (x.sd.val < 16 → x.sb.val = 1 → baseBusy (getCore s.block c) x.sd.val = false → does (.alstep c x) (fun r v => { r with lstep1 := v.truncate 32 })) ∧
    (x.sd.val < 16 → x.sb.val = 2 → levelOf s.block (getCore s.block c) ≠ 1 → baseBusy (getCore s.block c) x.sd.val = false →
      does (.alstep c x) (fun r v => { r with lstep2 := v.truncate 32 })) ∧
    (x.sd.val < 16 → x.sb.val = 3 → levelOf s.block (getCore s.block c) ≠ 1 → baseBusy (getCore s.block c) x.sd.val = false →
      does (.alstep c x) (fun r v => { r with lstep3 := v.truncate 32 })) ∧
    (x.sd.val < 16 → (x.sb.val = 2 ∨ x.sb.val = 3) → levelOf s.block (getCore s.block c) = 1 →
      Runs c (.alstep c x) s (fun b => Faulted s.block b c 1 (detail20 4 (getCore s.block c).pc))) ∧
    (4 ≤ x.sb.val → Runs c (.alstep c x) s (fun b => Faulted s.block b c 1 (detail20 3 (getCore s.block c).pc))) ∧
    (x.sa.val < 16 → x.sb.val = 0 → baseBusy (getCore s.block c) x.sa.val = false → Runs c (.aget c x) s (fun b =>
      Issued s.block b c 4 (fun k => setS k x.sd.val (getA k x.sa.val).base)))

/-- The branches of R188 and the jumps of R189. -/
def Obligations.Branches : Prop :=
  ∀ (s : State) (c : CoreNo),
    let k := getCore s.block c
    (∀ x : BR, issuable s.block c 4 [x.sa.val] [] = true →
      let t : Int := (k.pc : Int) + 4 * x.off18.toInt
      let inCode : Prop := 0 ≤ t ∧ t < codeLen s.block k ∧ t % 4 = 0
      let v := getS k x.sa.val
      let p := getP k x.sa.val
      let does (i : Instr) (taken : Bool) (f : Core → Core) : Prop :=
        (taken = false → Runs c i s (fun b => Issued s.block b c 4 (fun k => k))) ∧
        (taken = true → inCode → Runs c i s (fun b => Jumps s.block b c t.toNat f))
      let field (i : Instr) : Prop := Runs c i s (fun b => Faulted s.block b c 1 (detail20 3 k.pc))
      does (.bz c x) (v == 0) (fun k => k) ∧ does (.bnz c x) (v != 0) (fun k => k) ∧
      does (.bltz c x) (decide (v.toInt < 0)) (fun k => k) ∧ does (.bgez c x) (decide (0 ≤ v.toInt)) (fun k => k) ∧
      (x.sa.val < 8 → does (.bany c x) (p != 0) (fun k => k) ∧ does (.bnone c x) (p == 0) (fun k => k)) ∧
      (8 ≤ x.sa.val → field (.bany c x) ∧ field (.bnone c x)) ∧ (x.sa.val ≠ 0 → field (.b c x) ∧ field (.call c x)) ∧
      (x.sa.val = 0 → does (.b c x) true (fun k => k)) ∧
      (x.sa.val = 0 → loadPending k [31] [] = false → (longDst k).contains 31 = false →
        does (.call c x) true (fun k => setS k 31 (BitVec.ofNat 64 (k.pc + 4))))) ∧
    (∀ x : SR, issuable s.block c 4 [x.sd.val, x.sa.val] [] = true → x.sb.val = 0 →
      let t := (getS k x.sa.val).toNat
      let does (i : Instr) (f : Core → Core) : Prop :=
        (t % 4 = 0 → t < codeLen s.block k → Runs c i s (fun b => Jumps s.block b c t f)) ∧
        (¬(t % 4 = 0 ∧ t < codeLen s.block k) → Runs c i s (fun b => Faulted s.block b c 1 (6 * 2 ^ 20 + t % 2 ^ 20)))
      (x.sd.val = 0 → does (.jr c x) (fun k => k)) ∧
      does (.jalr c x) (fun k => setS k x.sd.val (BitVec.ofNat 64 (k.pc + 4))))

/-- LOOP and LOOPI (R190, R195), and branches that leave CODE (R189; that these fault at the branch is the model's reading, log entry
12). -/
def Obligations.Loops : Prop :=
  ∀ (s : State) (c : CoreNo),
    let k := getCore s.block c
    let does (i : Instr) (lc n body : Nat) : Prop :=
      let past := k.pc + 4 + 4 * body
      let used : Prop := ∃ l ∈ k.loops, l.lc = lc
      let across : Prop := ∃ l ∈ k.loops, l.past < past ∧ l.first ≤ k.pc ∧ k.pc < l.past
      (body = 0 → Runs c i s (fun b => Faulted s.block b c 3 (2 ^ 20))) ∧
      (body ≠ 0 → used → Runs c i s (fun b => Faulted s.block b c 3 (2 * 2 ^ 20))) ∧
      (body ≠ 0 → ¬used → across → Runs c i s (fun b => Faulted s.block b c 3 (3 * 2 ^ 20))) ∧
      (body ≠ 0 → ¬used → ¬across → codeLen s.block k < past → Runs c i s (fun b => Faulted s.block b c 3 (4 * 2 ^ 20))) ∧
      (body ≠ 0 → ¬used → ¬across → past ≤ codeLen s.block k → n ≠ 0 →
        Runs c i s (fun b => Issued s.block b c 4 (fun k =>
          { setLC k lc (BitVec.ofNat 64 n) with loops := ⟨lc, k.pc + 4, past⟩ :: k.loops }))) ∧
      (body ≠ 0 → ¬used → ¬across → n = 0 → (loopEnd 4 k past).2 < codeLen s.block k → past ≤ codeLen s.block k →
        Runs c i s (fun b => ∃ m, 1 ≤ m ∧ getCore b c = counted (inSequence (issuing s.block c) (4 + 4 * body)) m))
    (∀ x : LP, issuable s.block c 4 [x.sa.val] [] = true → x.zero.val = 0 → (x.lc.val < 2 ∨ levelOf s.block k ≠ 1) →
      does (.loop c x) x.lc.val (getS k x.sa.val).toNat x.body.toNat) ∧
    (∀ x : LPI, issuable s.block c 4 [] [] = true → (x.lc.val < 2 ∨ levelOf s.block k ≠ 1) →
      does (.loopi c x) x.lc.val x.count.toNat x.body.toNat) ∧
    (∀ x : BR, issuable s.block c 4 [x.sa.val] [] = true →
      let t : Int := (k.pc : Int) + 4 * x.off18.toInt
      let leaves (i : Instr) (taken : Bool) : Prop := taken = true →
        Runs c i s (fun b => Faulted s.block b c 1 (6 * 2 ^ 20 + (t % 2 ^ 20).toNat))
      let v := getS k x.sa.val
      ¬(0 ≤ t ∧ t < codeLen s.block k ∧ t % 4 = 0) →
        leaves (.bz c x) (v == 0) ∧ leaves (.bnz c x) (v != 0) ∧ leaves (.bltz c x) (decide (v.toInt < 0)) ∧
        leaves (.bgez c x) (decide (0 ≤ v.toInt)) ∧
        (x.sa.val < 8 → leaves (.bany c x) (getP k x.sa.val != 0) ∧ leaves (.bnone c x) (getP k x.sa.val == 0)) ∧
        (x.sa.val = 0 → leaves (.b c x) true ∧
          (loadPending k [31] [] = false → (longDst k).contains 31 = false → leaves (.call c x) true)))

/-- The predicate instructions of R187. -/
def Obligations.Predicates : Prop :=
  ∀ (s : State) (c : CoreNo) (x : PD), issuable s.block c 4 [x.s.val] [] = true →
    let does (i : Instr) (f : Core → Core) : Prop := Runs c i s (fun b => Issued s.block b c 4 f)
    (x.s.val = 0 →
      does (.pand c x) (fun k => setP k x.pd.val (getP k x.pa.val &&& getP k x.pb.val)) ∧
      does (.por c x) (fun k => setP k x.pd.val (getP k x.pa.val ||| getP k x.pb.val)) ∧
      does (.pxor c x) (fun k => setP k x.pd.val (getP k x.pa.val ^^^ getP k x.pb.val)) ∧
      does (.pandn c x) (fun k => setP k x.pd.val (getP k x.pa.val &&& ~~~getP k x.pb.val)) ∧
      (x.pb.val = 0 → does (.pnot c x) (fun k => setP k x.pd.val (~~~getP k x.pa.val)))) ∧
    (x.pa.val = 0 → x.pb.val = 0 → does (.pmovs c x) (fun k => setP k x.pd.val (getS k x.s.val))) ∧
    (x.pd.val = 0 → x.pb.val = 0 →
      does (.smovp c x) (fun k => setS k x.s.val (getP k x.pa.val)) ∧
      does (.pcnt c x) (fun k => setS k x.s.val (BitVec.ofNat 64 ((List.range 64).countP (fun i => (getP k x.pa.val).getLsbD i)))) ∧
      ∃ n, (∀ v, v = getP (issuing s.block c) x.pa.val → (v = 0 → n = 64) ∧
          (v ≠ 0 → n < 64 ∧ v.getLsbD n = true ∧ ∀ i < n, v.getLsbD i = false)) ∧
        does (.pfirst c x) (fun k => setS k x.s.val (BitVec.ofNat 64 n)))

/-- R170, of the operations that every instruction reads and writes registers by. -/
def Obligations.FixedRegisters : Prop :=
  ∀ k : Core, getS k 0 = 0 ∧ getP k 0 = BitVec.allOnes 64 ∧ (∀ v, setS k 0 v = k ∧ setP k 0 v = k) ∧
    (∀ n v, n ≠ 0 → getS (setS k n v) n = v ∧ getP (setP k n v) n = v) ∧ (∀ n v, getA (setA k n v) n = v) ∧
    (∀ n v, getV (setV k n v) n = v) ∧ (∀ n v, getT (setT k n v) n = v) ∧ ∀ n v, getLC (setLC k n v) n = v

/-- The special-register instructions (R171), NOP, TRAP (R189) and QCAP (R204). -/
def Obligations.SpecialRegisters : Prop :=
  ∀ (s : State) (c : CoreNo) (x : SY), issuable s.block c 4 [x.sd.val, x.sa.val] [] = true →
    let k := getCore s.block c
    let cx := ctxOf s.block k
    let n := x.imm11.toNat
    let reads (m : Nat) (v : DWord) : Prop :=
      n = m → Runs c (.mfs c x) s (fun b => Issued s.block b c 4 (fun k => setS k x.sd.val v))
    let writes (m : Nat) (f : Core → Core) : Prop :=
      n = m → (loopEnd 4 (f k) (k.pc + 4)).2 < codeLen s.block k → Runs c (.mts c x) s (fun b => Issued s.block b c 4 f)
    (x.sd.val = 0 → x.sa.val = 0 → n = 0 → Runs c (.nop c x) s (fun b => Issued s.block b c 4 (fun k => k))) ∧
    (x.sd.val = 0 → x.sa.val = 0 → Runs c (.trap c x) s (fun b => Faulted s.block b c 0x0C n)) ∧
    (x.sa.val = 0 →
      reads 0x000 (BitVec.ofNat 64 (rankOf k)) ∧ reads 0x001 (BitVec.ofNat 64 cx.ncores) ∧
      reads 0x002 (BitVec.ofNat 64 (ctxNoOf k)) ∧ reads 0x003 (if cx.cls = .lc then 0 else 1) ∧
      reads 0x004 (BitVec.ofNat 64 cx.image.level) ∧ reads 0x008 (progValue k) ∧ reads 0x009 (k.fstat.zeroExtend 64) ∧
      reads 0x00A k.steps ∧ reads 0x00B (BitVec.ofNat 64 s.block.now) ∧ reads 0x010 (getLC k 0) ∧ reads 0x011 (getLC k 1) ∧
      reads 0x012 (getLC k 2) ∧ reads 0x013 (getLC k 3) ∧ (cx.image.level ≠ 1 → reads 0x018 k.mirage) ∧
      (n ∉ [0, 1, 2, 3, 4, 8, 9, 0xA, 0xB, 0x10, 0x11, 0x12, 0x13, 0x18] →
        Runs c (.mfs c x) s (fun b => Faulted s.block b c 1 (detail20 5 k.pc)))) ∧
    (x.sd.val = 0 →
      writes 0x009 (fun k => { k with fstat := (getS k x.sa.val).truncate 16 &&& 0x3F }) ∧
      writes 0x010 (fun k => setLC k 0 (getS k x.sa.val)) ∧ writes 0x011 (fun k => setLC k 1 (getS k x.sa.val)) ∧
      writes 0x012 (fun k => setLC k 2 (getS k x.sa.val)) ∧ writes 0x013 (fun k => setLC k 3 (getS k x.sa.val)) ∧
      (cx.image.level ≠ 1 → writes 0x018 (fun k => { k with mirage := getS k x.sa.val &&& 0xF000FFFFFFFFFFFF })) ∧
      (n ∉ [9, 0x10, 0x11, 0x12, 0x13, 0x18] →
        Runs c (.mts c x) s (fun b => Faulted s.block b c 1 (detail20 5 k.pc)))) ∧
    Runs c (.qcap c x) s (fun b => Issued s.block b c 4 (fun k =>
      setS k x.sd.val (BitVec.ofNat 64 (qcapItem s.block c (getS k x.sa.val + x.imm11.zeroExtend 64).toNat))))

/-- END (R224) and the end of its wait. -/
def Obligations.EndOfProgram : Prop :=
  ∀ (s : State) (c : CoreNo),
    let k := getCore s.block c
    let clean : Prop := ∀ i < 8, (getSet k i).word = 0
    let stops (ends : (Block → Prop) → Prop) : Prop :=
      (clean → ends (fun b => (getCore b c).run = .idle ∧ (getCore b c).ended = true ∧ (getCore b c).pc = k.pc ∧
        (getCore b c).s = k.s ∧ (getCore b c).ls = k.ls ∧ othersKept s.block b c ∧
        (getCtx b (ctxNoOf k)).run.map (·.endedRanks) = ((getCtx s.block (ctxNoOf k)).run.map (fun r => r.endedRanks ++ [rankOf k])))) ∧
      (∀ j < 8, (getSet k j).word ≠ 0 → (∀ i < j, (getSet k i).word = 0) → ends (fun b =>
        (getCore b c).run = .faulted ∧ (getCore b c).fault = (getSet k j).word ∧
          (getCore b c).faultOff = BitVec.ofNat 32 k.pc ∧ othersKept s.block b c))
    (∀ x : SY, issuable s.block c 4 [] [] = true → x.sd.val = 0 → x.sa.val = 0 → x.imm11 = 0 →
      (allDone k = true → stops (Runs c (.endOp c x) s)) ∧
      (allDone k = false → Runs c (.endOp c x) s (fun b => (getCore b c).endWait = true ∧ (getCore b c).pc = k.pc ∧
        (getCore b c).run = k.run ∧ (getCore b c).s = k.s ∧ othersKept s.block b c))) ∧
    (k.endWait = true → allDone k = true → k.stop = none → k.run = .running → stops (Completes (.endDone c) s))

/-- LD, VLD (R180) and the return of lines of device memory (R675). -/
def Obligations.Loads : Prop :=
  ∀ (s : State) (c : CoreNo),
    let k := getCore s.block c
    let does (i : Instr) (x : MA) (size : Nat) (dst : LoadDst) (set : Core → List Byte → Core) : Prop :=
      maKinds x = [] → baseBusy k x.an.val = false →
      ∀ l, judge s.block c (maAddr k x (sizeWidth size)) (sizeWidth size) (sizeAlign size) = .inl l →
        accessWaits s.block c (maAddr k x (sizeWidth size), maAddr k x (sizeWidth size) + sizeWidth size) false = false →
        (sramReads s.block c l).2 = none →
        let data := l.map (readLoc s.block c)
        (dmAddrs l = [] → Runs c i s (fun b => ∃ w, Issued s.block b c 4 (fun k => { maAfter (set k data) x with portWaits := w }))) ∧
        (dmAddrs l ≠ [] → Runs c i s (fun b => ∃ w, Issued s.block b c 4 (fun k => { k with
          portWaits := w,
          loads := k.loads ++ [⟨s.block.fresh, k.pc, dst, maAddr k x (sizeWidth size),
            ((dmAddrs l).map (· / 64)).eraseDups.map (fun n => (n, lineSyms s.block n)), data,
            if x.mode.val = 1 then some x.an.val else none⟩] })))
    (∀ (size : Fin 7) (x : MA), issuable s.block c 4 (maIndex x ++ [x.d.val]) [] = true →
      does (.ld c size x) x size.val (.scalar x.d.val size.val) (fun k data =>
        let v := leNat data
        setS k x.d.val (if size.val = 4 then (BitVec.ofNat 8 v).signExtend 64 else if size.val = 5 then (BitVec.ofNat 16 v).signExtend 64
          else if size.val = 6 then (BitVec.ofNat 32 v).signExtend 64 else BitVec.ofNat 64 v))) ∧
    (∀ x : MA, issuable s.block c 4 (maIndex x) [x.d.val] = true →
      does (.vld c x) x 7 (.vector x.d.val) (fun k data => setV k x.d.val (BitVec.ofNat 1024 (leNat data)))) ∧
    (∀ (id : Nat) (l : PendLoad), k.loads.find? (fun l => l.id == id) = some l →
      (dmReadSyms s.block l.lines ⟨1, some (ctxNoOf k)⟩).2 = none →
      Completes (.deviceMemoryLineReturn c id) s (fun b =>
        getCore b c = stepBase (writeLoad { k with loads := k.loads.filter (fun q => q.id ≠ id) } l.dst l.data) l.step ∧ othersKept s.block b c))

/-- ST and VST (R180). -/
def Obligations.Stores : Prop :=
  ∀ (s : State) (c : CoreNo),
    let k := getCore s.block c
    let does (i : Instr) (x : MA) (size : Nat) (data : List Byte) : Prop :=
      Memory.wf s.block = true → maKinds x = [] → baseBusy k x.an.val = false →
      ∀ l, judge s.block c (maAddr k x (sizeWidth size)) (sizeWidth size) (sizeAlign size) = .inl l →
        accessWaits s.block c (maAddr k x (sizeWidth size), maAddr k x (sizeWidth size) + sizeWidth size) true = false →
        storeBad s.block l = none →
        Runs c i s (fun b =>
          (∀ j, j < l.length → (∀ m, j < m → m < l.length → l[m]? ≠ l[j]?) →
            ∀ p, l[j]? = some p → readLoc b c p = (data[j]?).getD 0) ∧
          (∀ p, p ∉ l → readLoc b c p = readLoc s.block c p) ∧
          (∀ o : Nat, o ≠ c.val → getCore b o = getCore s.block o) ∧
          ∃ n, 1 ≤ n ∧ getCore b c =
            { inSequence (counted (maAfter (issuing s.block c) x) n) 4 with ls := (getCore b c).ls, portWaits := (getCore b c).portWaits })
    (∀ (size : Fin 7) (x : MA), size.val ≠ 6 → issuable s.block c 4 (maIndex x ++ [x.d.val]) [] = true →
      does (.st c size x) x size.val (leBytes (sizeWidth size.val) (getS k x.d.val).toNat)) ∧
    (∀ x : MA, issuable s.block c 4 (maIndex x) [x.d.val] = true →
      does (.vst c x) x 7 (leBytes 128 (getV k x.d.val).toNat))

/-- Address faults (R77, R203). -/
def Obligations.AddressFaults : Prop :=
  ∀ (s : State) (c : CoreNo) (cls d : Nat),
    let k := getCore s.block c
    let faults (i : Instr) (x : MA) (size : Nat) : Prop :=
      maKinds x = [] → baseBusy k x.an.val = false → judge s.block c (maAddr k x (sizeWidth size)) (sizeWidth size) (sizeAlign size) = .inr (cls, d) →
        cls = 2 ∧ (maAddr k x (sizeWidth size) % sizeAlign size ≠ 0 → d = detail20 3 (maAddr k x (sizeWidth size))) ∧
        Runs c i s (fun b => Faulted s.block b c cls d)
    (∀ (size : Fin 7) (x : MA), issuable s.block c 4 (maIndex x ++ [x.d.val]) [] = true →
      faults (.ld c size x) x size.val ∧ (size.val ≠ 6 → faults (.st c size x) x size.val)) ∧
    (∀ x : MA, issuable s.block c 4 (maIndex x) [x.d.val] = true → faults (.vld c x) x 7 ∧ faults (.vst c x) x 7)

/-- VGTH and VSCT (R186). -/
def Obligations.GatherScatter : Prop :=
  ∀ (s : State) (c : CoreNo) (x : VV), issuable s.block c 4 [] [x.vd.val, x.vb.val] = true → x.va.val < 16 → x.bf16 = false →
    baseBusy (getCore s.block c) x.va.val = false →
    let k := getCore s.block c
    let lanes := lanes32 k x.pred.val
    let addrs := lanes.map (laneAddr k x)
    ∀ ls, judgeAll s.block c 4 4 addrs = .inl ls →
      ((∀ a ∈ addrs, accessWaits s.block c (a, a + 4) false = false) → (sramReads s.block c ls.flatten).2 = none →
        (dmAddrs ls.flatten = [] → Runs c (.vgth c x) s (fun b => ∃ w, Issued s.block b c 4 (fun k => { setV k x.vd.val
          ((lanes.zip ls).foldl (fun v e => bvPut v (32 * e.1) 32 (leNat (e.2.map (readLoc s.block c)))) (getV k x.vd.val)) with
          portWaits := w }))) ∧
        (dmAddrs ls.flatten ≠ [] → Runs c (.vgth c x) s (fun b => othersKept s.block b c ∧
          (getCore b c).v = k.v ∧ ∃ l, (getCore b c).loads = k.loads ++ [l] ∧ l.dst = .gather x.vd.val lanes ∧
            l.data = ls.flatten.map (readLoc s.block c)))) ∧
      (Memory.wf s.block = true → (∀ a ∈ addrs, accessWaits s.block c (a, a + 4) true = false) →
        (∀ l ∈ ls, storeBad s.block l = none) → Runs c (.vsct c x) s (fun b =>
          (∀ p, p ∉ ls.flatten → readLoc b c p = readLoc s.block c p) ∧
          (∀ j i p, (ls.flatten)[j]? = some p → (∀ m, j < m → (ls.flatten)[m]? ≠ some p) → lanes[j / 4]? = some i →
            readLoc b c p = BitVec.ofNat 8 (bvBits (getV k x.vd.val) (32 * i + 8 * (j % 4)) 8)) ∧
          (∀ o : Nat, o ≠ c.val → getCore b o = getCore s.block o) ∧
          ∃ n, 1 ≤ n ∧ getCore b c = { inSequence (counted (issuing s.block c) n) 4 with
            ls := (getCore b c).ls, portWaits := (getCore b c).portWaits }))

/-- The descriptor instructions of R214. -/
def Obligations.Descriptors : Prop :=
  ∀ (s : State) (c : CoreNo) (x : XT),
    let k := getCore s.block c
    let a := (getS k x.sa.val).toNat
    let f := natBits x.opt.toNat 0 3
    let field : Nat × Nat := ([(64, 32), (96, 32), (128, 32), (160, 32), (192, 48), (0, 48), (0, 64)][f]?).getD (0, 0)
    (issuable s.block c 8 [x.sa.val] [] = true → xtUnused x true false false false false true false false 0 = [] →
      (a % 32 = 0 → a + 32 ≤ presentLocal (ctxOf s.block k) →
        (accessWaits s.block c (a, a + 32) false = false → Runs c (.tld c x) s (fun b =>
          Issued s.block b c 8 (fun k => setT k x.td.val (BitVec.ofNat 256 (leNat (memBytes 0 k.ls a 32)))))) ∧
        (accessWaits s.block c (a, a + 32) true = false → Runs c (.tst c x) s (fun b =>
          Issued s.block b c 8 (fun k => { k with ls := memPut 0 k.ls a (leBytes 32 (getT k x.td.val).toNat) })))) ∧
      Runs c (.taddr c x) s (fun b => Issued s.block b c 8 (fun k =>
        setT k x.td.val (bvPut (getT k x.td.val) 0 48 (getS k x.sa.val).toNat)))) ∧
    (issuable s.block c 8 [] [] = true → xtUnused x true true false false false false false false 0 = [] →
      Runs c (.tmov c x) s (fun b => Issued s.block b c 8 (fun k => setT k x.td.val (getT k x.ta.val)))) ∧
    (issuable s.block c 8 [x.sa.val] [] = true → xtUnused x true false false false false true false false 7 = [] →
      (f ≤ 4 → Runs c (.tsetf c x) s (fun b => Issued s.block b c 8 (fun k =>
        setT k x.td.val (bvPut (getT k x.td.val) field.1 field.2 (getS k x.sa.val).toNat)))) ∧
      (4 < f → Runs c (.tsetf c x) s (fun b => Faulted s.block b c 1 (detail20 3 k.pc)))) ∧
    (issuable s.block c 8 [x.sd.val] [] = true → xtUnused x false true false false false false false true 7 = [] →
      (f ≤ 6 → Runs c (.tgetf c x) s (fun b => Issued s.block b c 8 (fun k =>
        setS k x.sd.val (BitVec.ofNat 64 (bvBits (getT k x.ta.val) field.1 field.2))))) ∧
      (f = 7 → Runs c (.tgetf c x) s (fun b => Faulted s.block b c 1 (detail20 3 k.pc))))

/-- Masking (R185). -/
def Obligations.VectorMasking : Prop :=
  ∀ (k : Core) (vd p : Nat) (bf : Bool) (f : Nat → Flagged Nat),
    let w := if bf then 16 else 32
    let n := if bf then 64 else 32
    let r := writeLanes k vd p w n f
    (∀ i, i < n → laneOf w (getV r vd) i = if (getP k p).getLsbD i then (f i).val % 2 ^ w else laneOf w (getV k vd) i) ∧
    (∀ j, r.fstat.getLsbD j = (k.fstat.getLsbD j || (List.range n).any (fun i => (getP k p).getLsbD i && (f i).fl.getLsbD j))) ∧
    r = { k with v := r.v, fstat := r.fstat } ∧ (∀ o, o ≠ vd → getV r o = getV k o)

/-- The vector instructions with two operands, and those of one operand and the conversions (R183, R184, R207; the conversions' flags are the
model's reading, log entry 132). -/
def Obligations.VectorArithmetic : Prop :=
  (∀ (s : State) (c : CoreNo) (x : VV), issuable s.block c 4 [] [x.vd.val, x.va.val, x.vb.val] = true →
      let w := if x.bf16 then 16 else 32
      let n := if x.bf16 then 64 else 32
      let ff : FFmt := if x.bf16 then .bf16 else .fp32
      let lane (k : Core) (v i : Nat) : Nat := laneOf w (getV k v) i
      let fp (i : Instr) (f : Core → Nat → Flagged Nat) : Prop := Runs c i s (fun b =>
        Issued s.block b c 4 (fun k => writeLanes k x.vd.val x.pred.val w n (f k)))
      let int (i : Instr) (f : Word → Word → Word) : Prop := Runs c i s (fun b =>
        Issued s.block b c 4 (fun k => writeLanes k x.vd.val x.pred.val 32 32 (fun i =>
          ⟨(f (BitVec.ofNat 32 (laneOf 32 (getV k x.va.val) i)) (BitVec.ofNat 32 (laneOf 32 (getV k x.vb.val) i))).toNat, 0⟩)))
      ((x.bf16 = false ∨ levelOf s.block (getCore s.block c) ≠ 1) →
        fp (.vadd c x) (fun k i => fadd ff (lane k x.va.val i) (lane k x.vb.val i)) ∧
        fp (.vsub c x) (fun k i => fsub ff (lane k x.va.val i) (lane k x.vb.val i)) ∧
        fp (.vmul c x) (fun k i => fmul ff (lane k x.va.val i) (lane k x.vb.val i)) ∧
        fp (.vmin c x) (fun k i => ⟨fmin ff (lane k x.va.val i) (lane k x.vb.val i), 0⟩) ∧
        fp (.vmax c x) (fun k i => ⟨fmax ff (lane k x.va.val i) (lane k x.vb.val i), 0⟩) ∧
        fp (.vfma c x) (fun k i => ffma ff (lane k x.va.val i) (lane k x.vb.val i) (lane k x.vd.val i))) ∧
      (x.bf16 = false →
        int (.viadd c x) (fun a b => a + b) ∧ int (.visub c x) (fun a b => a - b) ∧ int (.vimul c x) (fun a b => a * b) ∧
        int (.vand c x) (fun a b => a &&& b) ∧ int (.vor c x) (fun a b => a ||| b) ∧ int (.vxor c x) (fun a b => a ^^^ b) ∧
        int (.vshl c x) (fun a b => a <<< (b.toNat % 32)) ∧ int (.vshr c x) (fun a b => a >>> (b.toNat % 32)))) ∧
  (∀ (s : State) (c : CoreNo) (x : VV), issuable s.block c 4 [] [x.vd.val, x.va.val, x.vb.val] = true →
      let w := if x.bf16 then 16 else 32
      let n := if x.bf16 then 64 else 32
      let sign := 2 ^ (w - 1)
      let lane (k : Core) (i : Nat) : Nat := laneOf w (getV k x.va.val) i
      let does (i : Instr) (w n : Nat) (f : Core → Nat → Flagged Nat) : Prop := Runs c i s (fun b =>
        Issued s.block b c 4 (fun k => writeLanes k x.vd.val x.pred.val w n (f k)))
      let trans (g : Nat → Flagged Nat) (a : Nat) : Flagged Nat :=
        if x.bf16 then
          let r := g (fwiden .bf16 a)
          let q := fconvert .fp32 .bf16 r.val
          ⟨q.val, r.fl ||| q.fl⟩
        else g a
      let level2 : Prop := levelOf s.block (getCore s.block c) ≠ 1
      (x.vb.val = 0 → (x.bf16 = false ∨ level2) →
        does (.vabs c x) w n (fun k i => ⟨lane k i % sign, 0⟩) ∧
        does (.vneg c x) w n (fun k i => ⟨if sign ≤ lane k i then lane k i - sign else lane k i + sign, 0⟩) ∧
        does (.vrcp c x) w n (fun k i => trans frcp (lane k i)) ∧ does (.vrsq c x) w n (fun k i => trans frsq (lane k i)) ∧
        does (.vexp2 c x) w n (fun k i => trans fexp2 (lane k i)) ∧ does (.vlog2 c x) w n (fun k i => trans flog2 (lane k i)) ∧
        (level2 → does (.vtanh c x) w n (fun k i => trans ftanh (lane k i)))) ∧
      (x.vb.val = 0 → x.bf16 = false →
        does (.vcvtif c x) 32 32 (fun k i => fofInt .fp32 (BitVec.ofNat 32 (lane k i)).toInt) ∧
        does (.vcvtfi c x) 32 32 (fun k i => ⟨((ftoS32 (lane k i)).val % 2 ^ 32).toNat, (ftoS32 (lane k i)).fl⟩)) ∧
      (x.bf16 = true → level2 →
        does (.vnarrow c x) 16 64 (fun k i => fconvertIn .fp32 .bf16
          (if i < 32 then laneOf 32 (getV k x.va.val) i else laneOf 32 (getV k x.vb.val) (i - 32))) ∧
        (x.vb.val = 0 →
          does (.vwidenl c x) 32 32 (fun k i => fconvertIn .bf16 .fp32 (laneOf 16 (getV k x.va.val) i)) ∧
          does (.vwidenh c x) 32 32 (fun k i => fconvertIn .bf16 .fp32 (laneOf 16 (getV k x.va.val) (32 + i))))))

/-- VSEL, VRSUM, VRMAX, VBCAST, VEXTR and VCMP (R183, R184). -/
def Obligations.VectorSelects : Prop :=
  ∀ (s : State) (c : CoreNo) (x : VV), (x.bf16 = false ∨ levelOf s.block (getCore s.block c) ≠ 1) →
    let w := if x.bf16 then 16 else 32
    let n := if x.bf16 then 64 else 32
    let ff : FFmt := if x.bf16 then .bf16 else .fp32
    let pre := issuing s.block c
    let act (i : Nat) : Bool := (getP pre x.pred.val).getLsbD i
    (issuable s.block c 4 [] [x.vd.val, x.va.val, x.vb.val] = true →
      (∃ v : BitVec 1024, (∀ i, i < n → laneOf w v i = laneOf w (getV pre (if act i then x.va.val else x.vb.val)) i) ∧
        Runs c (.vsel c x) s (fun b => Issued s.block b c 4 (fun k => setV k x.vd.val v))) ∧
      (x.vb.val = 0 →
        let lane (i : Nat) : Nat := laneOf w (getV pre x.va.val) i
        let add (a b : Flagged Nat) : Flagged Nat := ⟨(fadd .fp32 a.val b.val).val, a.fl ||| b.fl ||| (fadd .fp32 a.val b.val).fl⟩
        let sum := (treeFold add 6 ((List.range n).map (fun i =>
          if act i then some (⟨fwiden ff (lane i), 0⟩ : Flagged Nat) else none))).getD ⟨0, 0⟩
        let top := (treeFold (fmax ff) 6 ((List.range n).map (fun i => if act i then some (lane i) else none))).getD (ff.inf true)
        (x.bf16 = false → Runs c (.vrsum c x) s (fun b => Issued s.block b c 4 (fun k =>
          addFlags (setV k x.vd.val (BitVec.ofNat 1024 sum.val)) sum.fl))) ∧
        (x.bf16 = true → Runs c (.vrsum c x) s (fun b => Issued s.block b c 4 (fun k =>
          addFlags (setV k x.vd.val (BitVec.ofNat 1024 (fconvert .fp32 .bf16 sum.val).val)) (sum.fl ||| (fconvert .fp32 .bf16 sum.val).fl)))) ∧
        Runs c (.vrmax c x) s (fun b => Issued s.block b c 4 (fun k =>
          setV k x.vd.val (BitVec.ofNat 1024 (if fisNan ff top then ff.nan else top))))) ∧
      (x.vb.val = 0 → (∀ i, i < n → act i = false) →
        Runs c (.vrsum c x) s (fun b => Issued s.block b c 4 (fun k => setV k x.vd.val 0)) ∧
        Runs c (.vrmax c x) s (fun b => Issued s.block b c 4 (fun k => setV k x.vd.val (BitVec.ofNat 1024 (ff.inf true)))))) ∧
    (issuable s.block c 4 [x.va.val] [x.vd.val] = true → x.vb.val = 0 →
      Runs c (.vbcast c x) s (fun b => Issued s.block b c 4 (fun k =>
        writeLanes k x.vd.val x.pred.val w n (fun _ => ⟨(getS k x.va.val).toNat % 2 ^ w, 0⟩)))) ∧
    (issuable s.block c 4 [x.vd.val, x.vb.val] [x.va.val] = true → x.pred.val = 0 →
      Runs c (.vextr c x) s (fun b => Issued s.block b c 4 (fun k =>
        setS k x.vd.val (BitVec.ofNat 64 (laneOf w (getV k x.va.val) ((getS k x.vb.val).toNat % n)))))) ∧
    (issuable s.block c 4 [] [x.va.val, x.vb.val] = true → x.vd.val < 8 → ∀ fn : Fin 6, (fn.val < 4 ∨ x.bf16 = false) →
      let holds (i : Nat) : Bool :=
        let a := laneOf w (getV pre x.va.val) i
        let b := laneOf w (getV pre x.vb.val) i
        match fn.val with
        | 0 => feq ff a b
        | 1 => !feq ff a b
        | 2 => flt ff a b
        | 3 => fle ff a b
        | 4 => a == b
        | _ => decide ((BitVec.ofNat 32 a).toInt < (BitVec.ofNat 32 b).toInt)
      ∃ v : DWord, (∀ i, i < 64 → v.getLsbD i = (decide (i < n) && act i && holds i)) ∧
        Runs c (.vcmp c fn x) s (fun b => Issued s.block b c 4 (fun k => setP k x.vd.val v)))

/-- The decode of the long instructions (R128, R196, R218). -/
def Obligations.LongDecode : Prop :=
  ∀ (s : State) (c : CoreNo) (x : XT),
    let k := getCore s.block c
    let waits (i : Instr) (kind : LongKind) (timed : Bool) (kinds : List Nat) (check : DFault) : Prop :=
      decodable s.block c [x.sa.val, x.sb.val, x.sd.val] timed = true → kinds = [] → check = none →
        Runs c i s (fun b => othersKept s.block b c ∧ ∃ r a g, (r = .operandWait ∨ kind = .amul ∧ r = .admitWait) ∧
          getCore b c = { k with
            waiting := some { kind := kind, x := x, off := k.pc, timed := k.timed }, timed := none, run := r, asked := a, resident := g,
            since := s.block.now })
    let noLoad : Prop := ∀ l ∈ longs k, l.kind ≠ .pqload
    let opt := x.opt.toNat
    waits (.amul c x) .amul true (amulKinds s.block c x) (amulChecks x c s.block) ∧
    waits (.range c x) .range true (xtUnused x true true true (natBit opt 9) false true true false 0xFFF ++ groupKinds s.block c opt)
      (rangeChecks x c s.block) ∧
    waits (.qconv c x) .qconv true
      (xtUnused x true true true (natBit opt 0) false (natBit opt 4) false false 0x1F ++ groupKinds s.block c opt)
      (qconvChecks x c s.block) ∧
    waits (.dqconv c x) .dqconv true (xtUnused x true true true (natBit opt 0) false false false false 0xF ++ groupKinds s.block c opt)
      (dqconvChecks x c s.block) ∧
    waits (.tpack c x) .tpack true (xtUnused x true true false false false false false true 1) (tpackChecks x c s.block) ∧
    waits (.selt c x) .selt false (xtUnused x true true false false false true true false 3 ++ k2 s.block c (natBit opt 1))
      (seltChecks x c s.block) ∧
    waits (.topk c x) .topk false (xtUnused x true true false false false false true false 0x1F) (topkChecks x c s.block) ∧
    waits (.pqload c x) .pqload false (xtUnused x false true false false false false false false 0) (pqloadChecks x c s.block) ∧
    (natBits opt 0 2 = 1 → noLoad → waits (.pqscan c x) .pqscan false (xtUnused x true true false false false true true true 7)
      (pqscanChecks x c s.block)) ∧
    (natBits opt 0 2 = 0 → noLoad → waits (.pqscan c x) .pqscan false (xtUnused x true true false false false true false false 3)
      (pqscanChecks x c s.block)) ∧
    (natBits opt 0 2 = 2 → noLoad → waits (.pqscan c x) .pqscan false (xtUnused x true true false false false true true false 0xFB)
      (pqscanChecks x c s.block)) ∧
    waits (.chkv c x) .chkv false (xtUnused x false true false false false true (natBit opt 0) true 3) (chkvChecks x c s.block)

/-- LONG_ISSUE_POINT, ARRAY_ISSUE_POINT and ADMISSION_GRANT (R30, R128, R197, R200, R262). -/
def Obligations.IssuePoints : Prop :=
  ∀ (s : State) (c : CoreNo) (l : Long),
    let k := getCore s.block c
    let cap := capture k { l with list := [] }
    let detached (b : Block) : Prop :=
      (getCore b c).waiting = none ∧ (getCore b c).det = some { cap with pinned := true } ∧
        (getCore b c).drains = k.drains ++ k.det.toList ∧ (getCore b c).run = .running ∧
        (getCore b c).pc = (inSequence k 8).pc ∧ (getCore b c).lc = (inSequence k 8).lc ∧ (getCore b c).loops = (inSequence k 8).loops ∧
        (getCore b c).s = k.s ∧ (getCore b c).v = k.v ∧ (getCore b c).t = k.t ∧ othersKept s.block b c
    let first : Prop := k.waiting = some l ∧ (∀ d, k.det = some d → d.parked = false) ∧ l.parked = false ∧ l.timed = none ∧ l.unit = 0 ∧
      l.pass = 0 ∧ s.block.sramErr = [] ∧ (loopEnd 4 k (k.pc + 8)).2 < codeLen s.block k
    let works (b : Block) : Prop :=
      detached b ∧ (getCore b c).array = modeOf l ∧ (getCore b c).ramping = true ∧ (getCore b c).ls = k.ls
    (first → amulList l.x = 0 → amulPasses cap ≠ [] →
      (issueReady s.block c true = true → mayAdmit s.block c s.block.now (modeOf l) = true → Completes (.arrayIssuePoint c) s works) ∧
      (∀ t, l.kind = .amul → k.run = .admitWait → k.asked = some t → atIssue s.block c l = true →
        mayAdmit s.block c t (modeOf l) = true → Completes (.admissionGrant c) s works)) ∧
    (toIssue k = some l → issueReady s.block c true = true → mayAdmit s.block c s.block.now (modeOf l) = false →
      Completes (.arrayIssuePoint c) s (fun b =>
        getCore b c = { k with asked := some s.block.now, run := .admitWait } ∧ othersKept s.block b c)) ∧
    (first → issueReady s.block c false = true → l.kind ≠ .chkv →
      Completes (.longIssuePoint c) s (fun b => detached b ∧ (l.kind ≠ .range → (getCore b c).ls = k.ls) ∧
        (l.kind = .selt ∨ l.kind = .topk → (getCore b c).live = []))) ∧
    (k.det = some l → l.parked = true → l.unit ≠ 0 →
      let resumed (b : Block) : Prop :=
        (getCore b c).det = some { l with parked := false, pinned := true, moved := false, fed := false } ∧ (getCore b c).run = .running ∧
        (getCore b c).pc = k.pc ∧ (getCore b c).s = k.s ∧ (getCore b c).ls = k.ls ∧ othersKept s.block b c
      (issueReady s.block c true = true → mayAdmit s.block c s.block.now (modeOf l) = true →
        Completes (.arrayIssuePoint c) s (fun b => resumed b ∧ (getCore b c).array = modeOf l)) ∧
      (issueReady s.block c false = true → Completes (.longIssuePoint c) s resumed))

/-- ARRAY_RESUMABLE_POINT (R138, R140, R227). -/
def Obligations.ArrayResumablePoint : Prop :=
  ∀ (s : State) (c : CoreNo) (l : Long) (p : Pass),
    let k := getCore s.block c
    let td := descOf l.td
    let ta := descOf l.ta
    let g := groupSize (dG (descOf l.tc))
    let w : Weights := ⟨ta.addr, (ta.d1 + 63) / 64, (ta.d0 + 63) / 64, ta.s1, ta.fmt⟩
    let n := if g = 32 then 2 else 1
    let qs := if g = 128 then [2 * l.unit, 2 * l.unit + 1].filter (fun q => decide (q < w.q)) else [l.unit * g / 64]
    let written : List Nat := (passEntries p).flatMap (fun e => (List.range 64).filterMap (fun col =>
      if ta.d1 ≤ e.2.2.1 * 64 + col then none else some (e.2.2.2 * 64 + col + td.d0 * (p.v0 + e.1))))
    let kept (b : Block) : Prop := (getCore b c).pc = k.pc ∧ (getCore b c).s = k.s ∧ (getCore b c).v = k.v ∧ othersKept s.block b c
    k.det = some l → l.kind = .amul → l.parked = false → l.ended = false → (amulPasses l)[l.pass]? = some p →
      (∀ tiles, fetchInputs s.block c w p l qs = .inl tiles →
        let went := { l with moved := true, fed := l.fed || qs.any (fun q => tiles.any (fun t => t.1 == q)) }
        (l.unit + n < (ta.d0 + g - 1) / g → Completes (.arrayResumablePoint c) s (fun b =>
          (getCore b c).det = some { went with unit := l.unit + n } ∧ (getCore b c).run = k.run ∧ (getCore b c).ls = k.ls ∧ kept b)) ∧
        ((ta.d0 + g - 1) / g ≤ l.unit + n → (amulPasses l)[l.pass + 1]? = none → Memory.wf s.block = true →
          Completes (.arrayResumablePoint c) s (fun b =>
            (getCore b c).det = some { went with pass := l.pass + 1, unit := 0, ended := true } ∧ (getCore b c).run = k.run ∧ kept b ∧
              ∀ a, (∀ i ∈ written, a < td.addr + elemBit td i / 8 ∨ td.addr + elemBit td i / 8 + max 1 (fmtContainer td.fmt / 8) ≤ a) →
                getLs b c a = getLs s.block c a))) ∧
      (∀ kind idx, fetchInputs s.block c w p l qs = .inr (kind, idx) → Completes (.arrayResumablePoint c) s (fun b =>
        (getCore b c).run = .faulted ∧ (getCore b c).fault = faultWord 6 (kind * 2 ^ 20 + idx % 2 ^ 20) ∧
          (getCore b c).faultOff = BitVec.ofNat 32 l.off ∧ (getCore b c).ls = k.ls ∧ kept b))

/-- LONG_RESUMABLE_POINT (R241, R244, R262, R265). -/
def Obligations.LongResumablePoint : Prop :=
  ∀ (s : State) (c : CoreNo) (l : Long),
    let k := getCore s.block c
    let td := descOf l.td
    let total := (descOf l.ta).d0 * (descOf l.ta).d1 * (descOf l.ta).d2
    let hi := min total (l.unit + 16384)
    let bytes := (descOf l.ta).d1 * (descOf l.ta).d2 * rowBytes (descOf l.ta)
    let codes := (descOf l.ta).d1 * (descOf l.ta).d2
    let mapLen := 8 * ((((descOf l.ta).d1 + 63) / 64 * (((descOf l.ta).d0 + 63) / 64) + 63) / 64)
    let kept (b : Block) : Prop := (getCore b c).pc = k.pc ∧ (getCore b c).v = k.v ∧ (getCore b c).run = k.run ∧ othersKept s.block b c
    k.det = some l → l.parked = false → l.ended = false → Memory.wf s.block = true →
      ((l.kind = .qconv ∧ natBit l.x.opt.toNat 4 = false ∨ l.kind = .dqconv) → Completes (.longResumablePoint c) s (fun b =>
        (getCore b c).det = some { l with unit := hi, ended := decide (hi = total), moved := true } ∧ (getCore b c).s = k.s ∧ kept b ∧
          ∀ a, (∀ i, l.unit ≤ i → i < hi → a < td.addr + elemBit td i / 8 ∨
            td.addr + elemBit td i / 8 + max 1 (fmtContainer td.fmt / 8) ≤ a) → getLs b c a = getLs s.block c a)) ∧
      (l.kind = .selt → Completes (.longResumablePoint c) s (fun b =>
        (getCore b c).det = some { l with unit := hi, ended := decide (hi = total), moved := true } ∧ (getCore b c).s = k.s ∧ kept b ∧
          ∀ a, a < td.addr ∨ td.addr + 32 + 4 * td.d0 ≤ a → getLs b c a = getLs s.block c a)) ∧
      (l.kind = .range → Completes (.longResumablePoint c) s (fun b =>
        ((getCore b c).det.map (·.unit)) = some hi ∧ (getCore b c).s = k.s ∧ kept b)) ∧
      (l.kind = .topk ∨ l.kind = .tpack → hi ≠ total → Completes (.longResumablePoint c) s (fun b =>
        ((getCore b c).det.map (·.unit)) = some hi ∧ ((getCore b c).det.map (·.ended)) = some false ∧ (getCore b c).s = k.s ∧ kept b ∧
          ∀ a, a < td.addr ∨ td.addr + (if l.kind = .topk then 32 else mapLen) ≤ a → getLs b c a = getLs s.block c a)) ∧
      ((l.kind = .qconv ∨ l.kind = .topk ∧ hi = total) → Completes (.longResumablePoint c) s (fun b =>
        ((getCore b c).det.map (·.unit)) = some hi ∧ ((getCore b c).det.map (·.ended)) = some (decide (hi = total)) ∧
          (getCore b c).s = k.s ∧ kept b)) ∧
      (l.kind = .pqscan → Completes (.longResumablePoint c) s (fun b =>
        ((getCore b c).det.map (·.unit)) = some (min codes (l.unit + 2048 / max 1 ((rowBytes (descOf l.ta) + 7) / 8))) ∧
          (getCore b c).s = k.s ∧ kept b)) ∧
      (l.kind = .chkv → Completes (.longResumablePoint c) s (fun b =>
        ((getCore b c).det.map (·.unit)) = some (min bytes (l.unit + 65536)) ∧ (getCore b c).ls = k.ls ∧ kept b ∧
          ∀ r, r ≠ l.x.sd.val → getS (getCore b c) r = getS k r))

/-- LONG_COMPLETE, ARRAY_RESULT_READY, ARRAY_RAMP_DOWN_END (R132, R136, R197). -/
def Obligations.LongCompletes : Prop :=
  ∀ (s : State) (c : CoreNo) (l : Long),
    let k := getCore s.block c
    let gone (b : Block) : Prop :=
      (∀ d ds, k.drains = d :: ds → (getCore b c).drains = ds ∧ (getCore b c).det = k.det) ∧
      (k.drains = [] → (getCore b c).det = none ∧ (getCore b c).drains = []) ∧
      (getCore b c).pc = k.pc ∧ (getCore b c).ls = k.ls ∧ (getCore b c).v = k.v ∧ b.dm = s.block.dm ∧ b.cs = s.block.cs
    (∀ rest, longs k = l :: rest → l.kind = .amul → l.ended = true →
      Completes (.arrayResultReady c) s (fun b => gone b ∧ (getCore b c).s = k.s ∧ (getCore b c).acc = k.acc)) ∧
    (∀ rest, longs k = l :: rest → l.kind ≠ .amul → l.parked = false → l.ended = true ∨ l.kind = .pqload →
      Completes (.longComplete c) s (fun b => gone b ∧
        (l.kind ≠ .tpack → (getCore b c).s = k.s) ∧
        (l.kind = .tpack → (getCore b c).s = (setS k l.x.sd.val (BitVec.ofNat 64 ((l.scratch.head?).getD 0))).s) ∧
        (l.kind ≠ .pqload → (getCore b c).pq = k.pq) ∧
        (l.kind = .pqload → (getCore b c).pq = some ⟨(descOf l.ta).d0, (descOf l.ta).d1,
          (List.range ((descOf l.ta).d0 * (descOf l.ta).d1)).map (fun i => BitVec.ofNat 32 (readElem s.block c (descOf l.ta) i))⟩))) ∧
    (k.ramping = true → (∀ d, k.det = some d → d.kind = .amul → d.ended = true ∨ d.parked = true) →
      Completes (.arrayRampDownEnd c) s (fun b => getCore b c = { k with ramping := false, array := .idle } ∧ othersKept s.block b c))

/-- The decode of the posted instructions (R218, R220). -/
def Obligations.PostedDecode : Prop :=
  ∀ (s : State) (c : CoreNo) (x : XT), decodable s.block c [x.sa.val, x.sb.val] true = true →
    let k := getCore s.block c
    let waits (i : Instr) (kind : PostKind) (kinds : List Nat) (check : DFault) : Prop :=
      kinds = [] → check = none → Runs c i s (fun b => othersKept s.block b c ∧
        getCore b c = { k with
          postWait := some { id := 0, kind := kind, x := x, off := k.pc, timed := k.timed }, timed := none,
          run := if k.timed.isSome then .operandWait else k.run })
    waits (.move c x) .move (xtUnused x true true false false true (natBit x.opt.toNat 0) false false 1) (moveChecks x c s.block) ∧
    waits (.mrd c x) .mrd (xtUnused x true false false false true false true false 0xF) (mediaChecks x c false s.block) ∧
    waits (.mwr c x) .mwr (xtUnused x true false false false true false true false 0xF) (mediaChecks x c true s.block) ∧
    waits (.cred c x) .cred (collKinds s.block c .cred x) (collChecks .cred x c s.block) ∧
    waits (.cbcast c x) .cbcast (collKinds s.block c .cbcast x) (collChecks .cbcast x c s.block) ∧
    waits (.ccat c x) .ccat (collKinds s.block c .ccat x) (collChecks .ccat x c s.block) ∧
    waits (.ctopk c x) .ctopk (collKinds s.block c .ctopk x) (collChecks .ctopk x c s.block) ∧
    waits (.cbar c x) .cbar (collKinds s.block c .cbar x) (collChecks .cbar x c s.block)

/-- POSTED_ACCEPT and POSTED_FINISH (R220, R221, R234, R236). -/
def Obligations.PostedFinishes : Prop :=
  ∀ (s : State) (c : CoreNo) (p : Posted),
    let k := getCore s.block c
    (k.postWait = some p → k.stop = none → p.timed = none → longs k = [] → k.posted.length < 64 → tagsUsed s.block < 262144 →
      (contribCheck s.block c (capturePost s.block c p).1).2 = none → (loopEnd 4 k (k.pc + 8)).2 < codeLen s.block k →
      Completes (.postedAccept c) s (fun b =>
        b.nextPost = s.block.nextPost + 1 ∧ (getCore b c).postWait = none ∧ (getCore b c).run = .running ∧
          (∃ q, (getCore b c).posted = k.posted ++ [q] ∧ q.id = s.block.nextPost ∧ q.kind = p.kind ∧ q.x = p.x) ∧
          getSet (getCore b c) p.x.set.val =
            { getSet k p.x.set.val with unfinished := (getSet k p.x.set.val).unfinished + 1 } ∧
          (getCore b c).pc = (inSequence k 8).pc ∧ (getCore b c).s = k.s ∧ (getCore b c).v = k.v ∧ (getCore b c).ls = k.ls ∧
          othersKept s.block b c)) ∧
    (∀ (x : CtxNo) (rank id : Nat) (bad : List Nat), seatOf s.block x rank = .placed c → k.posted.find? (fun p => p.id == id) = some p →
      let n := extentLen (descOf p.td)
      let ends : Prop := ∃ w, Completes (.postedFinish x rank id bad) s (fun b => PostEnded s.block b c p w)
      (p.kind = .move → p.arrived = true → Completes (.postedFinish x rank id bad) s (fun b => PostEnded s.block b c p 0)) ∧
      (p.kind = .move → p.arrived = false → moveRoute s.block (.placed c) p = none →
        moveCut s.block (.placed c) p = false → moveFree s.block (.placed c) p = true → ends) ∧
      (p.kind = .move → p.arrived = false → natBit p.x.opt.toNat 0 = false → moveFree s.block (.placed c) p = true →
        Memory.wf s.block = true → s.block.sramErr = [] → (fmtContainer (descOf p.td).fmt = 4 → (descOf p.td).d0 % 2 = 0) →
        ∀ a a' m, tensorRows (descOf p.td) = [(a, m)] → tensorRows (descOf p.ta) = [(a', m)] → a < csBase → a' < csBase →
          Completes (.postedFinish x rank id bad) s (fun b => PostEnded s.block b c p 0 ∧
            (∀ i < m, getLs b c (a + i) = getLs s.block c (a' + i)) ∧
            ∀ y, y < a ∨ a + m ≤ y → getLs b c y = getLs s.block c y)) ∧
      (∀ bn, bindingOf s.block (ctxNoOf k) (natBits p.x.opt.toNat 0 4) = some bn →
        (p.kind = .mrd → destBusy s.block (.placed c) p (extent (descOf p.td)) = false →
          mediaWaits s.block bn.1.nsid p.sb.toNat (n / max 1 bn.2.lba) = false → ends) ∧
        (p.kind = .mwr → p.arrived = true → buffered s.block bn.1.nsid p.sb.toNat (n / max 1 bn.2.lba) = false →
          Completes (.postedFinish x rank id bad) s (fun b => PostEnded s.block b c p 0)) ∧
        (p.kind = .mwr → p.arrived = false → s.block.med.readOnly = false → bufferRoom s.block n = true →
          writeThrough s.block = false → ends)))

/-- FABRIC_TRANSFER_ARRIVAL, FABRIC_TRANSFER_ERROR, POSTED_FAILURE (R87 to R89, R237). -/
def Obligations.Transfers : Prop :=
  ∀ (s : State) (x : CtxNo) (rank id : Nat) (c : CoreNo) (p : Posted),
    let k := getCore s.block c
    seatOf s.block x rank = .placed c → k.posted.find? (fun p => p.id == id) = some p →
      (p.kind = .move → p.arrived = false →
        (∀ route d, moveRoute s.block (.placed c) p = some route → moveTarget s.block (.placed c) p = .placed d →
          moveCut s.block (.placed c) p = false → earlierTransfers s.block route p = false → moveFree s.block (.placed c) p = true → s.block.sramErr = [] →
          (∀ r ∈ tensorRows (descOf p.ta) ++ tensorRows (descOf p.td), r.1 < csBase) →
          Completes (.fabricTransferArrival x rank id) s (fun b =>
            (getCore b c).posted = k.posted.map (fun q => if q.id = p.id then { q with arrived := true } else q) ∧
              (getCore b c).sets = k.sets ∧ (getCore b c).s = k.s ∧ b.dm = s.block.dm ∧ b.cs = s.block.cs ∧
              ∀ o : Nat, o ≠ c.val → o ≠ d → getCore b o = getCore s.block o)) ∧
        (∀ d, moveTarget s.block (.placed c) p = .placed d → natBit p.x.opt.toNat 0 = true → (descOf p.td).addr < dmBase →
          unreachable s.block d = true → Completes (.fabricTransferError x rank id) s (fun b => PostEnded s.block b c p 0x08400000))) ∧
      (∀ (kind : Fin 3) (block : BitVec 16),
        (p.kind = .move → Completes (.postedFailure x rank id kind block) s (fun b =>
          PostEnded s.block b c p (faultWord 8 ((4 + kind.val) * 2 ^ 20)))) ∧
        (p.kind = .mrd → kind.val ≠ 2 → Completes (.postedFailure x rank id kind block) s (fun b =>
          PostEnded s.block b c p (faultWord 8 ((4 + kind.val) * 2 ^ 20)))) ∧
        (∀ bn, p.kind = .mrd → kind.val = 2 → bindingOf s.block (ctxNoOf k) (natBits p.x.opt.toNat 0 4) = some bn →
          destBusy s.block (.placed c) p (extent (descOf p.td)) = false →
          mediaWaits s.block bn.1.nsid p.sb.toNat (extentLen (descOf p.td) / max 1 bn.2.lba) = false →
          ∃ w, Completes (.postedFailure x rank id kind block) s (fun b => PostEnded s.block b c p w)) ∧
        (p.kind = .mwr → Completes (.postedFailure x rank id kind block) s (fun b =>
          PostEnded s.block b c p (faultWord 8 ((4 + kind.val) * 2 ^ 20)) ∧ (getCore b c).ls = k.ls ∧ b.dm = s.block.dm)))

/-- MERGE_READY, MERGE_COMPLETE, COLLECTIVE_FINISH, COLLECTIVE_MEMBER_LOST (R82 to R84, R246, R249). -/
def Obligations.Collectives : Prop :=
  ∀ s : State,
    (∀ (x : CtxNo) (group n : Nat) (q : Coll), findColl s.block (.team x group) n = some q →
      (q.stage = .gathering → collComplete s.block q = true → teamCluster s.block (.team x group) ≠ none →
        Completes (.mergeReady x group n) s (fun b =>
          findColl b (.team x group) n = some { q with stage := .queued s.block.now } ∧ b = { s.block with colls := b.colls })) ∧
      (∀ t g, q.stage = .queued t → teamCluster s.block (.team x group) = some g →
        (∀ o ∈ s.block.colls, ∀ u, o.stage = .queued u → teamCluster s.block o.scope = some g → mergeBefore s.block o q = false) →
        Completes (.mergeComplete x group n) s (fun b =>
          findColl b (.team x group) n = some { q with stage := .merged } ∧
            b = { s.block with colls := b.colls, pages := b.pages }))) ∧
    (∀ (x : CtxNo) (rank id : Nat) (c : CoreNo) (p : Posted) (scope : CollScope) (ord : Nat) (q : Coll),
      let k := getCore s.block c
      seatOf s.block x rank = .placed c → k.posted.find? (fun p => p.id == id) = some p →
      postedScope s.block (.placed c) p = some (scope, ord) → findColl s.block scope p.seq = some q →
      let failed (b : Block) (w : Word) : Prop :=
        (∀ o ∈ (getCore b c).posted, o.id ≠ p.id) ∧
          ((getSet k p.x.set.val).word ≠ 0 → (getSet (getCore b c) p.x.set.val).word = (getSet k p.x.set.val).word) ∧
          ((getSet k p.x.set.val).word = 0 → (getSet (getCore b c) p.x.set.val).word = w)
      (collComplete s.block q = true → mergeDone s.block q = true →
        (p.td = 0 ∨ destBusy s.block (.placed c) p (extent (descOf p.td)) = false) →
        (collAgree q = false → Completes (.collectiveFinish x rank id) s (fun b => failed b 0x09100000)) ∧
        (collAgree q = true → ∀ h els bytes fl, q.parts.head? = some h →
          combineParts p.seq (descOf p.td).d0 ((localShape q).getD h.shape) q.parts = some (els, bytes, fl) →
          Completes (.collectiveFinish x rank id) s (fun b => PostEnded s.block b c p 0) ∧
          (∀ a m, p.td ≠ 0 → (descOf p.td).kind = 0 → fmtContainer (descOf p.td).fmt ≠ 4 → tensorRows (descOf p.td) = [(a, m)] →
            a < csBase → Memory.wf s.block = true → (els.flatMap (leBytes (partWidth (descOf p.td).fmt))).length = m →
            Completes (.collectiveFinish x rank id) s (fun b =>
              memBytes 0 (getCore b c).ls a m = els.flatMap (leBytes (partWidth (descOf p.td).fmt)) ∧
                ∀ y, y < a ∨ a + m ≤ y → getLs b c y = getLs s.block c y)))) ∧
      (∀ remote, memberLost s.block q = true → Completes (.collectiveMemberLost x rank id remote) s (fun b => failed b 0x09200000)))

/-- TWAIT, TWAIT_DONE, TAT, TIMED_LAUNCH_TIME (R223, R250, R251). -/
def Obligations.WaitsAndTimes : Prop :=
  ∀ (s : State) (c : CoreNo),
    let k := getCore s.block c
    let named (x : XT) : List Nat := (List.range 8).filter (fun i => natBit x.opt.toNat i)
    let word (k : Core) (x : XT) : Word := (((named x).map (fun i => (getSet k i).word)).find? (fun w => w ≠ 0)).getD 0
    let cleared (x : XT) (k : Core) : Core :=
      setS ((named x).foldl (fun k i => putSet k i { getSet k i with word := 0 }) k) x.sd.val ((word k x).zeroExtend 64)
    let faults (ends : (Block → Prop) → Prop) (x : XT) : Prop := ends (fun b =>
      (getCore b c).run = .faulted ∧ (getCore b c).fault = word k x ∧ (getCore b c).faultOff = BitVec.ofNat 32 k.pc ∧
        (getCore b c).pc = k.pc ∧ (getCore b c).s = (cleared x k).s ∧ (getCore b c).ls = k.ls ∧ othersKept s.block b c)
    (∀ x : XT, issuable s.block c 8 [x.sd.val] [] = true → xtUnused x false false false false false false false true 0x1FF = [] →
      (twaitReady k x = true → word k x = 0 ∨ natBit x.opt.toNat 8 = true →
        Runs c (.twait c x) s (fun b => Issued s.block b c 8 (cleared x))) ∧
      (twaitReady k x = true → word k x ≠ 0 → natBit x.opt.toNat 8 = false → faults (Runs c (.twait c x) s) x) ∧
      (twaitReady k x = false → Runs c (.twait c x) s (fun b =>
        (getCore b c).twait = some x ∧ (getCore b c).pc = k.pc ∧ (getCore b c).s = k.s ∧ (getCore b c).sets = k.sets ∧
          othersKept s.block b c))) ∧
    (∀ x : XT, k.twait = some x → twaitReady k x = true → k.stop = none → k.run = .running →
      (word k x = 0 ∨ natBit x.opt.toNat 8 = true → (loopEnd 4 k (k.pc + 8)).2 < codeLen s.block k →
        Completes (.twaitDone c) s (fun b =>
          getCore b c = inSequence (cleared x { k with twait := none }) 8 ∧ othersKept s.block b c)) ∧
      (word k x ≠ 0 → natBit x.opt.toNat 8 = false → faults (Completes (.twaitDone c) s) x)) ∧
    (∀ x : XT, issuable s.block c 8 [x.sa.val, x.sd.val] [] = true → levelOf s.block k ≠ 1 →
      xtUnused x false false false false false true false true 1 = [] → Runs c (.tat c x) s (fun b =>
        Issued s.block b c 8 (fun k => { k with
          timed := some ⟨(getS k x.sa.val).toNat, natBit x.opt.toNat 0, x.sd.val, k.pc⟩ }))) ∧
    (∀ (l : Long) (t : Timed), k.waiting = some l → l.timed = some t → l.parked = false → (∀ d, k.det = some d → d.parked = false) →
      issueReady s.block c (l.kind == .amul) = true → (l.kind = .amul → mayAdmit s.block c s.block.now (modeOf l) = true) →
      (loopEnd 4 k (k.pc + 8)).2 < codeLen s.block k →
      (launchDropped s.block (some t) = true → Completes (.timedLaunchTime c) s (fun b =>
        getCore b c = inSequence { setS (issuing s.block c) t.sd 1 with
          waiting := none, run := .running, asked := none, resident := false } 8 ∧
          othersKept s.block b c)) ∧
      (launchDropped s.block (some t) = false → l.kind = .qconv ∨ l.kind = .dqconv ∨ l.kind = .tpack → s.block.sramErr = [] →
        Completes (.timedLaunchTime c) s (fun b =>
          (getCore b c).waiting = none ∧ ((getCore b c).det.map (·.off)) = some l.off ∧ (getCore b c).run = .running ∧
            (getCore b c).s = (setS k t.sd 0).s ∧ (getCore b c).ls = k.ls ∧ (getCore b c).pc = (inSequence k 8).pc ∧
            othersKept s.block b c))) ∧
    (∀ (p : Posted) (t : Timed), k.waiting = none → k.postWait = some p → p.timed = some t → t.time ≤ s.block.now → k.stop = none →
      longs k = [] → k.posted.length < 64 → tagsUsed s.block < 262144 → (loopEnd 4 k (k.pc + 8)).2 < codeLen s.block k →
      (launchDropped s.block (some t) = true → Completes (.timedLaunchTime c) s (fun b =>
        getCore b c = inSequence { setS (issuing s.block c) t.sd 1 with postWait := none, run := .running } 8 ∧ othersKept s.block b c)) ∧
      (launchDropped s.block (some t) = false → p.kind = .move ∨ p.kind = .mrd ∨ p.kind = .mwr →
        Completes (.timedLaunchTime c) s (fun b =>
          (getCore b c).postWait = none ∧ (getCore b c).posted.length = k.posted.length + 1 ∧ (getCore b c).run = .running ∧
            (getCore b c).s = (setS k t.sd 0).s ∧ (getCore b c).ls = k.ls ∧ (getCore b c).pc = (inSequence k 8).pc ∧
            othersKept s.block b c)))

/-- STOP_PREEMPT, STOP_TEARDOWN, CORE_STOP_DONE (R198, R199). -/
def Obligations.Stops : Prop :=
  ∀ (s : State) (c : CoreNo),
    let k := getCore s.block c
    let x := ctxOf s.block k
    let rank (q : Option StopKind) : Nat := match q with
      | none => 0
      | some .halt => 1
      | some .preempt => 2
      | some .teardown => 3
    let requested (i : Instr) (kind : StopKind) : Prop := Completes i s (fun b =>
      (getCore b c).stop = (if rank k.stop < rank (some kind) then some kind else k.stop) ∧ (getCore b c).waiting = none ∧
        (getCore b c).postWait = none ∧ (getCore b c).twait = none ∧ (getCore b c).endWait = false ∧ (getCore b c).gate = none ∧
        (getCore b c).timed = none ∧ (getCore b c).det = k.det ∧ (getCore b c).posted = k.posted ∧ (getCore b c).s = k.s ∧
        (getCore b c).ls = k.ls ∧ (k.waiting = none → k.postWait = none → k.timed = none → (getCore b c).pc = k.pc) ∧
        othersKept s.block b c)
    (k.placed ≠ none → k.ended = false → k.run ≠ .faulted → k.run ≠ .zeroising →
      (x.phase = .saving → requested (.stopPreempt c) .preempt) ∧
      (x.phase = .teardown → requested (.stopTeardown c) .teardown)) ∧
    (stoppable k = true →
      (k.stop = some .halt → stopPoint k = true → k.run ≠ .halted → natBit (getPage s.block c).ctl.toNat 0 = true →
        Completes (.coreStopDone c) s (fun b =>
          getCore b c = { k with det := k.det.map (fun l => { l with parked := true, pinned := true }), run := .halted } ∧
            othersKept s.block b c)) ∧
      (k.stop = some .preempt → stopPoint k = true → Completes (.coreStopDone c) s (fun b =>
        getCore b c = { k with det := k.det.map (fun l => { l with parked := true, pinned := false }), run := .halted, recorded := true } ∧
          b.cs = s.block.cs)) ∧
      (k.stop = some .teardown → stopPoint k = true → Completes (.coreStopDone c) s (fun b =>
        getCore b c = { placed := k.placed, run := .halted, fault := k.fault, faultOff := k.faultOff, stop := k.stop, ls := k.ls,
                        array := k.array, ramping := k.ramping } ∧ othersKept s.block b c)))

/-- OWNER_WRITE, CORE_HALT, CORE_RESUME, CLU_SLICE_OWNER_WRITE, TIE_LEAD_MAX_WRITE (R56, R59, R98, R107, R335). -/
def Obligations.OwnedWrites : Prop :=
  ∀ (s : State) (w : Writer),
    (∀ (p : PageNo) (value : Word) (k : PageKind) (i : Nat), judged s.block p w 0x00C = true → pageOf p = some (k, i) →
      let g := getPage s.block p
      let m := bvBits value 0 4
      let new : Word := BitVec.ofNat 32 (bvBits value 4 15 * 16 + m)
      bvBits value 24 8 = g.gen.toNat % 256 → m < 8 →
      (w.master = .mm ∨ isHost w.master = true ∧ bvBits value 4 15 = 0 ∧ (m = 0 ∨ m = masterCode w.master) ∧
        (ownerMaster g = 0 ∨ ownerMaster g = masterCode w.master)) →
      (new = g.owner → Completes (.ownerWrite w p value) s (fun b =>
        getPage b p = { g with gen := g.gen + 1 } ∧ b = { s.block with pages := b.pages })) ∧
      (new ≠ g.owner → Completes (.ownerWrite w p value) s (fun b =>
        let h := getPage b p
        h.owner = new ∧ h.gen = g.gen + 1 ∧ h.irqStatus = 0 ∧ h.irqEnable = 0 ∧ h.ctl = g.ctl ∧ h.service = g.service ∧
          h.zeroising = (g.zeroising || decide (k = .cor ∨ k = .clu ∨ k = .chk ∨ k = .opt)) ∧ b.dm = s.block.dm ∧ b.cs = s.block.cs ∧
          (k ≠ .cor → b.cores = s.block.cores)))) ∧
    (∀ (c : CoreNo) (guard : Byte), judged s.block c w 0x014 = true → mmOrOwner s.block c w = true →
      guard.toNat = (getPage s.block c).gen.toNat % 256 →
      let k := getCore s.block c
      let page (b : Block) (v : BitVec 24) : Prop :=
        { getPage b c with live := [] } = { getPage s.block c with gen := (getPage s.block c).gen + 1, ctl := v, live := [] }
      Completes (.coreHalt w c guard) s (fun b => page b 1 ∧ (getCore b c).s = k.s ∧ (getCore b c).ls = k.ls ∧
        (natBit (getPage s.block c).ctl.toNat 0 = true → getCore b c = k) ∧
        (natBit (getPage s.block c).ctl.toNat 0 = false → stoppable k = true → k.stop = none →
          (getCore b c).stop = some .halt ∧ (getCore b c).waiting = none ∧ (getCore b c).det = k.det) ∧ othersKept s.block b c) ∧
      Completes (.coreResume w c guard) s (fun b => page b 0 ∧ othersKept s.block b c ∧
        ((k.run ≠ .halted ∨ k.stop ≠ some .halt) → getCore b c = k) ∧
        (k.run = .halted → k.stop = some .halt → k.det.all (fun l => !l.parked) = true → getCore b c =
          { k with stop := none, since := s.block.now, asked := none, resident := false, recorded := false, run := .running }))) ∧
    (∀ (g : CluNo) (j : Fin 16) (value : Word), w.master = .mm → judged s.block (pgClu g) w (0x140 + 4 * j.val) = true →
      Completes (.cluSliceOwnerWrite w g j value) s (fun b => b = { s.block with pages := b.pages } ∧
        sliceOwner b g j = (value &&& 0x80007FFF) |||
          (if natBit (sliceOwner s.block g j).toNat 16 ∨ (sliceOwner s.block g j) &&& 0x80007FFF ≠ value &&& 0x80007FFF
            then 0x10000 else 0) ∧
        ∀ (h : CluNo) (n : Fin 16), h ≠ g ∨ n ≠ j → sliceOwner b h n = sliceOwner s.block h n)) ∧
    (∀ (d : DieNo) (value : Word), judged s.block (pgTie d) w 0x110 = true → mmOrOwner s.block (pgTie d) w = true →
      1 ≤ bvBits value 0 4 → bvBits value 0 4 ≤ 8 →
      Completes (.tieLeadMaxWrite w d value) s (fun b => b = { s.block with pages := b.pages, ctxs := b.ctxs } ∧
        getRegD b (pgTie d) 0x110 8 = BitVec.ofNat 32 (bvBits value 0 4) ∧
        ∀ x, getCtx b x = { getCtx s.block x with leadSeen := (getCtx b x).leadSeen }))

/-- Rejections (R49 to R52, R56, R60, R62). -/
def Obligations.RejectedWrites : Prop :=
  ∀ (s : State) (w : Writer) (p : PageNo) (value : Word), judged s.block p w 0x00C = true →
    let g := getPage s.block p
    let m := bvBits value 0 4
    let rejects (code : Nat) : Prop := Completes (.ownerWrite w p value) s (fun b => Rejected s.block b p w code 0x00C)
    let own : Prop := (m = 0 ∨ m = masterCode w.master) ∧ bvBits value 4 15 = 0
    (w.master = .pk ∨ w.master = .pe → rejects 3) ∧
    (isHost w.master = true → ¬own → rejects 3) ∧
    (isHost w.master = true → own → ownerMaster g ≠ 0 → ownerMaster g ≠ masterCode w.master → rejects 2) ∧
    (isHost w.master = true → own → (ownerMaster g = 0 ∨ ownerMaster g = masterCode w.master) →
      bvBits value 24 8 ≠ g.gen.toNat % 256 → rejects 1) ∧
    (w.master = .mm → bvBits value 24 8 ≠ g.gen.toNat % 256 → rejects 1) ∧
    (w.master = .mm → bvBits value 24 8 = g.gen.toNat % 256 → 8 ≤ m → rejects 6)

/-- REGISTER_WRITE, COUNTER_LOW_READ, ERR_FIRST_READ, CE_DIES_READ, CONTEXT_CONTROL (R11, R47 to R49, R58, R65, R362, R443, R577). -/
def Obligations.RegisterAccess : Prop :=
  ∀ (s : State) (w : Writer) (p : PageNo) (k : PageKind) (i : Nat), pageOf p = some (k, i) →
    let g := getPage s.block p
    let pagesOnly (b : Block) : Prop := b = { s.block with pages := b.pages }
    let answers (b : Block) (off v : Nat) : Prop :=
      b = { s.block with pages := b.pages, out := s.block.out ++ [.readData w (p.val * 4096 + off) 4 v] }
    (∀ value : DWord, let v := value.extractLsb' 0 32
      (judged s.block p w 0x01C = true → s.block.hub.remove ≠ .ready → mmOrOwner s.block p w = true →
        Completes (.registerWrite w p 0x01C 4 value) s (fun b =>
          pagesOnly b ∧ getPage b p = { g with irqStatus := g.irqStatus &&& ~~~v })) ∧
      (judged s.block p w 0x020 = true → s.block.hub.remove ≠ .ready → mmOrOwner s.block p w = true →
        g.irqStatus &&& (v &&& irqMask k i) &&& ~~~g.irqEnable = 0 →
        Completes (.registerWrite w p 0x020 4 value) s (fun b =>
          pagesOnly b ∧ getPage b p = { g with irqEnable := v &&& irqMask k i })) ∧
      (∀ off : Fin 4096, off.val ∈ [0, 4, 8, 0x10, 0x18, 0x24, 0x28, 0x2C, 0x34] ∨ (0x80 ≤ off.val ∧ off.val < 0x100 ∧ off.val % 4 = 0) →
        judged s.block p w off = true → s.block.hub.remove ≠ .ready →
        Completes (.registerWrite w p off 4 value) s (fun b => b = s.block))) ∧
    (started s.block = true → natBit s.block.hub.ready 0 = true → g.held = [] →
      (∀ off : Fin 4096, 0x80 ≤ off.val → off.val < 0x100 → readable s.block k i g w off = true →
        let v := tabGet 0 g.shadow ((off.val - 0x80) / 8)
        (off.val % 8 = 0 → Completes (.counterLowRead w p off 4) s (fun b => answers b off (v.extractLsb' 0 32).toNat ∧
          getPage b p = { g with snaps := tabSet g.snaps (masterCode w.master) (off.val + 4, v.extractLsb' 32 32) })) ∧
        (off.val % 8 = 4 → ∀ x, tabFind g.snaps (masterCode w.master) = some (off.val, x) →
          Completes (.counterLowRead w p off 4) s (fun b => answers b off x.toNat ∧
            getPage b p = { g with snaps := tabErase g.snaps (masterCode w.master) })) ∧
        (off.val % 8 = 4 → (tabFind g.snaps (masterCode w.master)).all (fun e => e.1 != off.val) = true →
          Completes (.counterLowRead w p off 4) s (fun b =>
            b = { s.block with out := s.block.out ++ [.readData w (p.val * 4096 + off.val) 4 (v.extractLsb' 32 32).toNat] }))) ∧
      (readable s.block k i g w 0x024 = true → mmOrOwner s.block p w = true → Completes (.errFirstRead w p) s (fun b =>
        answers b 0x024 g.errFirst.toNat ∧ getPage b p = { g with errFirst := 0 })) ∧
      (∀ u : ChkNo, p.val = pgChk u → u.val < 8 → w.master = .mm → pageAnswers s.block k i = true → g.zeroising = false → (getChk s.block u).scan = none →
        Completes (.ceDiesRead w u) s (fun b => answers b 0x214 (getRegD s.block p 0x214 0).toNat ∧ getRegD b p 0x214 0 = 0))) ∧
    (∀ (cmd : CmdRef) (x : Nat) (value : Word), started s.block = true → asked s.block cmd = true → natBit s.block.hub.ready 4 = true →
      ctxStatus s.block cmd x = none → pageAnswers s.block k i = true → g.held = [] →
      Completes (.contextControl cmd x p 0x00C false value) s (fun b => Answered s.block b cmd g.owner.toNat 0 0 ∧ b.cores = s.block.cores) ∧
      Completes (.contextControl cmd x p 0x010 false value) s (fun b => Answered s.block b cmd g.gen.toNat 0 0 ∧ b.cores = s.block.cores) ∧
      (ownerMaster g = 6 → ownerTag g = x → x < 2 ^ 15 → Completes (.contextControl cmd x p 0x01C true value) s (fun b =>
        Answered s.block b cmd g.gen.toNat 0 0 ∧ (getPage b p).irqStatus = g.irqStatus &&& ~~~value ∧ (getPage b p).owner = g.owner ∧
          b.cores = s.block.cores)))

/-- ZEROISE_COMPLETE, DEVMEM_PAGE_ZEROISE, PACE_WINDOW_END, EPOCH_BOUNDARY, RGN_SHADOW_LATCH (R67, R90, R94, R107, R112, R331, R539). -/
def Obligations.ZeroiseAndEpoch : Prop :=
  ∀ s : State, started s.block = true →
    (∀ (p : PageNo) (k : PageKind) (i : Nat), pageOf p = some (k, i) → (getPage s.block p).zeroising = true → (getPage s.block p).held = [] →
      (∀ ok, (k ≠ .cor ∨ ok = true) → Completes (.zeroiseComplete p none ok) s (fun b =>
        getPage b p = { getPage s.block p with zeroising := false } ∧
          b = { s.block with pages := b.pages, cores := b.cores, cs := b.cs, sramErr := b.sramErr, sramWb := b.sramWb } ∧
          (k = .cor → getCore b i = { placed := (getCore s.block i).placed } ∧ (∀ o, o ≠ i → getCore b o = getCore s.block o) ∧
            b.cs = s.block.cs) ∧
          (k = .clu → Memory.wf s.block = true → tabWf s.block.cs = true → b.cores = s.block.cores ∧ (∀ a, getCs b i a = 0) ∧
            ∀ g a, g ≠ i → getCs b g a = getCs s.block g a) ∧
          (k ≠ .cor → k ≠ .clu → b.cores = s.block.cores ∧ b.cs = s.block.cs))) ∧
      (k = .cor → Completes (.zeroiseComplete p none false) s (fun b =>
        (getPage b p).zeroising = false ∧ (getPage b p).service = .retired ∧ i ∈ b.retired))) ∧
    (∀ (g : CluNo) (p : PageNo) (j : Fin 16) (ok : Bool), p.val = pgClu g → natBit (sliceOwner s.block g j).toNat 16 = true →
      Memory.wf s.block = true → Completes (.zeroiseComplete p (some j) ok) s (fun b =>
        sliceOwner b g j = sliceOwner s.block g j &&& 0x80007FFF ∧ b.cores = s.block.cores ∧ b.dm = s.block.dm ∧
          ∀ a, getCs b g a = if j.val * 2 ^ 20 ≤ a ∧ a < (j.val + 1) * 2 ^ 20 then 0 else getCs s.block g a)) ∧
    (∀ p : Fin 196608, natBit s.block.hub.ready 3 = true → tabGet .dirty s.block.pageUse p = .dirty → Memory.wf s.block = true →
      Completes (.devmemPageZeroise p) s (fun b => tabGet .dirty b.pageUse p = .clean ∧ b.cores = s.block.cores ∧ b.ctxs = s.block.ctxs ∧
        ∀ a, getDm b a = if p.val * 2 ^ 21 ≤ a ∧ a < (p.val + 1) * 2 ^ 21 then 0 else getDm s.block a)) ∧
    (∀ (r : RgnNo) (micro : Nat) (steps : BitVec 16), micro ≠ 0 → tabGet 0 s.block.paceEnd r < micro →
      tabGet [] s.block.rgnLatch r = [] → (outOfService s.block (pgRgn r) = true ∨ paceCan s.block r micro steps.toNat = true) →
      Completes (.paceWindowEnd r micro steps) s (fun b =>
        b = { s.block with now := max s.block.now (micro * 1000), paceEnd := b.paceEnd, pace := b.pace, pages := b.pages } ∧
          tabGet 0 b.paceEnd r = micro ∧
          (outOfService s.block (pgRgn r) = true → getRegD b (pgRgn r) 0x100 0 = 0) ∧
          (outOfService s.block (pgRgn r) = false → paceOf b r = steps.toNat ∧
            getRegD b (pgRgn r) 0x100 0 = BitVec.ofNat 32 ((micro - 1) % 65536 * 2 ^ 16 + steps.toNat)))) ∧
    (∀ t, s.block.stu.sched = some t → (∀ l, s.block.stu.last = some l → l + 100000 ≤ t) → Completes .epochBoundary s (fun b =>
      b.now = max s.block.now t ∧ b.stu.epoch = (s.block.stu.nextNo).getD (s.block.stu.epoch + 1) ∧ b.stu.last = some t ∧
        b.cores = s.block.cores ∧ b.dm = s.block.dm ∧
        (∀ r : RgnNo, tabGet [] b.rgnLatch r = tabGet [] s.block.rgnLatch r ++ [(s.block.stu.epoch, t)]) ∧
        ∀ (p : PageNo) (k : PageKind) (i : Nat), pageOf p = some (k, i) → k ≠ .rgn → k ≠ .nve → k ≠ .mgr → k ≠ .hub →
          (getPage b p).epoch = BitVec.ofNat 32 s.block.stu.epoch ∧ (getPage b p).live = [] ∧ (getPage b p).shadowValid = true)) ∧
    (∀ (r : RgnNo) (n t : Nat) (rest : List (Nat × Nat)), tabGet [] s.block.rgnLatch r = (n, t) :: rest →
      (t / 1000 ≤ tabGet 0 s.block.paceEnd r ∨ outOfService s.block (pgRgn r) = true) →
      Completes (.rgnShadowLatch r) s (fun b =>
        let g := getPage s.block (pgRgn r)
        let h := getPage b (pgRgn r)
        h.epoch = BitVec.ofNat 32 n ∧ h.shadowValid = true ∧ h.live = [] ∧ h.regs = g.regs ∧ h.irqStatus = g.irqStatus ||| 0x10 ∧
          h.shadow = g.live ∧ tabGet [] b.rgnLatch r = rest ∧ b.cores = s.block.cores))

/-- CARAVAN_FILL_START, COPY_RESIDENT, FILL_FAILED, COPY_RELEASE, GATE_REACH, LAYER_DEADLINE, DECISION_DELIVERY (R310 to R329). -/
def Obligations.Caravan : Prop :=
  ∀ s : State,
    (∀ x : CtxNo, let cx := getCtx s.block x
      (∀ y layer iter, firstFill s.block x = some (y, layer, iter) →
        (∀ e ∈ s.block.ctxs, e.1 ≠ x.val → ∀ f, firstFill s.block e.1 = some f → fillFirst s.block e.1 x f (y, layer, iter) = false) →
        Completes (.caravanFillStart x) s (fun b => b = { s.block with ctxs := b.ctxs } ∧
          getCtx b x = { cx with copies := cx.copies.map (fun o => if sameCopy o y
            then { o with state := .filling, written := 0, layer := layer, iter := iter } else o) })) ∧
      (∀ (tid place : Nat) (cluster : Bool) (y : Copy), findCopy cx tid cluster place = some y →
        (∀ t s' bytes, cx.image.tensors[tid]? = some t → y.state = .filling → mayFill cx = true → sourceWaits s.block x y t = false →
          fillBehind s.block x y = false → readSource s.block x y t t.bytes = (s', .inl bytes) → Completes (.copyResident x tid cluster place) s (fun b =>
            ((findCopy (getCtx b x) tid cluster place).map (·.state)) = some .resident ∧
              ∀ c : CoreNo, copySeat s' x y = .placed c → y.lo < csBase → memWf 0 (getCore s'  c).ls = true →
                memBytes 0 (getCore b c).ls y.lo bytes.length = bytes)) ∧
        (∀ (kind : FillError) l, y.state = .filling → caravanActs cx = true → cx.image.layers[y.layer]? = some l →
          instDecision cx y.layer y.iter = none → Completes (.fillFailed x tid cluster place kind) s (fun b =>
            ((findCopy (getCtx b x) tid cluster place).map (·.state)) = some .absent ∧
              ∃ k t d, instDecision (getCtx b x) y.layer y.iter = some (.failed
                (faultWord 8 (match kind with
                | .unreachable => 4 * 2 ^ 20
                | .data => 5 * 2 ^ 20
                | .media block => 6 * 2 ^ 20 + block.toNat)) k t d))) ∧
        (∀ l i, cx.image.layers[y.layer]? = some l → findInst cx y.layer y.iter = some i → y.state = .resident →
          tensorPersist cx tid = false → (∀ r ∈ layerRanks l, r ∈ i.left) → copyPinned s.block x y = false →
          Completes (.copyRelease x tid cluster place) s (fun b => b = { s.block with ctxs := b.ctxs } ∧
            getCtx b x = { cx with copies := cx.copies.map (fun o => if sameCopy o y then { o with state := .released } else o) }))) ∧
      (∀ layer iter l t, cx.image.layers[layer]? = some l → instDeadline cx layer iter = some t → caravanActs cx = true →
        layerWaits l = false → instDecision cx layer iter = none → Completes (.layerDeadline x layer iter) s (fun b =>
          b.now = max s.block.now t ∧ instDecision (getCtx b x) layer iter =
            some (if fullInTime cx layer iter = true then .full else mirageOf cx l)))) ∧
    (∀ c : CoreNo, let k := getCore s.block c
      let x := ctxOf s.block k
      let xn := ctxNoOf k
      (∀ l it, canIssue k = true → k.gateOpen = false → nextGate x (rankOf k) k.nextLayer k.iter = some (l, it) →
        (l ∈ gatesAt s.block k → (x.image.iterations = 0 ∨ it < x.image.iterations) → Completes (.gateReach c) s (fun b =>
          (getCore b c).nextLayer = l + 1 ∧ (getCore b c).iter = it ∧ (getCore b c).s = k.s ∧
            ((findInst (getCtx b xn) l it).bind (·.gateTime)) = some (((findInst x l it).bind (·.gateTime)).getD s.block.now) ∧
            (instDecision (getCtx b xn) l it = none → (getCore b c).gate = some ⟨l, it⟩ ∧ (getCore b c).run = .operandWait ∧
              (getCore b c).pc = k.pc))) ∧
        (∀ h r, gatesAt s.block k = h :: r → l ∉ h :: r → Completes (.gateReach c) s (fun b =>
          (getCore b c).run = .faulted ∧ (getCore b c).fault = faultWord 8 (7 * 2 ^ 20 + h % 2 ^ 16) ∧ (getCore b c).pc = k.pc))) ∧
      (∀ g : GateWait, k.stop = none → k.run = .operandWait → k.gate = some g →
        (instDecision x g.layer g.iter = some .full →
          (∀ l, x.image.layers[g.layer]? = some l → ∀ y ∈ instCopies x l, y.cluster = false → y.place = rankOf k →
            copyServes x y g.layer g.iter = true) →
          Completes (.decisionDelivery c) s (fun b => othersKept s.block b c ∧
            getCore b c = { k with gate := none, run := .running, gateOpen := true, inLayers := k.inLayers ++ [g] })) ∧
        (∀ kind target, instDecision x g.layer g.iter = some (.mirage kind target) → Completes (.decisionDelivery c) s (fun b =>
          othersKept s.block b c ∧ getCore b c = { k with
            gate := none, run := .running, pc := target, gateOpen := false, loops := loopsAfterJump target k.loops,
            mirage := BitVec.ofNat 64 (2 ^ 63 + kind * 2 ^ 60 + g.layer % 2 ^ 16 * 2 ^ 32 +
              min 0xFFFFFFFF (k.mirage.toNat % 2 ^ 32 + 1)) }))))

/-- CONTEXT_OPEN, OPEN_PAGES_ZEROISED, OPEN_TIMEOUT, COMPUTE, RUN_ABORT, CONTEXT_CLOSE (R338 to R343, R438 to R443). -/
def Obligations.Contexts : Prop :=
  ∀ s : State,
    (∀ (cmd : CmdRef) (data : List Byte) (xn : Nat) (s' : Block) (img : List Byte), asked s.block cmd = true → natBit s.block.hub.ready 4 = true →
      descOk data = true → freeCtx s.block = some xn → (∀ e ∈ descBinds data, e.2.nsid ∈ (getCtl s.block cmd.ctrl).attached) →
      (∀ l ∈ descLends data, ∀ i < l.count, stagingStatus s.block cmd.ctrl (l.first + i) = none) →
      imageSource (takeData (beginCmd s.block cmd) cmd data.length) cmd data = (s', .inl img) →
      let x : Ctx := {
        phase := .opening, cls := if fieldAt data 1 1 = 0 then .lc else .be, gran := fieldAt data 2 1, ncores := fieldAt data 4 4
        hold := fieldAt data 3 1 == 1, port := cmd.ctrl, image := parseImage img
        binds := (descBinds data).foldl (fun t e => tabSet t e.1 e.2) [], lends := descLends data, openCmd := some cmd, openSince := s'.now }
      (∀ l ∈ descLends data, l.windowOffset % pageBytes = 0 ∧
        l.windowOffset + l.count * pageBytes ≤ roundUp x.image.devBytes pageBytes) →
      (imageReason (setCtx s' xn x) img (fieldAt data 8 4) x = none → pagesLeft x ≤ freePages (setCtx s' xn x) → Completes (.contextOpen cmd data) s (fun b =>
        let y := getCtx b xn
        y.cls = x.cls ∧ y.gran = x.gran ∧ y.ncores = x.ncores ∧ y.hold = x.hold ∧ y.port = x.port ∧ y.image = x.image ∧ y.binds = x.binds ∧
          (y.phase = .idle ∧ Answered s.block b cmd xn 0 0 ∨ y.phase = .opening ∧ y.openCmd = some cmd ∧ ∀ k < 8, cleanOn b k = []))) ∧
      (∀ r, imageReason (setCtx s' xn x) img (fieldAt data 8 4) x = some r → tabWf s'.ctxs = true → Completes (.contextOpen cmd data) s (fun b =>
        (getCtx b xn).phase = .free ∧ Answered s.block b cmd r 0 (vend 0x01 (if r = 8 then 0 else 1))))) ∧
    (∀ x : CtxNo, let cx := getCtx s.block x
      cx.phase = .opening →
      Completes (.openPagesZeroised x) s (fun b =>
        (getCtx b x).phase = .idle ∧ (∀ cmd, cx.openCmd = some cmd → awaited s.block cmd = true → Answered s.block b cmd x 0 0) ∨
          (getCtx b x).phase = .opening ∧ ∀ k < 8, cleanOn b k = []) ∧
      (tabWf s.block.ctxs = true → Completes (.openTimeout x) s (fun b =>
        (getCtx b x).phase = .free ∧ b.now = max s.block.now (cx.openSince + 50000000) ∧
          ∀ cmd, cx.openCmd = some cmd → awaited s.block cmd = true → Answered s.block b cmd 8 0 (vend 0x01 0)))) ∧
    (∀ (cmd : CmdRef) (x : Nat), asked s.block cmd = true → natBit s.block.hub.ready 4 = true → ctxStatus s.block cmd x = none →
      let cx := getCtx s.block x
      (∀ data : List Byte, cx.search = false → 64 ≤ data.length → data.length % 4 = 0 →
        let argN := fieldAt data 8 4
        let resN := fieldAt data 12 4
        let fits : Prop := argN ≤ data.length - 64 ∧ resN ≤ data.length - 64 ∧ fieldAt data 0 8 % 64 = 0 ∧ fieldAt data 16 8 % 64 = 0 ∧
          inWindow cx (fieldAt data 0 8) argN = true ∧ inWindow cx (fieldAt data 16 8) resN = true
        let cc : ComputeCmd := ⟨cmd, s.block.now, s.block.nextCompute + 1, data.length / 4, fieldAt data 0 8, argN, fieldAt data 16 8, resN, bytesAt data 64 argN⟩
        (¬fits → Completes (.compute cmd x data) s (fun b => Answered s.block b cmd 0 0 (vend 0x13 1) ∧ getCtx b x = cx)) ∧
        (fits → getRegD s.block pgDsp 0x118 0 = 0 →
          (cx.run ≠ none → Completes (.compute cmd x data) s (fun b =>
            getCtx b x = { cx with queue := cx.queue ++ [cc] } ∧ statsOnly s.block b ∧ b = { s.block with
              pages := b.pages, ctls := b.ctls, ctxs := b.ctxs, nextCompute := s.block.nextCompute + 1 })) ∧
          (cx.run = none → cx.queue = [] → cx.phase = .idle ∨ cx.phase = .held → Completes (.compute cmd x data) s (fun b =>
            getCtx b x = { cx with run := some { cc := cc, since := s.block.now }, phase := .waiting } ∧ statsOnly s.block b ∧
              b = { s.block with
                pages := b.pages, ctls := b.ctls, ctxs := b.ctxs, nextCompute := s.block.nextCompute + 1 })))) ∧
      (cx.run = none → Completes (.runAbort cmd x) s (fun b => Answered s.block b cmd 0 0 0 ∧ b.ctxs = s.block.ctxs)) ∧
      (∀ r, cx.run = some r → cx.phase = .running → Completes (.runAbort cmd x) s (fun b =>
        (getCtx b x).phase = .teardown ∧ (getCtx b x).run = some { r with aborted := r.aborted || r.faults.isEmpty } ∧
          (getCtx b x).aborts = cx.aborts ++ [(cmd, 0)] ∧ ((∀ y ∈ cx.copies, y.state ≠ .filling) → b.cores = s.block.cores))) ∧
      (cx.run ≠ none → Completes (.contextClose cmd x false) s (fun b => Answered s.block b cmd 0 0 (vend 0x04 0) ∧ b.ctxs = s.block.ctxs)) ∧
      (∀ force, cx.run = none → tabWf s.block.ctxs = true → (∀ cc ∈ cx.queue, cc.cmd ≠ cmd) → (∀ j, cx.job = some j → j.cmd ≠ cmd) →
        Completes (.contextClose cmd x force) s (fun b => Answered s.block b cmd 0 0 0 ∧ (getCtx b x).phase = .free)))

/-- RUN_PLACEMENT, DSP_QUANTUM_EXPIRY, DSP_AGE_LIMIT_REACHED, RUN_START, RUN_SAVE_DONE, RUN_RESTORE_DONE, RUN_TEARDOWN, RUN_COMPLETE
(R164, R341 to R361). -/
def Obligations.Runs : Prop :=
  ∀ s : State,
    (natBit (getPage s.block pgDsp).ctl.toNat 0 = false → s.block.low = false →
      (∀ h rest xn cores, natBit s.block.hub.ready 4 = true → waitingRuns s.block = h :: rest →
        (h.2.cls = .be ∨ coresFor s.block h.1 h.2 ≠ none) →
        (h :: rest).findSome? (fun e => if heldBack s.block (h :: rest) e then none
          else (coresFor s.block e.1 e.2).map (fun l => (e.1, l))) = some (xn, cores) →
        Completes .runPlacement s (fun b =>
          let x := getCtx s.block xn
          (getCtx b xn).phase = (if x.phase = .parked then .restoring else .placing) ∧
            ((getCtx b xn).run.map (·.cores)) = x.run.map (fun _ => cores) ∧
            (x.heldCores = [] → cores.Nodup → ∀ i c, cores[i]? = some c → (getCore b c).placed = some ⟨xn, i⟩) ∧
            ∀ c, c ∉ cores → (getCore b c).placed = (getCore s.block c).placed)) ∧
      (∀ e cores, (getRegD s.block pgDsp 0x110 0).toNat % 2 ^ 20 ≠ 0 →
        (waitingRuns s.block).find? (fun e => decide (e.2.cls = .be) && (coresFor s.block e.1 e.2).isNone) = some e →
        quantumHeld s.block ((getRegD s.block pgDsp 0x110 0).toNat % 2 ^ 20 * 1000) = true → (∀ a ∈ s.block.aside, a.2 ≠ e.1) →
        scanUnits (fun u => (unitCores (unitSize (getCtx s.block e.1).gran) u).all
            (coreTakeable s.block e.1 ((getRegD s.block pgDsp 0x110 0).toNat % 2 ^ 20 * 1000)))
          (unitSize (getCtx s.block e.1).gran) 12288 0 (getCtx s.block e.1).ncores = some cores →
        Completes .dspQuantumExpiry s (fun b => (∀ c ∈ cores, tabFind b.aside c = some e.1) ∧
          ∀ v ∈ victims s.block cores, (getCtx s.block v).phase = .running → allEnding s.block (getCtx s.block v) = false →
            (getCtx b v).phase = .saving))) ∧
    (∀ x : CtxNo, let cx := getCtx s.block x
      ∀ r : Run, cx.run = some r →
      (cx.phase = .waiting ∨ cx.phase = .parked → Completes (.dspAgeLimitReached x) s (fun b =>
        getCtx b x = { cx with run := some { r with aged := true } } ∧
          b = { s.block with ctxs := b.ctxs, now := max s.block.now (r.since + ageLimit s.block) })) ∧
      (cx.phase = .placing → runZeroised s.block x r.cores = true → Completes (.runStart x) s (fun b =>
        (getCtx b x).phase = .running ∧ ((getCtx b x).run.bind (·.firstStart)) = some (r.firstStart.getD s.block.now) ∧
          (∀ c ∈ r.cores, natBit (getPage s.block (pgCor c)).ctl.toNat 0 = false →
            getCore b c = { placed := (getCore s.block c).placed, run := .running, pc := cx.image.entry, ls := (getCore b c).ls }) ∧
          ∀ c, c ∉ r.cores → getCore b c = getCore s.block c)) ∧
      (cx.phase = .saving → r.faults = [] → s.block.sramErr = [] → s.block.dmErr = [] →
        (∀ c ∈ r.cores, coreSaved (getCore s.block c) = true ∧ tabFind s.block.handovers c = none) →
        Completes (.runSaveDone x) s (fun b =>
          (getCtx b x).phase = .parked ∧ ((getCtx b x).run.map (·.cores)) = some [] ∧
            (∀ i c, r.cores[i]? = some c → (getCore s.block c).ended = false → ((tabFind (getCtx b x).saved i).map (fun k => (k.s, k.v, k.pc))) =
              some ((getCore s.block c).s, (getCore s.block c).v, (getCore s.block c).pc)) ∧
            ∀ c ∈ r.cores, (getCore s.block c).placed.any (fun p => p.ctx == x.val) = true → (getCore b c).placed = none)) ∧
      (cx.phase = .restoring → runZeroised s.block x r.cores = true → imageBusy cx = false → r.cores.Nodup →
        s.block.dmErr = [] → Completes (.runRestoreDone x) s (fun b =>
          (getCtx b x).phase = .running ∧ (getCtx b x).saved = [] ∧
            ∀ i c, r.cores[i]? = some c → let o := tabGet {} cx.saved i
              (getCore b c).s = o.s ∧ (getCore b c).v = o.v ∧ (getCore b c).placed = (getCore s.block c).placed ∧
                (o.ended = false → o.det = none → natBit (getPage s.block (pgCor c)).ctl.toNat 0 = false →
                  (getCore b c).run = .running ∧ (getCore b c).stop = none ∧ (getCore b c).pc = o.pc))) ∧
      (∀ byMm : Bool,
        (cx.phase = .running → byMm = true ∨ r.faults ≠ [] → Completes (.runTeardown x byMm) s (fun b =>
          (getCtx b x).phase = .teardown ∧ ((getCtx b x).run.map (·.cores)) = some r.cores ∧
            ((getCtx b x).run.map (·.aborted)) = some (r.aborted || (byMm && r.faults.isEmpty)) ∧
            ((∀ y ∈ cx.copies, y.state ≠ .filling) → b.cores = s.block.cores))) ∧
        (cx.phase = .teardown → r.cores ≠ [] → (∀ c ∈ r.cores, coreTorn (getCore s.block c) = true) →
          Completes (.runTeardown x byMm) s (fun b => ((getCtx b x).run.map (·.cores)) = some [] ∧
            ∀ c ∈ r.cores, (getCore s.block c).placed.any (fun p => p.ctx == x.val) = true → (getCore b c).placed = none))) ∧
      (awaited s.block r.cc.cmd = true → cx.queue = [] → cx.closing = false →
        (cx.phase = .running → (∀ c ∈ r.cores, (getCore s.block c).ended = true) → r.faults = [] →
          s.block.dmErr = [] →
          Completes (.runComplete x) s (fun b =>
            Answered s.block b r.cc.cmd (min 0xFFFF r.mirages * 2 ^ 16) 0 0 ∧ (getCtx b x).run = none ∧
              (getCtx b x).phase = (if cx.hold then .held else .idle) ∧ (getCtx b x).heldCores = (if cx.hold then r.cores else []))) ∧
        (cx.phase = .teardown → r.cores = [] → Completes (.runComplete x) s (fun b =>
          (getCtx b x).run = none ∧ (getCtx b x).phase = .idle ∧
            (r.aborted = true ∨ r.faults = [] → Answered s.block b r.cc.cmd (2 + min 0xFFFF r.mirages * 2 ^ 16) 0 (vend 0x11 1)) ∧
            (r.aborted = false → r.faults ≠ [] →
              Answered s.block b r.cc.cmd (1 + min 0xFFFF r.mirages * 2 ^ 16) 0 (vend 0x10 1))))))

/-- CREATE_IO_CQ, CREATE_IO_SQ, DELETE_IO_SQ, DELETE_IO_CQ, DOORBELL_BUFFER_CONFIG, ASYNC_EVENT_REQUEST (R424, R429, R469; the statuses
are presumed from NVMe, log entry 29). -/
def Obligations.QueueCommands : Prop :=
  ∀ (s : State) (cmd : CmdRef), adminAsked s.block cmd = true →
    let p := cmd.ctrl
    let c := getCtl s.block p
    (∀ (qid size vector : Nat) (ien : Bool), 1 ≤ qid → qid ≤ 4096 → tabFind c.cqs qid = none → 2 ≤ size → size ≤ 65536 →
      (ien = true → vector < 2048) → Completes (.createIoCq cmd qid size vector ien) s (fun b =>
        answerOnly s.block b p ∧ Answered s.block b cmd 0 0 0 ∧ (getCtl b p).sqs = c.sqs ∧
          tabFind (getCtl b p).cqs qid = some { size := size, vector := vector, ien := ien })) ∧
    (∀ (qid size cq : Nat) (prio : Fin 4), 1 ≤ qid → qid ≤ 4096 → tabFind c.sqs qid = none → 2 ≤ size → size ≤ 65536 → cq ≠ 0 →
      (tabFind c.cqs cq).isSome = true → Completes (.createIoSq cmd qid size cq prio) s (fun b =>
        answerOnly s.block b p ∧ Answered s.block b cmd 0 0 0 ∧
          (getCtl b p).sqs = tabSet c.sqs qid { size := size, cq := cq, prio := prio })) ∧
    (∀ qid : Nat, qid ≠ 0 → (tabFind c.sqs qid).isSome = true → (∀ f ∈ c.cmds, f.cmd.ctrl = p) →
      Completes (.deleteIoSq cmd qid) s (fun b =>
        answerOnly s.block b p ∧ Answered s.block b cmd 0 0 0 ∧ (getCtl b p).sqs = tabErase c.sqs qid ∧
          ∀ f ∈ c.cmds, f.cmd.sqid = qid → ((cqOf c qid).bind (tabFind c.cqs)).isSome = true →
            Answered s.block b f.cmd 0 0 (status 0 0x08 0))) ∧
    (∀ qid : Nat, qid ≠ 0 → (tabFind c.cqs qid).isSome = true → tabWf c.cqs = true →
      ((∀ e ∈ c.sqs, e.1 ≠ 0 → e.2.cq ≠ qid) → Completes (.deleteIoCq cmd qid) s (fun b =>
        answerOnly s.block b p ∧ Answered s.block b cmd 0 0 0 ∧ (getCtl b p).sqs = c.sqs ∧ tabFind (getCtl b p).cqs qid = none)) ∧
      (∀ e ∈ c.sqs, e.1 ≠ 0 → e.2.cq = qid → Completes (.deleteIoCq cmd qid) s (fun b =>
        answerOnly s.block b p ∧ Answered s.block b cmd 0 0 (status 1 0x0C 1) ∧ (getCtl b p).sqs = c.sqs ∧
          (tabFind (getCtl b p).cqs qid).isSome = true))) ∧
    Completes (.doorbellBufferConfig cmd) s (fun b =>
      answerOnly s.block b p ∧ Answered s.block b cmd 0 0 0 ∧ (getCtl b p).shadowDoorbells = true ∧ (getCtl b p).sqs = c.sqs) ∧
    (let q := getEvt s.block p;
      (∀ e rest, q.queued = e :: rest → Completes (.asyncEventRequest cmd) s (fun b =>
        Answered s.block b cmd (eventDw0 e) 0 0 ∧ getEvt b p = { q with queued := rest, reported := q.reported ++ [e] } ∧
          answerOnly { s.block with evts := b.evts } b p)) ∧
      (q.queued = [] → q.aers.length < 16 → Completes (.asyncEventRequest cmd) s (fun b =>
        getEvt b p = { q with aers := q.aers ++ [cmd] } ∧ isOutstanding b cmd = true ∧ b = { s.block with evts := b.evts, ctls := b.ctls })) ∧
      (q.queued = [] → 16 ≤ q.aers.length → Completes (.asyncEventRequest cmd) s (fun b =>
        Answered s.block b cmd 0 0 (status 1 0x05 1) ∧ answerOnly s.block b p)))

/-- SQ_TAIL_DOORBELL, CQ_HEAD_DOORBELL, COMMAND_FETCH, COALESCING_TIMER (R428 to R433). -/
def Obligations.DoorbellsAndFetch : Prop :=
  ∀ s : State, started s.block = true →
    (∀ (p : PortNo) (y : Fin 4097) (v : BitVec 16), let c := getCtl s.block p
      c.rdy = true →
      (∀ q, tabFind c.sqs y = some q →
        (v.toNat < q.size → Completes (.sqTailDoorbell p y v) s (fun b =>
          b = { s.block with ctls := tabSet s.block.ctls p { c with sqs := tabSet c.sqs y { q with tail := v.toNat } } })) ∧
        (q.size ≤ v.toNat → Completes (.sqTailDoorbell p y v) s (fun b => Notified s.block b p ⟨0, 1, 1⟩))) ∧
      (tabFind c.sqs y = none → Completes (.sqTailDoorbell p y v) s (fun b => Notified s.block b p ⟨0, 0, 1⟩)) ∧
      (∀ q, tabFind c.cqs y = some q →
        let n := (v.toNat + q.size - q.head) % max 1 q.size
        (v.toNat < q.size → n ≤ q.used →
          (q.waiting = [] → Completes (.cqHeadDoorbell p y v) s (fun b => b = { s.block with
            ctls := tabSet s.block.ctls p { c with cqs := tabSet c.cqs y { q with head := v.toNat, used := q.used - n } } })) ∧
          (∀ e rest, q.waiting = e :: rest → q.used - n + 1 < q.size → e.cmd.ctrl = p → cqOf c e.cmd.sqid = some y.val →
            Completes (.cqHeadDoorbell p y v) s (fun b => ∃ l,
              b.out = s.block.out ++ Output.completion e.cmd e.dw0 e.dw1 e.status :: l))) ∧
        ((q.size ≤ v.toNat ∨ q.used < n) → Completes (.cqHeadDoorbell p y v) s (fun b => Notified s.block b p ⟨0, 1, 1⟩))) ∧
      (tabFind c.cqs y = none → Completes (.cqHeadDoorbell p y v) s (fun b => Notified s.block b p ⟨0, 0, 1⟩))) ∧
    (∀ (cid : BitVec 16) (op : Byte) (p sq : Nat) (q : SubQ), pickCtl s.block = some (p, sq) → tabFind (getCtl s.block p).sqs sq = some q →
      s.block.hub.remove = .serving → isOutstanding s.block ⟨p, sq, cid.toNat⟩ = false →
      let c := getCtl s.block p
      Completes (.commandFetch cid op) s (fun b =>
        (getCtl b p).cmds = c.cmds ++ [⟨⟨p, sq, cid.toNat⟩, .fetched, op.toNat, (getRegD s.block pgHub 0x150 0).toNat⟩] ∧
          (getCtl b p).sqs = tabSet c.sqs sq { q with head := (q.head + 1) % max 1 q.size } ∧ (getCtl b p).cqs = c.cqs ∧
          statsOnly s.block b ∧ (∀ o, o ≠ p → { getCtl b o with stalledSince := none } = { getCtl s.block o with stalledSince := none }) ∧
          b = { s.block with pages := b.pages, ctls := b.ctls, nextCtl := b.nextCtl, ctlBurst := b.ctlBurst, hostResume := b.hostResume })) ∧
    (∀ (p : PortNo) (v : Fin 2048), let c := getCtl s.block p
      tabGet 0 c.coalescing v ≠ 0 → Completes (.coalescingTimer p v) s (fun b => b = { s.block with
        out := s.block.out ++ [.msix p v], ctls := tabSet s.block.ctls p { c with coalescing := tabErase c.coalescing v } }))

/-- STAGING_ALLOCATE, STAGING_RELEASE, STAGING_MAP, BAR4_READ, BAR4_WRITE (R35, R437). -/
def Obligations.Staging : Prop :=
  ∀ s : State,
    (∀ cmd : CmdRef, asked s.block cmd = true → computeReady s.block = true →
      let p := cmd.ctrl
      let c := getCtl s.block p
      (∀ n i : Nat, n ≠ 0 → tabWf s.block.pageUse = true → (∀ e ∈ s.block.pageUse, e.1 / pagesPerStack < 8) → n ≤ cleanPages s.block →
        freeIndex s.block n (s.block.pageUse.length + 1) 0 = some i → Completes (.stagingAllocate cmd n) s (fun b =>
          Answered s.block b cmd i 0 0 ∧ b.dm = s.block.dm ∧ (getCtl b p).map = c.map ∧
            ∀ j < n, stagingOwner s.block (i + j) = none ∧ ∃ g, tabFind (getCtl b p).staging (i + j) = some g ∧
              tabFind s.block.pageUse g = some .clean ∧ tabFind b.pageUse g = some .used)) ∧
      (∀ n : Nat, n ≠ 0 → cleanPages s.block < n → Completes (.stagingAllocate cmd n) s (fun b =>
        Answered s.block b cmd 0 0 (vend 0x24 0) ∧ answerOnly s.block b p)) ∧
      (∀ first n : Nat,
        ((∀ i, first ≤ i → i < first + n → stagingStatus s.block p i = none ∧ ∀ g, tabFind c.staging i = some g → pageLent s.block g = false) →
          Completes (.stagingRelease cmd first n) s (fun b => Answered s.block b cmd 0 0 0 ∧ b.dm = s.block.dm ∧
            (getCtl b p).staging = c.staging.filter (fun e => decide (e.1 < first) || decide (first + n ≤ e.1)) ∧
            (getCtl b p).map = c.map.filter (fun e => decide (e.2 / 512 < first) || decide (first + n ≤ e.2 / 512)))) ∧
        (∀ st, n ≠ 0 → stagingStatus s.block p first = some st → Completes (.stagingRelease cmd first n) s (fun b =>
          Answered s.block b cmd 0 0 st ∧ answerOnly s.block b p ∧ (getCtl b p).staging = c.staging))) ∧
      (∀ l : List (Word × Word), l.length ≤ 262144 →
        (∀ e ∈ l, e.1.toNat < 4194304 ∧ (e.2.toNat = 0xFFFFFFFF ∨ stagingStatus s.block p (e.2.toNat / 512) = none)) →
        Completes (.stagingMap cmd l) s (fun b => Answered s.block b cmd 0 0 0 ∧ answerOnly s.block b p ∧
          (getCtl b p).staging = c.staging ∧ (getCtl b p).map = l.foldl (fun m e =>
            if e.2.toNat = 0xFFFFFFFF then tabErase m e.1.toNat else tabSet m e.1.toNat e.2.toNat) c.map))) ∧
    (∀ (p : PortNo) (o : Nat), started s.block = true → computeReady s.block = true →
      (∀ n : Fin 4097, n.val ≠ 0 → o % 4096 + n.val ≤ 4096 →
        (∀ a, windowAddr s.block p o = some a → s.block.dmErr = [] → Completes (.bar4Read p o n) s (fun b =>
          statsOnly s.block b ∧ b = { s.block with
            pages := b.pages, out := s.block.out ++ [.readData ⟨masterOfPort p, 0⟩ o n (leNat (memBytes 0 s.block.dm a n))] })) ∧
        (∀ a, windowAddr s.block p o = some a → a % 64 + n.val ≤ 64 → decodeLine s.block (a / 64) = .uncorrectable →
          Completes (.bar4Read p o n) s (fun b => b.dm = s.block.dm ∧
            ∃ l, b.out = s.block.out ++ l ++ [.readError ⟨masterOfPort p, 0⟩ o true])) ∧
        (windowAddr s.block p o = none → Completes (.bar4Read p o n) s (fun b => statsOnly s.block b ∧ b = { s.block with
          pages := b.pages, out := s.block.out ++ [.readData ⟨masterOfPort p, 0⟩ o n 0] }))) ∧
      (∀ l : List Byte, l ≠ [] → o % 4096 + l.length ≤ 4096 →
        (∀ a, windowAddr s.block p o = some a → s.block.dmErr = [] → Completes (.bar4Write p o l) s (fun b =>
          statsOnly s.block b ∧ b = { s.block with pages := b.pages, dm := memPut 0 s.block.dm a l, dmWb := b.dmWb })) ∧
        (windowAddr s.block p o = none → Completes (.bar4Write p o l) s (fun b => statsOnly s.block b ∧
          b = { s.block with pages := b.pages } ∧
          tabGet 0 (getPage b pgHub).live 3 = tabGet 0 (getPage s.block pgHub).live 3 + 1))))

/-- ABORT_BY_TAG, ABORT (R448). -/
def Obligations.Aborts : Prop :=
  ∀ (s : State) (cmd : CmdRef) (sqid cid : BitVec 16), adminAsked s.block cmd = true →
    let p := cmd.ctrl
    let t : CmdRef := ⟨p, sqid.toNat, cid.toNat⟩
    let ends (Q : (Nat → Nat) → Block → Prop) : Prop :=
      Completes (.abortByTag cmd sqid cid) s (Q (fun n => n)) ∧ Completes (.abort cmd sqid cid) s (Q (fun n => if n = 0 then 0 else 1))
    (isOutstanding s.block t = false → ends (fun f b => Answered s.block b cmd (f 3) 0 0 ∧ answerOnly s.block b p)) ∧
    (∀ r, (getCtl s.block p).cmds.find? (fun f => f.cmd == t) = some r → t ≠ cmd →
      (r.stage = .fetched → sqid ≠ 0 → abortable r.op = true → awaited s.block t = true → ends (fun f b =>
        Answered s.block b cmd (f 0) 0 0 ∧ Answered s.block b t 0 0 (status 0 0x07 0) ∧ answerOnly s.block b p)) ∧
      (r.stage = .fetched → (sqid = 0 ∨ abortable r.op = false) → ends (fun f b =>
        Answered s.block b cmd (f 2) 0 0 ∧ isOutstanding b t = true ∧ answerOnly s.block b p)) ∧
      (r.stage = .begun → awaited s.block t = true →
        ((∃ w ∈ s.block.med.pendReads, w.cmd = t) → ends (fun f b =>
          Answered s.block b cmd (f 0) 0 0 ∧ Answered s.block b t 0 0 (status 0 0x07 0) ∧ ∀ w ∈ b.med.pendReads, w.cmd ≠ t)) ∧
        ((∀ w ∈ s.block.med.pendReads, w.cmd ≠ t) →
          ((withdrawCompute s.block t).isSome = true ∨ (withdrawSearch s.block t).isSome = true → ends (fun f b =>
            Answered s.block b cmd (f 0) 0 0 ∧ Answered s.block b t 0 0 (status 0 0x07 0))) ∧
          (∀ x cx, withdrawCompute s.block t = none → withdrawSearch s.block t = none → runOf s.block t = some (x, cx) → ends (fun f b =>
            (cmd, f 1) ∈ (getCtx b x).aborts ∧ isOutstanding b cmd = true ∧
              (getCtx s.block x = cx → tearing (getCtx b x) = true))) ∧
          (withdrawCompute s.block t = none → withdrawSearch s.block t = none → runOf s.block t = none → ends (fun f b =>
            Answered s.block b cmd (f 2) 0 0 ∧ isOutstanding b t = true ∧ answerOnly s.block b p)))))

/-- INDEX_CREATE, INDEX_ATTACH, INDEX_DETACH, INSERT, DELETE, MERGE, REBUILD (R277 to R281, R298 to R300, R303 to R305, R435, R436,
R442). -/
def Obligations.IndexCommands : Prop :=
  ∀ (s : State) (cmd : CmdRef), let s1 := beginCmd s.block cmd
    (∀ (nsid : Nat) (n : Namespace) (data : List Byte), computeReady s.block = true → blocksServe s.block cmd nsid n true →
      let h := parseShape data
      indexed s.block nsid = false → headerOk s.block data (nsBytes n) false = true → data.length = 128 + centBytes h + bookBytes h →
      Completes (.indexCreate cmd nsid data) s (fun b => Accepted s.block b cmd 0 ∧ b.dm = s.block.dm ∧
        b.nss = (writeIndex s1 { nsid := nsid, view := {
          shape := h, centroids := elemsOf h.centFmt (data.drop 128) (h.nlist * h.dim)
          codebooks := elemsOf 0x20 (data.drop (128 + centBytes h)) (h.m * kcOf h * dsubOf h) } } []).nss)) ∧
    (∀ (nsid : Nat) (n : Namespace) (be : Bool) (gran : Fin 4) (ncores : Nat) (window : BitVec 16) (batch : BitVec 15),
      computeReady s.block = true → blocksServe s.block cmd nsid n false → indexed s.block nsid = false → window.toNat ≤ 50000 →
      1 ≤ batch.toNat → batch.toNat ≤ 16384 →
      (freeCtx s.block = none → Completes (.indexAttach cmd nsid be gran ncores window batch) s (fun b =>
        Answered s.block b cmd 0 0 (vend 0x05 0) ∧ answerOnly s.block b cmd.ctrl)) ∧
      (∀ xn s2 r, freeCtx s.block = some xn → coresOk gran.val ncores = true → readIndex s1 nsid n = (s2, r) →
        (∀ st, r = .inr st → Completes (.indexAttach cmd nsid be gran ncores window batch) s (fun b =>
          Answered s.block b cmd 0 0 st ∧ b.idxs = s.block.idxs)) ∧
        (∀ i raws, r = .inl (i, raws) →
          let x : Ctx := searchCtx s2 cmd n be gran ncores i raws
          pagesLeft x ≤ freePages s2 → Completes (.indexAttach cmd nsid be gran ncores window batch) s (fun b =>
            let y := getCtx b xn
            getIdx b xn = some { i with window := window.toNat, batchMax := batch.toNat } ∧ y.cls = (if be then .be else .lc) ∧
              y.gran = gran.val ∧ y.ncores = ncores ∧ y.port = cmd.ctrl ∧ y.search = true ∧ y.image = x.image ∧
              y.image.code = (searchImage s2).code ∧ y.image.devBytes = nsBytes n ∧
              (y.phase = .idle ∧ Answered s.block b cmd xn 0 0 ∨ y.phase = .opening ∧ y.openCmd = some cmd))))) ∧
    (∀ (x : Nat) (i : SIndex), indexServes s.block cmd x i →
      let h := i.view.shape
      (indexIdle i = true → s.block.med.readOnly = false → (getCtx s.block x).queue = [] → (getCtx s.block x).job = none →
        (getCtx s.block x).closeCmd = none → (getCtx s.block x).run = none → tabWf s.block.idxs = true → tabWf s.block.ctxs = true →
        let merged := (List.range h.nlist).foldl (fun i l => foldList i l (i.seq - 1)) i
        let r := if h.rawKind = 1 then readRaws s1 x h (usedSlots merged.view) else (s1, [])
        Completes (.indexDetach cmd x) s (fun b => Accepted s.block b cmd 0 ∧ getIdx b x = none ∧ (getCtx b x).phase = .free ∧
          b.nss = (writeIndex r.1 merged r.2).nss)) ∧
      (∀ (data : List Byte) (l slot : Nat) (v : List Nat), data.length = 8 + 4 * h.dim → s.block.med.readOnly = false →
        prepVec h (elemsOf 0x20 (data.drop 8) h.dim) = some v → fieldAt data 0 8 ≠ 0xFFFFFFFFFFFFFFFF →
        let d : Drift := ⟨i.seq, l, ⟨fieldAt data 0 8, slot, encodeVec i.view v l⟩⟩
        (bestLists i.view v 1).head? = some l → freeSlot s.block i = some slot → i.view.drift.length + i.folded < h.driftCap →
        held i.view < i.capacity → (holdRaw s1 x i slot v).isSome = true →
        (∀ p, placeDrift (windowTop s.block x) i d = some p → Completes (.insert cmd x data) s (fun b =>
          (if h.rawKind = 0 then Answered s.block b cmd 1 0 0 else Accepted s.block b cmd 1) ∧ b.cores = s.block.cores ∧
            ∃ j, getIdx b x = some j ∧ j.seq = i.seq + 1 ∧ j.view = p.view ∧ j.view.drift = i.view.drift ++ [d] ∧
              j.view.lists = i.view.lists ∧ j.view.tombs = i.view.tombs)) ∧
        (placeDrift (windowTop s.block x) i d = none → Completes (.insert cmd x data) s (fun b =>
          Answered s.block b cmd 0 0 (vend 0x21 0) ∧ answerOnly s.block b cmd.ctrl))) ∧
      (∀ data : List Byte, data.length = 8 + 4 * h.dim → s.block.med.readOnly = false →
        prepVec h (elemsOf 0x20 (data.drop 8) h.dim) = none → Completes (.insert cmd x data) s (fun b =>
          Answered s.block b cmd 0 0 (vend 0x20 1) ∧ answerOnly s.block b cmd.ctrl)) ∧
      (∀ ids : List (BitVec 64), ids ≠ [] → ids.length ≤ 262144 → s.block.med.readOnly = false →
        (i.view.tombs.length + ids.length ≤ h.tombCap → Completes (.delete cmd x ids) s (fun b =>
          Answered s.block b cmd ids.length 0 0 ∧ getIdx b x = some { i with
            seq := i.seq + ids.length
            view := { i.view with tombs := (ids.zipIdx).foldl (fun t e =>
              t.filter (fun o => o.1 ≠ e.1.toNat) ++ [(e.1.toNat, i.seq + e.2)]) i.view.tombs } })) ∧
        (∀ id ∈ ids.head?, h.tombCap ≤ i.view.tombs.length → (∀ t ∈ i.view.tombs, t.1 ≠ id.toNat) → Completes (.delete cmd x ids) s (fun b =>
          Answered s.block b cmd 0 0 (vend 0x21 0) ∧ answerOnly s.block b cmd.ctrl))) ∧
      ((∀ e ∈ i.mergeCmds, e.1 ≠ cmd) → Completes (.merge cmd x) s (fun b =>
        (i.seq - 1 ≤ leastCut i.view → Answered s.block b cmd 0 0 0) ∧
          (leastCut i.view < i.seq - 1 → isOutstanding b cmd = true ∧ ∃ j, getIdx b x = some j ∧ j.view = i.view ∧
            (cmd, i.seq - 1) ∈ j.mergeCmds))) ∧
      (∀ nlist m codeBits sample iterations seed : Nat,
        let p : IRebuildParams := ⟨nlist, m, codeBits, sample, iterations, seed⟩
        let g := rebuiltShape h p
        let cap := indexCapacity g (((getNs s.block i.nsid).map nsBytes).getD 0)
        (h.rawKind = 0 → Completes (.rebuild cmd x nlist m codeBits sample iterations seed) s (fun b =>
          Answered s.block b cmd 0 0 (vend 0x25 1) ∧ answerOnly s.block b cmd.ctrl)) ∧
        (h.rawKind ≠ 0 → shapeOk g ((getNs s.block g.rawNs).map (·.lba)) = false →
          Completes (.rebuild cmd x nlist m codeBits sample iterations seed) s (fun b =>
            Answered s.block b cmd 0 0 stInvalidField ∧ answerOnly s.block b cmd.ctrl)) ∧
        (h.rawKind ≠ 0 → shapeOk g ((getNs s.block g.rawNs).map (·.lba)) = true → i.rebuild = none →
          (rebuildBytes g (held i.view) + pageBytes - 1) / pageBytes ≤ freePages s.block → g.driftCap ≤ cap →
          (∀ k ∈ slotsOf i.view ++ i.retired, k < cap) →
          Completes (.rebuild cmd x nlist m codeBits sample iterations seed) s (fun b =>
            isOutstanding b cmd = true ∧ getIdx b x = some { i with
              capacity := min i.capacity cap, rebuild := some { cmd := cmd, params := p } }))))

/-- SEARCH, SEARCH_WINDOW_CLOSE, WINDOW_SCAN_END, LIST_MERGE_START, LIST_MERGE_COMPLETE, VERSION_RELEASE, REBUILD_PROMOTION (R286 to R305,
R441). -/
def Obligations.SearchWindows : Prop :=
  ∀ s : State, let queued (i : SIndex) : List IQuery := ((i.openWin.map (·.queries)).getD []) ++ i.waiting
    (∀ (cmd : CmdRef) (x : Nat) (i : SIndex) (data : List Byte), indexServes s.block cmd x i →
      let h := i.view.shape
      let n := fieldAt data 0 4
      let size := roundUp (32 + 4 * h.dim) 64
      let first := fieldAt data 4 4
      let caps := (((getCtl s.block cmd.ctrl).cmds.find? (fun f => f.cmd == cmd)).map (·.caps)).getD 0
      let q (j : Nat) : IQuery × Nat := readQuery h caps cmd j (data.drop (64 + j * size))
      let place (j : Nat) : Nat := ((List.range j).map (fun k => roundUp (32 + 16 * roomOf (q k).1) 64)).foldl (· + ·) first
      ((n = 0 ∨ 4096 < n ∨ first % 64 ≠ 0 ∨ first < 64 + n * size) → Completes (.search cmd x data) s (fun b =>
        Answered s.block b cmd 0 0 (vend 0x13 1) ∧ answerOnly s.block b cmd.ctrl)) ∧
      (1 ≤ n → n ≤ 4096 → first % 64 = 0 → 64 + n * size ≤ first → allZero data 8 56 = true → place n ≤ data.length →
        (∀ e ∈ i.searches, e.cmd ≠ cmd) → Completes (.search cmd x data) s (fun b =>
          (∀ j < n, (q j).2 ≠ 0 → Output.hostData cmd (place j) (resultBlock (q j).2 0 0 0 0 0 (roomOf (q j).1) []) ∈ b.out) ∧
            ((∀ j < n, (q j).2 ≠ 0) → Answered s.block b cmd 0 0 0) ∧ ∃ k, getIdx b x = some k ∧ k.view = i.view ∧
              queued k = queued i ++ ((List.range n).filter (fun j => (q j).2 == 0)).map (fun j => (q j).1)))) ∧
    (∀ (x : CtxNo) (i : SIndex), getIdx s.block x = some i →
      (∀ w, i.openWin = some w → i.scanning = none → Completes (.searchWindowClose x) s (fun b =>
        b.cores = s.block.cores ∧ b.cs = s.block.cs ∧ b.nss = s.block.nss ∧
          b.now = (if w.queries.length < i.batchMax then max s.block.now (w.opened + i.window * 1000) else s.block.now) ∧
          ∃ k, getIdx b x = some k ∧ k.scanning = some { w with closed := b.now, view := seenView s.block x i } ∧ queued k = i.waiting ∧
            k.view = i.view ∧
            k.searches = i.searches.map (fun e => if w.queries.any (fun q => q.cmd == e.cmd) then { e with closed := true } else e) ∧
            ∀ r, i.rebuild = some r → r.cut = none → ∃ e, k.rebuild = some e ∧ e.cut = some (cutNow s.block x i))) ∧
      (∀ w, i.scanning = some w → Completes (.windowScanEnd x) s (fun b =>
        (∃ k, getIdx b x = some k ∧ k.scanning = none ∧ k.view = i.view) ∧
          (let r := readScan s.block x w
           let e := if w.queries.any (·.exact) then readRaws r.1 x w.view.shape ((visibleAll w.view).map (·.slot)).eraseDups else (r.1, [])
           ∀ q rest f s2 count scored nan cs, w.queries = q :: rest → i.searches.find? (fun e => e.cmd == q.cmd) = some f →
            q.cmd.ctrl ≠ sideband → answerQuery e.1 x w.view e.2 r.2 q = (s2, count, scored, nan, cs) →
            Output.hostData q.cmd ((f.offsets[q.idx]?).getD 0)
              (resultBlock 0 count scored nan w.queries.length w.closed q.k cs) ∈ b.out) ∧
          (∀ e ∈ i.searches, (∀ o ∈ i.searches, o.cmd = e.cmd → o = e) → awaited s.block e.cmd = true → e.left ≠ [] →
            (∀ j ∈ e.left, ∃ q ∈ w.queries, q.cmd = e.cmd ∧ q.idx = j) → Answered s.block b e.cmd 0 0 0))) ∧
      (∀ l : Nat, l < i.view.shape.nlist → tabFind i.merging l = none →
        (mergeDue s.block i = true ∨ ∃ e ∈ i.mergeCmds, (tabGet {} i.view.lists l).cut < e.2) →
        Completes (.listMergeStart x l) s (fun b =>
          b = { s.block with
            idxs := tabSet s.block.idxs x { i with merging := tabSet i.merging l (cutNow s.block x i) }, ctxs := b.ctxs
            nextCompute := b.nextCompute })) ∧
      (∀ (l C : Nat) (j : SIndex), tabFind i.merging l = some C → installMerge (windowTop s.block x) i l C = some j → Completes (.listMergeComplete x l) s (fun b =>
        let o := tabGet {} i.view.lists l
        ∃ k, getIdx b x = some k ∧ k.merging = tabErase i.merging l ∧
          tabGet {} k.view.lists l = { (mergeList i.view l C).1 with offset := (tabGet {} j.view.lists l).offset } ∧ (tabGet {} k.view.lists l).version = o.version + 1 ∧
          (tabGet {} k.view.lists l).cut = C ∧ (∀ j, j ≠ l → tabGet {} k.view.lists j = tabGet {} i.view.lists j) ∧
          k.view.drift = i.view.drift.filter (fun d => d.list != l || decide (C < d.seq)) ∧
          (∀ e ∈ i.mergeCmds, e.2 ≤ leastCut k.view → awaited s.block e.1 = true → Answered s.block b e.1 0 0 0))) ∧
      (i.scanning = none → i.rebuild = none → Completes (.versionRelease x) s (fun b => b = { s.block with
        idxs := tabSet s.block.idxs x { i with retired := [], olds := [], folded := 0 } })) ∧
      (∀ r cut j, i.rebuild = some r → r.cut = some cut → awaited s.block r.cmd = true →
        let v := rebuiltView i r cut (((getNs s.block i.nsid).map (·.tombs)).getD [])
        v.lists.all (fun e => decide (e.2.entries.length ≤ maxCount)) = true → placeView (windowTop s.block x) i v = some j →
        Completes (.rebuildPromotion x) s (fun b =>
          Answered s.block b r.cmd 0 0 0 ∧ b.cores = s.block.cores ∧ ∃ k, getIdx b x = some k ∧ k.rebuild = none ∧ k.merging = [] ∧
            k.mergeFloor = cut ∧ k.view = j.view ∧ k.view.shape = v.shape ∧ k.view.centroids = v.centroids ∧
            k.view.codebooks = v.codebooks ∧ k.view.drift = v.drift ∧ k.view.tombs = v.tombs)))

/-- READ, WRITE, WRITE_ZEROES, DATASET_MANAGEMENT, COMPARE, VERIFY, FLUSH, FENCED_READ_TIMEOUT (R377, R381, R392 to R395, R402 to R406,
R424, R426, R446, R449, R472). -/
def Obligations.HostIo : Prop :=
  ∀ (s : State) (cmd : CmdRef), let s1 := beginCmd s.block cmd
    let p := cmd.ctrl
    (∀ (a : LbaSpan) (n : Namespace) (pr : PrInfo) (d : Decodes), a.slba + a.nlb ≤ n.blocks →
      let fits : Prop := a.nlb * (n.lba + (if n.extended then n.mdBytes else 0)) ≤ 2097152
      (blocksServe s.block cmd a.nsid n false → fits → practBad n pr = false →
        (∀ s2 l, readSpan s1 a n pr d n.dulbe 0 a.nlb = (s2, .ok l) → Completes (.read cmd a pr d) s (fun b =>
          answerOnly s2 b p ∧ Answered s.block b cmd 0 0 (if d.moves then 0 else stTransfer) ∧ (layBlocks n pr l ≠ [] → ∃ r, b.out =
            s2.out ++ (if d.moves then .hostData cmd 0 (layBlocks n pr l) else .hostUndefined cmd 0 (layBlocks n pr l).length) :: r))) ∧
        (∀ data want, takeBlocks n pr a.nlb data = some want →
          (d.moves = true → ∀ s2 l, readSpan (takeData s1 cmd data.length) a n pr d n.dulbe 0 a.nlb = (s2, .ok l) →
            Completes (.compare cmd a pr d data) s (fun b => answerOnly s2 b p ∧ Answered s.block b cmd 0 0 (if (l.zip want).all (fun e =>
              e.1.1 == e.2.1 && (!mdTravels n pr || e.1.2 == e.2.2)) then 0 else status 2 0x85 1))) ∧
          (d.moves = false → Completes (.compare cmd a pr d data) s (fun b =>
            answerOnly s.block b p ∧ Answered s.block b cmd 0 0 stTransfer))) ∧
        (∀ s2 st, readSpan s1 a n pr d n.dulbe 0 a.nlb = (s2, .fails st) →
          Completes (.read cmd a pr d) s (fun b => answerOnly s2 b p ∧ Answered s.block b cmd 0 0 st)) ∧
        (∀ s2, readSpan s1 a n pr d n.dulbe 0 a.nlb = (s2, .waits) → Completes (.read cmd a pr d) s (fun b =>
          isOutstanding b cmd = true ∧ b = { s2 with med := { s2.med with
            pendReads := s2.med.pendReads ++ [⟨cmd, s.block.now, fencedLimit n, a, pr, d, .read⟩] } })) ∧
        (∀ (D : Nat → List Byte) (Q : Nat → Nat), d.moves = true → n.prot = 0 → n.mdBytes = 0 → (List.range a.nlb).flatMap D ≠ [] →
          (∀ i < a.nlb, tabFind n.store (a.slba + i) = some (.data (D i) [] .buffer (Q i))) → Completes (.read cmd a pr d) s (fun b =>
            answerOnly s.block b p ∧ Answered s.block b cmd 0 0 0 ∧
              ∃ r, b.out = s.block.out ++ .hostData cmd 0 ((List.range a.nlb).flatMap D) :: r))) ∧
      (blocksServe s.block cmd a.nsid n false → ∀ s2 l, readSpan s1 a n pr d n.dulbe 0 a.nlb = (s2, .ok l) →
        Completes (.verify cmd a pr d) s (fun b => answerOnly s2 b p ∧ Answered s.block b cmd 0 0 0)) ∧
      (blocksServe s.block cmd a.nsid n true → practBad n pr = false →
        (∀ data l w, fits → bufferRoom s.block data.length = true → takeBlocks n pr a.nlb data = some l → writeFields n a pr l = .inl w →
          Completes (.write cmd a pr (some data)) s (fun b => Accepted s.block b cmd 0 ∧
            answerOnly { s.block with nss := b.nss, med := { s.block.med with
              seq := b.med.seq, lost := b.med.lost, pendWrites := b.med.pendWrites } } b p ∧
            (∀ i < a.nlb, ∃ e, w[i]? = some e ∧ blkOf b a.nsid (a.slba + i) = some (.data e.1 e.2 .buffer s.block.med.seq)) ∧
            ∀ nsid lba, (nsid ≠ a.nsid ∨ lba < a.slba ∨ a.slba + a.nlb ≤ lba) → blkOf b nsid lba = blkOf s.block nsid lba)) ∧
        (fits → bufferRoom s.block 0 = true → Completes (.write cmd a pr none) s (fun b =>
          answerOnly s.block b p ∧ Answered s.block b cmd 0 0 stTransfer)) ∧
        (∀ full, Completes (.writeZeroes cmd a pr false full) s (fun b => Accepted s.block b cmd 0 ∧
          (∀ i < a.nlb, blkOf b a.nsid (a.slba + i) = some .zeroed ∨
            ∃ md q, blkOf b a.nsid (a.slba + i) = some (.data (zeroBytes n.lba) md .buffer q)) ∧
          ∀ nsid lba, (nsid ≠ a.nsid ∨ lba < a.slba ∨ a.slba + a.nlb ≤ lba) → blkOf b nsid lba = blkOf s.block nsid lba)) ∧
        (tabWf n.store = true → ∀ full, Completes (.writeZeroes cmd a pr true full) s (fun b => Answered s.block b cmd 0 0 0 ∧
          (∀ lba, blkOf b a.nsid lba =
            if full = false ∧ inUnits n a.slba a.nlb lba = true then none else blkOf s.block a.nsid lba) ∧
          ∀ nsid lba, nsid ≠ a.nsid → blkOf b nsid lba = blkOf s.block nsid lba)))) ∧
    (∀ (nsid : Nat) (n : Namespace) (r : List (Nat × Nat × Bool)), r ≠ [] → r.length ≤ 256 → (∀ e ∈ r, e.1 + e.2.1 ≤ n.blocks) →
      (blocksServe s.block cmd nsid n false → Completes (.datasetManagement cmd nsid false r) s (fun b =>
        answerOnly s.block b p ∧ Answered s.block b cmd 0 0 0)) ∧
      (blocksServe s.block cmd nsid n true → tabWf n.store = true → Completes (.datasetManagement cmd nsid true r) s (fun b =>
        Answered s.block b cmd 0 0 0 ∧ (∀ lba, blkOf b nsid lba =
          if r.any (fun e => !e.2.2 && inUnits n e.1 e.2.1 lba) then none else blkOf s.block nsid lba) ∧
        ∀ o lba, o ≠ nsid → blkOf b o lba = blkOf s.block o lba))) ∧
    (∀ nsid : Nat, asked s.block cmd = true →
      (deferredFor s.block cmd nsid = none → (nsid = 0xFFFFFFFF ∨ nsid ∈ (getCtl s.block p).attached) → mediaReady s.block = true →
        Completes (.flush cmd nsid) s (fun b => answerOnly s.block b p ∧ Answered s.block b cmd 0 0 0)) ∧
      (∀ r, deferredFor s.block cmd nsid = some r →
        let ends (i : Instr) : Prop := Completes i s (fun b => Answered s.block b cmd r.record 0 (vend 0x40 0) ∧ b.nss = s.block.nss ∧
          b.med = { s.block.med with deferred := s.block.med.deferred.map (fun e =>
            if e.record = r.record then { e with reported := true } else e) })
        ends (.flush cmd nsid) ∧ (∀ slba nlb pr d, ends (.read cmd ⟨nsid, slba, nlb⟩ pr d) ∧ ends (.verify cmd ⟨nsid, slba, nlb⟩ pr d)))) ∧
    (∀ r, s.block.med.pendReads.find? (fun r => r.cmd == cmd) = some r → awaited s.block cmd = true →
      Completes (.fencedReadTimeout cmd) s (fun b =>
        (match deferredFor s.block cmd r.span.nsid with
         | some e => Answered s.block b cmd e.record 0 (vend 0x40 0)
         | none => Answered s.block b cmd 0 0 (status 2 0x81 0)) ∧
        b.now = max s.block.now (r.since + r.limit) ∧ b.nss = s.block.nss ∧
        (deferredFor s.block cmd r.span.nsid = none → b.med = { s.block.med with
          pendReads := s.block.med.pendReads.filter (fun r => r.cmd ≠ cmd) })))

/-- RESERVATION_REGISTER, RESERVATION_ACQUIRE, RESERVATION_RELEASE, RESERVATION_REPORT, SANITIZE, FORMAT_NVM, NAMESPACE_MANAGEMENT,
NAMESPACE_ATTACHMENT (R408 to R410, R424, R425; the reservation semantics are presumed from NVMe, log entry 24). -/
def Obligations.Namespaces : Prop :=
  ∀ (s : State) (cmd : CmdRef), let p := cmd.ctrl
    (∀ (nsid : Nat) (n : Namespace), asked s.block cmd = true → getNs s.block nsid = some n → nsid ∈ (getCtl s.block p).attached →
      let h := hostOf s.block cmd
      let mine := n.registrants.find? (fun r => r.host == h)
      let becomes (b : Block) (m : Namespace) : Prop := getNs b nsid = some m ∧ Answered s.block b cmd 0 0 0 ∧ b.dm = s.block.dm ∧
        ∀ o, o ≠ nsid → getNs b o = getNs s.block o
      (∀ (iekey : Bool) (cptpl : Fin 4) (crkey nrkey : DWord),
        let ptpl := if cptpl.val = 2 ∨ cptpl.val = 3 then cptpl.val == 3 else n.ptpl
        let regs (l : List Registrant) : Namespace :=
          { n with registrants := l, holder := holderGone n l, resvGen := n.resvGen + 1, ptpl := ptpl }
        (mine = none → Completes (.reservationRegister cmd nsid 0 iekey cptpl crkey nrkey) s (fun b =>
          becomes b (regs (n.registrants ++ [⟨h, p, nrkey.toNat⟩])))) ∧
        (∀ r, mine = some r → (iekey = true ∨ r.key = crkey.toNat) →
          Completes (.reservationRegister cmd nsid 1 iekey cptpl crkey nrkey) s (fun b =>
            becomes b (regs (n.registrants.filter (fun r => r.host ≠ h)))) ∧
          Completes (.reservationRegister cmd nsid 2 iekey cptpl crkey nrkey) s (fun b =>
            becomes b (regs (n.registrants.map (fun r => if r.host = h then { r with key := nrkey.toNat } else r))))) ∧
        (∀ r, mine = some r → iekey = false → r.key ≠ crkey.toNat →
          Completes (.reservationRegister cmd nsid 1 iekey cptpl crkey nrkey) s (fun b =>
            Answered s.block b cmd 0 0 (status 0 0x83 1) ∧ answerOnly s.block b p))) ∧
      (∀ (rtype : Nat) (crkey prkey : DWord), (∃ r ∈ n.registrants, r.host = h ∧ r.key = crkey.toNat) →
        (1 ≤ rtype → rtype ≤ 6 → n.holder = none → Completes (.reservationAcquire cmd nsid 0 rtype crkey prkey) s (fun b =>
          becomes b { n with holder := some (h, rtype) })) ∧
        (∀ o t, 1 ≤ rtype → rtype ≤ 6 → n.holder = some (o, t) → o ≠ h → t < 5 →
          Completes (.reservationAcquire cmd nsid 0 rtype crkey prkey) s (fun b =>
            Answered s.block b cmd 0 0 (status 0 0x83 1) ∧ answerOnly s.block b p) ∧
          ((∃ r ∈ n.registrants, r.host = o ∧ r.key = prkey.toNat) →
            Completes (.reservationAcquire cmd nsid 1 rtype crkey prkey) s (fun b => becomes b { n with
              registrants := n.registrants.filter (fun r => r.host == h || r.key != prkey.toNat)
              holder := some (h, rtype), resvGen := n.resvGen + 1 }))) ∧
        (n.holder = some (h, rtype) → Completes (.reservationRelease cmd nsid 0 rtype crkey) s (fun b =>
          becomes b { n with holder := none })) ∧
        Completes (.reservationRelease cmd nsid 1 rtype crkey) s (fun b =>
          becomes b { n with registrants := [], holder := none, resvGen := n.resvGen + 1 })) ∧
      (∀ bytes : Nat, bytes ≠ 0 → Completes (.reservationReport cmd nsid bytes) s (fun b => answerOnly s.block b p ∧
        Answered s.block b cmd 0 0 0 ∧ ∃ r, b.out = s.block.out ++ .hostData cmd 0 ((resvReport n).take bytes) :: r))) ∧
    (adminAsked s.block cmd = true →
      Completes (.sanitize cmd 4) s (fun b => Answered s.block b cmd 0 0 0 ∧ b.med.sanitizes = s.block.med.sanitizes + 1 ∧
        ∀ nsid n, getNs s.block nsid = some n → ∃ key, s.block.med.keys < key ∧ getNs b nsid = some { n with store := [], key := key }) ∧
      (∀ action : Fin 8, action.val ≠ 4 → Completes (.sanitize cmd action) s (fun b => answerOnly s.block b p ∧
        Answered s.block b cmd 0 0 (if action.val = 1 then 0 else stInvalidField))) ∧
      (∀ (nsid : Nat) (n : Namespace) (lbaf : Fin 16) (ext pil : Bool) (pi ses : Fin 8) (f : Nat × Nat), ses.val ≤ 2 →
        formatOk lbaf pi = true → lbaFormat lbaf = some f → nsid ≠ 0xFFFFFFFF → nsid ∈ (getCtl s.block p).attached →
        getNs s.block nsid = some n → mediaReady s.block = true → Completes (.formatNvm cmd nsid lbaf ext pi pil ses) s (fun b =>
          Answered s.block b cmd 0 0 0 ∧ (∃ key, s.block.med.keys < key ∧ getNs b nsid = some { n with
            blocks := n.blocks * n.lba / f.1, lba := f.1, mdBytes := f.2, extended := ext, prot := pi, protFirst := pil
            formatIdx := lbaf, store := [], key := key }) ∧ ∀ o, o ≠ nsid → getNs b o = getNs s.block o)) ∧
      (mediaReady s.block = true →
        (∀ (nsid : Nat) (data : List Byte) (i : Nat) (f : Nat × Nat),
          let size := fieldAt data 0 8
          let flbas := fieldAt data 26 1
          let dps := fieldAt data 29 1
          (List.range 128).find? (fun i => (getNs s.block (i + 1)).isNone) = some i → lbaFormat (flbas % 16) = some f →
          formatOk (flbas % 16) (dps % 8) = true → fieldAt data 8 8 = size → size ≠ 0 →
          usedBytes s.block + size * f.1 ≤ userBytes → Completes (.namespaceManagement cmd 0 nsid data) s (fun b =>
            Answered s.block b cmd (i + 1) 0 0 ∧ (∃ key, s.block.med.keys < key ∧ getNs b (i + 1) = some {
              blocks := size, lba := f.1, mdBytes := f.2, extended := natBit flbas 4, prot := dps % 8, protFirst := natBit dps 3
              formatIdx := flbas % 16, shared := natBit (fieldAt data 30 1) 0, key := key }) ∧
            ∀ o, o ≠ i + 1 → getNs b o = getNs s.block o)) ∧
        (∀ (nsid : Nat) (data : List Byte), nsid ≠ 0xFFFFFFFF → (getNs s.block nsid).isSome = true → tabWf s.block.nss = true →
          Completes (.namespaceManagement cmd 1 nsid data) s (fun b => Answered s.block b cmd 0 0 0 ∧ getNs b nsid = none ∧
            (∀ q < 4, nsid ∉ (getCtl b q).attached) ∧ ∀ o, o ≠ nsid → getNs b o = getNs s.block o))) ∧
      (∀ (nsid : Nat) (n : Namespace) (l : List Nat), getNs s.block nsid = some n → l ≠ [] → (∀ q ∈ l, q < 4) →
        ((∀ q ∈ l, nsid ∉ (getCtl s.block q).attached) → (n.shared = true ∨ (attachedTo s.block nsid).length + l.length ≤ 1) →
          Completes (.namespaceAttachment cmd 0 nsid l) s (fun b => Answered s.block b cmd 0 0 0 ∧ b.nss = s.block.nss ∧
            (∀ q ∈ l, nsid ∈ (getCtl b q).attached) ∧ ∀ q, q ∉ l → (getCtl b q).attached = (getCtl s.block q).attached)) ∧
        ((∀ q ∈ l, nsid ∈ (getCtl s.block q).attached) → Completes (.namespaceAttachment cmd 1 nsid l) s (fun b =>
          Answered s.block b cmd 0 0 0 ∧ b.nss = s.block.nss ∧ (∀ q ∈ l, nsid ∉ (getCtl b q).attached) ∧
            ∀ q, q ∉ l → (getCtl b q).attached = (getCtl s.block q).attached))))

/-- GATHER_STRIPE_PROGRAMMED, DIRECT_PATH_PROGRAMMED, FOLD, BAND_CLOSE, BAND_VERIFY_START, BAND_VERIFY_END, BAND_RELEASE, RECLAIM,
DEFERRED_ERROR_CREATE (R378, R381 to R389, R394, R397, R401). -/
def Obligations.MediaFlow : Prop :=
  ∀ s : State, started s.block = true →
    (∀ g : Fin 15, let ds := stripeDies s.block g
      let l := (stripeUnits s.block).flatten
      l ≠ [] → gatherFull s.block = false → 2 ≤ ds.length →
      Completes (.gatherStripeProgrammed g []) s (fun b =>
        Moved s.block b l (fun o => ∃ d ∈ ds, o = .gather s.block.med.nextStripe d) ∧ restKept s.block b l ∧ b.dm = s.block.dm ∧
          (∃ par ∈ ds, tabFind b.med.stripes s.block.med.nextStripe = some { group := g, parity := par, members := ds, since := s.block.now }) ∧
          ∀ w ∈ s.block.med.pendWrites, (∀ v ∈ s.block.med.pendWrites, v.cmd = w.cmd → v = w) → awaited s.block w.cmd = true →
            buffered b w.nsid w.slba w.nlb = false → Answered s.block b w.cmd w.dw0 0 w.st) ∧
      (∀ failed : List (Fin 512), failed ≠ [] → Completes (.gatherStripeProgrammed g failed) s (fun b => b.nss = s.block.nss ∧
        ∀ d ∈ failed, s.block.now ∈ (getDie b d).retiredAt))) ∧
    (∀ die : Fin 512, dieCut s.block die = false →
      (let l := (directUnits s.block).flatten;
        l ≠ [] → gatherFull s.block = true →
        ((putBand s.block die (directUnits s.block)).isSome = true → Completes (.directPathProgrammed die false) s (fun b =>
          Moved s.block b l (onBand die) ∧ restKept s.block b l ∧ b.dm = s.block.dm)) ∧
        Completes (.directPathProgrammed die true) s (fun b => b.nss = s.block.nss ∧ s.block.now ∈ (getDie b die).retiredAt)) ∧
      (let l := (foldUnits s.block).flatten;
        l ≠ [] →
        ((putBand s.block die (foldUnits s.block)).isSome = true → Completes (.fold die false) s (fun b =>
          Moved s.block b l (onBand die) ∧ restKept s.block b l ∧ b.dm = s.block.dm)) ∧
        Completes (.fold die true) s (fun b => b.nss = s.block.nss ∧ s.block.now ∈ (getDie b die).retiredAt))) ∧
    (∀ (k : Nat) (x : Band), tabFind s.block.med.bands k = some x →
      (x.state = .opened → (∀ d ∈ x.members, tabGet 0 x.wordlines d = bandWordlines ∨ dieGone s.block d = true) → Completes (.bandClose k) s (fun b =>
        tabFind b.med.bands k = some { x with state := .closed, closedAt := s.block.now } ∧ b.nss = s.block.nss ∧ statsOnly s.block b)) ∧
      (x.state = .closed → Completes (.bandVerifyStart k) s (fun b => b.now = max s.block.now (x.closedAt + 1000000000) ∧
        tabFind b.med.bands k = some { x with state := .verifying } ∧ b.nss = s.block.nss ∧ b.pages = s.block.pages)) ∧
      (∀ (fails : List (Nat × Nat)) (target : Fin 512) (retired : List (Fin 512)), x.state = .verifying →
        let own := verifyMoves s.block k fails
        let l := (assembled s.block own).flatten
        (relocate s.block x.group target own 6).isSome = true → Completes (.bandVerifyEnd k fails target retired) s (fun b =>
          (∃ y, tabFind b.med.bands k = some y ∧ y.state = .verified) ∧ Moved s.block b l (onBand target) ∧ restKept s.block b l ∧
            ∀ d ∈ retired, (∃ f ∈ fails, f.1 = d.val) → (x.group, x.block.val, d.val) ∈ s.block.med.failedOnce →
              s.block.now ∈ (getDie b d).retiredAt)) ∧
      (x.state = .verified → Completes (.bandRelease k) s (fun b =>
        tabFind b.med.bands k = some { x with state := .released } ∧ b.nss = s.block.nss ∧ statsOnly s.block b)) ∧
      (∀ (target : Fin 512) (failed : List (Fin 512)) (pm : Fin 1001) (hi mean : BitVec 16), x.state = .released →
        tabWf s.block.med.bands = true →
        let own := bandBlocks s.block k (fun _ _ => true)
        let l := (assembled s.block own).flatten
        (relocate s.block 16 target own 5).isSome = true → Completes (.reclaim k target failed pm hi mean) s (fun b =>
          tabFind b.med.bands k = none ∧ Moved s.block b l (onBand target) ∧ restKept s.block b l ∧ b.med.poolPm = pm.val ∧
            b.med.wearMax = hi.toNat ∧ b.med.wearMean = mean.toNat ∧ b.med.readOnly = decide (pm.val < 20) ∧
            ∀ d ∈ failed, s.block.now ∈ (getDie b d).retiredAt))) ∧
    (∀ (nsid slba nlb : Nat), nlb ≠ 0 → (∀ i < nlb, ∃ dt md g d q, blkOf s.block nsid (slba + i) = some (.data dt md (.gather g d) q)) →
      Completes (.deferredErrorCreate nsid slba nlb) s (fun b =>
        (∀ i < nlb, blkOf b nsid (slba + i) = some .lost) ∧
          (∀ o lba, (o ≠ nsid ∨ lba < slba ∨ slba + nlb ≤ lba) → blkOf b o lba = blkOf s.block o lba) ∧
          b.med.nextRecord = s.block.med.nextRecord + 1 ∧
          (⟨s.block.med.nextRecord, nsid, slba, nlb, s.block.now, false⟩ : Deferred) ∈ b.med.deferred ∧
          (⟨nsid, 2, slba, nlb, s.block.now⟩ : LostEntry) ∈ b.med.lost ∧ natBit (getPage b pgMed).irqStatus.toNat 18 = true))

/-- CHANNEL_RETRAIN, PATROL_READ, READ_DISTURB_LIMIT, RETENTION_LIMIT, DIE_EVACUATION, DIE_FAILURE, READ_ONLY_ENTRY, HOLDUP_TEST,
MED_TEST_HOLDUP, ONF_DIE_EVACUATE, ONF_DIE_RETIRE, ONF_DIE_TEST (R375, R397 to R401, R411, R415, R418, R464). -/
def Obligations.MediaCare : Prop :=
  ∀ s : State,
    (started s.block = true →
      (∀ c : ChanNo, let x := getChan s.block c
        x.trained = true → (x.trainTemp + 20 ≤ x.hot ∨ x.hot + 20 ≤ x.trainTemp) → Completes (.channelRetrain c) s (fun b =>
          b = { s.block with med := { s.block.med with
            chans := tabSet s.block.med.chans c { x with trained := true, retrains := satAdd 0xFFFF x.retrains 1, trainTemp := x.hot } } })) ∧
      (∀ (stripe : Bool) (id : Nat) (die target : Fin 512) (group since reads pages : Nat), let q : BlockSel := ⟨stripe, id, die⟩
        blockFacts s.block q = some (group, since, reads, pages) →
        let l := (assembled s.block (blockHolds s.block q)).flatten
        let movable : Prop := (relocate s.block group target (blockHolds s.block q) 6).isSome = true
        let refreshed (b : Block) : Prop := Moved s.block b l (onBand target) ∧ b.dm = s.block.dm ∧
          (∀ nsid lba, blkOf b nsid lba = blkOf s.block nsid lba ∨ ∃ dt md o o' w, onBand target o' ∧
            blkOf s.block nsid lba = some (.data dt md o w) ∧ blkOf b nsid lba = some (.data dt md o' w)) ∧
          (s.block.med.queued = [] → (∀ d, dieCut s.block d = false) → restKept s.block b l)
        (dieCut s.block die = false →
          (s.block.med.queued = [] → Completes (.patrolRead stripe id die false target) s (fun b => statsOnly s.block b ∧
            b = { s.block with pages := b.pages, life := b.life, med := { s.block.med with
              dies := b.med.dies, bands := b.med.bands, stripes := b.med.stripes } } ∧
            blockFacts b q = some (group, since, reads + pages, pages) ∧
            tabGet 0 (getPage b (pgOnf (die / 16))).live 4 = tabGet 0 (getPage s.block (pgOnf (die / 16))).live 4 + BitVec.ofNat 64 pages)) ∧
          (movable → Completes (.patrolRead stripe id die true target) s refreshed)) ∧
        ((if stripe then 300000 else 30000) ≤ reads → (∀ x, stripe = false → tabFind s.block.med.bands id = some x → tabWf x.reads = true) →
          Completes (.readDisturbLimit stripe id die false target) s (fun b =>
            blockFacts b q = some (group, since, 0, pages) ∧ b = { s.block with med := b.med }) ∧
          (movable → Completes (.readDisturbLimit stripe id die true target) s refreshed)) ∧
        (∀ deg : Nat, since + retentionNs deg ≤ s.block.now → movable →
          Completes (.retentionLimit stripe id die deg target) s refreshed)) ∧
      (∀ d target : Fin 512, let x := getDie s.block d
        let spared (b : Block) : Prop := (∃ e, (getDie s.block e).state = .spare ∧ (getDie b e).state = .inService ∧
          (getDie b e).group = some 15) ∨ natBit b.crit 2 = true
        let all := dieBlocks s.block d
        (x.state = .inService → evacuationDue s.block d = true → Completes (.dieEvacuation d target) s (fun b =>
          getDie b d = { x with state := .evacuating } ∧ rebuilding b = true ∧ b.nss = s.block.nss)) ∧
        (x.state = .evacuating → (relocate s.block (x.group.getD 16) target all 6).isSome = true →
          Completes (.dieEvacuation d target) s (fun b => Moved s.block b (assembled s.block all).flatten (onBand target) ∧
            restKept s.block b (assembled s.block all).flatten ∧ spared b ∧
            { getDie b d with dayStart := x.dayStart, dayReads := x.dayReads, daySoft := x.daySoft } =
              { x with state := .retired, group := none })) ∧
        ((x.state = .inService ∨ x.state = .evacuating) →
          let safe := all.filter (coveredBlk s.block)
          let f := fenceDie s.block d
          let l := (assembled f safe).flatten
          tabWf s.block.nss = true → (relocate f (x.group.getD 16) target safe 6).isSome = true → Completes (.dieFailure d target) s (fun b =>
            Moved s.block b l (onBand target) ∧ restKept s.block b (all ++ l) ∧
              (∀ k ∈ all, coveredBlk s.block k = false → blkOf b k.nsid k.lba = some .lost) ∧
              { getDie b d with dayStart := x.dayStart, dayReads := x.dayReads, daySoft := x.daySoft } =
                { x with state := .fenced, group := none } ∧ spared b))) ∧
      (∀ pm : Fin 20, Completes (.readOnlyEntry pm) s (fun b => b.med = { s.block.med with poolPm := pm, readOnly := true } ∧
        natBit b.crit 0 = true ∧ natBit b.crit 3 = true ∧ b.nss = s.block.nss ∧
        (s.block.med.readOnly = false → natBit (getPage b pgMed).irqStatus.toNat 17 = true))) ∧
      (∀ us : Nat, Completes (.holdupTest us) s (fun b =>
        (b.med.holdupUs, b.med.holdupAt, b.med.holdupOk, b.med.testing) =
            (min us 0xFFFF, some s.block.now, decide (40000 ≤ us), false) ∧ natBit b.crit 4 = decide (us < 40000) ∧
          (40000 ≤ us → b.nss = s.block.nss ∧ b.med = { s.block.med with
            holdupUs := b.med.holdupUs, holdupAt := b.med.holdupAt, holdupOk := b.med.holdupOk, testing := b.med.testing }) ∧
          ∀ nsid lba, blkOf b nsid lba = blkOf s.block nsid lba ∨ ∃ dt md o g e w, blkOf s.block nsid lba = some (.data dt md o w) ∧
            blkOf b nsid lba = some (.data dt md (.gather g e) w)))) ∧
    (∀ w : Writer,
      (∀ (guard : Byte) (wt : Bool), judged s.block pgMed w 0x014 = true → mmOrOwner s.block pgMed w = true →
        guard.toNat = (getPage s.block pgMed).gen.toNat % 256 → Completes (.medTestHoldup w guard wt) s (fun b =>
          b = { s.block with pages := b.pages, med := { s.block.med with testing := true } } ∧
            ∃ v : BitVec 24, natBit v.toNat 0 = wt ∧
              getPage b pgMed = { getPage s.block pgMed with gen := (getPage s.block pgMed).gen + 1, ctl := v })) ∧
      (∀ (c : ChanNo) (pos : Fin 16), let d := c.val * 16 + pos.val
        let x := getDie s.block d
        let only (b : Block) (y : FlashDie) : Prop := getDie b d = y ∧ b = { s.block with med := { s.block.med with
          dies := b.med.dies } } ∧ ∀ e, e ≠ d → getDie b e = getDie s.block e
        w.master = .mm → judged s.block (pgOnf c) w (0x140 + 4 * pos.val) = true →
        (x.state = .inService → Completes (.onfDieEvacuate w c pos) s (fun b =>
          only b { x with state := .evacuating } ∧ rebuilding b = true)) ∧
        (x.state = .fenced → Completes (.onfDieRetire w c pos) s (fun b => only b { x with state := .retired, group := none })) ∧
        (x.state = .evacuating → dieBlocks s.block d = [] → Completes (.onfDieRetire w c pos) s (fun b =>
          getDie b d = { x with state := .retired, group := none } ∧ b.nss = s.block.nss ∧
            ((∃ e, (getDie s.block e).state = .spare ∧ (getDie b e).state = .inService ∧ (getDie b e).group = some 15) ∨
              natBit b.crit 2 = true))) ∧
        ((x.state = .spare ∨ x.state = .fenced) → Completes (.onfDieTest w c pos) s (fun b =>
          only b { x with state := .testing, wasSpare := decide (x.state = .spare) }))))

/-- IDENTIFY, GET_LOG_PAGE, SET_FEATURES, GET_FEATURES, FIRMWARE_IMAGE_DOWNLOAD, FW_COMMIT_REPLACE, FW_COMMIT_REPLACE_ACTIVATE,
FW_COMMIT_ACTIVATE, FW_COMMIT_ACTIVATE_NOW, CALIBRATION_WRITE, RESTORE_FACTORY, CALIBRATION_READ, NVME_MI_SEND, NVME_MI_RECEIVE (R460 to
R483; the statuses of NVMe are presumed, log entries 36 and 39). -/
def Obligations.AdminCommands : Prop :=
  ∀ (s : State) (cmd : CmdRef), adminAsked s.block cmd = true →
    let p := cmd.ctrl
    let s1 := beginCmd s.block cmd
    let gives (i : Instr) (d : List Byte) (dw0 : Nat) : Prop := Completes i s (fun b => answerOnly s.block b p ∧
      Answered s.block b cmd dw0 0 0 ∧ (d ≠ [] → ∃ r, b.out = s.block.out ++ .hostData cmd 0 d :: r))
    let fails (i : Instr) (st : Nat) : Prop := Completes i s (fun b => answerOnly s.block b p ∧ Answered s.block b cmd 0 0 st)
    (∀ (cns : Byte) (nsid cntid : Nat),
      (∀ d, identifyData s.block p cns.toNat nsid cntid = .inl d → gives (.identify cmd cns nsid cntid) d 0) ∧
      (∀ st, identifyData s.block p cns.toNat nsid cntid = .inr st → fails (.identify cmd cns nsid cntid) st)) ∧
    (∀ (lid : Byte) (off len : Nat),
      (logPage s.block p lid.toNat = none → ∀ rae, fails (.getLogPage cmd lid rae off len) (status 1 0x09 1)) ∧
      (∀ d, logPage s.block p lid.toNat = some d →
        (lid ≠ 2 → gives (.getLogPage cmd lid true off len) (bytesAt d off len) 0) ∧
        (∀ rae, Completes (.getLogPage cmd lid rae off len) s (fun b => Answered s.block b cmd 0 0 0 ∧
          (len ≠ 0 → ∃ r, b.out = s.block.out ++ .hostData cmd 0 (bytesAt d off len) :: r) ∧
          (rae = false → ∀ e ∈ (getEvt b p).reported, e.log ≠ lid.toNat) ∧
          (rae = false → lid = 0xC1 → (getEvt b p).pageLog = []) ∧ (rae = false → lid = 0xC2 → (getEvt b p).ctxLog = []) ∧
          (rae = false → lid = 0xC4 → (getEvt b p).wakeLog = []) ∧ (rae = false → lid = 4 → (getCtl b p).changed = []))))) ∧
    (∀ (fid : Byte) (save : Bool) (nsid dw11 dw12 : Nat) (data : List Byte), (save = true → saveable fid.toNat = true) →
      (∀ st, putFeature s1 p fid.toNat save nsid dw11 data = .inr st → fails (.setFeatures cmd fid save nsid dw11 dw12 data) st) ∧
      (∀ s2, putFeature s1 p fid.toNat save nsid dw11 data = .inl s2 →
        Completes (.setFeatures cmd fid save nsid dw11 dw12 data) s (fun b => answerOnly s2 b p ∧
          ∀ v d, featureOf s2 p fid.toNat 0 nsid dw11 = .inl (v, d) → Answered s.block b cmd v 0 0)) ∧
      (plainFeature fid.toNat = true → Completes (.setFeatures cmd fid save nsid dw11 dw12 data) s (fun b =>
        answerOnly s.block b p ∧ Answered s.block b cmd dw11 0 0 ∧ tabGet 0 (getCtl b p).feats fid.toNat = dw11 ∧
          (save = true → tabGet 0 (getCtl b p).savedFeats fid.toNat = dw11)))) ∧
    (∀ (fid : Byte) (nsid dw11 : Nat),
      (∀ (sel : Fin 8) v d, sel.val < 3 → featureOf s.block p fid.toNat sel.val nsid dw11 = .inl (v, d) →
        gives (.getFeatures cmd fid sel nsid dw11) d v) ∧
      (∀ v d, featureOf s.block p fid.toNat 0 nsid dw11 = .inl (v, d) → gives (.getFeatures cmd fid 3 nsid dw11) []
        (boolNat (saveable fid.toNat) + (if fid = 0x05 ∨ fid = 0x82 ∨ fid = 0x83 then 2 else 0) + (if fid = 0x07 then 0 else 4))) ∧
      (∀ (sel : Fin 8) st, sel.val < 3 → featureOf s.block p fid.toNat sel.val nsid dw11 = .inr st →
        fails (.getFeatures cmd fid sel nsid dw11) st)) ∧
    (∀ (off : Nat) (data : List Byte), off % 65536 = 0 → data.length % 65536 = 0 → data ≠ [] → off + data.length ≤ 33554432 →
      (∀ e ∈ (getCtl s.block p).download, off + data.length ≤ e.1 ∨ e.1 + e.2.length ≤ off) →
      Completes (.firmwareImageDownload cmd off data) s (fun b => answerOnly s.block b p ∧ Answered s.block b cmd 0 0 0 ∧
        (getCtl b p).download = tabSet (getCtl s.block p).download off data)) ∧
    (∀ (slot : Fin 8) (f : FwFacts), let i := fwSlot s.block slot
      let a := s.block.adm
      let img := downloaded (getCtl s.block p)
      fwBusy s.block = false → i ≤ 2 →
      (i ≠ a.active → fwGood s.block img f = true →
        let waits (c : Instr) (ca : Nat) : Prop := Completes c s (fun b => isOutstanding b cmd = true ∧ (getCtl b p).download = [] ∧
          b = { s.block with ctls := b.ctls, adm := { a with
            slots := tabErase a.slots i, shippedGone := a.shippedGone || decide (i = 1)
            pendingSlot := if a.pendingSlot = i then 0 else a.pendingSlot
            commit := some ⟨cmd, i, ca, ⟨f.fr, f.svn, f.minSvn, img⟩⟩, step := if ca = 3 then 1 else 0 } })
        waits (.fwCommitReplace cmd slot f) 0 ∧ waits (.fwCommitReplaceActivate cmd slot f) 1 ∧ waits (.fwCommitActivateNow cmd slot f) 3) ∧
      (i ≠ a.active → fwGood s.block img f = false → fails (.fwCommitReplace cmd slot f) (status 1 0x07 1)) ∧
      ((slotFr s.block i).isSome = true → Completes (.fwCommitActivate cmd slot) s (fun b => Answered s.block b cmd 0 0 0 ∧
        answerOnly { s.block with adm := { a with pendingSlot := i } } b p))) ∧
    (∀ (data : List Byte) (l : List CalEntry),
      let sets (i : Instr) (l : List CalEntry) : Prop := Completes i s (fun b => Answered s.block b cmd 0 0 0 ∧
        answerOnly { s.block with adm := { s.block.adm with
          overlay := l, calGen := (s.block.adm.calGen + 1) % 2 ^ 32, applying := true, calLeft := b.adm.calLeft } } b p ∧
        ∀ q, q ∈ b.adm.calLeft ↔ q ∈ s.block.adm.calLeft ∨ q ∈ calChanged s.block.adm.overlay l)
      (parseOverlay data = some l → (∀ e ∈ l, calStatus e = none) → sets (.calibrationWrite cmd data) l) ∧
      (∀ st, parseOverlay data = some l → l.findSome? calStatus = some st → fails (.calibrationWrite cmd data) st) ∧
      sets (.restoreFactory cmd) []) ∧
    (let g := s.block.adm.calGen;
      gives (.calibrationRead cmd 0) (calRecord g (calAll.map (fun e => ⟨e.1, e.2, effectiveCal [] e.1 e.2⟩))) 0 ∧
      gives (.calibrationRead cmd 1) (calRecord g s.block.adm.overlay) 0 ∧
      gives (.calibrationRead cmd 2) (calRecord g (calAll.map (fun e => ⟨e.1, e.2, effectiveCal s.block.adm.overlay e.1 e.2⟩))) 0) ∧
    (∀ r d, miData s.block r = some d → gives (.nvmeMiReceive cmd r) d 0) ∧
    (s.block.opt.committing = none →
      (∀ v, 64 ≤ v → v ≤ 1024 → Completes (.nvmeMiSend cmd (.configSet 3 v)) s (fun b => Answered s.block b cmd 0 0 0 ∧
        answerOnly { s.block with adm := { s.block.adm with mtu := v } } b p)) ∧
      (∀ data, Completes (.nvmeMiSend cmd (.vpdWrite data)) s (fun b => Answered s.block b cmd 0 0 0 ∧
        Recorded s.block b (optSeal (bytesPut (optLatest s.block) 0x100 (padTo 256 data)) (s.block.opt.committedSeq + 1).toNat))))

/-- FW_SLOT_WRITE_DONE, FW_ACTIVATION_PROGRESS, CALIBRATION_APPLY_DONE, MM_HANDOVER, STANDBY_SELF_TEST_DONE, TEMP_HISTORY_SAVE,
PMCSR_WRITE, WAKE_ARBITRATION, PME_RESEND, RESUME_COMPLETE, MI_READ_DATA_STRUCTURE, MI_SUBSYSTEM_HEALTH_POLL,
MI_CONTROLLER_HEALTH_POLL, MI_CONFIGURATION_GET, MI_CONFIGURATION_SET, MI_VPD_READ, MI_VPD_WRITE, MI_TUNNELLED_ADMIN (R453 to R459, R467,
R477 to R483, R604, R662). -/
def Obligations.Manager : Prop :=
  ∀ s : State, let a := s.block.adm
    (started s.block = true →
      (∀ c : FwCommit, a.commit = some c → (a.step = 0 ∨ a.step = 1) → awaited s.block c.cmd = true →
        Completes (.fwSlotWriteDone false) s (fun b => Answered s.block b c.cmd 0 0 (status 1 0x07 1) ∧ b.adm.commit = none ∧
          b.adm.step = 0 ∧ b.adm.slots = a.slots) ∧
        (c.ca ≤ 1 → Completes (.fwSlotWriteDone true) s (fun b => Answered s.block b c.cmd 0 0 0 ∧
          b.adm = { a with slots := tabSet a.slots c.slot c.img, commit := none
                           pendingSlot := if c.ca = 1 then c.slot else a.pendingSlot } ∧
          (memWf 0xFF s.block.cfl.mem = true → ∀ x, x < slotBase c.slot ∨ slotBase c.slot + slotBytes ≤ x → memGet 0xFF b.cfl.mem x = memGet 0xFF s.block.cfl.mem x))) ∧
        (c.ca = 3 → a.standby ≠ .failed → Completes (.fwSlotWriteDone true) s (fun b =>
          statsOnly s.block b ∧ b = { s.block with
            pages := b.pages, cfl := b.cfl, adm := { a with slots := tabSet a.slots c.slot c.img, step := 2, standby := .booting } }))) ∧
      (∀ c : FwCommit, a.commit = some c →
        let goes (n : Nat) : Prop := Completes .fwActivationProgress s (fun b => b = { s.block with adm := { a with step := n } })
        (a.step = 2 → a.standby ≠ .failed → Completes .fwActivationProgress s (fun b =>
          b = { s.block with adm := { a with step := 3, standby := .ready } })) ∧ (a.step = 4 → goes 5) ∧
        ((a.step = 2 ∨ a.step = 3) → a.standby = .failed → awaited s.block c.cmd = true → Completes .fwActivationProgress s (fun b =>
          Answered s.block b c.cmd 0 0 (status 1 0x0B 1) ∧ b.adm.step = 0 ∧ b.adm.commit = none ∧ b.adm.pendingSlot = c.slot ∧
            b.adm.active = a.active)) ∧
        (a.step = 3 → a.standby ≠ .failed → mtfaLost s.block = false → Completes .fwActivationProgress s (fun b =>
          b.adm = { a with step := 4 } ∧ ∀ q < activePorts s.block, (getCtl b q).pp = true)) ∧
        (a.step = 3 → a.standby ≠ .failed → mtfaLost s.block = true → awaited s.block c.cmd = true → Completes .fwActivationProgress s (fun b =>
          Answered s.block b c.cmd 0 0 (status 1 0x12 1) ∧ b.adm.step = 0 ∧ b.adm.commit = none ∧ b.adm.pendingSlot = c.slot ∧
            b.adm.active = a.active)) ∧
        (a.step = 5 → awaited s.block c.cmd = true → Completes .fwActivationProgress s (fun b => Answered s.block b c.cmd 0 0 0 ∧
          b.adm = { a with
            active := c.slot, pendingSlot := 0, step := 6, unitsLeft := updateUnits s.block, servingB := !a.servingB, standby := .booting
            handovers := satAdd 0xFFFF a.handovers 1 } ∧
          b.cfl.refresh = [] ∧ ∀ q < activePorts s.block, (getCtl b q).pp = false)) ∧
        (a.step = 6 → (∀ q ∈ a.unitsLeft, passedOver s.block q = true) → Completes .fwActivationProgress s (fun b =>
          b = { s.block with adm := { a with step := 7, unitsLeft := [] } })) ∧
        (a.step = 7 → Completes .fwActivationProgress s (fun b => statsOnly s.block b ∧ b = { s.block with
          pages := b.pages, adm := { a with step := 0, commit := none, standby := .ready, minSvn := c.img.minSvn } }))) ∧
      (a.applying = true → (∀ q ∈ a.calLeft, passedOver s.block q = true) → Completes .calibrationApplyDone s (fun b =>
        b.adm = { a with applying := false, calLeft := [] } ∧ b.nss = s.block.nss ∧ b.dm = s.block.dm)) ∧
      (∀ m, (a.standby = .ready → Completes (.mmHandover m) s (fun b => statsOnly s.block b ∧ b = { s.block with
          pages := b.pages, life := b.life
          adm := { a with servingB := !a.servingB, standby := .booting, handovers := satAdd 0xFFFF a.handovers 1 } })) ∧
        (a.standby ≠ .ready → Completes (.mmHandover m) s (fun b => statsOnly s.block b ∧ b = { s.block with pages := b.pages }))) ∧
      (∀ pass, a.standby = .booting → a.step < 5 → Completes (.standbySelfTestDone pass) s (fun b =>
        b.adm = { a with standby := if pass then .ready else .failed, healthChange := b.adm.healthChange } ∧
          (pass = false → natBit b.crit 2 = true))) ∧
      (∀ c : FwCommit, a.standby = .booting → a.step = 7 → a.commit = some c → Completes (.standbySelfTestDone false) s (fun b =>
        b.adm.standby = .failed ∧ b.adm.step = 0 ∧ b.adm.commit = none ∧ b.adm.active = a.active ∧ natBit b.crit 2 = true)) ∧
      Completes .tempHistorySave s (fun b => b.adm.histSaved = b.adm.hist ∧ b.adm.minute = max a.minute (s.block.now / 60000000000) ∧
        b = { s.block with life := b.life, adm := { a with hist := b.adm.hist, histSaved := b.adm.hist, minute := b.adm.minute } }) ∧
      (∀ (p : PortNo) (d : PowerD) (en clear : Bool), p.val < activePorts s.block → let c := getCtl s.block p
        Completes (.pmcsrWrite p d en clear) s (fun b =>
          b = { s.block with ctls := tabSet s.block.ctls p { c with dstate := d, pmeEn := en, pmeStatus := c.pmeStatus && !clear }
                             low := b.low, lowSince := b.lowSince, hostResume := b.hostResume } ∧
            (d = .d0 → c.dstate ≠ .d0 → s.block.low = true → s.block.resuming = false → b.hostResume = true) ∧
            (d ≠ .d0 → s.block.low = false → s.block.resuming = false → (∀ q < activePorts s.block, suspended (getCtl b q) = true) →
              (∀ e ∈ s.block.cores, e.2.placed = none) → b.low = true))) ∧
      (s.block.low = true → s.block.resuming = false →
        (s.block.hostResume = true → Completes .wakeArbitration s (fun b =>
          b = { s.block with hostResume := false, resuming := true })) ∧
        (s.block.hostResume = false → s.block.wakes ≠ [] →
          (s.block.pmeSent = true → Completes .wakeArbitration s (fun b => b = { s.block with resuming := true })) ∧
          (∀ q, s.block.pmeSent = false → pmePort s.block = some q → Completes .wakeArbitration s (fun b => statsOnly s.block b ∧
            b = { s.block with
              pages := b.pages, resuming := true, pmeSent := true, out := s.block.out ++ [.pme q]
              ctls := tabSet s.block.ctls q { getCtl s.block q with pmeStatus := true } })))) ∧
      (∀ p : PortNo, s.block.wakes ≠ [] → s.block.pmeSent = false → s.block.resuming = false → (getCtl s.block p).dstate = .d3hot →
        (getCtl s.block p).pmeEn = true → Completes (.pmeResend p) s (fun b => statsOnly s.block b ∧ b = { s.block with
          pages := b.pages, resuming := true, pmeSent := true, out := s.block.out ++ [.pme p]
          ctls := tabSet s.block.ctls p { getCtl s.block p with pmeStatus := true } })) ∧
      (s.block.resuming = true → Completes .resumeComplete s (fun b =>
        b.low = false ∧ b.resuming = false ∧ b.hostResume = false ∧ b.wakes = [] ∧ b.pmeSent = false ∧ b.dm = s.block.dm ∧
          (s.block.wakes ≠ [] → ∀ q < 4, natBit (getEvt s.block q).config.toNat 20 = true →
            (⟨7, 4, 0xC4⟩ : AEvent) ∈ (getEvt b q).reported ∨ (⟨7, 4, 0xC4⟩ : AEvent) ∈ (getEvt b q).queued)))) ∧
    (∀ tag : Nat,
      (islandOnly s.block = true → (optLatest s.block).drop 0x100 ≠ [] → Completes (.miVpdRead tag) s (fun b =>
        answerOnly s.block b sideband ∧ ∃ r, b.out = s.block.out ++ .miResponse 0 ((optLatest s.block).drop 0x100) :: r)) ∧
      (islandOnly s.block = true → Completes (.miSubsystemHealthPoll tag) s (fun b =>
        answerOnly s.block b sideband ∧ ∃ r, b.out = s.block.out ++ .miResponse 0 (subsystemPoll s.block false) :: r)) ∧
      (mmUp s.block = true → s.block.hub.aux = true → recovering s.block = false →
        let gives (i : Instr) (r : MiReq) : Prop := ∀ d, miData s.block r = some d → d ≠ [] → Completes i s (fun b =>
          answerOnly s.block b sideband ∧ ∃ l, b.out = s.block.out ++ .miResponse 0 d :: l)
        (∀ t, gives (.miReadDataStructure tag t) (.readData t)) ∧ gives (.miSubsystemHealthPoll tag) .subsystemPoll ∧
        gives (.miControllerHealthPoll tag) .controllerPoll ∧ (∀ i, gives (.miConfigurationGet tag i) (.configGet i)) ∧
        gives (.miVpdRead tag) .vpdRead ∧
        (writeForbid s.block = true → Completes (.miConfigurationSet tag 3 64) s (fun b => b.adm.mtu = a.mtu ∧
          b.out = s.block.out ++ [.miResponse 0x03 (leBytes 4 0)])) ∧
        (writeForbid s.block = false →
          (∀ v, 1 ≤ v → v ≤ 3 → Completes (.miConfigurationSet tag 1 v) s (fun b =>
            answerOnly { s.block with adm := { a with smbFreq := v } } b sideband ∧ b.out = s.block.out ++ [.miResponse 0 (leBytes 4 0)])) ∧
          (∀ v, 64 ≤ v → v ≤ 1024 → Completes (.miConfigurationSet tag 3 v) s (fun b =>
            answerOnly { s.block with adm := { a with mtu := v } } b sideband ∧ b.out = s.block.out ++ [.miResponse 0 (leBytes 4 0)])) ∧
          (∀ data, s.block.opt.committing = none → Completes (.miVpdWrite tag data) s (fun b =>
            b.out = s.block.out ++ [.miResponse 0 (leBytes 4 0)] ∧
              Recorded s.block b (optSeal (bytesPut (optLatest s.block) 0x100 (padTo 256 data)) (s.block.opt.committedSeq + 1).toNat)))) ∧
        (∀ p : PortNo, (getCtl s.block p).pp = false → p.val < activePorts s.block →
          (∀ cns nsid cntid d, identifyData s.block p cns.toNat nsid cntid = .inl d → d ≠ [] →
            Completes (.miTunnelledAdmin tag p (.identify cns nsid cntid)) s (fun b =>
              answerOnly s.block b sideband ∧ ∃ l, b.out = s.block.out ++ .miResponse 0 d :: l)) ∧
          (writeForbid s.block = false → ∀ off data, off % 65536 = 0 → data.length % 65536 = 0 → data ≠ [] →
            off + data.length ≤ 33554432 → (getCtl s.block p).download = [] →
            Completes (.miTunnelledAdmin tag p (.fwDownload off data)) s (fun b => (getCtl b p).download = [(off, data)] ∧
              b.out = s.block.out ++ [.miResponse 0 (leBytes 4 0)])))))

/-- CFL_PROGRAM_ROW, CFL_ERASE_SECTOR, CFL_VERIFY_SECTOR, CFL_OP_COMPLETE, CFL_SUSPEND, CFL_RESUME, CFL_RDATA_READ, MARGIN_PATROL,
OPT_UNLOCK, OPT_LOCK, OPT_LOAD_STAGE, OPT_COMMIT, OPT_SET_PASSWORD, OPT_STAGE_WRITE, OPT_COMMIT_DONE (R586 to R609). -/
def Obligations.CodeFlash : Prop :=
  ∀ s : State, let f := s.block.cfl
    (∀ w : Writer, w.master = .mm → judged s.block pgCfl w 0x128 = true →
      let joins (i : Instr) (op : CflOp) : Prop := f.ops.length < 65 → Completes i s (fun b =>
        b = { s.block with pages := b.pages, cfl := b.cfl } ∧
          let d := { f with ops := f.ops ++ [op], opSeq := if f.ops.isEmpty then f.opSeq + 1 else f.opSeq }
          b.cfl = if f.ops.isEmpty then d.dropForOp else d)
      ∀ (bank : Fin 2) (sector : Fin 1024),
        (cflMay s.block bank sector = true →
          (∀ row : Fin 256, joins (.cflProgramRow w bank sector row) ⟨1, bank, sector, row, progBuf s.block⟩) ∧
          joins (.cflEraseSector w bank sector) ⟨2, bank, sector, 0, progBuf s.block⟩) ∧
        (cflMay s.block bank sector = false → Completes (.cflEraseSector w bank sector) s (fun b =>
          Rejected s.block b pgCfl w 0x81 0x128 ∧ b.cfl = f)) ∧
        joins (.cflVerifySector w bank sector) ⟨3, bank, sector, 0, progBuf s.block⟩) ∧
    (started s.block = true →
      (∀ op rest, f.ops = op :: rest → f.suspended = false →
        let base := op.bank * bankBytes + op.sector * sectorBytes
        let ended (b : Block) (m : Mem) : Prop := b.cfl.mem = m ∧ b.cfl.ops = rest ∧ natBit (getPage b pgCfl).irqStatus.toNat 16 = true ∧
          b.dm = s.block.dm
        (op.cmd = 1 → Completes (.cflOpComplete true) s (fun b => ended b (memPut 0xFF f.mem (base + op.row * 256) op.data)) ∧
          Completes (.cflOpComplete false) s (fun b => ∃ l, l.length = 256 ∧ ended b (memPut 0xFF f.mem (base + op.row * 256) l))) ∧
        (op.cmd = 2 → Completes (.cflOpComplete true) s (fun b => ended b (memDrop f.mem base (base + sectorBytes))) ∧
          Completes (.cflOpComplete false) s (fun b => ∃ l, l.length = sectorBytes ∧ ended b (memPut 0xFF f.mem base l))) ∧
        (op.cmd = 3 → ∀ pass, Completes (.cflOpComplete pass) s (fun b => ended b f.mem))) ∧
      (∀ bank : Fin 2, cflRunning s.block bank = true → f.suspended = false → Completes (.cflSuspend bank) s (fun b =>
        statsOnly s.block b ∧ b = { s.block with
          pages := b.pages, cfl := { f with suspended := true, pairA := b.cfl.pairA, pairB := b.cfl.pairB }, fresh := s.block.fresh + 2
          now := if f.resumedAt = 0 then s.block.now else max s.block.now (f.resumedAt + 100000) })) ∧
      (f.suspended = true → Completes .cflResume s (fun b =>
        b = { s.block with cfl := { f with suspended := false, resumedAt := s.block.now } })) ∧
      (∀ r, s.block.opt.committing = some r → r.length = 512 → Completes .optCommitDone s (fun b => Recorded s.block b r ∧
        b.opt.committing = none ∧ b.opt.stageBase = b.opt.committedSeq ∧ b.opt.result = 1 ∧
          natBit (getPage b pgOpt).irqStatus.toNat 16 = true)) ∧
      (∀ l : List (Fin 2048), Completes (.marginPatrol l) s (fun b =>
        ((∃ k ∈ l, refreshable (regionOf (k.val % 1024)) = true) → natBit (getPage b pgCfl).irqStatus.toNat 18 = true) ∧ b.nss = s.block.nss ∧ b.dm = s.block.dm ∧
          (∀ k ∈ l, k.val % 1024 < 512 → k.val / 1024 + 1 = s.block.adm.active → k.val ∈ b.cfl.refresh) ∧
          (∀ k, l = [k] → regionOf (k.val % 1024) = .ring → s.block.opt.committed ≠ [] → s.block.opt.committing = none →
            Recorded s.block b (optSeal s.block.opt.committed (s.block.opt.committedSeq + 1).toNat))))) ∧
    (∀ (w : Writer) (wide : Bool), pageAnswers s.block .cfl 0 = true →
      let addr := pgCfl * 4096 + 0x118
      let size := if wide then 8 else 4
      ((w.master = .pk ∨ w.master = .pe) → ∀ g, Completes (.cflRdataRead w wide g) s (fun b =>
        b = { s.block with out := s.block.out ++ [.readData w addr size 0] })) ∧
      (w.master ≠ .pk → w.master ≠ .pe →
        let ra := (tabGet 0 s.block.sel (selKey 3 w)).toNat
        let at_ := ra % 2 ^ 27 / 8 * 8
        let region := regionOf (at_ % bankBytes / sectorBytes)
        let v := leNat ((List.range 8).map (fun i => cflByte s.block (at_ + i)))
        (∀ o ∈ f.ops.head?, o.bank ≠ at_ / bankBytes ∨ o.cmd = 3) → region ≠ .keys → (region = .journal → w.master = .mm) →
        ∀ g : Fin 3, g.val < 2 → Completes (.cflRdataRead w wide g) s (fun b =>
          b.out = s.block.out ++ [.readData w addr size (if wide then v else v % 2 ^ 32)] ∧
            (tabGet 0 b.sel (selKey 3 w)).toNat % 2 ^ 27 = (at_ + 8) % 2 ^ 27 ∧ (tabGet 0 b.sel (selKey 4 w)).toNat = g.val ∧
            b = { s.block with pages := b.pages, sel := b.sel, out := b.out }))) ∧
    (∀ (w : Writer) (guard : Byte), let o := s.block.opt
      let only (b : Block) (n : OptState) : Prop := b = { s.block with pages := b.pages, opt := n } ∧
        getPage b pgOpt = { getPage s.block pgOpt with gen := (getPage s.block pgOpt).gen + 1 }
      let typed : DWord := BitVec.ofNat 64 (o.pwHi.toNat * 2 ^ 32 + o.pwLo.toNat)
      let loaded (n : OptState) : OptState := { n with stage := optLatest s.block, stageBase := o.committedSeq, result := 1 }
      optMay s.block w guard = true →
        Completes (.optLock w guard) s (fun b => only b { o with unlocked := false, result := 1 }) ∧
        Completes (.optLoadStage w guard) s (fun b => only b (loaded o)) ∧
        (o.committing = none →
          (o.password = none → Completes (.optUnlock w guard) s (fun b => only b (loaded { o with pwLo := 0, pwHi := 0 }))) ∧
          (∀ pw, o.password = some pw → o.failed < 8 → (∀ t ∈ o.lastFail, t + 1000000000 ≤ s.block.now) →
            (typed = pw → Completes (.optUnlock w guard) s (fun b =>
              only b (loaded { o with pwLo := 0, pwHi := 0, unlocked := true }))) ∧
            (typed ≠ pw → Completes (.optUnlock w guard) s (fun b => b.opt = { o with
              pwLo := 0, pwHi := 0, failed := min 255 (o.failed + 1), lastFail := some s.block.now, result := 5 }))) ∧
          (∀ pw, o.password = some pw → 8 ≤ o.failed → Completes (.optUnlock w guard) s (fun b =>
            b.opt = { o with pwLo := 0, pwHi := 0, result := 6 })) ∧
          (optUnlocked o = true →
            (optFieldBad (padTo 512 o.stage) = none → o.stageBase = o.committedSeq → Completes (.optCommit w guard) s (fun b =>
              only b { o with committing := some (optSeal (padTo 512 o.stage) (o.committedSeq + 1).toNat), result := 0 })) ∧
            (∀ off, optFieldBad (padTo 512 o.stage) = some off → Completes (.optCommit w guard) s (fun b =>
              b.opt = { o with fieldErr := BitVec.ofNat 32 (2 ^ 31 + off), result := 3 })) ∧
            (typed = 0 → Completes (.optSetPassword w guard) s (fun b => only b { o with password := none, result := 1 })) ∧
            (typed ≠ 0 → Completes (.optSetPassword w guard) s (fun b =>
              only b { o with password := some typed, unlocked := true, result := 1 }))))) ∧
    (∀ (w : Writer) (n : Fin 128) (v : Word), judged s.block pgOpt w (0x400 + 4 * n.val) = true → isOwner (getPage s.block pgOpt) w = true →
      (optUnlocked s.block.opt = true → Completes (.optStageWrite w n v) s (fun b => b = { s.block with opt := { s.block.opt with
        stage := bytesPut (padTo 512 s.block.opt.stage) (4 * n.val) (leBytes 4 v.toNat) } })) ∧
      (optUnlocked s.block.opt = false → Completes (.optStageWrite w n v) s (fun b =>
        Rejected s.block b pgOpt w 0x80 (0x400 + 4 * n.val) ∧ b.opt = s.block.opt)))

/-- LANE_LOCK, BLOCK_RECEIVE, REPLAY_TIMEOUT, LINK_RETRAIN, LINK_RETRAIN_DONE, LINK_DOWN, TRAIN_RECORD_RECEIVE, LINK_ADMIT,
LINK_DRAIN_DONE, LINK_TEST_END, AUP_RETRAIN_WRITE, AUP_ROUTE_ENTRY_WRITE (R486 to R495, R505, R513 to R518, R521, R522). -/
def Obligations.LinkLayer : Prop :=
  ∀ (s : State) (l : LinkNo), let p := pgAup l
    let k := getLink s.block l
    let g := getPage s.block p
    let up : Prop := k.st = .active ∨ k.st = .quarantine ∨ k.st = .draining
    (started s.block = true →
      (∀ (lane field : Fin 2) (cw0 cw1 cw2 : Fin 64), let a := if lane.val = 0 then k.lane0 else k.lane1
        let set (k : Link) (a : LaneRx) : Link := if lane.val = 0 then { k with lane0 := a } else { k with lane1 := a }
        mayTrain s.block l = true → natBit s.block.hub.ready 2 = true →
          (cw1.val = (cw0.val + 1) % 64 → cw2.val = (cw0.val + 2) % 64 → a.disabled = false → a.retired = false → a.locked = false →
            let q := set k { a with locked := true, field := field.val, cw := (cw0.val + 3) % 64, bad := 0, shift := none }
            (k.st = .search → Completes (.laneLock l lane 7 field cw0 cw1 cw2) s (fun b =>
              linkIs s.block b l (blockSent { q with st := .negotiate, phase := 0 }) ∧ trainSent s.block b l 0)) ∧
            (k.st = .negotiate → k.phase = 0 → Completes (.laneLock l lane 7 field cw0 cw1 cw2) s (fun b =>
              linkIs s.block b l (blockSent { q with phase := 0 }) ∧ trainSent s.block b l 0)) ∧
            (k.st = .retrain → Completes (.laneLock l lane 7 field cw0 cw1 cw2) s (fun b =>
              linkIs s.block b l (blockSent { q with phase := 2 }) ∧ trainSent s.block b l 2))) ∧
          (∀ d : Fin 8, k.st ≠ .down → (d ≠ 7 ∨ cw1.val ≠ (cw0.val + 1) % 64 ∨ cw2.val ≠ (cw0.val + 2) % 64) →
            Completes (.laneLock l lane d field cw0 cw1 cw2) s (fun b => b = s.block))) ∧
      (∀ (lane : Fin 2) (w : CodeWord), let a := if lane.val = 0 then k.lane0 else k.lane1
        let laneOf (k : Link) : LaneRx := if lane.val = 0 then k.lane0 else k.lane1
        let x := w.block
        let good : Prop := a.locked = true ∧ w.decodes = true ∧ bvBits w.header 10 10 = 0x2B6 ∧ bvBits w.header 9 1 = a.field ∧
          bvBits w.header 3 6 = a.cw
        (good → fieldAt x 0xC 4 ≠ crc32cOf (bytesAt x 0 12 ++ bytesAt x 16 624) → Completes (.blockReceive l lane w) s (fun b =>
          laneOf (getLink b l) = { a with cw := (a.cw + 1) % 64, bad := 0, shift := none } ∧ (getLink b l).discard = true ∧
            (getLink b l).expect = k.expect ∧ b.routerIn = s.block.routerIn ∧
            tabGet 0 (getPage b p).live 7 = tabGet 0 g.live 7 + 1)) ∧
        (good → fieldAt x 0xC 4 = crc32cOf (bytesAt x 0 12 ++ bytesAt x 16 624) → natBit (fieldAt x 2 2) 12 = false →
          fieldAt x 0 2 < 4096 →
          (fieldAt x 0 2 ≠ k.expect → Completes (.blockReceive l lane w) s (fun b =>
            (getLink b l).expect = k.expect ∧ (getLink b l).partly = k.partly ∧ b.routerIn = s.block.routerIn)) ∧
          (fieldAt x 0 2 = k.expect → (k.discard = false ∨ natBit (fieldAt x 2 2) 13 = true) → ∀ f : Frame, k.partly = [] →
            bytesAt x 16 624 = padTo 624 (frameBytes f) → frameOf (frameBytes f) = f → frameCells f ≤ 39 → 1 ≤ f.type → f.type ≤ 9 →
            admitsFrame k f = true → Completes (.blockReceive l lane w) s (fun b =>
              (getLink b l).expect = (k.expect + 1) % 4096 ∧ (getLink b l).discard = false ∧
                b.routerIn = s.block.routerIn ++ [⟨some l.val, f⟩]))) ∧
        (a.locked = true → w.decodes = false → w.shift = none →
          (a.bad < 3 → Completes (.blockReceive l lane w) s (fun b =>
            laneOf (getLink b l) = { a with cw := (a.cw + 1) % 64, bad := a.bad + 1, shift := none } ∧ (getLink b l).discard = true ∧
              (getLink b l).st = k.st ∧ tabGet 0 (getPage b p).live 6 = tabGet 0 g.live 6 + 1)) ∧
          (3 ≤ a.bad → up → Completes (.blockReceive l lane w) s (fun b =>
            (getLink b l).st = .retrain ∧ (getLink b l).prev = k.st ∧ (laneOf (getLink b l)).locked = false ∧
              (getLink b l).replay = k.replay)))) ∧
      (∀ h r, k.replay = h :: r → up →
        (k.tries < 4 → Completes (.replayTimeout l) s (fun b => b.now = max s.block.now (h.sent + 10000) ∧
          (getLink b l).tries = k.tries + 1 ∧ (getLink b l).replay = k.replay.map (fun h => { h with sent := b.now }) ∧
          ∃ x y, b.out = s.block.out ++ (x :: y).map (Output.block l) ∧ (x :: y).length = k.replay.length ∧
            natBit (fieldAt x 2 2) 13 = true)) ∧
        (4 ≤ k.tries → Completes (.replayTimeout l) s (fun b => b.now = max s.block.now (h.sent + 10000) ∧
          getLink b l = retraining k))) ∧
      (up → Completes (.linkRetrain l) s (fun b => linkIs s.block b l (retraining k) ∧ b.out = s.block.out)) ∧
      (k.st = .retrain →
        (∀ a, k.peerReady = some a → laneBits k ≠ 0 → Completes (.linkRetrainDone l true) s (fun b =>
          (getLink b l).st = k.prev ∧ (getLink b l).retrains = 0 ∧ (getLink b l).width = popBits (laneBits k) ∧
            (getLink b l).expect = k.expect)) ∧
        (k.retrains < 2 → Completes (.linkRetrainDone l false) s (fun b =>
          (getLink b l).st = .retrain ∧ (getLink b l).retrains = k.retrains + 1 ∧ (getLink b l).lane0.locked = false ∧
            (getLink b l).lane1.locked = false ∧ (getLink b l).replay = k.replay)) ∧
        (2 ≤ k.retrains → Completes (.linkRetrainDone l false) s (fun b => isDown (getLink b l) 5))) ∧
      (k.st ≠ .down → Completes (.linkDown l) s (fun b => isDown (getLink b l) 1 ∧ natBit (getPage b p).irqStatus.toNat 17 = true ∧
        ∀ f ∈ lostFrames k, inStream f.type = true → ∃ c, (⟨none, c⟩ : Routed) ∈ b.routerIn ∧ c.type = 8 ∧ c.src = f.src ∧
          c.dst = f.dst ∧ c.vc = f.vc)) ∧
      (∀ r : TrainRec, mayTrain s.block l = true →
        (k.st = .negotiate → k.phase = 0 → let cap := natBits g.ctl.toNat 16 8
          (r.module = s.block.self → Completes (.trainRecordReceive l r) s (fun b => isDown (getLink b l) 4 ∧
            natBit (getPage b p).irqStatus.toNat 20 = true)) ∧
          (r.module ≠ s.block.self → min cap r.vmax < 0x12 → Completes (.trainRecordReceive l r) s (fun b => isDown (getLink b l) 3)) ∧
          (r.module ≠ s.block.self → r.vmin ≤ 0x12 → min cap r.vmax = 0x12 →
            (Nat.land (laneBits k) r.lanes = 0 → Completes (.trainRecordReceive l r) s (fun b => isDown (getLink b l) 2)) ∧
            (Nat.land (laneBits k) r.lanes ≠ 0 → Completes (.trainRecordReceive l r) s (fun b => trainSent s.block b l 2 ∧
              linkIs s.block b l (blockSent { k with peer := some (r.module, r.link), version := 0x12, phase := 2 })))) ∧
          (r.module ≠ s.block.self → r.vmin ≤ 0x20 → 0x20 ≤ min cap r.vmax → Nat.land (laneBits k) r.lanes ≠ 0 →
            Completes (.trainRecordReceive l r) s (fun b => linkIs s.block b l (blockSent { k with
              peer := some (r.module, r.link), version := 0x20, phase := 1, rate := 2
              lane0 := { k.lane0 with locked := false }, lane1 := { k.lane1 with locked := false } })))) ∧
        (k.st = .negotiate → k.phase = 2 → r.phase = 2 → popBits (Nat.land (laneBits k) r.lanes) ≠ 0 →
          Completes (.trainRecordReceive l r) s (fun b => (getLink b l).st = .quarantine ∧
            (getLink b l).width = popBits (Nat.land (laneBits k) r.lanes) ∧ natBit (getPage b p).irqStatus.toNat 19 = true)) ∧
        (∀ a, k.st = .retrain → r.phase = 2 → r.ackSeq = some a → Completes (.trainRecordReceive l r) s (fun b =>
          linkIs s.block b l { k with peerReady := some a } ∧ b.out = s.block.out))) ∧
      (k.st = .quarantine → g.service ≠ .testing → natBit g.ctl.toNat 0 = true → timeLocked s.block l = true →
        Completes (.linkAdmit l true) s (fun b => (getLink b l).st = .active ∧ natBit (getPage b p).irqStatus.toNat 16 = true) ∧
        Completes (.linkAdmit l false) s (fun b => b = s.block)) ∧
      (g.service = .draining → k.replay = [] → Completes (.linkDrainDone l) s (fun b =>
        isDown (getLink b l) 6 ∧ (getPage b p).service = .fenced)) ∧
      (∀ n, g.service = .testing → Completes (.linkTestEnd l n) s (fun b => (getLink b l).st = .down ∧
        tabGet 0 (getPage b p).live 6 = tabGet 0 g.live 6 + BitVec.ofNat 64 n))) ∧
    (∀ (w : Writer) (v : Word),
      (judged s.block p w 0x014 = true → mmOrOwner s.block p w = true →
        (bvBits v 24 8 = g.gen.toNat % 256 →
          ((bvBits v 16 8 = 0x12 ∨ bvBits v 16 8 = 0x20) → Completes (.aupRetrainWrite w l v) s (fun b =>
            { getPage b p with live := [] } = { g with gen := g.gen + 1, ctl := BitVec.ofNat 24 v.toNat &&& 0xFF000D, live := [] } ∧
              (up → getLink b l = retraining k) ∧ b = { s.block with pages := b.pages, links := b.links })) ∧
          (bvBits v 16 8 ≠ 0x12 → bvBits v 16 8 ≠ 0x20 → Completes (.aupRetrainWrite w l v) s (fun b =>
            Rejected s.block b p w 6 0x014 ∧ getLink b l = k))) ∧
        (bvBits v 24 8 ≠ g.gen.toNat % 256 → Completes (.aupRetrainWrite w l v) s (fun b => Rejected s.block b p w 1 0x014))) ∧
      (judged s.block p w 0x11C = true → routeRight g w = none →
        (bvBits v 24 5 ≤ 23 → bvBits v 16 5 ≤ 23 → Completes (.aupRouteEntryWrite w l v) s (fun b =>
          b = { s.block with routes := tabSet s.block.routes (routeDest s.block w) (v &&& 0x9F1F0007) })) ∧
        ((23 < bvBits v 24 5 ∨ 23 < bvBits v 16 5) → Completes (.aupRouteEntryWrite w l v) s (fun b =>
          Rejected s.block b p w 6 0x11C ∧ b.routes = s.block.routes))))

/-- FRAME_FORWARD, PWRITE_FRAME, READ_FRAME, COMPLETION_FRAME, COLL_FRAME, NOTICE_FRAME, SACK_FRAME, GAP_CHECK_FRAME, JOIN_FRAME,
REORDER_HOLD_TIMEOUT, POISON_REPEAT_TIMER, SACK_TIMER, GAP_CHECK_TIMER, JOIN, JOIN_TIMEOUT (R364, R497 to R510, R519). -/
def Obligations.StreamFrames : Prop :=
  ∀ s : State, started s.block = true →
    (∀ r rest, s.block.routerIn = r :: rest → let f := r.frame
      (f.dst = s.block.self → Completes .frameForward s (fun b => b.inbox = s.block.inbox ++ [r] ∧ b.routerIn = rest ∧
        ∀ l, r.via = some l → tabGet 0 (getLink b l).freed (selOf f) =
          (tabGet 0 (getLink s.block l).freed (selOf f) + frameCells f) % 16384)) ∧
      (f.dst ≠ s.block.self → f.linkLocal = true → Completes .frameForward s (fun b => b.inbox = s.block.inbox ∧ b.routerIn = rest ∧
        tabGet 0 (getPage b (viaPage r.via)).live 0 = tabGet 0 (getPage s.block (viaPage r.via)).live 0 + 1 ∧
        natBit (getPage b (viaPage r.via)).irqStatus.toNat 0 = true)) ∧
      (f.dst ≠ s.block.self → f.linkLocal = false →
        (routeOf s.block f.dst = none → Completes .frameForward s (fun b => b.inbox = s.block.inbox ∧
          (inStream f.type = true → b.routerIn = rest ++ [⟨none, streamNotice s.block.self f.src f.dst 2 2 f.vc f.gen f.sseq⟩]) ∧
          (inStream f.type = false → b.routerIn = rest))) ∧
        (∀ l u, routeOf s.block f.dst = some (l, u) → let f' := { f with layer := max f.layer u }
          let old : Bool := decide ((getLink s.block l).version = 0x12) && (decide (f'.layer = 1) || decide (4096 ≤ f.src) ||
            decide (4096 ≤ f.dst) || decide (f.type = 4))
          (old = false → Completes .frameForward s (fun b => carries (getLink b l) f' ∧ b.inbox = s.block.inbox ∧ b.routerIn = rest)) ∧
          (old = true → inStream f.type = true → Completes .frameForward s (fun b => b.inbox = s.block.inbox ∧
            b.routerIn = rest ++ [⟨none, streamNotice s.block.self f.src f.dst 2 3 f.vc f.gen f.sseq⟩]))))) ∧
    (∀ r rest, s.block.inbox = r :: rest →
      let f := r.frame
      let x := f.payload
      let t := getRx s.block f.src f.vc
      let s0 := { s.block with inbox := rest }
      let s1 := streamApplied s0 f.src f.vc
      let w : Writer := peerOf f
      let notice (kind reason : Nat) : Frame := streamNotice s.block.self f.src s.block.self kind reason f.vc f.gen f.sseq
      (∀ e ∈ [(Instr.pwriteFrame, 1), (Instr.readFrame, 2), (Instr.completionFrame, 3), (Instr.collFrame, 4)], f.type = e.2 →
        let ahead := seqAhead t.expect f.sseq
        (f.gen ≠ t.gen → genNewer t.gen f.gen = false → Completes e.1 s (fun b => b = s0)) ∧
        (f.gen = t.gen →
          (t.poison = true → Completes e.1 s (fun b => b = putRx s0 f.src f.vc { t with again := true })) ∧
          (t.poison = false → 32768 ≤ ahead → Completes e.1 s (fun b => b = s0)) ∧
          (t.poison = false → 1 ≤ ahead → ahead ≤ 64 → viaA12 s.block r = false → Completes e.1 s (fun b =>
            b = putRx s0 f.src f.vc { t with
              held := t.held.filter (fun q => q.2.frame.sseq ≠ f.sseq) ++ [(s.block.now, r)] })) ∧
          (t.poison = false → 1 ≤ ahead → ahead < 32768 → (64 < ahead ∨ viaA12 s.block r = true) → Completes e.1 s (fun b =>
            getRx b f.src f.vc = { t with poison := true, held := [], noticeAt := s.block.now, again := false } ∧
              b = { s0 with rxs := b.rxs, routerIn := s.block.routerIn ++
                [⟨none, streamNotice s.block.self f.src s.block.self 1 1 f.vc t.gen t.expect⟩] })))) ∧
      (nextInStream s.block f = true →
        (∀ (p : PageNo) (off : Fin 4096), f.type = 1 → p.val = fieldAt x 0 2 → off.val = fieldAt x 2 2 →
          Completes .pwriteFrame s (fun b => exec (.registerWrite w p off (fieldAt x 4 1) (BitVec.ofNat 64 (fieldAt x 8 8)))
            { s with block := s1 } = .next { s with block := b })) ∧
        (f.type = 2 → f.linkLocal = false → sizeOk (fieldAt x 2 2) (fieldAt x 4 1) = true → fieldAt x 2 2 < 4096 →
          mustWait s1 (fieldAt x 0 2) w (fieldAt x 2 2) = false →
          let v := readValue s1 (fieldAt x 0 2) w (fieldAt x 2 2) (fieldAt x 4 1)
          let tx := getTx v.1 w.tag.toNat 1
          seqAhead tx.base tx.next < 32768 → tx.waiting = [] → Completes .readFrame s (fun b =>
            ∃ c : Frame, b.routerIn = v.1.routerIn ++ [⟨none, c⟩] ∧ c.type = 3 ∧ c.vc = 1 ∧ c.dst = w.tag.toNat ∧ c.src = s.block.self ∧
              c.spec = f.spec ∧ c.gen = tx.gen ∧ c.sseq = tx.next ∧ fieldAt c.payload 0 8 = v.2 % 2 ^ 64)) ∧
        (f.type = 3 → Completes .completionFrame s (fun b =>
          b = { s1 with out := s1.out ++ [.mmCompletion f.src f.spec (fieldAt x 0 8)] })) ∧
        (f.type = 4 → let job := fieldAt x 0 4
          let n := fieldAt x 8 4
          (jobMembers s1 job = [] → Completes .collFrame s (fun b => b = { s1 with routerIn := s1.routerIn ++ [⟨none, notice 3 4⟩] })) ∧
          (jobMembers s1 job ≠ [] → s.block.low = false →
            (fieldAt x 6 1 = 0 → (∀ q, findColl s1 (.system job) n = some q → q.lost = false) → Completes .collFrame s (fun b =>
              b = { s1 with colls := b.colls } ∧ ∃ q, findColl b (.system job) n = some q ∧ ∃ c ∈ q.parts,
                c.ordinal = fieldAt x 4 2 * 2 ^ 15 ∧ bytesAt c.data (fieldAt x 12 4) (x.drop 16).length = x.drop 16)) ∧
            (fieldAt x 6 1 = 1 → Completes .collFrame s (fun b => b = s1)) ∧
            (fieldAt x 6 1 = 2 → Completes .collFrame s (fun b => ∃ q, findColl b (.system job) n = some q ∧ q.lost = true ∧
              q.parts = []))))) ∧
      (f.type = 6 → let m := fieldAt x 8 2 % 16384
        let vc := fieldAt x 2 1
        let g := fieldAt x 3 1
        let tx := getTx s.block m vc
        let told (b : Block) (c : Bool) : Prop := b.out = s.block.out ++ (if c then [.mmFailure m vc] else [])
        let bad (e : TxFrame) : Bool := decide (e.gen = g) && decide (seqAhead (fieldAt x 4 2) e.sseq < 32768)
        (∀ kind ∈ [1, 2], fieldAt x 0 1 = kind → g = tx.gen → (∀ e ∈ tx.frames, e.init = .mm) → (∀ e ∈ tx.waiting, e.2 = .mm) →
          Completes .noticeFrame s (fun b => b = { s0 with pages := b.pages, txs := b.txs, out := b.out } ∧
            told b (tx.frames.any bad || !tx.waiting.isEmpty) ∧ getTx b m vc = { tx with
              gen := (g + 1) % 256, next := 0, base := 0, waiting := [], frames := tx.frames.filter (fun e => !bad e) })) ∧
        (fieldAt x 0 1 = 3 → (∀ e ∈ tx.frames, e.init = .mm) → Completes .noticeFrame s (fun b =>
          b = { s0 with pages := b.pages, out := b.out } ∧
            told b (tx.frames.any (fun e => decide (e.gen = g) && decide (e.sseq = fieldAt x 4 2))))) ∧
        (fieldAt x 0 1 = 4 → ∀ q < activePorts s.block, Completes .noticeFrame s (fun b =>
          (⟨fieldAt x 4 2, fieldAt x 6 2 % 16384, fieldAt x 10 4, s.block.now⟩ : LogRec) ∈ (getEvt b q).pageLog ∨
            256 ≤ (getEvt s.block q).pageLog.length))) ∧
      (f.type = 7 → let vc := fieldAt x 0 1
        let tx := getTx s.block f.src vc
        let g := fieldAt x 1 1
        let n := fieldAt x 2 2
        tx.waiting = [] → g = tx.gen → seqAhead tx.base n ≤ 32768 → Completes .sackFrame s (fun b =>
          b = putTx s0 f.src vc { tx with base := n, frames := tx.frames.filter (fun e => !(genNewer e.gen g ||
            (decide (e.gen = g) && decide (1 ≤ seqAhead e.sseq n) && decide (seqAhead e.sseq n ≤ 32768)))) })) ∧
      (f.type = 8 → let d := seqAhead t.expect (fieldAt x 2 2)
        (fieldAt x 0 1 ≠ t.gen → Completes .gapCheckFrame s (fun b => b = s0)) ∧
        (fieldAt x 0 1 = t.gen → 1 ≤ d → d ≤ 32768 →
          ((t.poison = false ∨ t.noticeAt + 100000 ≤ s.block.now) → Completes .gapCheckFrame s (fun b =>
            (getRx b f.src f.vc).poison = true ∧ b.routerIn = s.block.routerIn ++
              [⟨none, streamNotice s.block.self f.src s.block.self 1 1 f.vc t.gen t.expect⟩])) ∧
          (t.poison = true → s.block.now < t.noticeAt + 100000 → Completes .gapCheckFrame s (fun b =>
            b = putRx s0 f.src f.vc { t with again := true }))) ∧
        (fieldAt x 0 1 = t.gen → (d = 0 ∨ 32768 < d) → Completes .gapCheckFrame s (fun b => b = sendSack s0 f.src f.vc))) ∧
      (f.type = 9 → ∀ (c : Nat) (j : Job), let id := fieldAt x 0 4
        tabWf s.block.ctxs = true → (getCtx s.block c).job = some j → joining s.block id = [(c, j)] → j.joined = false → j.count = 2 →
        fieldAt x 4 2 = 2 → j.members = [(j.index, (s.block.self, c))] → fieldAt x 6 2 ≠ j.index → awaited s.block j.cmd = true →
        Completes .joinFrame s (fun b => Answered s.block b j.cmd 0 0 0 ∧ (getCtx b c).job = some { j with
            joined := true, members := tabSet j.members (fieldAt x 6 2) (f.src, fieldAt x 8 2) } ∧
          (⟨none, joinFrame s.block.self f.src c j⟩ : Routed) ∈ b.routerIn))) ∧
    (∀ (m : Fin 16384) (vc : Fin 2), let t := getRx s.block m vc
      let poison (n : Nat) (h : List (Nat × Routed)) (i : Instr) : Prop := Completes i s (fun b => b.now = n ∧
        getRx b m vc = { t with poison := true, held := h, noticeAt := n, again := false } ∧
        b = { s.block with now := n, rxs := b.rxs, routerIn := s.block.routerIn ++
          [⟨none, streamNotice s.block.self m s.block.self 1 1 vc t.gen t.expect⟩] })
      (∀ q r, t.held = q :: r → poison (max s.block.now (q.1 + 50000)) [] (.reorderHoldTimeout m vc)) ∧
      (t.poison = true → t.again = true → poison (max s.block.now (t.noticeAt + 100000)) t.held (.poisonRepeatTimer m vc)) ∧
      (t.applied ≠ 0 → Completes (.sackTimer m vc) s (fun b => getRx b m vc = { t with applied := 0 } ∧
        ∃ c : Frame, b = { s.block with rxs := b.rxs, routerIn := s.block.routerIn ++ [⟨none, c⟩] } ∧ c.type = 7 ∧ c.vc = 2 ∧
          c.dst = m.val ∧ c.src = s.block.self ∧ fieldAt c.payload 0 1 = vc.val ∧ fieldAt c.payload 1 1 = t.gen % 256 ∧
          fieldAt c.payload 2 2 = t.expect % 65536))) ∧
    (∀ (m : Fin 16384) (vc : Fin 3) e r, let t := getTx s.block m vc
      t.frames = e :: r → Completes (.gapCheckTimer m vc) s (fun b => b.now = max s.block.now (max e.sent t.checked + 100000) ∧
        b = { s.block with now := b.now, txs := tabSet s.block.txs (streamKey m vc) { t with checked := b.now }, routerIn :=
          s.block.routerIn ++ [⟨none, gapCheck s.block.self m vc t.gen t.next⟩] })) ∧
    (∀ (cmd : CmdRef) (c : CtxNo) (id : Word) (n i : BitVec 15), asked s.block cmd = true → natBit s.block.hub.ready 4 = true →
      ctxStatus s.block cmd c = none → (getCtx s.block c).job = none →
      ((n.toNat < 2 ∨ 16384 < n.toNat ∨ n.toNat ≤ i.toNat) → Completes (.join cmd c id n i) s (fun b =>
        answerOnly s.block b cmd.ctrl ∧ Answered s.block b cmd 0 0 stInvalidField)) ∧
      (2 ≤ n.toNat → n.toNat ≤ 16384 → i.toNat < n.toNat →
        (joining s.block id.toNat = [] → let j : Job := { id := id.toNat, count := n.toNat, index := i.toNat, since := s.block.now
                                                          cmd := cmd, members := [(i.toNat, (s.block.self, c.val))] }
          Completes (.join cmd c id n i) s (fun b => isOutstanding b cmd = true ∧ (getCtx b c).job = some j ∧
            b.routerIn = s.block.routerIn ++ (joinTargets s.block).map (fun m => ⟨none, joinFrame s.block.self m c j⟩))) ∧
        (∀ e ∈ joining s.block id.toNat, (e.2.index = i.toNat ∨ e.2.count ≠ n.toNat) → Completes (.join cmd c id n i) s (fun b =>
          answerOnly s.block b cmd.ctrl ∧ Answered s.block b cmd 0 0 stJoinFailed)))) ∧
    (∀ (c : CtxNo) (j : Job), (getCtx s.block c).job = some j → j.joined = false → awaited s.block j.cmd = true →
      Completes (.joinTimeout c) s (fun b => b.now = max s.block.now (j.since + 100000000) ∧ (getCtx b c).job = none ∧
        Answered s.block b j.cmd 0 0 stJoinFailed))

/-- TIME_FRAME, TIME_REQUEST_TIMER, TIME_EXCHANGE_TIMEOUT, ANNOUNCE_TICK, DOMAIN_FOUNDING, GM_LOSS_TIMEOUT, GM_CLAIM, HOLDOVER_ENTRY,
STU_ADOPT, ACTION_ARM, ACTION_CANCEL, EPOCH_SCHEDULE_WRITE, EPOCH_NEXT_WRITE, TIMED_ACTION_DUE, ACTION_FIRE (R454, R524 to R543). -/
def Obligations.SystemTime : Prop :=
  ∀ s : State, let u := s.block.stu
    let g := getPage s.block pgStu
    (started s.block = true →
      (∀ r rest (l : Nat), s.block.inbox = r :: rest → r.frame.type = 5 → r.via = some l →
        let x := r.frame.payload
        let k := getLink s.block l
        let now := stampNow s.block
        let num := fieldAt x 8 2
        let h : Heard := ⟨fieldAt x 1 1, fieldAt x 2 1, fieldAt x 3 1, fieldAt x 4 2, fieldAt x 6 2⟩
        let s0 := updLink (bump { s.block with inbox := rest } pgStu 3 1) l (fun k => { k with heard := some h })
        let s1 := settleTime (hearGm (joinBest s0) h (fieldAt x 10 2))
        let sends (b : Block) (m kind stamp : Nat) : Prop := ∃ f, carries (getLink b l) f ∧ f.type = 5 ∧ f.dst = m ∧ f.linkLocal = true ∧
          fieldAt f.payload 0 1 = kind ∧ fieldAt f.payload 8 2 = num ∧ fieldAt f.payload 16 8 = stamp
        (fieldAt x 0 1 = 0 → ∀ m q, k.peer = some (m, q) → Completes .timeFrame s (fun b =>
          (getLink b l).heard = some h ∧ sends b m 1 now ∧ sends b m 2 (stampNow s1))) ∧
        (fieldAt x 0 1 = 1 → ∀ e, k.exch = some e → e.num = num → Completes .timeFrame s (fun b =>
          (getLink b l).heard = some h ∧ (getLink b l).exch = some { e with answer := some (fieldAt x 16 8, now, s.block.now) })) ∧
        (fieldAt x 0 1 = 2 → ∀ e t2 t4 t, k.exch = some e → e.num = num → e.answer = some (t2, t4, t) →
          s.block.now ≤ t + 50000 →
          let t3 := fieldAt x 16 8
          let asym := signedOf 16 (getRegD s.block pgStu (0x200 + 4 * l) 0).toNat
          let theta := Int.tdiv (stampDiff t2 e.t1 - stampDiff t4 t3) 2 + asym * 256
          let delay := Int.tdiv (stampDiff t4 e.t1 - stampDiff t3 t2) 2
          Completes .timeFrame s (fun b => (getLink b l).theta = some theta ∧ (getLink b l).exch = none ∧
            (s1.stu.parent = some l → b.stu.offset = theta / 256 ∧ b.stu.delay = delay / 256 ∧
              (s1.stu.step = true → let dest := (((s1.now * 65536 + s1.stu.frac : Nat) : Int) + theta).toNat
                b.now = dest / 65536 ∧ b.stu.frac = dest % 65536 ∧ b.stu.step = false) ∧
              (s1.stu.step = false → b.now = s1.now ∧
                (s1.stu.st = .locked → b.stu.st = if 655360 < theta.natAbs then .locking else .locked)))))) ∧
      (∀ l : LinkNo, let k := getLink s.block l
        (linkTrained k = true → k.st ≠ .retrain → Completes (.timeRequestTimer l) s (fun b =>
          b.now = max s.block.now (k.asked + 16000) ∧ (getLink b l).asked = b.now ∧ (getLink b l).num = (k.num + 1) % 65536 ∧
            (getLink b l).exch = some { num := (k.num + 1) % 65536, t1 := b.now % 2 ^ 48 * 65536 + u.frac % 65536 } ∧
            ∀ m q, k.peer = some (m, q) → ∃ f, carries (getLink b l) f ∧ f.type = 5 ∧ f.dst = m ∧ f.linkLocal = true ∧
              fieldAt f.payload 0 1 = 0 ∧ fieldAt f.payload 8 2 = (k.num + 1) % 65536)) ∧
        (∀ e t2 t4 t, k.exch = some e → e.answer = some (t2, t4, t) → Completes (.timeExchangeTimeout l) s (fun b =>
          b.now = max s.block.now (t + 50000) ∧ b = { s.block with
            now := b.now, links := tabSet s.block.links l { k with exch := none } }))) ∧
      (u.gm = true → Completes .announceTick s (fun b => b.now = max s.block.now (u.announceAt + 16000) ∧
        b = { s.block with now := b.now, stu := { u with announce := (u.announce + 1) % 65536, announceAt := b.now } })) ∧
      (u.domain = none → ownPriority s.block < 255 → hearing s.block = [] → Completes .domainFounding s (fun b =>
        b.now = max s.block.now (u.since + 10000000) ∧ b.stu.st = .locked ∧ b.stu.gm = true ∧ b.stu.gmPrio = ownPriority s.block ∧
          b.stu.domain = some (s.block.self, s.block.self) ∧ b.stu.hops = 0 ∧ b.stu.parent = none ∧ b.stu.announceAt = b.now)) ∧
      (u.gm = false → u.domain.isSome = true → u.claimDue = none → ownPriority s.block < 255 → Completes .gmLossTimeout s (fun b =>
        b.now = max s.block.now (u.announceAt + 1000000) ∧ b = { s.block with now := b.now, stu := { u with
          claimDue := some (b.now + 100000 * ownPriority s.block + 2 * (s.block.self % 4096)) } })) ∧
      (∀ t d m, u.claimDue = some t → u.domain = some (d, m) → Completes .gmClaim s (fun b => b.now = max s.block.now t ∧
        b.stu.st = .locked ∧ b.stu.gm = true ∧ b.stu.claimed = true ∧ b.stu.domain = some (d, s.block.self) ∧ b.stu.hops = 0 ∧
          b.stu.parent = none ∧ b.stu.claimDue = none ∧ b.stu.frac = u.frac)) ∧
      (u.gm = false → (u.st = .locked ∨ (u.st = .locking ∧ u.wasLocked = true)) → Completes .holdoverEntry s (fun b =>
        b.now = max s.block.now (u.exchAt + 200000) ∧ b.stu.st = .holdover ∧ b.stu.thetas = [] ∧ b.stu.domain = u.domain ∧
          (u.st = .locked → natBit (getPage b pgStu).irqStatus.toNat 17 = true))) ∧
      (∀ e, s.block.low = true → u.sched = none → e ∈ u.slots → e.2.st = 1 → ¬ e.2.time ∈ u.woken →
        (∀ f ∈ u.slots, f.2.st = 1 → ¬ f.2.time ∈ u.woken → f = e ∨ e.2.time < f.2.time) → Completes .timedActionDue s (fun b =>
          b.now = max s.block.now (e.2.time - 5000000) ∧ b.wakes = s.block.wakes ++ [⟨2, 0, e.1, b.now⟩] ∧ e.2.time ∈ b.stu.woken)) ∧
      (∀ i : Fin 64, let x := getSlot s.block i
        let now := max s.block.now x.time
        let late : Bool := decide (x.time + 50 < now)
        x.st = 1 →
        (x.epoch = true → let t := (now + 999) / 1000 * 1000
          (u.last ≠ some t → tooSoon s.block t = false → Completes (.actionFire i) s (fun b => b.stu.last = some t ∧
            b.stu.epoch = u.nextNo.getD (u.epoch + 1) ∧ b.stu.nextNo = none ∧ (getSlot b i).st = if late then 3 else 2)) ∧
          (u.last ≠ some t → tooSoon s.block t = true → Completes (.actionFire i) s (fun b => b.stu.last = u.last ∧
            b.stu.epoch = u.epoch ∧ (getSlot b i).st = 5))) ∧
        (x.epoch = false → ∀ (p : PageNo) (off : Fin 4096), p.val = bvBits x.target 16 14 → off.val = bvBits x.target 0 12 →
          off.val % 4 = 0 → natBit s.block.hub.ready 0 = true → Completes (.actionFire i) s (fun b => ∃ t : State,
            exec (.registerWrite x.by_ p off 4 (x.value.setWidth 64)) { s with block := { s.block with now := now } } = .next t ∧
              ((getSlot t.block i).st ≠ 1 → b = t.block) ∧
              ((getSlot t.block i).st = 1 → (∀ q o, getRegD b q o 0 = getRegD t.block q o 0) ∧ b.now = t.block.now ∧
                (getSlot b i).st = if tabGet 0 (getPage t.block p).live 1 ≠ tabGet 0 (getPage s.block p).live 1 then 6
                  else if late then 3 else 2))))) ∧
    (∀ w : Writer, mmOrOwner s.block pgStu w = true →
      let i := slotIndex s.block w
      let x := getSlot s.block i
      (∀ (v : Word) (h : Heard), judged s.block pgStu w 0x014 = true → w.master = .mm → bvBits v 24 8 = g.gen.toNat % 256 →
        bvBits v 8 5 ≤ 23 → (getLink s.block (bvBits v 8 5)).heard = some h → h.hops ≠ 0xFF → (∀ d, u.domain = some d → d.1 ≠ h.domain) →
          Completes (.stuAdopt w v) s (fun b =>
          b.stu.domain = some (h.domain, h.gm) ∧ b.stu.gm = false ∧ b.stu.step = true ∧ b.stu.st = .locking ∧
            b.stu.gmPrio = h.prio ∧ (getPage b pgStu).gen = g.gen + 1 ∧
            (getPage b pgStu).ctl = (BitVec.ofNat 24 v.toNat &&& 0xFF1F00))) ∧
      (judged s.block pgStu w 0x154 = true →
        (∀ epoch : Bool, x.st ≠ 1 →
          ((if epoch then x.time % 1000 = 0 else targetOk x.target = true) → Completes (.actionArm w epoch) s (fun b =>
            b = { s.block with stu := { u with slots := tabSet u.slots i { x with st := 1, by_ := w, epoch := epoch } } })) ∧
          (¬ (if epoch then x.time % 1000 = 0 else targetOk x.target = true) → Completes (.actionArm w epoch) s (fun b =>
            Rejected s.block b pgStu w 6 0x154 ∧ b.stu = u))) ∧
        (x.st = 1 → (∀ epoch : Bool, Completes (.actionArm w epoch) s (fun b => Rejected s.block b pgStu w 6 0x154 ∧ b.stu = u)) ∧
          Completes (.actionCancel w) s (fun b => (getSlot b i).st = 4 ∧ natBit (getPage b pgStu).irqStatus.toNat 20 = true)) ∧
        (x.st ≠ 1 → Completes (.actionCancel w) s (fun b => b = s.block))) ∧
      (judged s.block pgStu w 0x138 = true → ∀ (lo : Option Word) (v : Word),
        ((v = 0 ∨ 100 ≤ v.toNat) → Completes (.epochScheduleWrite w false lo v) s (fun b => getRegD b pgStu 0x138 0 = v ∧
          b.stu = { u with sched := schedFrom b (s.block.now + 2000) })) ∧
        (v ≠ 0 → v.toNat < 100 → Completes (.epochScheduleWrite w false lo v) s (fun b =>
          Rejected s.block b pgStu w 6 0x138 ∧ b.stu = u))) ∧
      (judged s.block pgStu w 0x134 = true → judged s.block pgStu w 0x130 = true → ∀ lo hi : Word,
        ((lo.toNat + hi.toNat * 2 ^ 32) % 1000 = 0 → Completes (.epochScheduleWrite w true (some lo) hi) s (fun b =>
          pairValue b pgStu 0x130 = lo.toNat + hi.toNat * 2 ^ 32 ∧ b.stu = { u with sched := schedFrom b (s.block.now + 2000) })) ∧
        ((lo.toNat + hi.toNat * 2 ^ 32) % 1000 ≠ 0 → Completes (.epochScheduleWrite w true (some lo) hi) s (fun b =>
          pairValue b pgStu 0x130 = pairValue s.block pgStu 0x130 ∧ b.stu = u))) ∧
      (judged s.block pgStu w 0x12C = true → judged s.block pgStu w 0x128 = true → ∀ lo hi : Word,
        let n := lo.toNat + hi.toNat * 2 ^ 32
        (u.epoch < n → Completes (.epochNextWrite w (some lo) hi) s (fun b => b.stu = { u with nextNo := some n })) ∧
        (n ≤ u.epoch → Completes (.epochNextWrite w (some lo) hi) s (fun b => b.stu = u ∧
          tabGet 0 (getPage b pgStu).live 1 = tabGet 0 g.live 1 + 1))))

/-- CHK_START, CHK_SCAN, CHK_ABORT, CHK_FINISH, CHK_DATA8, CHK_DATA16, CHK_DATA32, CHK_DATA64, CHK_SCAN_DONE, CHK_SCAN_FAILURE,
DM_WRITE_BACK, CHK_DM_MARK_WRITE, DM_SCRUB_READ, SRAM_SCRUB_READ, SRAM_WRITE_BACK, STATE_PARITY_ERROR (R545 to R577; where errors
come from is the model's choice, log entry 42). -/
def Obligations.CheckUnits : Prop :=
  (∀ (s : State) (u : ChkNo) (w : Writer), let p := pgChk u
    let c := getChk s.block u
    let g := getPage s.block p
    mmOrOwner s.block p w = true →
      (∀ guard : Byte, judged s.block p w 0x014 = true → guard.toNat = g.gen.toNat % 256 →
        let sets (i : Instr) (c : ChkUnit) : Prop := Completes i s (fun b => getChk b u = c ∧ (getPage b p).gen = g.gen + 1 ∧
          b = { s.block with pages := b.pages, chks := b.chks, lows := b.lows })
        let m := chkMode s.block u
        let r := if chkChain s.block u then crcUnwind m m.init else
          crcBytes m m.init (leBytes (chkFold s.block u) (pairValue s.block p 0x118))
        let first : ChkUnit := { st := 1, mode := m, crc := r }
        (c.st ≠ 2 → chkModeOk s.block u = true →
          sets (.chkStart w u guard false) first ∧
          (scanOk s.block u = true → sets (.chkStart w u guard true) { first with st := 2, scan := some (chkScanOf s.block u) }) ∧
          (scanOk s.block u = false → Completes (.chkStart w u guard true) s (fun b => Rejected s.block b p w 0x83 0x014 ∧
            getChk b u = c))) ∧
        (c.st ≠ 2 → chkModeOk s.block u = false → ∀ scan, Completes (.chkStart w u guard scan) s (fun b =>
          Rejected s.block b p w 6 0x014 ∧ getChk b u = c)) ∧
        (c.st = 2 → (∀ scan, Completes (.chkStart w u guard scan) s (fun b => Rejected s.block b p w 0x80 0x014 ∧ getChk b u = c)) ∧
          ∀ x, c.scan = some x → sets (.chkAbort w u guard 0) { c with st := 1, scan := none } ∧
            ∀ taken, Completes (.chkAbort w u guard taken) s (fun b => (getChk b u).st = 1 ∧ (getChk b u).scan = none)) ∧
        (c.st = 1 → sets (.chkFinish w u guard) { c with st := 0 } ∧
          (scanOk s.block u = true → sets (.chkScan w u guard) { c with st := 2, scan := some (chkScanOf s.block u) }) ∧
          (scanOk s.block u = false → Completes (.chkScan w u guard) s (fun b => Rejected s.block b p w 0x83 0x014 ∧
            getChk b u = c)) ∧
          ∀ taken, Completes (.chkAbort w u guard taken) s (fun b => Rejected s.block b p w 0x80 0x014 ∧ getChk b u = c)) ∧
        (c.st ≠ 1 → Completes (.chkFinish w u guard) s (fun b => Rejected s.block b p w 0x80 0x014 ∧ getChk b u = c) ∧
          Completes (.chkScan w u guard) s (fun b => Rejected s.block b p w 0x80 0x014 ∧ getChk b u = c))) ∧
      (∀ v : Word, ∀ e ∈ [(Instr.chkData8 w u v, 0x130, 1), (.chkData16 w u v, 0x134, 2), (.chkData32 w u v, 0x138, 4)],
        judged s.block p w e.2.1 = true →
          (c.st = 1 → Completes e.1 s (fun b => getChk b u = { c with
              crc := crcBytes c.mode c.crc (leBytes e.2.2 v.toNat), count := c.count + e.2.2 } ∧ statsOnly s.block b ∧
            b = { s.block with pages := b.pages, chks := b.chks })) ∧
          (c.st = 0 → Completes e.1 s (fun b => Rejected s.block b p w 0x81 e.2.1 ∧ getChk b u = c)) ∧
          (c.st = 2 → Completes e.1 s (fun b => Rejected s.block b p w 0x80 e.2.1 ∧ getChk b u = c))) ∧
      (∀ lo hi : Word, judged s.block p w 0x140 = true → judged s.block p w 0x144 = true →
        (c.st = 1 → Completes (.chkData64 w u (some lo) hi) s (fun b => getChk b u = { c with
            crc := crcBytes c.mode c.crc (leBytes 4 lo.toNat ++ leBytes 4 hi.toNat), count := c.count + 8 } ∧ statsOnly s.block b ∧
          b = { s.block with pages := b.pages, chks := b.chks, lows := b.lows })) ∧
        (c.st ≠ 1 → Completes (.chkData64 w u (some lo) hi) s (fun b => getChk b u = c)))) ∧
  (∀ s : State, started s.block = true →
    (∀ (u : ChkNo) (x : ChkScan), let p := pgChk u
      let c := getChk s.block u
      c.scan = some x →
        (∀ r, scanBytes s.block x x.done (x.len - x.done) [] = r →
          mediaWaits s.block x.id x.start (x.len / max 1 (((getNs s.block x.id).map (·.lba)).getD 1)) = false →
          Completes (.chkScanDone u) s (fun b => getChk b u = { c with
              st := 1, crc := crcBytes c.mode c.crc r.2.1, count := c.count + r.2.1.length, scan := none
              failed := c.failed || r.2.2 } ∧
            natBit (getPage b p).irqStatus.toNat (if r.2.2 then 17 else 16) = true)) ∧
        (∀ bad r, scanBytes s.block x x.done (x.len - x.done) bad = r →
          (r.2.2 = true → Completes (.chkScanFailure u bad) s (fun b => getChk b u = { c with
              st := 1, crc := crcBytes c.mode c.crc r.2.1, count := c.count + r.2.1.length, scan := none, failed := true } ∧
            natBit (getPage b p).irqStatus.toNat 17 = true ∧
            ((getPage s.block p).errFirst = 0 → (getPage b p).errFirst = 0x820000))) ∧
          (r.2.2 = false → Completes (.chkScanFailure u bad) s (fun b => b = s.block)))) ∧
    (∀ line l,
      (takeWb s.block.dmWb line = some (false, l) → Completes (.dmWriteBack line) s (fun b => statsOnly s.block b ∧ b = { s.block with
        pages := b.pages, dmWb := staleWb l line, dmErr := tabErase s.block.dmErr line })) ∧
      (takeWb s.block.dmWb line = some (true, l) → Completes (.dmWriteBack line) s (fun b => statsOnly s.block b ∧ b = { s.block with
        pages := b.pages, dmWb := l })) ∧
      (takeWb s.block.sramWb line = some (false, l) → Completes (.sramWriteBack line) s (fun b => b = { s.block with
        sramWb := staleWb l line, sramErr := tabErase s.block.sramErr line })) ∧
      (takeWb s.block.sramWb line = some (true, l) → Completes (.sramWriteBack line) s (fun b => b = { s.block with sramWb := l }))) ∧
    (natBit s.block.hub.ready 3 = true →
      (∀ (k : StackNo) (n : Fin 858993459) (fresh : List (Fin 40)), let line := lineNo k n
        let i : Instr := .dmScrubRead k n fresh
        let ys := sortBy Nat.ble ((lineSyms s.block line ++ fresh.map (fun y => y.val)).eraseDups)
        let q := pgChk (stackOf (line * 64))
        let page := line * 64 / pageBytes
        (ys = [] → Completes i s (fun b => b.dm = s.block.dm ∧ b.dmErr = s.block.dmErr ∧ b.dmWb = s.block.dmWb ∧
          b.suspect = s.block.suspect.filter (fun e => e.2 ≠ line))) ∧
        (decodeSyms s.block line ys = .corrected → Completes i s (fun b => b.dm = s.block.dm ∧ lineSyms b line = ys ∧
          b.dmWb = s.block.dmWb ++ [⟨line, false⟩])) ∧
        (decodeSyms s.block line ys = .uncorrectable → natBit s.block.crit 2 = true →
          (pagesPerStack * 8 ≤ page → Completes i s (fun b => tabWf s.block.dmErr = true → lineSyms b line = [])) ∧
          (page < pagesPerStack * 8 → Completes i s (fun b => b.dm = s.block.dm ∧ lineSyms b line = ys ∧
            natBit (getPage b q).irqStatus.toNat 18 = true ∧
            getRegD b q 0x208 0 = BitVec.ofNat 32 (inStack (line * 64)) ∧ getRegD b q 0x210 0 = 0x70000000 ∧
            (tabGet PageUse.dirty s.block.pageUse page = .clean → tabFind s.block.suspect page ≠ some line →
              tabFind b.suspect page = some line ∧ b.pageUse = tabErase s.block.pageUse page) ∧
            (tabGet PageUse.dirty s.block.pageUse page = .clean → tabFind s.block.suspect page = some line →
              tabFind b.pageUse page = some .heldOut))))) ∧
      (∀ (cluster : Bool) (unit : Fin 12288) (word : Fin 2097152) (fresh : Fin 3), let i : Instr := .sramScrubRead cluster unit word fresh
        let k := if cluster then wordCs unit (word.val * 8) else wordLs unit (word.val * 8)
        let n := tabGet 0 s.block.sramErr k + fresh.val
        let q := pgSram (if cluster then unit.val / 192 else dieOfCore unit)
        (if cluster then unit.val < 768 else word.val < 131072) →
          (n = 0 → Completes i s (fun b => b = s.block)) ∧
          (n = 1 → Completes i s (fun b => tabGet 0 b.sramErr k = 1 ∧ statsOnly s.block b ∧ b = { s.block with
            pages := b.pages, sramErr := b.sramErr, sramWb := s.block.sramWb ++ [⟨k, false⟩] } ∧
            tabGet 0 (getPage b q).live 10 = tabGet 0 (getPage s.block q).live 10 + 1)) ∧
          (2 ≤ n → Completes i s (fun b => tabGet 0 b.sramErr k = 2 ∧ natBit (getPage b q).irqStatus.toNat 20 = true ∧
            getRegD b q 0x224 0 = BitVec.ofNat 32 (word.val * 8) ∧ b.sramWb = s.block.sramWb)))) ∧
    (∀ c : CoreNo, let k := getCore s.block c
      k.placed.isSome = true → k.ended = false → k.run ≠ .faulted → k.run ≠ .zeroising → Completes (.stateParityError c) s (fun b =>
        Faulted s.block b c 0x0B (detail20 4 (Config.parityDetail s.block.fresh).toNat)))) ∧
  (∀ (s : State) (u : ChkNo) (w : Writer) (v : Word), let p := pgChk u
    judged s.block p w 0x200 = true →
      (w.master ≠ .mm → Completes (.chkDmMarkWrite w u v) s (fun b => Rejected s.block b p w 3 0x200)) ∧
      (w.master = .mm → 8 ≤ u.val → Completes (.chkDmMarkWrite w u v) s (fun b => Rejected s.block b p w 6 0x200)) ∧
      (w.master = .mm → u.val < 8 → Completes (.chkDmMarkWrite w u v) s (fun b =>
        getRegD b p 0x200 0 = v &&& 0x8000000F ∧ (bvBits v 31 1 = 1 → getRegD s.block p 0x200 0 ≠ v &&& 0x8000000F →
          natBit (getPage b p).irqStatus.toNat 19 = true ∧ natBit b.crit 2 = true ∧
            tabGet 0 b.life lifeDramDiesFailed = tabGet 0 s.block.life lifeDramDiesFailed + 1))))

/-- POWER_GOVERNOR_ADJUST, DMM_TEMP_READING, HUB_MODE_POWER_WRITE, HUB_MODE_GATHER_WRITE, GATHER_RESIZE_STEP, JUNCTION_READING,
BOARD_READING, OUTLET_CAP_RELEASE, LEAK_SENSE, SERVICE_FENCE, SERVICE_TEST, SERVICE_READMIT, SERVICE_RETIRE, UNIT_FAULT_FENCE, DRAIN_DONE,
CORE_HANDOVER_COPY, CORE_HANDOVER_DONE, LEHR_DONE, TEST_DONE (R25, R28, R337, R626 to R637, R645, R646, R664 to R666). -/
def Obligations.PowerAndService : Prop :=
  ∀ s : State, let h := s.block.hub
    let pw := s.block.power
    let tripped (b : Block) (cause unit : Nat) (deg : Int) : Prop := b.hub.phase = .off ∧ b.hub.ready = 0 ∧ b.hub.tripped = true ∧
      b.power.tripNew = true ∧ b.power.tripLast = BitVec.ofNat 32 (cause * 2 ^ 28 + unit * 2 ^ 8 + regDeg deg)
    (started s.block = true → natBit h.ready 3 = true → ∀ (d : DieNo) (mv : Nat), let v := supplyOf s.block d
      let may : Prop := mv ≠ v ∧ 550 ≤ mv ∧ mv ≤ 800 ∧ v ≤ mv + 5 ∧ mv ≤ v + 5 ∧
        (v < mv → drawsLimit s.block = false ∧ mv ≤ supplyTarget s.block d ∧ ¬ (d.val ∈ pw.limited ∧ 105 ≤ tempOf s.block d))
      (may → Completes (.powerGovernorAdjust d mv) s (fun b => supplyOf b d = mv ∧ statsOnly s.block b ∧
        b.now = (match tabFind pw.changed d with
          | some n => max s.block.now (n + 1000)
          | none => s.block.now) ∧
        b = { s.block with
          now := b.now, pages := b.pages, supply := tabSet s.block.supply d mv
          power := { pw with changed := tabSet pw.changed d b.now, below := b.power.below } })) ∧
      (¬ may → Completes (.powerGovernorAdjust d mv) s (fun b => b = s.block))) ∧
    (h.phase ≠ .off →
      (∀ (k : StackNo) (deg : Int), ∀ i ∈ [Instr.dmmTempReading k deg, .boardReading (.stack k deg)],
        (deg < 110 → Completes i s (fun b => tempOf b (5 + k.val) = deg ∧ b.hub = h ∧
          dmmValue b k 0x108 = some (BitVec.ofNat 32 (refreshRate deg * 2 ^ 8 + regDeg deg)) ∧
          (tabWf pw.throttled = true → (tabFind b.power.throttled k).isSome = decide (stackThrottle b k ≠ 0)) ∧
          stackThrottle b k = max ((getPage s.block (pgDmm k)).ctl.toNat % 16) (hwThrottle deg))) ∧
        (110 ≤ deg → Completes i s (fun b => tripped b 2 k deg))) ∧
      (∀ (d : Fin 5) (deg mean : Int) (sensor : Fin 16), let i : Instr := .junctionReading d deg mean sensor
        let long : Prop := 115 ≤ deg ∧ ∃ n, tabFind pw.hot d = some n ∧ n + 1000000 ≤ s.block.now
        (tabWf pw.hot = true → ¬ long → Completes i s (fun b => tempOf b d = deg ∧ tabGet 0 b.power.mean d = mean ∧ tabGet 0 b.power.sensor d = sensor.val ∧
          b.hub = h ∧ (115 ≤ deg → tabFind b.power.hot d = some (tabGet s.block.now pw.hot d)) ∧
          (d.val < 4 → (d.val ∈ b.power.limited ↔ 105 ≤ deg ∨ (d.val ∈ pw.limited ∧ 103 ≤ deg)) ∧
            (d.val ∈ b.power.admitHeld ↔ (110 ≤ deg ∧ supplyOf s.block d ≤ 550) ∨ (d.val ∈ pw.admitHeld ∧ 105 ≤ deg))))) ∧
        (long → Completes i s (fun b => tripped b 1 d deg))) ∧
      (∀ deg : Int,
        (pw.inletCap = false →
          (deg < 50 → Completes (.boardReading (.inlet deg)) s (fun b => tempOf b 45 = deg ∧ b.power.inletCap = false ∧
            b.power.inletSince = none)) ∧
          (50 ≤ deg → Completes (.boardReading (.inlet deg)) s (fun b => tempOf b 45 = deg ∧
            b.power.inletCap = (match pw.inletSince with
              | some n => decide (n + 1000000000 ≤ s.block.now)
              | none => false)))) ∧
        (pw.inletCap = true → ∀ n, pw.inletSince = some n → deg < 45 → n + 10000000000 ≤ s.block.now →
          Completes (.boardReading (.inlet deg)) s (fun b => b.power.inletCap = false)) ∧
        Completes (.boardReading (.outlet deg)) s (fun b => tempOf b 46 = deg ∧
          b.power.outletCap = (if 65 < deg then some 800 else pw.outletCap) ∧
          b.power.outletCool = (if deg ≤ 60 then some (pw.outletCool.getD s.block.now) else none)) ∧
        Completes (.boardReading (.bank deg)) s (fun b => tempOf b 47 = deg ∧
          (b.med.bankHot = true ↔ 75 ≤ deg ∨ (s.block.med.bankHot = true ∧ 70 ≤ deg))) ∧
        Completes (.boardReading (.connector deg)) s (fun b => tempOf b 48 = deg) ∧
        (∀ (c : ChanNo) (pos : Fin 16),
          (deg < 90 → Completes (.boardReading (.channel c pos deg)) s (fun b => tempOf b (13 + c.val) = deg ∧
            (getChan b c).hotPos = pos.val ∧ (getChan b c).hot = regDeg deg ∧
            ((getChan b c).paced = true ↔ 80 ≤ deg ∨ ((getChan s.block c).paced = true ∧ 77 ≤ deg)))) ∧
          (90 ≤ deg → Completes (.boardReading (.channel c pos deg)) s (fun b => tripped b 3 c deg)))) ∧
      (pw.leak = false → Completes (.leakSense true) s (fun b => b.power = { pw with leak := true } ∧
        natBit (getPage b (pgThm 4)).irqStatus.toNat 18 = true ∧
        (s.block.low = true → ∃ e ∈ b.wakes, e.a = 6))) ∧
      Completes (.leakSense false) s (fun b => b = { s.block with power := { pw with leak := false } })) ∧
    (∀ c n, pw.outletCap = some c → pw.outletCool = some n → Completes .outletCapRelease s (fun b =>
      b.now = max s.block.now (n + 10000000000) ∧ b.power.outletCap = (if 2200 ≤ c + 200 then none else some (c + 200)) ∧
        b.power.outletCool = some (n + 10000000000))) ∧
    (∀ (w : Writer) (v : Word), mmOrOwner s.block pgHub w = true →
      (judged s.block pgHub w 0x140 = true →
        (modePowerBad v.toNat = false → Completes (.hubModePowerWrite w v) s (fun b =>
          getRegD b pgHub 0x140 0 = v &&& 0x00FF0003 ∧ b.supply = s.block.supply ∧ b.power = { pw with below := b.power.below })) ∧
        (modePowerBad v.toNat = true → Completes (.hubModePowerWrite w v) s (fun b => Rejected s.block b pgHub w 6 0x140))) ∧
      (judged s.block pgHub w 0x148 = true → let t := v.toNat % 2 ^ 16
        (128 ≤ t → t ≤ 1024 → t % 128 = 0 → Completes (.hubModeGatherWrite w v) s (fun b =>
          b = setReg s.block pgHub 0x148 (v &&& 0xFFFF))) ∧
        (¬ (128 ≤ t ∧ t ≤ 1024 ∧ t % 128 = 0) → Completes (.hubModeGatherWrite w v) s (fun b =>
          Rejected s.block b pgHub w 6 0x148)))) ∧
    (started s.block = true → mediaReady s.block = true →
      s.block.med.gatherGB < (getRegD s.block pgHub 0x148 0x200).toNat % 2 ^ 16 →
      let room := flashHolds s.block (s.block.med.gatherGB + 128) (bandsRaw s.block)
      Completes .gatherResizeStep s (fun b =>
        b = { s.block with med := { s.block.med with gatherGB := if room then s.block.med.gatherGB + 128 else s.block.med.gatherGB } })) ∧
    (∀ (p : PageNo) (k : PageKind) (i : Nat), pageOf p = some (k, i) → let g := getPage s.block p
      let at' (b : Block) (st : SvcState) (r : Nat) : Prop := (getPage b p).service = st ∧ (getPage b p).result = r
      (∀ (w : Writer) (guard : Byte), judged s.block p w 0x030 = true → serviceRight k g w = none →
        (guard.toNat ≠ g.gen.toNat % 256 → ∀ j ∈ [Instr.serviceFence w p guard, .serviceTest w p guard, .serviceReadmit w p guard,
          .serviceRetire w p guard], Completes j s (fun b => Rejected s.block b p w 1 0x030)) ∧
        (guard.toNat = g.gen.toNat % 256 →
          (capFence k = false → ∀ j ∈ [Instr.serviceFence w p guard, .serviceTest w p guard, .serviceReadmit w p guard,
            .serviceRetire w p guard], Completes j s (fun b => at' b g.service 2 ∧ (getPage b p).gen = g.gen + 1)) ∧
          (capFence k = true →
            (g.service = .inService → p.val ∉ s.block.readmits →
              (k ≠ .cor → Completes (.serviceFence w p guard) s (fun b => at' b .draining 0)) ∧
              (k = .aup → (getLink s.block i).st = .active → Completes (.serviceFence w p guard) s (fun b =>
                (getLink b i).st = .draining)) ∧
              (k = .cor → spareState s.block (cluOfCore i) = 0 → Completes (.serviceFence w p guard) s (fun b => at' b .draining 0 ∧
                tabFind b.handovers i = some {} ∧ spareState b (cluOfCore i) = 4 ∧ spareFor b (cluOfCore i) = i % 16)) ∧
              (k = .cor → spareState s.block (cluOfCore i) ≠ 0 → (getCore s.block i).placed = none →
                Completes (.serviceFence w p guard) s (fun b => at' b .draining 0 ∧ b.handovers = s.block.handovers)) ∧
              (∀ q, k = .cor → spareState s.block (cluOfCore i) ≠ 0 → (getCore s.block i).placed = some q →
                (getCtx s.block q.ctx).cls = .lc → Completes (.serviceFence w p guard) s (fun b => at' b .inService 2)) ∧
              (k = .cor → spared s.block i = true → (getCore s.block i).placed = none → Completes (.serviceReadmit w p guard) s
                (fun b => at' b .inService 0 ∧ b.readmits = s.block.readmits ++ [i])) ∧
              Completes (.serviceTest w p guard) s (fun b => at' b .inService 2) ∧
              Completes (.serviceRetire w p guard) s (fun b => at' b .inService 2)) ∧
            (g.service = .fenced → Completes (.serviceTest w p guard) s (fun b => at' b .testing 0) ∧
              Completes (.serviceReadmit w p guard) s (fun b =>
                if p.val ∈ s.block.readmits then at' b .fenced 2 else at' b .lehr 0) ∧
              Completes (.serviceRetire w p guard) s (fun b => at' b .retired 1 ∧ p.val ∈ b.retired) ∧
              Completes (.serviceFence w p guard) s (fun b => at' b .fenced 2)) ∧
            (g.service = .retired → Completes (.serviceReadmit w p guard) s (fun b =>
              if p.val ∈ s.block.readmits then at' b .retired 2 else at' b .lehr 0))))) ∧
      (started s.block = true →
        (capFence k = true → pageAnswers s.block k i = true → ∀ t : Fin 512,
          (g.service = .inService → Completes (.unitFaultFence p t) s (fun b => (getPage b p).service = .draining ∧
            p.val ∈ b.faultFenced ∧ (k = .aup → (getLink b i).st = .down))) ∧
          ((g.service = .testing ∨ g.service = .lehr) → Completes (.unitFaultFence p t) s (fun b => at' b .fenced 3))) ∧
        (g.service = .draining →
          let r := if p.val ∈ s.block.faultFenced then g.result else 1
          (k ≠ .cor → k ≠ .clu → k ≠ .rgn → k ≠ .aup → Completes (.drainDone p) s (fun b => at' b .fenced r)) ∧
          (k = .aup → (getLink s.block i).st = .down → Completes (.drainDone p) s (fun b => at' b .fenced r ∧
            (getLink b i).reason = 6)) ∧
          (k = .cor → tabFind s.block.handovers i = none → (getCore s.block i).placed = none → g.zeroising = false →
            Completes (.drainDone p) s (fun b => at' b .fenced r)) ∧
          (k = .clu → (∀ c ∈ unitCoreList .clu i, (getCore s.block c).placed = none) → Completes (.drainDone p) s (fun b =>
            at' b .fenced r ∧ (∀ j < 16, sliceOwner b i j = 0) ∧ (tabWf s.block.cs = true → tabGet [] b.cs i = []))) ∧
          (k = .rgn → (∀ c ∈ unitCoreList .rgn i, (getCore s.block c).placed = none) → Completes (.drainDone p) s (fun b =>
            at' b .fenced r))) ∧
        (g.service = .lehr → p.val ∉ s.block.readmits →
          Completes (.lehrDone p false) s (fun b => at' b .fenced 3 ∧ b.retired = s.block.retired) ∧
          ((k = .aup → (getLink s.block i).st = .active) → Completes (.lehrDone p true) s (fun b => at' b .inService 1 ∧
            p.val ∉ b.retired ∧ (k ≠ .onf → (getPage b p).errCount = 0 ∧ (getPage b p).conflict = 0)))) ∧
        (g.service = .testing → ∀ pass, Completes (.testDone p pass) s (fun b => at' b .fenced (if pass then 1 else 3))))) ∧
    (started s.block = true → ∀ c : CoreNo, let k := getCore s.block c
      (∀ o : Handover, tabFind s.block.handovers c = some o → handoverStill s.block c = true → storeAwaited s.block c = false →
        Completes (.coreHandoverCopy c) s (fun b => (getPage b (pgCor c)).service = .spared ∧
          tabFind b.handovers c = some { copied := true } ∧ getCore b c = k)) ∧
      (tabWf s.block.handovers = true → tabFind s.block.handovers c = some { copied := true } → k.placed = none →
        (getPage s.block (pgCor c)).service = .spared → Completes (.coreHandoverDone c) s (fun b =>
          (getPage b (pgCor c)).service = .inService ∧ tabFind b.handovers c = none ∧
            (getPage b (pgCor c)).result = (if c.val ∈ s.block.faultFenced then (getPage s.block (pgCor c)).result else 1) ∧
            spareState b (cluOfCore c) = 1 ∧ spareFor b (cluOfCore c) = c.val % 16 ∧ getCore b c = k)))

/-- MAIN_VALID, MAIN_LOSS, AUX_APPLIED, AUX_LOSS, MRST_ASSERT, MRST_RELEASE, HUB_RESET_CTL_WRITE, HUB_WATCHDOG_EXPIRY, MEDIA_READY,
COMPUTE_READY, MANAGER_START_DONE, PORT_RESET, CONTROLLER_RESET, CONTROLLER_ENABLE, PERST_RELEASE, PCIE_LINK_UP, REMOVE_PREPARE,
REMOVE_CANCEL, REMOVAL_READY, REMOVE_REQ_ASSERT (R412, R423, R424, R610 to R624, R641, R659 to R662). -/
def Obligations.StartAndRemoval : Prop :=
  ∀ s : State, let h := s.block.hub
    let up (b : Block) : Prop := b.hub.phase = .started ∧ b.hub.ready = 1 ∧ b.hub.remove = .serving ∧ b.cores = [] ∧ b.ctxs = [] ∧
      b.dm = [] ∧ b.cs = [] ∧ b.colls = [] ∧ b.idxs = [] ∧ b.low = false ∧ (∀ q, (getCtl b q).cmds = [] ∧ (getCtl b q).en = false) ∧
      b.opt.committed = optStands s.block ∧ (s.block.cfl.ops = [] → b.cfl.mem = s.block.cfl.mem)
    let reset (b : Block) (cause master : Nat) : Prop := up b ∧
      b.hub.cause = BitVec.ofNat 32 (cause * 2 ^ 28 + master * 2 ^ 24 + satAdd 0xFFFF (bvBits h.cause 0 16) 1)
    let quiet (b : Block) : Prop := b.colls = [] ∧ b.idxs = [] ∧ ∀ q, (getCtl b q).cmds = [] ∧ (getCtl b q).sqs = [] ∧
      (getCtl b q).cqs = []
    Completes .auxApplied s (fun b => b = { s.block with hub := { h with aux := true } }) ∧
    Completes .auxLoss s (fun b => b = { s.block with hub := { h with aux := false } }) ∧
    (h.phase = .off →
      (h.tripped = false ∨ h.mainLost ≠ none → Completes .mainValid s (fun b => up b ∧ b.now = 0 ∧ b.hub.cause = 0 ∧
        (∀ nsid lba, blkOf b nsid lba = blkOf s.block nsid lba) ∧
        tabGet 0 b.life lifePowerCycles = tabGet 0 s.block.life lifePowerCycles + 1 ∧
        tabGet 0 b.life lifeUnsafeShutdowns = tabGet 0 s.block.life lifeUnsafeShutdowns + (if s.block.med.shutdown then 0 else 1))) ∧
      (h.tripped = true → h.mainLost = none → Completes .mainValid s (fun b => b = s.block)) ∧
      (∀ x, Completes (.mainLoss x) s (fun b => b = { s.block with hub := { h with mainLost := some s.block.now } }))) ∧
    (h.phase = .held →
      Completes .mrstRelease s (fun b => b.hub.phase = .started ∧ b.hub.ready = 1 ∧ b.hub.mrst = false ∧ b.hub.cause = h.cause ∧
        b.hub.startTime = s.block.now ∧ b.dm = s.block.dm ∧ b.cores = s.block.cores)) ∧
    (h.phase = .started → h.remove ≠ .ready →
      Completes (.mainLoss true) s (fun b => b.hub.phase = .off ∧ b.hub.ready = 0 ∧ quiet b ∧ b.med.shutdown = true) ∧
      Completes (.mainLoss false) s (fun b => b.hub.phase = .off ∧ b.hub.ready = 0 ∧ quiet b ∧ b.med.shutdown = s.block.med.shutdown) ∧
      Completes .mrstAssert s (fun b => b.hub.phase = .held ∧ b.hub.mrst = true ∧ b.hub.ready = 0 ∧ b.cores = [] ∧ b.ctxs = [] ∧
        b.dm = [] ∧ b.hub.cause = BitVec.ofNat 32 (2 ^ 28 + satAdd 0xFFFF (bvBits h.cause 0 16) 1)) ∧
      (natBit h.ready 1 = true → s.block.adm.standby ≠ .ready → Completes .hubWatchdogExpiry s (fun b => reset b 3 0)) ∧
      (natBit h.ready 3 = true → natBit h.ready 5 = false → Completes .mediaReady s (fun b => b.hub.ready = h.ready ||| 32 ∧
        ∀ c < 32, (getChan b c).trained = true)) ∧
      (natBit h.ready 2 = true → natBit h.ready 3 = false → ∀ t : SelfTest, Completes (.computeReady t) s (fun b =>
        b.hub.ready = h.ready ||| 24 ∧ (∀ d < 4, supplyOf b d = supplyTarget s.block d) ∧
          ∀ q ∈ t.pages, q < 8 * pagesPerStack → tabGet PageUse.dirty b.pageUse q = .heldOut)) ∧
      (natBit h.ready 1 = false → ∀ f : BootFacts, (f.pairA = true ∨ f.pairB = true) → Completes (.managerStartDone f) s (fun b =>
        b.hub.ready = (h.ready ||| if (bootSlot s.block f).isSome then 6 else 130) ∧
          (∀ i, bootSlot s.block f = some i → b.adm.active = i) ∧ b.adm.pendingSlot = 0 ∧ b.adm.servingB = !f.pairA ∧
          b.adm.standby = (if f.pairA && f.pairB then .ready else .failed) ∧
          b.hub.remove = (if h.removeReq = true ∧ h.remove = .serving then .preparing else h.remove))) ∧
      (h.remove = .serving →
        (natBit h.ready 1 = true → Completes .removeReqAssert s (fun b => b.hub.remove = .preparing ∧ quiet b)) ∧
        (natBit h.ready 1 = false → Completes .removeReqAssert s (fun b =>
          b = { s.block with hub := { h with removeReq := true } }))) ∧
      (h.remove = .preparing →
        (h.cancelled = none → Completes .removalReady s (fun b => b.hub.remove = .ready ∧ b.hub.ready = 0 ∧
          b.med.shutdown = true)) ∧
        (∀ m, h.cancelled = some m → Completes .removalReady s (fun b => reset b 2 m))) ∧
      (∀ p : PortNo, let c := getCtl s.block p
        Completes (.perstRelease p) s (fun b =>
          b = { s.block with ctls := tabSet s.block.ctls p { c with released := true } }) ∧
        (p.val < activePorts s.block →
          Completes (.controllerReset p) s (fun b => (getCtl b p).cmds = [] ∧ (getCtl b p).sqs = [] ∧ (getCtl b p).cqs = [] ∧
            (getCtl b p).en = false ∧ (getCtl b p).rdy = false ∧ (getCtl b p).rate = c.rate ∧ (getCtl b p).attached = c.attached ∧
            b.nss = s.block.nss) ∧
          (∀ kind, Completes (.portReset p kind) s (fun b => (getCtl b p).cmds = [] ∧ (getCtl b p).sqs = [] ∧ (getCtl b p).cqs = [] ∧
            (getCtl b p).en = false ∧ (getCtl b p).rdy = false ∧ (getCtl b p).staging = [] ∧ (getCtl b p).map = [] ∧
            (getCtl b p).dstate = .d0 ∧ (getCtl b p).rate = (if kind = .flr then c.rate else 0) ∧
            (getCtl b p).released = (c.released && kind != .perst) ∧ b.nss = s.block.nss)) ∧
          (h.remove = .serving →
            (∀ asq acq : Fin 4097, c.rate ≠ 0 → c.en = false → 2 ≤ asq.val → 2 ≤ acq.val →
              Completes (.controllerEnable p asq acq) s (fun b => (getCtl b p).en = true ∧
                tabFind (getCtl b p).sqs 0 = some { size := asq, cq := 0 } ∧ tabFind (getCtl b p).cqs 0 = some { size := acq } ∧
                (natBit h.ready 1 = true → settled s.block p = true → (getCtl b p).rdy = true) ∧
                b = { s.block with ctls := b.ctls })) ∧
            (∀ (rate : Fin 7) (width : Fin 17) (flit : Bool), natBit h.ready 0 = true → c.released = true →
              (∀ e ∈ s.block.ctxs, e.2.port = p.val → e.2.closing = false) → rate.val ≠ 0 → rate.val ≤ maxRate s.block →
              (rate.val = 6 → flit = true) → width.val ∈ [1, 2, 4, 8, 16] → width.val ≤ 16 / activePorts s.block →
              Completes (.pcieLinkUp p rate width flit) s (fun b => b = { s.block with
                ctls := tabSet s.block.ctls p { c with rate := rate.val, width := width.val, flit := flit } })))))) ∧
    (∀ w : Writer, resetRight s.block w = none → judged s.block pgHub w 0x100 = true →
      ∀ v : Word,
        (bvBits v 16 16 = 0xD1CE → natBit v.toNat 0 = true → Completes (.hubResetCtlWrite w v) s (fun b =>
          reset b 2 (masterCode w.master))) ∧
        (bvBits v 16 16 = 0xD1CE → natBit v.toNat 0 = false → Completes (.hubResetCtlWrite w v) s (fun b => b = s.block)) ∧
        (bvBits v 16 16 ≠ 0xD1CE → Completes (.hubResetCtlWrite w v) s (fun b => Rejected s.block b pgHub w 6 0x100))) ∧
    (∀ w : Writer, mmOrOwner s.block pgHub w = true →
      (h.phase = .started → h.remove = .ready → Completes (.removeCancel w 0x7E40) s (fun b => reset b 2 (masterCode w.master))) ∧
      (judged s.block pgHub w 0x154 = true →
        (h.remove = .serving → Completes (.removePrepare w 0x7E40) s (fun b => b.hub.remove = .preparing ∧ quiet b) ∧
          Completes (.removeCancel w 0x7E40) s (fun b => b = s.block)) ∧
        (h.remove = .preparing → Completes (.removeCancel w 0x7E40) s (fun b =>
          b = { s.block with hub := { h with cancelled := some (masterCode w.master) } })) ∧
        (h.remove ≠ .ready → ∀ key : Half, key ≠ 0x7E40 → ∀ i ∈ [Instr.removePrepare w key, .removeCancel w key],
          Completes i s (fun b => Rejected s.block b pgHub w 6 0x154))))
end

