-- ==== Sys2Proof/Laws/State.lean ====
section
/-! SUPPORT. State: each named update of the block and of a core leaves every other field as it is; true by unfolding. -/
namespace Sys2Proof.Machine

/-! setPage -/
@[simp] theorem setPage_now (s : Block) (p : Nat) (g : Page) : (setPage s p g).now = s.now := rfl
@[simp] theorem setPage_fresh (s : Block) (p : Nat) (g : Page) : (setPage s p g).fresh = s.fresh := rfl
@[simp] theorem setPage_blank (s : Block) (p : Nat) (g : Page) : (setPage s p g).blank = s.blank := rfl
@[simp] theorem setPage_cores (s : Block) (p : Nat) (g : Page) : (setPage s p g).cores = s.cores := rfl
@[simp] theorem setPage_cs (s : Block) (p : Nat) (g : Page) : (setPage s p g).cs = s.cs := rfl
@[simp] theorem setPage_dm (s : Block) (p : Nat) (g : Page) : (setPage s p g).dm = s.dm := rfl
@[simp] theorem setPage_ctxs (s : Block) (p : Nat) (g : Page) : (setPage s p g).ctxs = s.ctxs := rfl
@[simp] theorem setPage_aside (s : Block) (p : Nat) (g : Page) : (setPage s p g).aside = s.aside := rfl
@[simp] theorem setPage_out (s : Block) (p : Nat) (g : Page) : (setPage s p g).out = s.out := rfl
@[simp] theorem setPage_colls (s : Block) (p : Nat) (g : Page) : (setPage s p g).colls = s.colls := rfl
@[simp] theorem setPage_nextPost (s : Block) (p : Nat) (g : Page) : (setPage s p g).nextPost = s.nextPost := rfl
@[simp] theorem setPage_nextCompute (s : Block) (p : Nat) (g : Page) : (setPage s p g).nextCompute = s.nextCompute := rfl
@[simp] theorem setPage_ctls (s : Block) (p : Nat) (g : Page) : (setPage s p g).ctls = s.ctls := rfl
@[simp] theorem setPage_nextCtl (s : Block) (p : Nat) (g : Page) : (setPage s p g).nextCtl = s.nextCtl := rfl
@[simp] theorem setPage_ctlBurst (s : Block) (p : Nat) (g : Page) : (setPage s p g).ctlBurst = s.ctlBurst := rfl
@[simp] theorem setPage_pageUse (s : Block) (p : Nat) (g : Page) : (setPage s p g).pageUse = s.pageUse := rfl
@[simp] theorem setPage_rr (s : Block) (p : Nat) (g : Page) : (setPage s p g).rr = s.rr := rfl
@[simp] theorem setPage_sel (s : Block) (p : Nat) (g : Page) : (setPage s p g).sel = s.sel := rfl
@[simp] theorem setPage_nss (s : Block) (p : Nat) (g : Page) : (setPage s p g).nss = s.nss := rfl
@[simp] theorem setPage_med (s : Block) (p : Nat) (g : Page) : (setPage s p g).med = s.med := rfl
@[simp] theorem setPage_idxs (s : Block) (p : Nat) (g : Page) : (setPage s p g).idxs = s.idxs := rfl
@[simp] theorem setPage_evts (s : Block) (p : Nat) (g : Page) : (setPage s p g).evts = s.evts := rfl
@[simp] theorem setPage_self (s : Block) (p : Nat) (g : Page) : (setPage s p g).self = s.self := rfl
@[simp] theorem setPage_links (s : Block) (p : Nat) (g : Page) : (setPage s p g).links = s.links := rfl
@[simp] theorem setPage_routerIn (s : Block) (p : Nat) (g : Page) : (setPage s p g).routerIn = s.routerIn := rfl
@[simp] theorem setPage_inbox (s : Block) (p : Nat) (g : Page) : (setPage s p g).inbox = s.inbox := rfl
@[simp] theorem setPage_routes (s : Block) (p : Nat) (g : Page) : (setPage s p g).routes = s.routes := rfl
@[simp] theorem setPage_txs (s : Block) (p : Nat) (g : Page) : (setPage s p g).txs = s.txs := rfl
@[simp] theorem setPage_rxs (s : Block) (p : Nat) (g : Page) : (setPage s p g).rxs = s.rxs := rfl
@[simp] theorem setPage_stu (s : Block) (p : Nat) (g : Page) : (setPage s p g).stu = s.stu := rfl
@[simp] theorem setPage_low (s : Block) (p : Nat) (g : Page) : (setPage s p g).low = s.low := rfl
@[simp] theorem setPage_lowSince (s : Block) (p : Nat) (g : Page) : (setPage s p g).lowSince = s.lowSince := rfl
@[simp] theorem setPage_wakes (s : Block) (p : Nat) (g : Page) : (setPage s p g).wakes = s.wakes := rfl
@[simp] theorem setPage_hostResume (s : Block) (p : Nat) (g : Page) : (setPage s p g).hostResume = s.hostResume := rfl
@[simp] theorem setPage_resuming (s : Block) (p : Nat) (g : Page) : (setPage s p g).resuming = s.resuming := rfl
@[simp] theorem setPage_pmeSent (s : Block) (p : Nat) (g : Page) : (setPage s p g).pmeSent = s.pmeSent := rfl
@[simp] theorem setPage_adm (s : Block) (p : Nat) (g : Page) : (setPage s p g).adm = s.adm := rfl
@[simp] theorem setPage_dmErr (s : Block) (p : Nat) (g : Page) : (setPage s p g).dmErr = s.dmErr := rfl
@[simp] theorem setPage_crit (s : Block) (p : Nat) (g : Page) : (setPage s p g).crit = s.crit := rfl
@[simp] theorem setPage_critRead (s : Block) (p : Nat) (g : Page) : (setPage s p g).critRead = s.critRead := rfl
@[simp] theorem setPage_life (s : Block) (p : Nat) (g : Page) : (setPage s p g).life = s.life := rfl
@[simp] theorem setPage_supply (s : Block) (p : Nat) (g : Page) : (setPage s p g).supply = s.supply := rfl
@[simp] theorem setPage_pace (s : Block) (p : Nat) (g : Page) : (setPage s p g).pace = s.pace := rfl
@[simp] theorem setPage_paceEnd (s : Block) (p : Nat) (g : Page) : (setPage s p g).paceEnd = s.paceEnd := rfl
@[simp] theorem setPage_rgnLatch (s : Block) (p : Nat) (g : Page) : (setPage s p g).rgnLatch = s.rgnLatch := rfl
@[simp] theorem setPage_dmWb (s : Block) (p : Nat) (g : Page) : (setPage s p g).dmWb = s.dmWb := rfl
@[simp] theorem setPage_dmCount (s : Block) (p : Nat) (g : Page) : (setPage s p g).dmCount = s.dmCount := rfl
@[simp] theorem setPage_dmWindow (s : Block) (p : Nat) (g : Page) : (setPage s p g).dmWindow = s.dmWindow := rfl
@[simp] theorem setPage_sramErr (s : Block) (p : Nat) (g : Page) : (setPage s p g).sramErr = s.sramErr := rfl
@[simp] theorem setPage_sramWb (s : Block) (p : Nat) (g : Page) : (setPage s p g).sramWb = s.sramWb := rfl
@[simp] theorem setPage_scrubbed (s : Block) (p : Nat) (g : Page) : (setPage s p g).scrubbed = s.scrubbed := rfl
@[simp] theorem setPage_suspect (s : Block) (p : Nat) (g : Page) : (setPage s p g).suspect = s.suspect := rfl
@[simp] theorem setPage_chks (s : Block) (p : Nat) (g : Page) : (setPage s p g).chks = s.chks := rfl
@[simp] theorem setPage_lows (s : Block) (p : Nat) (g : Page) : (setPage s p g).lows = s.lows := rfl
@[simp] theorem setPage_hub (s : Block) (p : Nat) (g : Page) : (setPage s p g).hub = s.hub := rfl
@[simp] theorem setPage_power (s : Block) (p : Nat) (g : Page) : (setPage s p g).power = s.power := rfl
@[simp] theorem setPage_handovers (s : Block) (p : Nat) (g : Page) : (setPage s p g).handovers = s.handovers := rfl
@[simp] theorem setPage_readmits (s : Block) (p : Nat) (g : Page) : (setPage s p g).readmits = s.readmits := rfl
@[simp] theorem setPage_faultFenced (s : Block) (p : Nat) (g : Page) : (setPage s p g).faultFenced = s.faultFenced := rfl
@[simp] theorem setPage_retired (s : Block) (p : Nat) (g : Page) : (setPage s p g).retired = s.retired := rfl
@[simp] theorem setPage_opt (s : Block) (p : Nat) (g : Page) : (setPage s p g).opt = s.opt := rfl
@[simp] theorem setPage_cfl (s : Block) (p : Nat) (g : Page) : (setPage s p g).cfl = s.cfl := rfl
/-! updPage -/
@[simp] theorem updPage_now (s : Block) (p : Nat) (f : Page → Page) : (updPage s p f).now = s.now := rfl
@[simp] theorem updPage_fresh (s : Block) (p : Nat) (f : Page → Page) : (updPage s p f).fresh = s.fresh := rfl
@[simp] theorem updPage_blank (s : Block) (p : Nat) (f : Page → Page) : (updPage s p f).blank = s.blank := rfl
@[simp] theorem updPage_cores (s : Block) (p : Nat) (f : Page → Page) : (updPage s p f).cores = s.cores := rfl
@[simp] theorem updPage_cs (s : Block) (p : Nat) (f : Page → Page) : (updPage s p f).cs = s.cs := rfl
@[simp] theorem updPage_dm (s : Block) (p : Nat) (f : Page → Page) : (updPage s p f).dm = s.dm := rfl
@[simp] theorem updPage_ctxs (s : Block) (p : Nat) (f : Page → Page) : (updPage s p f).ctxs = s.ctxs := rfl
@[simp] theorem updPage_aside (s : Block) (p : Nat) (f : Page → Page) : (updPage s p f).aside = s.aside := rfl
@[simp] theorem updPage_out (s : Block) (p : Nat) (f : Page → Page) : (updPage s p f).out = s.out := rfl
@[simp] theorem updPage_colls (s : Block) (p : Nat) (f : Page → Page) : (updPage s p f).colls = s.colls := rfl
@[simp] theorem updPage_nextPost (s : Block) (p : Nat) (f : Page → Page) : (updPage s p f).nextPost = s.nextPost := rfl
@[simp] theorem updPage_nextCompute (s : Block) (p : Nat) (f : Page → Page) : (updPage s p f).nextCompute = s.nextCompute := rfl
@[simp] theorem updPage_ctls (s : Block) (p : Nat) (f : Page → Page) : (updPage s p f).ctls = s.ctls := rfl
@[simp] theorem updPage_nextCtl (s : Block) (p : Nat) (f : Page → Page) : (updPage s p f).nextCtl = s.nextCtl := rfl
@[simp] theorem updPage_ctlBurst (s : Block) (p : Nat) (f : Page → Page) : (updPage s p f).ctlBurst = s.ctlBurst := rfl
@[simp] theorem updPage_pageUse (s : Block) (p : Nat) (f : Page → Page) : (updPage s p f).pageUse = s.pageUse := rfl
@[simp] theorem updPage_rr (s : Block) (p : Nat) (f : Page → Page) : (updPage s p f).rr = s.rr := rfl
@[simp] theorem updPage_sel (s : Block) (p : Nat) (f : Page → Page) : (updPage s p f).sel = s.sel := rfl
@[simp] theorem updPage_nss (s : Block) (p : Nat) (f : Page → Page) : (updPage s p f).nss = s.nss := rfl
@[simp] theorem updPage_med (s : Block) (p : Nat) (f : Page → Page) : (updPage s p f).med = s.med := rfl
@[simp] theorem updPage_idxs (s : Block) (p : Nat) (f : Page → Page) : (updPage s p f).idxs = s.idxs := rfl
@[simp] theorem updPage_evts (s : Block) (p : Nat) (f : Page → Page) : (updPage s p f).evts = s.evts := rfl
@[simp] theorem updPage_self (s : Block) (p : Nat) (f : Page → Page) : (updPage s p f).self = s.self := rfl
@[simp] theorem updPage_links (s : Block) (p : Nat) (f : Page → Page) : (updPage s p f).links = s.links := rfl
@[simp] theorem updPage_routerIn (s : Block) (p : Nat) (f : Page → Page) : (updPage s p f).routerIn = s.routerIn := rfl
@[simp] theorem updPage_inbox (s : Block) (p : Nat) (f : Page → Page) : (updPage s p f).inbox = s.inbox := rfl
@[simp] theorem updPage_routes (s : Block) (p : Nat) (f : Page → Page) : (updPage s p f).routes = s.routes := rfl
@[simp] theorem updPage_txs (s : Block) (p : Nat) (f : Page → Page) : (updPage s p f).txs = s.txs := rfl
@[simp] theorem updPage_rxs (s : Block) (p : Nat) (f : Page → Page) : (updPage s p f).rxs = s.rxs := rfl
@[simp] theorem updPage_stu (s : Block) (p : Nat) (f : Page → Page) : (updPage s p f).stu = s.stu := rfl
@[simp] theorem updPage_low (s : Block) (p : Nat) (f : Page → Page) : (updPage s p f).low = s.low := rfl
@[simp] theorem updPage_lowSince (s : Block) (p : Nat) (f : Page → Page) : (updPage s p f).lowSince = s.lowSince := rfl
@[simp] theorem updPage_wakes (s : Block) (p : Nat) (f : Page → Page) : (updPage s p f).wakes = s.wakes := rfl
@[simp] theorem updPage_hostResume (s : Block) (p : Nat) (f : Page → Page) : (updPage s p f).hostResume = s.hostResume := rfl
@[simp] theorem updPage_resuming (s : Block) (p : Nat) (f : Page → Page) : (updPage s p f).resuming = s.resuming := rfl
@[simp] theorem updPage_pmeSent (s : Block) (p : Nat) (f : Page → Page) : (updPage s p f).pmeSent = s.pmeSent := rfl
@[simp] theorem updPage_adm (s : Block) (p : Nat) (f : Page → Page) : (updPage s p f).adm = s.adm := rfl
@[simp] theorem updPage_dmErr (s : Block) (p : Nat) (f : Page → Page) : (updPage s p f).dmErr = s.dmErr := rfl
@[simp] theorem updPage_crit (s : Block) (p : Nat) (f : Page → Page) : (updPage s p f).crit = s.crit := rfl
@[simp] theorem updPage_critRead (s : Block) (p : Nat) (f : Page → Page) : (updPage s p f).critRead = s.critRead := rfl
@[simp] theorem updPage_life (s : Block) (p : Nat) (f : Page → Page) : (updPage s p f).life = s.life := rfl
@[simp] theorem updPage_supply (s : Block) (p : Nat) (f : Page → Page) : (updPage s p f).supply = s.supply := rfl
@[simp] theorem updPage_pace (s : Block) (p : Nat) (f : Page → Page) : (updPage s p f).pace = s.pace := rfl
@[simp] theorem updPage_paceEnd (s : Block) (p : Nat) (f : Page → Page) : (updPage s p f).paceEnd = s.paceEnd := rfl
@[simp] theorem updPage_rgnLatch (s : Block) (p : Nat) (f : Page → Page) : (updPage s p f).rgnLatch = s.rgnLatch := rfl
@[simp] theorem updPage_dmWb (s : Block) (p : Nat) (f : Page → Page) : (updPage s p f).dmWb = s.dmWb := rfl
@[simp] theorem updPage_dmCount (s : Block) (p : Nat) (f : Page → Page) : (updPage s p f).dmCount = s.dmCount := rfl
@[simp] theorem updPage_dmWindow (s : Block) (p : Nat) (f : Page → Page) : (updPage s p f).dmWindow = s.dmWindow := rfl
@[simp] theorem updPage_sramErr (s : Block) (p : Nat) (f : Page → Page) : (updPage s p f).sramErr = s.sramErr := rfl
@[simp] theorem updPage_sramWb (s : Block) (p : Nat) (f : Page → Page) : (updPage s p f).sramWb = s.sramWb := rfl
@[simp] theorem updPage_scrubbed (s : Block) (p : Nat) (f : Page → Page) : (updPage s p f).scrubbed = s.scrubbed := rfl
@[simp] theorem updPage_suspect (s : Block) (p : Nat) (f : Page → Page) : (updPage s p f).suspect = s.suspect := rfl
@[simp] theorem updPage_chks (s : Block) (p : Nat) (f : Page → Page) : (updPage s p f).chks = s.chks := rfl
@[simp] theorem updPage_lows (s : Block) (p : Nat) (f : Page → Page) : (updPage s p f).lows = s.lows := rfl
@[simp] theorem updPage_hub (s : Block) (p : Nat) (f : Page → Page) : (updPage s p f).hub = s.hub := rfl
@[simp] theorem updPage_power (s : Block) (p : Nat) (f : Page → Page) : (updPage s p f).power = s.power := rfl
@[simp] theorem updPage_handovers (s : Block) (p : Nat) (f : Page → Page) : (updPage s p f).handovers = s.handovers := rfl
@[simp] theorem updPage_readmits (s : Block) (p : Nat) (f : Page → Page) : (updPage s p f).readmits = s.readmits := rfl
@[simp] theorem updPage_faultFenced (s : Block) (p : Nat) (f : Page → Page) : (updPage s p f).faultFenced = s.faultFenced := rfl
@[simp] theorem updPage_retired (s : Block) (p : Nat) (f : Page → Page) : (updPage s p f).retired = s.retired := rfl
@[simp] theorem updPage_opt (s : Block) (p : Nat) (f : Page → Page) : (updPage s p f).opt = s.opt := rfl
@[simp] theorem updPage_cfl (s : Block) (p : Nat) (f : Page → Page) : (updPage s p f).cfl = s.cfl := rfl
/-! bump -/
@[simp] theorem bump_now (s : Block) (p i n : Nat) : (bump s p i n).now = s.now := rfl
@[simp] theorem bump_fresh (s : Block) (p i n : Nat) : (bump s p i n).fresh = s.fresh := rfl
@[simp] theorem bump_blank (s : Block) (p i n : Nat) : (bump s p i n).blank = s.blank := rfl
@[simp] theorem bump_cores (s : Block) (p i n : Nat) : (bump s p i n).cores = s.cores := rfl
@[simp] theorem bump_cs (s : Block) (p i n : Nat) : (bump s p i n).cs = s.cs := rfl
@[simp] theorem bump_dm (s : Block) (p i n : Nat) : (bump s p i n).dm = s.dm := rfl
@[simp] theorem bump_ctxs (s : Block) (p i n : Nat) : (bump s p i n).ctxs = s.ctxs := rfl
@[simp] theorem bump_aside (s : Block) (p i n : Nat) : (bump s p i n).aside = s.aside := rfl
@[simp] theorem bump_out (s : Block) (p i n : Nat) : (bump s p i n).out = s.out := rfl
@[simp] theorem bump_colls (s : Block) (p i n : Nat) : (bump s p i n).colls = s.colls := rfl
@[simp] theorem bump_nextPost (s : Block) (p i n : Nat) : (bump s p i n).nextPost = s.nextPost := rfl
@[simp] theorem bump_nextCompute (s : Block) (p i n : Nat) : (bump s p i n).nextCompute = s.nextCompute := rfl
@[simp] theorem bump_ctls (s : Block) (p i n : Nat) : (bump s p i n).ctls = s.ctls := rfl
@[simp] theorem bump_nextCtl (s : Block) (p i n : Nat) : (bump s p i n).nextCtl = s.nextCtl := rfl
@[simp] theorem bump_ctlBurst (s : Block) (p i n : Nat) : (bump s p i n).ctlBurst = s.ctlBurst := rfl
@[simp] theorem bump_pageUse (s : Block) (p i n : Nat) : (bump s p i n).pageUse = s.pageUse := rfl
@[simp] theorem bump_rr (s : Block) (p i n : Nat) : (bump s p i n).rr = s.rr := rfl
@[simp] theorem bump_sel (s : Block) (p i n : Nat) : (bump s p i n).sel = s.sel := rfl
@[simp] theorem bump_nss (s : Block) (p i n : Nat) : (bump s p i n).nss = s.nss := rfl
@[simp] theorem bump_med (s : Block) (p i n : Nat) : (bump s p i n).med = s.med := rfl
@[simp] theorem bump_idxs (s : Block) (p i n : Nat) : (bump s p i n).idxs = s.idxs := rfl
@[simp] theorem bump_evts (s : Block) (p i n : Nat) : (bump s p i n).evts = s.evts := rfl
@[simp] theorem bump_self (s : Block) (p i n : Nat) : (bump s p i n).self = s.self := rfl
@[simp] theorem bump_links (s : Block) (p i n : Nat) : (bump s p i n).links = s.links := rfl
@[simp] theorem bump_routerIn (s : Block) (p i n : Nat) : (bump s p i n).routerIn = s.routerIn := rfl
@[simp] theorem bump_inbox (s : Block) (p i n : Nat) : (bump s p i n).inbox = s.inbox := rfl
@[simp] theorem bump_routes (s : Block) (p i n : Nat) : (bump s p i n).routes = s.routes := rfl
@[simp] theorem bump_txs (s : Block) (p i n : Nat) : (bump s p i n).txs = s.txs := rfl
@[simp] theorem bump_rxs (s : Block) (p i n : Nat) : (bump s p i n).rxs = s.rxs := rfl
@[simp] theorem bump_stu (s : Block) (p i n : Nat) : (bump s p i n).stu = s.stu := rfl
@[simp] theorem bump_low (s : Block) (p i n : Nat) : (bump s p i n).low = s.low := rfl
@[simp] theorem bump_lowSince (s : Block) (p i n : Nat) : (bump s p i n).lowSince = s.lowSince := rfl
@[simp] theorem bump_wakes (s : Block) (p i n : Nat) : (bump s p i n).wakes = s.wakes := rfl
@[simp] theorem bump_hostResume (s : Block) (p i n : Nat) : (bump s p i n).hostResume = s.hostResume := rfl
@[simp] theorem bump_resuming (s : Block) (p i n : Nat) : (bump s p i n).resuming = s.resuming := rfl
@[simp] theorem bump_pmeSent (s : Block) (p i n : Nat) : (bump s p i n).pmeSent = s.pmeSent := rfl
@[simp] theorem bump_adm (s : Block) (p i n : Nat) : (bump s p i n).adm = s.adm := rfl
@[simp] theorem bump_dmErr (s : Block) (p i n : Nat) : (bump s p i n).dmErr = s.dmErr := rfl
@[simp] theorem bump_crit (s : Block) (p i n : Nat) : (bump s p i n).crit = s.crit := rfl
@[simp] theorem bump_critRead (s : Block) (p i n : Nat) : (bump s p i n).critRead = s.critRead := rfl
@[simp] theorem bump_life (s : Block) (p i n : Nat) : (bump s p i n).life = s.life := rfl
@[simp] theorem bump_supply (s : Block) (p i n : Nat) : (bump s p i n).supply = s.supply := rfl
@[simp] theorem bump_pace (s : Block) (p i n : Nat) : (bump s p i n).pace = s.pace := rfl
@[simp] theorem bump_paceEnd (s : Block) (p i n : Nat) : (bump s p i n).paceEnd = s.paceEnd := rfl
@[simp] theorem bump_rgnLatch (s : Block) (p i n : Nat) : (bump s p i n).rgnLatch = s.rgnLatch := rfl
@[simp] theorem bump_dmWb (s : Block) (p i n : Nat) : (bump s p i n).dmWb = s.dmWb := rfl
@[simp] theorem bump_dmCount (s : Block) (p i n : Nat) : (bump s p i n).dmCount = s.dmCount := rfl
@[simp] theorem bump_dmWindow (s : Block) (p i n : Nat) : (bump s p i n).dmWindow = s.dmWindow := rfl
@[simp] theorem bump_sramErr (s : Block) (p i n : Nat) : (bump s p i n).sramErr = s.sramErr := rfl
@[simp] theorem bump_sramWb (s : Block) (p i n : Nat) : (bump s p i n).sramWb = s.sramWb := rfl
@[simp] theorem bump_scrubbed (s : Block) (p i n : Nat) : (bump s p i n).scrubbed = s.scrubbed := rfl
@[simp] theorem bump_suspect (s : Block) (p i n : Nat) : (bump s p i n).suspect = s.suspect := rfl
@[simp] theorem bump_chks (s : Block) (p i n : Nat) : (bump s p i n).chks = s.chks := rfl
@[simp] theorem bump_lows (s : Block) (p i n : Nat) : (bump s p i n).lows = s.lows := rfl
@[simp] theorem bump_hub (s : Block) (p i n : Nat) : (bump s p i n).hub = s.hub := rfl
@[simp] theorem bump_power (s : Block) (p i n : Nat) : (bump s p i n).power = s.power := rfl
@[simp] theorem bump_handovers (s : Block) (p i n : Nat) : (bump s p i n).handovers = s.handovers := rfl
@[simp] theorem bump_readmits (s : Block) (p i n : Nat) : (bump s p i n).readmits = s.readmits := rfl
@[simp] theorem bump_faultFenced (s : Block) (p i n : Nat) : (bump s p i n).faultFenced = s.faultFenced := rfl
@[simp] theorem bump_retired (s : Block) (p i n : Nat) : (bump s p i n).retired = s.retired := rfl
@[simp] theorem bump_opt (s : Block) (p i n : Nat) : (bump s p i n).opt = s.opt := rfl
@[simp] theorem bump_cfl (s : Block) (p i n : Nat) : (bump s p i n).cfl = s.cfl := rfl
/-! bumpMax -/
@[simp] theorem bumpMax_now (s : Block) (p i n : Nat) : (bumpMax s p i n).now = s.now := rfl
@[simp] theorem bumpMax_fresh (s : Block) (p i n : Nat) : (bumpMax s p i n).fresh = s.fresh := rfl
@[simp] theorem bumpMax_blank (s : Block) (p i n : Nat) : (bumpMax s p i n).blank = s.blank := rfl
@[simp] theorem bumpMax_cores (s : Block) (p i n : Nat) : (bumpMax s p i n).cores = s.cores := rfl
@[simp] theorem bumpMax_cs (s : Block) (p i n : Nat) : (bumpMax s p i n).cs = s.cs := rfl
@[simp] theorem bumpMax_dm (s : Block) (p i n : Nat) : (bumpMax s p i n).dm = s.dm := rfl
@[simp] theorem bumpMax_ctxs (s : Block) (p i n : Nat) : (bumpMax s p i n).ctxs = s.ctxs := rfl
@[simp] theorem bumpMax_aside (s : Block) (p i n : Nat) : (bumpMax s p i n).aside = s.aside := rfl
@[simp] theorem bumpMax_out (s : Block) (p i n : Nat) : (bumpMax s p i n).out = s.out := rfl
@[simp] theorem bumpMax_colls (s : Block) (p i n : Nat) : (bumpMax s p i n).colls = s.colls := rfl
@[simp] theorem bumpMax_nextPost (s : Block) (p i n : Nat) : (bumpMax s p i n).nextPost = s.nextPost := rfl
@[simp] theorem bumpMax_nextCompute (s : Block) (p i n : Nat) : (bumpMax s p i n).nextCompute = s.nextCompute := rfl
@[simp] theorem bumpMax_ctls (s : Block) (p i n : Nat) : (bumpMax s p i n).ctls = s.ctls := rfl
@[simp] theorem bumpMax_nextCtl (s : Block) (p i n : Nat) : (bumpMax s p i n).nextCtl = s.nextCtl := rfl
@[simp] theorem bumpMax_ctlBurst (s : Block) (p i n : Nat) : (bumpMax s p i n).ctlBurst = s.ctlBurst := rfl
@[simp] theorem bumpMax_pageUse (s : Block) (p i n : Nat) : (bumpMax s p i n).pageUse = s.pageUse := rfl
@[simp] theorem bumpMax_rr (s : Block) (p i n : Nat) : (bumpMax s p i n).rr = s.rr := rfl
@[simp] theorem bumpMax_sel (s : Block) (p i n : Nat) : (bumpMax s p i n).sel = s.sel := rfl
@[simp] theorem bumpMax_nss (s : Block) (p i n : Nat) : (bumpMax s p i n).nss = s.nss := rfl
@[simp] theorem bumpMax_med (s : Block) (p i n : Nat) : (bumpMax s p i n).med = s.med := rfl
@[simp] theorem bumpMax_idxs (s : Block) (p i n : Nat) : (bumpMax s p i n).idxs = s.idxs := rfl
@[simp] theorem bumpMax_evts (s : Block) (p i n : Nat) : (bumpMax s p i n).evts = s.evts := rfl
@[simp] theorem bumpMax_self (s : Block) (p i n : Nat) : (bumpMax s p i n).self = s.self := rfl
@[simp] theorem bumpMax_links (s : Block) (p i n : Nat) : (bumpMax s p i n).links = s.links := rfl
@[simp] theorem bumpMax_routerIn (s : Block) (p i n : Nat) : (bumpMax s p i n).routerIn = s.routerIn := rfl
@[simp] theorem bumpMax_inbox (s : Block) (p i n : Nat) : (bumpMax s p i n).inbox = s.inbox := rfl
@[simp] theorem bumpMax_routes (s : Block) (p i n : Nat) : (bumpMax s p i n).routes = s.routes := rfl
@[simp] theorem bumpMax_txs (s : Block) (p i n : Nat) : (bumpMax s p i n).txs = s.txs := rfl
@[simp] theorem bumpMax_rxs (s : Block) (p i n : Nat) : (bumpMax s p i n).rxs = s.rxs := rfl
@[simp] theorem bumpMax_stu (s : Block) (p i n : Nat) : (bumpMax s p i n).stu = s.stu := rfl
@[simp] theorem bumpMax_low (s : Block) (p i n : Nat) : (bumpMax s p i n).low = s.low := rfl
@[simp] theorem bumpMax_lowSince (s : Block) (p i n : Nat) : (bumpMax s p i n).lowSince = s.lowSince := rfl
@[simp] theorem bumpMax_wakes (s : Block) (p i n : Nat) : (bumpMax s p i n).wakes = s.wakes := rfl
@[simp] theorem bumpMax_hostResume (s : Block) (p i n : Nat) : (bumpMax s p i n).hostResume = s.hostResume := rfl
@[simp] theorem bumpMax_resuming (s : Block) (p i n : Nat) : (bumpMax s p i n).resuming = s.resuming := rfl
@[simp] theorem bumpMax_pmeSent (s : Block) (p i n : Nat) : (bumpMax s p i n).pmeSent = s.pmeSent := rfl
@[simp] theorem bumpMax_adm (s : Block) (p i n : Nat) : (bumpMax s p i n).adm = s.adm := rfl
@[simp] theorem bumpMax_dmErr (s : Block) (p i n : Nat) : (bumpMax s p i n).dmErr = s.dmErr := rfl
@[simp] theorem bumpMax_crit (s : Block) (p i n : Nat) : (bumpMax s p i n).crit = s.crit := rfl
@[simp] theorem bumpMax_critRead (s : Block) (p i n : Nat) : (bumpMax s p i n).critRead = s.critRead := rfl
@[simp] theorem bumpMax_life (s : Block) (p i n : Nat) : (bumpMax s p i n).life = s.life := rfl
@[simp] theorem bumpMax_supply (s : Block) (p i n : Nat) : (bumpMax s p i n).supply = s.supply := rfl
@[simp] theorem bumpMax_pace (s : Block) (p i n : Nat) : (bumpMax s p i n).pace = s.pace := rfl
@[simp] theorem bumpMax_paceEnd (s : Block) (p i n : Nat) : (bumpMax s p i n).paceEnd = s.paceEnd := rfl
@[simp] theorem bumpMax_rgnLatch (s : Block) (p i n : Nat) : (bumpMax s p i n).rgnLatch = s.rgnLatch := rfl
@[simp] theorem bumpMax_dmWb (s : Block) (p i n : Nat) : (bumpMax s p i n).dmWb = s.dmWb := rfl
@[simp] theorem bumpMax_dmCount (s : Block) (p i n : Nat) : (bumpMax s p i n).dmCount = s.dmCount := rfl
@[simp] theorem bumpMax_dmWindow (s : Block) (p i n : Nat) : (bumpMax s p i n).dmWindow = s.dmWindow := rfl
@[simp] theorem bumpMax_sramErr (s : Block) (p i n : Nat) : (bumpMax s p i n).sramErr = s.sramErr := rfl
@[simp] theorem bumpMax_sramWb (s : Block) (p i n : Nat) : (bumpMax s p i n).sramWb = s.sramWb := rfl
@[simp] theorem bumpMax_scrubbed (s : Block) (p i n : Nat) : (bumpMax s p i n).scrubbed = s.scrubbed := rfl
@[simp] theorem bumpMax_suspect (s : Block) (p i n : Nat) : (bumpMax s p i n).suspect = s.suspect := rfl
@[simp] theorem bumpMax_chks (s : Block) (p i n : Nat) : (bumpMax s p i n).chks = s.chks := rfl
@[simp] theorem bumpMax_lows (s : Block) (p i n : Nat) : (bumpMax s p i n).lows = s.lows := rfl
@[simp] theorem bumpMax_hub (s : Block) (p i n : Nat) : (bumpMax s p i n).hub = s.hub := rfl
@[simp] theorem bumpMax_power (s : Block) (p i n : Nat) : (bumpMax s p i n).power = s.power := rfl
@[simp] theorem bumpMax_handovers (s : Block) (p i n : Nat) : (bumpMax s p i n).handovers = s.handovers := rfl
@[simp] theorem bumpMax_readmits (s : Block) (p i n : Nat) : (bumpMax s p i n).readmits = s.readmits := rfl
@[simp] theorem bumpMax_faultFenced (s : Block) (p i n : Nat) : (bumpMax s p i n).faultFenced = s.faultFenced := rfl
@[simp] theorem bumpMax_retired (s : Block) (p i n : Nat) : (bumpMax s p i n).retired = s.retired := rfl
@[simp] theorem bumpMax_opt (s : Block) (p i n : Nat) : (bumpMax s p i n).opt = s.opt := rfl
@[simp] theorem bumpMax_cfl (s : Block) (p i n : Nat) : (bumpMax s p i n).cfl = s.cfl := rfl
/-! setReg -/
@[simp] theorem setReg_now (s : Block) (p off : Nat) (v : Word) : (setReg s p off v).now = s.now := rfl
@[simp] theorem setReg_fresh (s : Block) (p off : Nat) (v : Word) : (setReg s p off v).fresh = s.fresh := rfl
@[simp] theorem setReg_blank (s : Block) (p off : Nat) (v : Word) : (setReg s p off v).blank = s.blank := rfl
@[simp] theorem setReg_cores (s : Block) (p off : Nat) (v : Word) : (setReg s p off v).cores = s.cores := rfl
@[simp] theorem setReg_cs (s : Block) (p off : Nat) (v : Word) : (setReg s p off v).cs = s.cs := rfl
@[simp] theorem setReg_dm (s : Block) (p off : Nat) (v : Word) : (setReg s p off v).dm = s.dm := rfl
@[simp] theorem setReg_ctxs (s : Block) (p off : Nat) (v : Word) : (setReg s p off v).ctxs = s.ctxs := rfl
@[simp] theorem setReg_aside (s : Block) (p off : Nat) (v : Word) : (setReg s p off v).aside = s.aside := rfl
@[simp] theorem setReg_out (s : Block) (p off : Nat) (v : Word) : (setReg s p off v).out = s.out := rfl
@[simp] theorem setReg_colls (s : Block) (p off : Nat) (v : Word) : (setReg s p off v).colls = s.colls := rfl
@[simp] theorem setReg_nextPost (s : Block) (p off : Nat) (v : Word) : (setReg s p off v).nextPost = s.nextPost := rfl
@[simp] theorem setReg_nextCompute (s : Block) (p off : Nat) (v : Word) : (setReg s p off v).nextCompute = s.nextCompute := rfl
@[simp] theorem setReg_ctls (s : Block) (p off : Nat) (v : Word) : (setReg s p off v).ctls = s.ctls := rfl
@[simp] theorem setReg_nextCtl (s : Block) (p off : Nat) (v : Word) : (setReg s p off v).nextCtl = s.nextCtl := rfl
@[simp] theorem setReg_ctlBurst (s : Block) (p off : Nat) (v : Word) : (setReg s p off v).ctlBurst = s.ctlBurst := rfl
@[simp] theorem setReg_pageUse (s : Block) (p off : Nat) (v : Word) : (setReg s p off v).pageUse = s.pageUse := rfl
@[simp] theorem setReg_rr (s : Block) (p off : Nat) (v : Word) : (setReg s p off v).rr = s.rr := rfl
@[simp] theorem setReg_sel (s : Block) (p off : Nat) (v : Word) : (setReg s p off v).sel = s.sel := rfl
@[simp] theorem setReg_nss (s : Block) (p off : Nat) (v : Word) : (setReg s p off v).nss = s.nss := rfl
@[simp] theorem setReg_med (s : Block) (p off : Nat) (v : Word) : (setReg s p off v).med = s.med := rfl
@[simp] theorem setReg_idxs (s : Block) (p off : Nat) (v : Word) : (setReg s p off v).idxs = s.idxs := rfl
@[simp] theorem setReg_evts (s : Block) (p off : Nat) (v : Word) : (setReg s p off v).evts = s.evts := rfl
@[simp] theorem setReg_self (s : Block) (p off : Nat) (v : Word) : (setReg s p off v).self = s.self := rfl
@[simp] theorem setReg_links (s : Block) (p off : Nat) (v : Word) : (setReg s p off v).links = s.links := rfl
@[simp] theorem setReg_routerIn (s : Block) (p off : Nat) (v : Word) : (setReg s p off v).routerIn = s.routerIn := rfl
@[simp] theorem setReg_inbox (s : Block) (p off : Nat) (v : Word) : (setReg s p off v).inbox = s.inbox := rfl
@[simp] theorem setReg_routes (s : Block) (p off : Nat) (v : Word) : (setReg s p off v).routes = s.routes := rfl
@[simp] theorem setReg_txs (s : Block) (p off : Nat) (v : Word) : (setReg s p off v).txs = s.txs := rfl
@[simp] theorem setReg_rxs (s : Block) (p off : Nat) (v : Word) : (setReg s p off v).rxs = s.rxs := rfl
@[simp] theorem setReg_stu (s : Block) (p off : Nat) (v : Word) : (setReg s p off v).stu = s.stu := rfl
@[simp] theorem setReg_low (s : Block) (p off : Nat) (v : Word) : (setReg s p off v).low = s.low := rfl
@[simp] theorem setReg_lowSince (s : Block) (p off : Nat) (v : Word) : (setReg s p off v).lowSince = s.lowSince := rfl
@[simp] theorem setReg_wakes (s : Block) (p off : Nat) (v : Word) : (setReg s p off v).wakes = s.wakes := rfl
@[simp] theorem setReg_hostResume (s : Block) (p off : Nat) (v : Word) : (setReg s p off v).hostResume = s.hostResume := rfl
@[simp] theorem setReg_resuming (s : Block) (p off : Nat) (v : Word) : (setReg s p off v).resuming = s.resuming := rfl
@[simp] theorem setReg_pmeSent (s : Block) (p off : Nat) (v : Word) : (setReg s p off v).pmeSent = s.pmeSent := rfl
@[simp] theorem setReg_adm (s : Block) (p off : Nat) (v : Word) : (setReg s p off v).adm = s.adm := rfl
@[simp] theorem setReg_dmErr (s : Block) (p off : Nat) (v : Word) : (setReg s p off v).dmErr = s.dmErr := rfl
@[simp] theorem setReg_crit (s : Block) (p off : Nat) (v : Word) : (setReg s p off v).crit = s.crit := rfl
@[simp] theorem setReg_critRead (s : Block) (p off : Nat) (v : Word) : (setReg s p off v).critRead = s.critRead := rfl
@[simp] theorem setReg_life (s : Block) (p off : Nat) (v : Word) : (setReg s p off v).life = s.life := rfl
@[simp] theorem setReg_supply (s : Block) (p off : Nat) (v : Word) : (setReg s p off v).supply = s.supply := rfl
@[simp] theorem setReg_pace (s : Block) (p off : Nat) (v : Word) : (setReg s p off v).pace = s.pace := rfl
@[simp] theorem setReg_paceEnd (s : Block) (p off : Nat) (v : Word) : (setReg s p off v).paceEnd = s.paceEnd := rfl
@[simp] theorem setReg_rgnLatch (s : Block) (p off : Nat) (v : Word) : (setReg s p off v).rgnLatch = s.rgnLatch := rfl
@[simp] theorem setReg_dmWb (s : Block) (p off : Nat) (v : Word) : (setReg s p off v).dmWb = s.dmWb := rfl
@[simp] theorem setReg_dmCount (s : Block) (p off : Nat) (v : Word) : (setReg s p off v).dmCount = s.dmCount := rfl
@[simp] theorem setReg_dmWindow (s : Block) (p off : Nat) (v : Word) : (setReg s p off v).dmWindow = s.dmWindow := rfl
@[simp] theorem setReg_sramErr (s : Block) (p off : Nat) (v : Word) : (setReg s p off v).sramErr = s.sramErr := rfl
@[simp] theorem setReg_sramWb (s : Block) (p off : Nat) (v : Word) : (setReg s p off v).sramWb = s.sramWb := rfl
@[simp] theorem setReg_scrubbed (s : Block) (p off : Nat) (v : Word) : (setReg s p off v).scrubbed = s.scrubbed := rfl
@[simp] theorem setReg_suspect (s : Block) (p off : Nat) (v : Word) : (setReg s p off v).suspect = s.suspect := rfl
@[simp] theorem setReg_chks (s : Block) (p off : Nat) (v : Word) : (setReg s p off v).chks = s.chks := rfl
@[simp] theorem setReg_lows (s : Block) (p off : Nat) (v : Word) : (setReg s p off v).lows = s.lows := rfl
@[simp] theorem setReg_hub (s : Block) (p off : Nat) (v : Word) : (setReg s p off v).hub = s.hub := rfl
@[simp] theorem setReg_power (s : Block) (p off : Nat) (v : Word) : (setReg s p off v).power = s.power := rfl
@[simp] theorem setReg_handovers (s : Block) (p off : Nat) (v : Word) : (setReg s p off v).handovers = s.handovers := rfl
@[simp] theorem setReg_readmits (s : Block) (p off : Nat) (v : Word) : (setReg s p off v).readmits = s.readmits := rfl
@[simp] theorem setReg_faultFenced (s : Block) (p off : Nat) (v : Word) : (setReg s p off v).faultFenced = s.faultFenced := rfl
@[simp] theorem setReg_retired (s : Block) (p off : Nat) (v : Word) : (setReg s p off v).retired = s.retired := rfl
@[simp] theorem setReg_opt (s : Block) (p off : Nat) (v : Word) : (setReg s p off v).opt = s.opt := rfl
@[simp] theorem setReg_cfl (s : Block) (p off : Nat) (v : Word) : (setReg s p off v).cfl = s.cfl := rfl
/-! drawFresh -/
@[simp] theorem drawFresh_now (s : Block) : (drawFresh s).now = s.now := rfl
@[simp] theorem drawFresh_pages (s : Block) : (drawFresh s).pages = s.pages := rfl
@[simp] theorem drawFresh_blank (s : Block) : (drawFresh s).blank = s.blank := rfl
@[simp] theorem drawFresh_cores (s : Block) : (drawFresh s).cores = s.cores := rfl
@[simp] theorem drawFresh_cs (s : Block) : (drawFresh s).cs = s.cs := rfl
@[simp] theorem drawFresh_dm (s : Block) : (drawFresh s).dm = s.dm := rfl
@[simp] theorem drawFresh_ctxs (s : Block) : (drawFresh s).ctxs = s.ctxs := rfl
@[simp] theorem drawFresh_aside (s : Block) : (drawFresh s).aside = s.aside := rfl
@[simp] theorem drawFresh_out (s : Block) : (drawFresh s).out = s.out := rfl
@[simp] theorem drawFresh_colls (s : Block) : (drawFresh s).colls = s.colls := rfl
@[simp] theorem drawFresh_nextPost (s : Block) : (drawFresh s).nextPost = s.nextPost := rfl
@[simp] theorem drawFresh_nextCompute (s : Block) : (drawFresh s).nextCompute = s.nextCompute := rfl
@[simp] theorem drawFresh_ctls (s : Block) : (drawFresh s).ctls = s.ctls := rfl
@[simp] theorem drawFresh_nextCtl (s : Block) : (drawFresh s).nextCtl = s.nextCtl := rfl
@[simp] theorem drawFresh_ctlBurst (s : Block) : (drawFresh s).ctlBurst = s.ctlBurst := rfl
@[simp] theorem drawFresh_pageUse (s : Block) : (drawFresh s).pageUse = s.pageUse := rfl
@[simp] theorem drawFresh_rr (s : Block) : (drawFresh s).rr = s.rr := rfl
@[simp] theorem drawFresh_sel (s : Block) : (drawFresh s).sel = s.sel := rfl
@[simp] theorem drawFresh_nss (s : Block) : (drawFresh s).nss = s.nss := rfl
@[simp] theorem drawFresh_med (s : Block) : (drawFresh s).med = s.med := rfl
@[simp] theorem drawFresh_idxs (s : Block) : (drawFresh s).idxs = s.idxs := rfl
@[simp] theorem drawFresh_evts (s : Block) : (drawFresh s).evts = s.evts := rfl
@[simp] theorem drawFresh_self (s : Block) : (drawFresh s).self = s.self := rfl
@[simp] theorem drawFresh_links (s : Block) : (drawFresh s).links = s.links := rfl
@[simp] theorem drawFresh_routerIn (s : Block) : (drawFresh s).routerIn = s.routerIn := rfl
@[simp] theorem drawFresh_inbox (s : Block) : (drawFresh s).inbox = s.inbox := rfl
@[simp] theorem drawFresh_routes (s : Block) : (drawFresh s).routes = s.routes := rfl
@[simp] theorem drawFresh_txs (s : Block) : (drawFresh s).txs = s.txs := rfl
@[simp] theorem drawFresh_rxs (s : Block) : (drawFresh s).rxs = s.rxs := rfl
@[simp] theorem drawFresh_stu (s : Block) : (drawFresh s).stu = s.stu := rfl
@[simp] theorem drawFresh_low (s : Block) : (drawFresh s).low = s.low := rfl
@[simp] theorem drawFresh_lowSince (s : Block) : (drawFresh s).lowSince = s.lowSince := rfl
@[simp] theorem drawFresh_wakes (s : Block) : (drawFresh s).wakes = s.wakes := rfl
@[simp] theorem drawFresh_hostResume (s : Block) : (drawFresh s).hostResume = s.hostResume := rfl
@[simp] theorem drawFresh_resuming (s : Block) : (drawFresh s).resuming = s.resuming := rfl
@[simp] theorem drawFresh_pmeSent (s : Block) : (drawFresh s).pmeSent = s.pmeSent := rfl
@[simp] theorem drawFresh_adm (s : Block) : (drawFresh s).adm = s.adm := rfl
@[simp] theorem drawFresh_dmErr (s : Block) : (drawFresh s).dmErr = s.dmErr := rfl
@[simp] theorem drawFresh_crit (s : Block) : (drawFresh s).crit = s.crit := rfl
@[simp] theorem drawFresh_critRead (s : Block) : (drawFresh s).critRead = s.critRead := rfl
@[simp] theorem drawFresh_life (s : Block) : (drawFresh s).life = s.life := rfl
@[simp] theorem drawFresh_supply (s : Block) : (drawFresh s).supply = s.supply := rfl
@[simp] theorem drawFresh_pace (s : Block) : (drawFresh s).pace = s.pace := rfl
@[simp] theorem drawFresh_paceEnd (s : Block) : (drawFresh s).paceEnd = s.paceEnd := rfl
@[simp] theorem drawFresh_rgnLatch (s : Block) : (drawFresh s).rgnLatch = s.rgnLatch := rfl
@[simp] theorem drawFresh_dmWb (s : Block) : (drawFresh s).dmWb = s.dmWb := rfl
@[simp] theorem drawFresh_dmCount (s : Block) : (drawFresh s).dmCount = s.dmCount := rfl
@[simp] theorem drawFresh_dmWindow (s : Block) : (drawFresh s).dmWindow = s.dmWindow := rfl
@[simp] theorem drawFresh_sramErr (s : Block) : (drawFresh s).sramErr = s.sramErr := rfl
@[simp] theorem drawFresh_sramWb (s : Block) : (drawFresh s).sramWb = s.sramWb := rfl
@[simp] theorem drawFresh_scrubbed (s : Block) : (drawFresh s).scrubbed = s.scrubbed := rfl
@[simp] theorem drawFresh_suspect (s : Block) : (drawFresh s).suspect = s.suspect := rfl
@[simp] theorem drawFresh_chks (s : Block) : (drawFresh s).chks = s.chks := rfl
@[simp] theorem drawFresh_lows (s : Block) : (drawFresh s).lows = s.lows := rfl
@[simp] theorem drawFresh_hub (s : Block) : (drawFresh s).hub = s.hub := rfl
@[simp] theorem drawFresh_power (s : Block) : (drawFresh s).power = s.power := rfl
@[simp] theorem drawFresh_handovers (s : Block) : (drawFresh s).handovers = s.handovers := rfl
@[simp] theorem drawFresh_readmits (s : Block) : (drawFresh s).readmits = s.readmits := rfl
@[simp] theorem drawFresh_faultFenced (s : Block) : (drawFresh s).faultFenced = s.faultFenced := rfl
@[simp] theorem drawFresh_retired (s : Block) : (drawFresh s).retired = s.retired := rfl
@[simp] theorem drawFresh_opt (s : Block) : (drawFresh s).opt = s.opt := rfl
@[simp] theorem drawFresh_cfl (s : Block) : (drawFresh s).cfl = s.cfl := rfl
/-! atTime -/
@[simp] theorem atTime_fresh (s : Block) (t : Nat) : (atTime s t).fresh = s.fresh := rfl
@[simp] theorem atTime_pages (s : Block) (t : Nat) : (atTime s t).pages = s.pages := rfl
@[simp] theorem atTime_blank (s : Block) (t : Nat) : (atTime s t).blank = s.blank := rfl
@[simp] theorem atTime_cores (s : Block) (t : Nat) : (atTime s t).cores = s.cores := rfl
@[simp] theorem atTime_cs (s : Block) (t : Nat) : (atTime s t).cs = s.cs := rfl
@[simp] theorem atTime_dm (s : Block) (t : Nat) : (atTime s t).dm = s.dm := rfl
@[simp] theorem atTime_ctxs (s : Block) (t : Nat) : (atTime s t).ctxs = s.ctxs := rfl
@[simp] theorem atTime_aside (s : Block) (t : Nat) : (atTime s t).aside = s.aside := rfl
@[simp] theorem atTime_out (s : Block) (t : Nat) : (atTime s t).out = s.out := rfl
@[simp] theorem atTime_colls (s : Block) (t : Nat) : (atTime s t).colls = s.colls := rfl
@[simp] theorem atTime_nextPost (s : Block) (t : Nat) : (atTime s t).nextPost = s.nextPost := rfl
@[simp] theorem atTime_nextCompute (s : Block) (t : Nat) : (atTime s t).nextCompute = s.nextCompute := rfl
@[simp] theorem atTime_ctls (s : Block) (t : Nat) : (atTime s t).ctls = s.ctls := rfl
@[simp] theorem atTime_nextCtl (s : Block) (t : Nat) : (atTime s t).nextCtl = s.nextCtl := rfl
@[simp] theorem atTime_ctlBurst (s : Block) (t : Nat) : (atTime s t).ctlBurst = s.ctlBurst := rfl
@[simp] theorem atTime_pageUse (s : Block) (t : Nat) : (atTime s t).pageUse = s.pageUse := rfl
@[simp] theorem atTime_rr (s : Block) (t : Nat) : (atTime s t).rr = s.rr := rfl
@[simp] theorem atTime_sel (s : Block) (t : Nat) : (atTime s t).sel = s.sel := rfl
@[simp] theorem atTime_nss (s : Block) (t : Nat) : (atTime s t).nss = s.nss := rfl
@[simp] theorem atTime_med (s : Block) (t : Nat) : (atTime s t).med = s.med := rfl
@[simp] theorem atTime_idxs (s : Block) (t : Nat) : (atTime s t).idxs = s.idxs := rfl
@[simp] theorem atTime_evts (s : Block) (t : Nat) : (atTime s t).evts = s.evts := rfl
@[simp] theorem atTime_self (s : Block) (t : Nat) : (atTime s t).self = s.self := rfl
@[simp] theorem atTime_links (s : Block) (t : Nat) : (atTime s t).links = s.links := rfl
@[simp] theorem atTime_routerIn (s : Block) (t : Nat) : (atTime s t).routerIn = s.routerIn := rfl
@[simp] theorem atTime_inbox (s : Block) (t : Nat) : (atTime s t).inbox = s.inbox := rfl
@[simp] theorem atTime_routes (s : Block) (t : Nat) : (atTime s t).routes = s.routes := rfl
@[simp] theorem atTime_txs (s : Block) (t : Nat) : (atTime s t).txs = s.txs := rfl
@[simp] theorem atTime_rxs (s : Block) (t : Nat) : (atTime s t).rxs = s.rxs := rfl
@[simp] theorem atTime_stu (s : Block) (t : Nat) : (atTime s t).stu = s.stu := rfl
@[simp] theorem atTime_low (s : Block) (t : Nat) : (atTime s t).low = s.low := rfl
@[simp] theorem atTime_lowSince (s : Block) (t : Nat) : (atTime s t).lowSince = s.lowSince := rfl
@[simp] theorem atTime_wakes (s : Block) (t : Nat) : (atTime s t).wakes = s.wakes := rfl
@[simp] theorem atTime_hostResume (s : Block) (t : Nat) : (atTime s t).hostResume = s.hostResume := rfl
@[simp] theorem atTime_resuming (s : Block) (t : Nat) : (atTime s t).resuming = s.resuming := rfl
@[simp] theorem atTime_pmeSent (s : Block) (t : Nat) : (atTime s t).pmeSent = s.pmeSent := rfl
@[simp] theorem atTime_adm (s : Block) (t : Nat) : (atTime s t).adm = s.adm := rfl
@[simp] theorem atTime_dmErr (s : Block) (t : Nat) : (atTime s t).dmErr = s.dmErr := rfl
@[simp] theorem atTime_crit (s : Block) (t : Nat) : (atTime s t).crit = s.crit := rfl
@[simp] theorem atTime_critRead (s : Block) (t : Nat) : (atTime s t).critRead = s.critRead := rfl
@[simp] theorem atTime_life (s : Block) (t : Nat) : (atTime s t).life = s.life := rfl
@[simp] theorem atTime_supply (s : Block) (t : Nat) : (atTime s t).supply = s.supply := rfl
@[simp] theorem atTime_pace (s : Block) (t : Nat) : (atTime s t).pace = s.pace := rfl
@[simp] theorem atTime_paceEnd (s : Block) (t : Nat) : (atTime s t).paceEnd = s.paceEnd := rfl
@[simp] theorem atTime_rgnLatch (s : Block) (t : Nat) : (atTime s t).rgnLatch = s.rgnLatch := rfl
@[simp] theorem atTime_dmWb (s : Block) (t : Nat) : (atTime s t).dmWb = s.dmWb := rfl
@[simp] theorem atTime_dmCount (s : Block) (t : Nat) : (atTime s t).dmCount = s.dmCount := rfl
@[simp] theorem atTime_dmWindow (s : Block) (t : Nat) : (atTime s t).dmWindow = s.dmWindow := rfl
@[simp] theorem atTime_sramErr (s : Block) (t : Nat) : (atTime s t).sramErr = s.sramErr := rfl
@[simp] theorem atTime_sramWb (s : Block) (t : Nat) : (atTime s t).sramWb = s.sramWb := rfl
@[simp] theorem atTime_scrubbed (s : Block) (t : Nat) : (atTime s t).scrubbed = s.scrubbed := rfl
@[simp] theorem atTime_suspect (s : Block) (t : Nat) : (atTime s t).suspect = s.suspect := rfl
@[simp] theorem atTime_chks (s : Block) (t : Nat) : (atTime s t).chks = s.chks := rfl
@[simp] theorem atTime_lows (s : Block) (t : Nat) : (atTime s t).lows = s.lows := rfl
@[simp] theorem atTime_hub (s : Block) (t : Nat) : (atTime s t).hub = s.hub := rfl
@[simp] theorem atTime_power (s : Block) (t : Nat) : (atTime s t).power = s.power := rfl
@[simp] theorem atTime_handovers (s : Block) (t : Nat) : (atTime s t).handovers = s.handovers := rfl
@[simp] theorem atTime_readmits (s : Block) (t : Nat) : (atTime s t).readmits = s.readmits := rfl
@[simp] theorem atTime_faultFenced (s : Block) (t : Nat) : (atTime s t).faultFenced = s.faultFenced := rfl
@[simp] theorem atTime_retired (s : Block) (t : Nat) : (atTime s t).retired = s.retired := rfl
@[simp] theorem atTime_opt (s : Block) (t : Nat) : (atTime s t).opt = s.opt := rfl
@[simp] theorem atTime_cfl (s : Block) (t : Nat) : (atTime s t).cfl = s.cfl := rfl
/-! setCore -/
@[simp] theorem setCore_now (s : Block) (c : Nat) (k : Core) : (setCore s c k).now = s.now := rfl
@[simp] theorem setCore_fresh (s : Block) (c : Nat) (k : Core) : (setCore s c k).fresh = s.fresh := rfl
@[simp] theorem setCore_pages (s : Block) (c : Nat) (k : Core) : (setCore s c k).pages = s.pages := rfl
@[simp] theorem setCore_blank (s : Block) (c : Nat) (k : Core) : (setCore s c k).blank = s.blank := rfl
@[simp] theorem setCore_cs (s : Block) (c : Nat) (k : Core) : (setCore s c k).cs = s.cs := rfl
@[simp] theorem setCore_dm (s : Block) (c : Nat) (k : Core) : (setCore s c k).dm = s.dm := rfl
@[simp] theorem setCore_ctxs (s : Block) (c : Nat) (k : Core) : (setCore s c k).ctxs = s.ctxs := rfl
@[simp] theorem setCore_aside (s : Block) (c : Nat) (k : Core) : (setCore s c k).aside = s.aside := rfl
@[simp] theorem setCore_out (s : Block) (c : Nat) (k : Core) : (setCore s c k).out = s.out := rfl
@[simp] theorem setCore_colls (s : Block) (c : Nat) (k : Core) : (setCore s c k).colls = s.colls := rfl
@[simp] theorem setCore_nextPost (s : Block) (c : Nat) (k : Core) : (setCore s c k).nextPost = s.nextPost := rfl
@[simp] theorem setCore_nextCompute (s : Block) (c : Nat) (k : Core) : (setCore s c k).nextCompute = s.nextCompute := rfl
@[simp] theorem setCore_ctls (s : Block) (c : Nat) (k : Core) : (setCore s c k).ctls = s.ctls := rfl
@[simp] theorem setCore_nextCtl (s : Block) (c : Nat) (k : Core) : (setCore s c k).nextCtl = s.nextCtl := rfl
@[simp] theorem setCore_ctlBurst (s : Block) (c : Nat) (k : Core) : (setCore s c k).ctlBurst = s.ctlBurst := rfl
@[simp] theorem setCore_pageUse (s : Block) (c : Nat) (k : Core) : (setCore s c k).pageUse = s.pageUse := rfl
@[simp] theorem setCore_rr (s : Block) (c : Nat) (k : Core) : (setCore s c k).rr = s.rr := rfl
@[simp] theorem setCore_sel (s : Block) (c : Nat) (k : Core) : (setCore s c k).sel = s.sel := rfl
@[simp] theorem setCore_nss (s : Block) (c : Nat) (k : Core) : (setCore s c k).nss = s.nss := rfl
@[simp] theorem setCore_med (s : Block) (c : Nat) (k : Core) : (setCore s c k).med = s.med := rfl
@[simp] theorem setCore_idxs (s : Block) (c : Nat) (k : Core) : (setCore s c k).idxs = s.idxs := rfl
@[simp] theorem setCore_evts (s : Block) (c : Nat) (k : Core) : (setCore s c k).evts = s.evts := rfl
@[simp] theorem setCore_self (s : Block) (c : Nat) (k : Core) : (setCore s c k).self = s.self := rfl
@[simp] theorem setCore_links (s : Block) (c : Nat) (k : Core) : (setCore s c k).links = s.links := rfl
@[simp] theorem setCore_routerIn (s : Block) (c : Nat) (k : Core) : (setCore s c k).routerIn = s.routerIn := rfl
@[simp] theorem setCore_inbox (s : Block) (c : Nat) (k : Core) : (setCore s c k).inbox = s.inbox := rfl
@[simp] theorem setCore_routes (s : Block) (c : Nat) (k : Core) : (setCore s c k).routes = s.routes := rfl
@[simp] theorem setCore_txs (s : Block) (c : Nat) (k : Core) : (setCore s c k).txs = s.txs := rfl
@[simp] theorem setCore_rxs (s : Block) (c : Nat) (k : Core) : (setCore s c k).rxs = s.rxs := rfl
@[simp] theorem setCore_stu (s : Block) (c : Nat) (k : Core) : (setCore s c k).stu = s.stu := rfl
@[simp] theorem setCore_low (s : Block) (c : Nat) (k : Core) : (setCore s c k).low = s.low := rfl
@[simp] theorem setCore_lowSince (s : Block) (c : Nat) (k : Core) : (setCore s c k).lowSince = s.lowSince := rfl
@[simp] theorem setCore_wakes (s : Block) (c : Nat) (k : Core) : (setCore s c k).wakes = s.wakes := rfl
@[simp] theorem setCore_hostResume (s : Block) (c : Nat) (k : Core) : (setCore s c k).hostResume = s.hostResume := rfl
@[simp] theorem setCore_resuming (s : Block) (c : Nat) (k : Core) : (setCore s c k).resuming = s.resuming := rfl
@[simp] theorem setCore_pmeSent (s : Block) (c : Nat) (k : Core) : (setCore s c k).pmeSent = s.pmeSent := rfl
@[simp] theorem setCore_adm (s : Block) (c : Nat) (k : Core) : (setCore s c k).adm = s.adm := rfl
@[simp] theorem setCore_dmErr (s : Block) (c : Nat) (k : Core) : (setCore s c k).dmErr = s.dmErr := rfl
@[simp] theorem setCore_crit (s : Block) (c : Nat) (k : Core) : (setCore s c k).crit = s.crit := rfl
@[simp] theorem setCore_critRead (s : Block) (c : Nat) (k : Core) : (setCore s c k).critRead = s.critRead := rfl
@[simp] theorem setCore_life (s : Block) (c : Nat) (k : Core) : (setCore s c k).life = s.life := rfl
@[simp] theorem setCore_supply (s : Block) (c : Nat) (k : Core) : (setCore s c k).supply = s.supply := rfl
@[simp] theorem setCore_pace (s : Block) (c : Nat) (k : Core) : (setCore s c k).pace = s.pace := rfl
@[simp] theorem setCore_paceEnd (s : Block) (c : Nat) (k : Core) : (setCore s c k).paceEnd = s.paceEnd := rfl
@[simp] theorem setCore_rgnLatch (s : Block) (c : Nat) (k : Core) : (setCore s c k).rgnLatch = s.rgnLatch := rfl
@[simp] theorem setCore_dmWb (s : Block) (c : Nat) (k : Core) : (setCore s c k).dmWb = s.dmWb := rfl
@[simp] theorem setCore_dmCount (s : Block) (c : Nat) (k : Core) : (setCore s c k).dmCount = s.dmCount := rfl
@[simp] theorem setCore_dmWindow (s : Block) (c : Nat) (k : Core) : (setCore s c k).dmWindow = s.dmWindow := rfl
@[simp] theorem setCore_sramErr (s : Block) (c : Nat) (k : Core) : (setCore s c k).sramErr = s.sramErr := rfl
@[simp] theorem setCore_sramWb (s : Block) (c : Nat) (k : Core) : (setCore s c k).sramWb = s.sramWb := rfl
@[simp] theorem setCore_scrubbed (s : Block) (c : Nat) (k : Core) : (setCore s c k).scrubbed = s.scrubbed := rfl
@[simp] theorem setCore_suspect (s : Block) (c : Nat) (k : Core) : (setCore s c k).suspect = s.suspect := rfl
@[simp] theorem setCore_chks (s : Block) (c : Nat) (k : Core) : (setCore s c k).chks = s.chks := rfl
@[simp] theorem setCore_lows (s : Block) (c : Nat) (k : Core) : (setCore s c k).lows = s.lows := rfl
@[simp] theorem setCore_hub (s : Block) (c : Nat) (k : Core) : (setCore s c k).hub = s.hub := rfl
@[simp] theorem setCore_power (s : Block) (c : Nat) (k : Core) : (setCore s c k).power = s.power := rfl
@[simp] theorem setCore_handovers (s : Block) (c : Nat) (k : Core) : (setCore s c k).handovers = s.handovers := rfl
@[simp] theorem setCore_readmits (s : Block) (c : Nat) (k : Core) : (setCore s c k).readmits = s.readmits := rfl
@[simp] theorem setCore_faultFenced (s : Block) (c : Nat) (k : Core) : (setCore s c k).faultFenced = s.faultFenced := rfl
@[simp] theorem setCore_retired (s : Block) (c : Nat) (k : Core) : (setCore s c k).retired = s.retired := rfl
@[simp] theorem setCore_opt (s : Block) (c : Nat) (k : Core) : (setCore s c k).opt = s.opt := rfl
@[simp] theorem setCore_cfl (s : Block) (c : Nat) (k : Core) : (setCore s c k).cfl = s.cfl := rfl
/-! updCore -/
@[simp] theorem updCore_now (s : Block) (c : Nat) (f : Core → Core) : (updCore s c f).now = s.now := rfl
@[simp] theorem updCore_fresh (s : Block) (c : Nat) (f : Core → Core) : (updCore s c f).fresh = s.fresh := rfl
@[simp] theorem updCore_pages (s : Block) (c : Nat) (f : Core → Core) : (updCore s c f).pages = s.pages := rfl
@[simp] theorem updCore_blank (s : Block) (c : Nat) (f : Core → Core) : (updCore s c f).blank = s.blank := rfl
@[simp] theorem updCore_cs (s : Block) (c : Nat) (f : Core → Core) : (updCore s c f).cs = s.cs := rfl
@[simp] theorem updCore_dm (s : Block) (c : Nat) (f : Core → Core) : (updCore s c f).dm = s.dm := rfl
@[simp] theorem updCore_ctxs (s : Block) (c : Nat) (f : Core → Core) : (updCore s c f).ctxs = s.ctxs := rfl
@[simp] theorem updCore_aside (s : Block) (c : Nat) (f : Core → Core) : (updCore s c f).aside = s.aside := rfl
@[simp] theorem updCore_out (s : Block) (c : Nat) (f : Core → Core) : (updCore s c f).out = s.out := rfl
@[simp] theorem updCore_colls (s : Block) (c : Nat) (f : Core → Core) : (updCore s c f).colls = s.colls := rfl
@[simp] theorem updCore_nextPost (s : Block) (c : Nat) (f : Core → Core) : (updCore s c f).nextPost = s.nextPost := rfl
@[simp] theorem updCore_nextCompute (s : Block) (c : Nat) (f : Core → Core) : (updCore s c f).nextCompute = s.nextCompute := rfl
@[simp] theorem updCore_ctls (s : Block) (c : Nat) (f : Core → Core) : (updCore s c f).ctls = s.ctls := rfl
@[simp] theorem updCore_nextCtl (s : Block) (c : Nat) (f : Core → Core) : (updCore s c f).nextCtl = s.nextCtl := rfl
@[simp] theorem updCore_ctlBurst (s : Block) (c : Nat) (f : Core → Core) : (updCore s c f).ctlBurst = s.ctlBurst := rfl
@[simp] theorem updCore_pageUse (s : Block) (c : Nat) (f : Core → Core) : (updCore s c f).pageUse = s.pageUse := rfl
@[simp] theorem updCore_rr (s : Block) (c : Nat) (f : Core → Core) : (updCore s c f).rr = s.rr := rfl
@[simp] theorem updCore_sel (s : Block) (c : Nat) (f : Core → Core) : (updCore s c f).sel = s.sel := rfl
@[simp] theorem updCore_nss (s : Block) (c : Nat) (f : Core → Core) : (updCore s c f).nss = s.nss := rfl
@[simp] theorem updCore_med (s : Block) (c : Nat) (f : Core → Core) : (updCore s c f).med = s.med := rfl
@[simp] theorem updCore_idxs (s : Block) (c : Nat) (f : Core → Core) : (updCore s c f).idxs = s.idxs := rfl
@[simp] theorem updCore_evts (s : Block) (c : Nat) (f : Core → Core) : (updCore s c f).evts = s.evts := rfl
@[simp] theorem updCore_self (s : Block) (c : Nat) (f : Core → Core) : (updCore s c f).self = s.self := rfl
@[simp] theorem updCore_links (s : Block) (c : Nat) (f : Core → Core) : (updCore s c f).links = s.links := rfl
@[simp] theorem updCore_routerIn (s : Block) (c : Nat) (f : Core → Core) : (updCore s c f).routerIn = s.routerIn := rfl
@[simp] theorem updCore_inbox (s : Block) (c : Nat) (f : Core → Core) : (updCore s c f).inbox = s.inbox := rfl
@[simp] theorem updCore_routes (s : Block) (c : Nat) (f : Core → Core) : (updCore s c f).routes = s.routes := rfl
@[simp] theorem updCore_txs (s : Block) (c : Nat) (f : Core → Core) : (updCore s c f).txs = s.txs := rfl
@[simp] theorem updCore_rxs (s : Block) (c : Nat) (f : Core → Core) : (updCore s c f).rxs = s.rxs := rfl
@[simp] theorem updCore_stu (s : Block) (c : Nat) (f : Core → Core) : (updCore s c f).stu = s.stu := rfl
@[simp] theorem updCore_low (s : Block) (c : Nat) (f : Core → Core) : (updCore s c f).low = s.low := rfl
@[simp] theorem updCore_lowSince (s : Block) (c : Nat) (f : Core → Core) : (updCore s c f).lowSince = s.lowSince := rfl
@[simp] theorem updCore_wakes (s : Block) (c : Nat) (f : Core → Core) : (updCore s c f).wakes = s.wakes := rfl
@[simp] theorem updCore_hostResume (s : Block) (c : Nat) (f : Core → Core) : (updCore s c f).hostResume = s.hostResume := rfl
@[simp] theorem updCore_resuming (s : Block) (c : Nat) (f : Core → Core) : (updCore s c f).resuming = s.resuming := rfl
@[simp] theorem updCore_pmeSent (s : Block) (c : Nat) (f : Core → Core) : (updCore s c f).pmeSent = s.pmeSent := rfl
@[simp] theorem updCore_adm (s : Block) (c : Nat) (f : Core → Core) : (updCore s c f).adm = s.adm := rfl
@[simp] theorem updCore_dmErr (s : Block) (c : Nat) (f : Core → Core) : (updCore s c f).dmErr = s.dmErr := rfl
@[simp] theorem updCore_crit (s : Block) (c : Nat) (f : Core → Core) : (updCore s c f).crit = s.crit := rfl
@[simp] theorem updCore_critRead (s : Block) (c : Nat) (f : Core → Core) : (updCore s c f).critRead = s.critRead := rfl
@[simp] theorem updCore_life (s : Block) (c : Nat) (f : Core → Core) : (updCore s c f).life = s.life := rfl
@[simp] theorem updCore_supply (s : Block) (c : Nat) (f : Core → Core) : (updCore s c f).supply = s.supply := rfl
@[simp] theorem updCore_pace (s : Block) (c : Nat) (f : Core → Core) : (updCore s c f).pace = s.pace := rfl
@[simp] theorem updCore_paceEnd (s : Block) (c : Nat) (f : Core → Core) : (updCore s c f).paceEnd = s.paceEnd := rfl
@[simp] theorem updCore_rgnLatch (s : Block) (c : Nat) (f : Core → Core) : (updCore s c f).rgnLatch = s.rgnLatch := rfl
@[simp] theorem updCore_dmWb (s : Block) (c : Nat) (f : Core → Core) : (updCore s c f).dmWb = s.dmWb := rfl
@[simp] theorem updCore_dmCount (s : Block) (c : Nat) (f : Core → Core) : (updCore s c f).dmCount = s.dmCount := rfl
@[simp] theorem updCore_dmWindow (s : Block) (c : Nat) (f : Core → Core) : (updCore s c f).dmWindow = s.dmWindow := rfl
@[simp] theorem updCore_sramErr (s : Block) (c : Nat) (f : Core → Core) : (updCore s c f).sramErr = s.sramErr := rfl
@[simp] theorem updCore_sramWb (s : Block) (c : Nat) (f : Core → Core) : (updCore s c f).sramWb = s.sramWb := rfl
@[simp] theorem updCore_scrubbed (s : Block) (c : Nat) (f : Core → Core) : (updCore s c f).scrubbed = s.scrubbed := rfl
@[simp] theorem updCore_suspect (s : Block) (c : Nat) (f : Core → Core) : (updCore s c f).suspect = s.suspect := rfl
@[simp] theorem updCore_chks (s : Block) (c : Nat) (f : Core → Core) : (updCore s c f).chks = s.chks := rfl
@[simp] theorem updCore_lows (s : Block) (c : Nat) (f : Core → Core) : (updCore s c f).lows = s.lows := rfl
@[simp] theorem updCore_hub (s : Block) (c : Nat) (f : Core → Core) : (updCore s c f).hub = s.hub := rfl
@[simp] theorem updCore_power (s : Block) (c : Nat) (f : Core → Core) : (updCore s c f).power = s.power := rfl
@[simp] theorem updCore_handovers (s : Block) (c : Nat) (f : Core → Core) : (updCore s c f).handovers = s.handovers := rfl
@[simp] theorem updCore_readmits (s : Block) (c : Nat) (f : Core → Core) : (updCore s c f).readmits = s.readmits := rfl
@[simp] theorem updCore_faultFenced (s : Block) (c : Nat) (f : Core → Core) : (updCore s c f).faultFenced = s.faultFenced := rfl
@[simp] theorem updCore_retired (s : Block) (c : Nat) (f : Core → Core) : (updCore s c f).retired = s.retired := rfl
@[simp] theorem updCore_opt (s : Block) (c : Nat) (f : Core → Core) : (updCore s c f).opt = s.opt := rfl
@[simp] theorem updCore_cfl (s : Block) (c : Nat) (f : Core → Core) : (updCore s c f).cfl = s.cfl := rfl
/-! setCtx -/
@[simp] theorem setCtx_now (s : Block) (x : Nat) (k : Ctx) : (setCtx s x k).now = s.now := rfl
@[simp] theorem setCtx_fresh (s : Block) (x : Nat) (k : Ctx) : (setCtx s x k).fresh = s.fresh := rfl
@[simp] theorem setCtx_pages (s : Block) (x : Nat) (k : Ctx) : (setCtx s x k).pages = s.pages := rfl
@[simp] theorem setCtx_blank (s : Block) (x : Nat) (k : Ctx) : (setCtx s x k).blank = s.blank := rfl
@[simp] theorem setCtx_cores (s : Block) (x : Nat) (k : Ctx) : (setCtx s x k).cores = s.cores := rfl
@[simp] theorem setCtx_cs (s : Block) (x : Nat) (k : Ctx) : (setCtx s x k).cs = s.cs := rfl
@[simp] theorem setCtx_dm (s : Block) (x : Nat) (k : Ctx) : (setCtx s x k).dm = s.dm := rfl
@[simp] theorem setCtx_aside (s : Block) (x : Nat) (k : Ctx) : (setCtx s x k).aside = s.aside := rfl
@[simp] theorem setCtx_out (s : Block) (x : Nat) (k : Ctx) : (setCtx s x k).out = s.out := rfl
@[simp] theorem setCtx_colls (s : Block) (x : Nat) (k : Ctx) : (setCtx s x k).colls = s.colls := rfl
@[simp] theorem setCtx_nextPost (s : Block) (x : Nat) (k : Ctx) : (setCtx s x k).nextPost = s.nextPost := rfl
@[simp] theorem setCtx_nextCompute (s : Block) (x : Nat) (k : Ctx) : (setCtx s x k).nextCompute = s.nextCompute := rfl
@[simp] theorem setCtx_ctls (s : Block) (x : Nat) (k : Ctx) : (setCtx s x k).ctls = s.ctls := rfl
@[simp] theorem setCtx_nextCtl (s : Block) (x : Nat) (k : Ctx) : (setCtx s x k).nextCtl = s.nextCtl := rfl
@[simp] theorem setCtx_ctlBurst (s : Block) (x : Nat) (k : Ctx) : (setCtx s x k).ctlBurst = s.ctlBurst := rfl
@[simp] theorem setCtx_pageUse (s : Block) (x : Nat) (k : Ctx) : (setCtx s x k).pageUse = s.pageUse := rfl
@[simp] theorem setCtx_rr (s : Block) (x : Nat) (k : Ctx) : (setCtx s x k).rr = s.rr := rfl
@[simp] theorem setCtx_sel (s : Block) (x : Nat) (k : Ctx) : (setCtx s x k).sel = s.sel := rfl
@[simp] theorem setCtx_nss (s : Block) (x : Nat) (k : Ctx) : (setCtx s x k).nss = s.nss := rfl
@[simp] theorem setCtx_med (s : Block) (x : Nat) (k : Ctx) : (setCtx s x k).med = s.med := rfl
@[simp] theorem setCtx_idxs (s : Block) (x : Nat) (k : Ctx) : (setCtx s x k).idxs = s.idxs := rfl
@[simp] theorem setCtx_evts (s : Block) (x : Nat) (k : Ctx) : (setCtx s x k).evts = s.evts := rfl
@[simp] theorem setCtx_self (s : Block) (x : Nat) (k : Ctx) : (setCtx s x k).self = s.self := rfl
@[simp] theorem setCtx_links (s : Block) (x : Nat) (k : Ctx) : (setCtx s x k).links = s.links := rfl
@[simp] theorem setCtx_routerIn (s : Block) (x : Nat) (k : Ctx) : (setCtx s x k).routerIn = s.routerIn := rfl
@[simp] theorem setCtx_inbox (s : Block) (x : Nat) (k : Ctx) : (setCtx s x k).inbox = s.inbox := rfl
@[simp] theorem setCtx_routes (s : Block) (x : Nat) (k : Ctx) : (setCtx s x k).routes = s.routes := rfl
@[simp] theorem setCtx_txs (s : Block) (x : Nat) (k : Ctx) : (setCtx s x k).txs = s.txs := rfl
@[simp] theorem setCtx_rxs (s : Block) (x : Nat) (k : Ctx) : (setCtx s x k).rxs = s.rxs := rfl
@[simp] theorem setCtx_stu (s : Block) (x : Nat) (k : Ctx) : (setCtx s x k).stu = s.stu := rfl
@[simp] theorem setCtx_low (s : Block) (x : Nat) (k : Ctx) : (setCtx s x k).low = s.low := rfl
@[simp] theorem setCtx_lowSince (s : Block) (x : Nat) (k : Ctx) : (setCtx s x k).lowSince = s.lowSince := rfl
@[simp] theorem setCtx_wakes (s : Block) (x : Nat) (k : Ctx) : (setCtx s x k).wakes = s.wakes := rfl
@[simp] theorem setCtx_hostResume (s : Block) (x : Nat) (k : Ctx) : (setCtx s x k).hostResume = s.hostResume := rfl
@[simp] theorem setCtx_resuming (s : Block) (x : Nat) (k : Ctx) : (setCtx s x k).resuming = s.resuming := rfl
@[simp] theorem setCtx_pmeSent (s : Block) (x : Nat) (k : Ctx) : (setCtx s x k).pmeSent = s.pmeSent := rfl
@[simp] theorem setCtx_adm (s : Block) (x : Nat) (k : Ctx) : (setCtx s x k).adm = s.adm := rfl
@[simp] theorem setCtx_dmErr (s : Block) (x : Nat) (k : Ctx) : (setCtx s x k).dmErr = s.dmErr := rfl
@[simp] theorem setCtx_crit (s : Block) (x : Nat) (k : Ctx) : (setCtx s x k).crit = s.crit := rfl
@[simp] theorem setCtx_critRead (s : Block) (x : Nat) (k : Ctx) : (setCtx s x k).critRead = s.critRead := rfl
@[simp] theorem setCtx_life (s : Block) (x : Nat) (k : Ctx) : (setCtx s x k).life = s.life := rfl
@[simp] theorem setCtx_supply (s : Block) (x : Nat) (k : Ctx) : (setCtx s x k).supply = s.supply := rfl
@[simp] theorem setCtx_pace (s : Block) (x : Nat) (k : Ctx) : (setCtx s x k).pace = s.pace := rfl
@[simp] theorem setCtx_paceEnd (s : Block) (x : Nat) (k : Ctx) : (setCtx s x k).paceEnd = s.paceEnd := rfl
@[simp] theorem setCtx_rgnLatch (s : Block) (x : Nat) (k : Ctx) : (setCtx s x k).rgnLatch = s.rgnLatch := rfl
@[simp] theorem setCtx_dmWb (s : Block) (x : Nat) (k : Ctx) : (setCtx s x k).dmWb = s.dmWb := rfl
@[simp] theorem setCtx_dmCount (s : Block) (x : Nat) (k : Ctx) : (setCtx s x k).dmCount = s.dmCount := rfl
@[simp] theorem setCtx_dmWindow (s : Block) (x : Nat) (k : Ctx) : (setCtx s x k).dmWindow = s.dmWindow := rfl
@[simp] theorem setCtx_sramErr (s : Block) (x : Nat) (k : Ctx) : (setCtx s x k).sramErr = s.sramErr := rfl
@[simp] theorem setCtx_sramWb (s : Block) (x : Nat) (k : Ctx) : (setCtx s x k).sramWb = s.sramWb := rfl
@[simp] theorem setCtx_scrubbed (s : Block) (x : Nat) (k : Ctx) : (setCtx s x k).scrubbed = s.scrubbed := rfl
@[simp] theorem setCtx_suspect (s : Block) (x : Nat) (k : Ctx) : (setCtx s x k).suspect = s.suspect := rfl
@[simp] theorem setCtx_chks (s : Block) (x : Nat) (k : Ctx) : (setCtx s x k).chks = s.chks := rfl
@[simp] theorem setCtx_lows (s : Block) (x : Nat) (k : Ctx) : (setCtx s x k).lows = s.lows := rfl
@[simp] theorem setCtx_hub (s : Block) (x : Nat) (k : Ctx) : (setCtx s x k).hub = s.hub := rfl
@[simp] theorem setCtx_power (s : Block) (x : Nat) (k : Ctx) : (setCtx s x k).power = s.power := rfl
@[simp] theorem setCtx_handovers (s : Block) (x : Nat) (k : Ctx) : (setCtx s x k).handovers = s.handovers := rfl
@[simp] theorem setCtx_readmits (s : Block) (x : Nat) (k : Ctx) : (setCtx s x k).readmits = s.readmits := rfl
@[simp] theorem setCtx_faultFenced (s : Block) (x : Nat) (k : Ctx) : (setCtx s x k).faultFenced = s.faultFenced := rfl
@[simp] theorem setCtx_retired (s : Block) (x : Nat) (k : Ctx) : (setCtx s x k).retired = s.retired := rfl
@[simp] theorem setCtx_opt (s : Block) (x : Nat) (k : Ctx) : (setCtx s x k).opt = s.opt := rfl
@[simp] theorem setCtx_cfl (s : Block) (x : Nat) (k : Ctx) : (setCtx s x k).cfl = s.cfl := rfl
/-! updCtx -/
@[simp] theorem updCtx_now (s : Block) (x : Nat) (f : Ctx → Ctx) : (updCtx s x f).now = s.now := rfl
@[simp] theorem updCtx_fresh (s : Block) (x : Nat) (f : Ctx → Ctx) : (updCtx s x f).fresh = s.fresh := rfl
@[simp] theorem updCtx_pages (s : Block) (x : Nat) (f : Ctx → Ctx) : (updCtx s x f).pages = s.pages := rfl
@[simp] theorem updCtx_blank (s : Block) (x : Nat) (f : Ctx → Ctx) : (updCtx s x f).blank = s.blank := rfl
@[simp] theorem updCtx_cores (s : Block) (x : Nat) (f : Ctx → Ctx) : (updCtx s x f).cores = s.cores := rfl
@[simp] theorem updCtx_cs (s : Block) (x : Nat) (f : Ctx → Ctx) : (updCtx s x f).cs = s.cs := rfl
@[simp] theorem updCtx_dm (s : Block) (x : Nat) (f : Ctx → Ctx) : (updCtx s x f).dm = s.dm := rfl
@[simp] theorem updCtx_aside (s : Block) (x : Nat) (f : Ctx → Ctx) : (updCtx s x f).aside = s.aside := rfl
@[simp] theorem updCtx_out (s : Block) (x : Nat) (f : Ctx → Ctx) : (updCtx s x f).out = s.out := rfl
@[simp] theorem updCtx_colls (s : Block) (x : Nat) (f : Ctx → Ctx) : (updCtx s x f).colls = s.colls := rfl
@[simp] theorem updCtx_nextPost (s : Block) (x : Nat) (f : Ctx → Ctx) : (updCtx s x f).nextPost = s.nextPost := rfl
@[simp] theorem updCtx_nextCompute (s : Block) (x : Nat) (f : Ctx → Ctx) : (updCtx s x f).nextCompute = s.nextCompute := rfl
@[simp] theorem updCtx_ctls (s : Block) (x : Nat) (f : Ctx → Ctx) : (updCtx s x f).ctls = s.ctls := rfl
@[simp] theorem updCtx_nextCtl (s : Block) (x : Nat) (f : Ctx → Ctx) : (updCtx s x f).nextCtl = s.nextCtl := rfl
@[simp] theorem updCtx_ctlBurst (s : Block) (x : Nat) (f : Ctx → Ctx) : (updCtx s x f).ctlBurst = s.ctlBurst := rfl
@[simp] theorem updCtx_pageUse (s : Block) (x : Nat) (f : Ctx → Ctx) : (updCtx s x f).pageUse = s.pageUse := rfl
@[simp] theorem updCtx_rr (s : Block) (x : Nat) (f : Ctx → Ctx) : (updCtx s x f).rr = s.rr := rfl
@[simp] theorem updCtx_sel (s : Block) (x : Nat) (f : Ctx → Ctx) : (updCtx s x f).sel = s.sel := rfl
@[simp] theorem updCtx_nss (s : Block) (x : Nat) (f : Ctx → Ctx) : (updCtx s x f).nss = s.nss := rfl
@[simp] theorem updCtx_med (s : Block) (x : Nat) (f : Ctx → Ctx) : (updCtx s x f).med = s.med := rfl
@[simp] theorem updCtx_idxs (s : Block) (x : Nat) (f : Ctx → Ctx) : (updCtx s x f).idxs = s.idxs := rfl
@[simp] theorem updCtx_evts (s : Block) (x : Nat) (f : Ctx → Ctx) : (updCtx s x f).evts = s.evts := rfl
@[simp] theorem updCtx_self (s : Block) (x : Nat) (f : Ctx → Ctx) : (updCtx s x f).self = s.self := rfl
@[simp] theorem updCtx_links (s : Block) (x : Nat) (f : Ctx → Ctx) : (updCtx s x f).links = s.links := rfl
@[simp] theorem updCtx_routerIn (s : Block) (x : Nat) (f : Ctx → Ctx) : (updCtx s x f).routerIn = s.routerIn := rfl
@[simp] theorem updCtx_inbox (s : Block) (x : Nat) (f : Ctx → Ctx) : (updCtx s x f).inbox = s.inbox := rfl
@[simp] theorem updCtx_routes (s : Block) (x : Nat) (f : Ctx → Ctx) : (updCtx s x f).routes = s.routes := rfl
@[simp] theorem updCtx_txs (s : Block) (x : Nat) (f : Ctx → Ctx) : (updCtx s x f).txs = s.txs := rfl
@[simp] theorem updCtx_rxs (s : Block) (x : Nat) (f : Ctx → Ctx) : (updCtx s x f).rxs = s.rxs := rfl
@[simp] theorem updCtx_stu (s : Block) (x : Nat) (f : Ctx → Ctx) : (updCtx s x f).stu = s.stu := rfl
@[simp] theorem updCtx_low (s : Block) (x : Nat) (f : Ctx → Ctx) : (updCtx s x f).low = s.low := rfl
@[simp] theorem updCtx_lowSince (s : Block) (x : Nat) (f : Ctx → Ctx) : (updCtx s x f).lowSince = s.lowSince := rfl
@[simp] theorem updCtx_wakes (s : Block) (x : Nat) (f : Ctx → Ctx) : (updCtx s x f).wakes = s.wakes := rfl
@[simp] theorem updCtx_hostResume (s : Block) (x : Nat) (f : Ctx → Ctx) : (updCtx s x f).hostResume = s.hostResume := rfl
@[simp] theorem updCtx_resuming (s : Block) (x : Nat) (f : Ctx → Ctx) : (updCtx s x f).resuming = s.resuming := rfl
@[simp] theorem updCtx_pmeSent (s : Block) (x : Nat) (f : Ctx → Ctx) : (updCtx s x f).pmeSent = s.pmeSent := rfl
@[simp] theorem updCtx_adm (s : Block) (x : Nat) (f : Ctx → Ctx) : (updCtx s x f).adm = s.adm := rfl
@[simp] theorem updCtx_dmErr (s : Block) (x : Nat) (f : Ctx → Ctx) : (updCtx s x f).dmErr = s.dmErr := rfl
@[simp] theorem updCtx_crit (s : Block) (x : Nat) (f : Ctx → Ctx) : (updCtx s x f).crit = s.crit := rfl
@[simp] theorem updCtx_critRead (s : Block) (x : Nat) (f : Ctx → Ctx) : (updCtx s x f).critRead = s.critRead := rfl
@[simp] theorem updCtx_life (s : Block) (x : Nat) (f : Ctx → Ctx) : (updCtx s x f).life = s.life := rfl
@[simp] theorem updCtx_supply (s : Block) (x : Nat) (f : Ctx → Ctx) : (updCtx s x f).supply = s.supply := rfl
@[simp] theorem updCtx_pace (s : Block) (x : Nat) (f : Ctx → Ctx) : (updCtx s x f).pace = s.pace := rfl
@[simp] theorem updCtx_paceEnd (s : Block) (x : Nat) (f : Ctx → Ctx) : (updCtx s x f).paceEnd = s.paceEnd := rfl
@[simp] theorem updCtx_rgnLatch (s : Block) (x : Nat) (f : Ctx → Ctx) : (updCtx s x f).rgnLatch = s.rgnLatch := rfl
@[simp] theorem updCtx_dmWb (s : Block) (x : Nat) (f : Ctx → Ctx) : (updCtx s x f).dmWb = s.dmWb := rfl
@[simp] theorem updCtx_dmCount (s : Block) (x : Nat) (f : Ctx → Ctx) : (updCtx s x f).dmCount = s.dmCount := rfl
@[simp] theorem updCtx_dmWindow (s : Block) (x : Nat) (f : Ctx → Ctx) : (updCtx s x f).dmWindow = s.dmWindow := rfl
@[simp] theorem updCtx_sramErr (s : Block) (x : Nat) (f : Ctx → Ctx) : (updCtx s x f).sramErr = s.sramErr := rfl
@[simp] theorem updCtx_sramWb (s : Block) (x : Nat) (f : Ctx → Ctx) : (updCtx s x f).sramWb = s.sramWb := rfl
@[simp] theorem updCtx_scrubbed (s : Block) (x : Nat) (f : Ctx → Ctx) : (updCtx s x f).scrubbed = s.scrubbed := rfl
@[simp] theorem updCtx_suspect (s : Block) (x : Nat) (f : Ctx → Ctx) : (updCtx s x f).suspect = s.suspect := rfl
@[simp] theorem updCtx_chks (s : Block) (x : Nat) (f : Ctx → Ctx) : (updCtx s x f).chks = s.chks := rfl
@[simp] theorem updCtx_lows (s : Block) (x : Nat) (f : Ctx → Ctx) : (updCtx s x f).lows = s.lows := rfl
@[simp] theorem updCtx_hub (s : Block) (x : Nat) (f : Ctx → Ctx) : (updCtx s x f).hub = s.hub := rfl
@[simp] theorem updCtx_power (s : Block) (x : Nat) (f : Ctx → Ctx) : (updCtx s x f).power = s.power := rfl
@[simp] theorem updCtx_handovers (s : Block) (x : Nat) (f : Ctx → Ctx) : (updCtx s x f).handovers = s.handovers := rfl
@[simp] theorem updCtx_readmits (s : Block) (x : Nat) (f : Ctx → Ctx) : (updCtx s x f).readmits = s.readmits := rfl
@[simp] theorem updCtx_faultFenced (s : Block) (x : Nat) (f : Ctx → Ctx) : (updCtx s x f).faultFenced = s.faultFenced := rfl
@[simp] theorem updCtx_retired (s : Block) (x : Nat) (f : Ctx → Ctx) : (updCtx s x f).retired = s.retired := rfl
@[simp] theorem updCtx_opt (s : Block) (x : Nat) (f : Ctx → Ctx) : (updCtx s x f).opt = s.opt := rfl
@[simp] theorem updCtx_cfl (s : Block) (x : Nat) (f : Ctx → Ctx) : (updCtx s x f).cfl = s.cfl := rfl
/-! setLs -/
@[simp] theorem setLs_now (s : Block) (c a : Nat) (b : Byte) : (setLs s c a b).now = s.now := rfl
@[simp] theorem setLs_fresh (s : Block) (c a : Nat) (b : Byte) : (setLs s c a b).fresh = s.fresh := rfl
@[simp] theorem setLs_pages (s : Block) (c a : Nat) (b : Byte) : (setLs s c a b).pages = s.pages := rfl
@[simp] theorem setLs_blank (s : Block) (c a : Nat) (b : Byte) : (setLs s c a b).blank = s.blank := rfl
@[simp] theorem setLs_cs (s : Block) (c a : Nat) (b : Byte) : (setLs s c a b).cs = s.cs := rfl
@[simp] theorem setLs_dm (s : Block) (c a : Nat) (b : Byte) : (setLs s c a b).dm = s.dm := rfl
@[simp] theorem setLs_ctxs (s : Block) (c a : Nat) (b : Byte) : (setLs s c a b).ctxs = s.ctxs := rfl
@[simp] theorem setLs_aside (s : Block) (c a : Nat) (b : Byte) : (setLs s c a b).aside = s.aside := rfl
@[simp] theorem setLs_out (s : Block) (c a : Nat) (b : Byte) : (setLs s c a b).out = s.out := rfl
@[simp] theorem setLs_colls (s : Block) (c a : Nat) (b : Byte) : (setLs s c a b).colls = s.colls := rfl
@[simp] theorem setLs_nextPost (s : Block) (c a : Nat) (b : Byte) : (setLs s c a b).nextPost = s.nextPost := rfl
@[simp] theorem setLs_nextCompute (s : Block) (c a : Nat) (b : Byte) : (setLs s c a b).nextCompute = s.nextCompute := rfl
@[simp] theorem setLs_ctls (s : Block) (c a : Nat) (b : Byte) : (setLs s c a b).ctls = s.ctls := rfl
@[simp] theorem setLs_nextCtl (s : Block) (c a : Nat) (b : Byte) : (setLs s c a b).nextCtl = s.nextCtl := rfl
@[simp] theorem setLs_ctlBurst (s : Block) (c a : Nat) (b : Byte) : (setLs s c a b).ctlBurst = s.ctlBurst := rfl
@[simp] theorem setLs_pageUse (s : Block) (c a : Nat) (b : Byte) : (setLs s c a b).pageUse = s.pageUse := rfl
@[simp] theorem setLs_rr (s : Block) (c a : Nat) (b : Byte) : (setLs s c a b).rr = s.rr := rfl
@[simp] theorem setLs_sel (s : Block) (c a : Nat) (b : Byte) : (setLs s c a b).sel = s.sel := rfl
@[simp] theorem setLs_nss (s : Block) (c a : Nat) (b : Byte) : (setLs s c a b).nss = s.nss := rfl
@[simp] theorem setLs_med (s : Block) (c a : Nat) (b : Byte) : (setLs s c a b).med = s.med := rfl
@[simp] theorem setLs_idxs (s : Block) (c a : Nat) (b : Byte) : (setLs s c a b).idxs = s.idxs := rfl
@[simp] theorem setLs_evts (s : Block) (c a : Nat) (b : Byte) : (setLs s c a b).evts = s.evts := rfl
@[simp] theorem setLs_self (s : Block) (c a : Nat) (b : Byte) : (setLs s c a b).self = s.self := rfl
@[simp] theorem setLs_links (s : Block) (c a : Nat) (b : Byte) : (setLs s c a b).links = s.links := rfl
@[simp] theorem setLs_routerIn (s : Block) (c a : Nat) (b : Byte) : (setLs s c a b).routerIn = s.routerIn := rfl
@[simp] theorem setLs_inbox (s : Block) (c a : Nat) (b : Byte) : (setLs s c a b).inbox = s.inbox := rfl
@[simp] theorem setLs_routes (s : Block) (c a : Nat) (b : Byte) : (setLs s c a b).routes = s.routes := rfl
@[simp] theorem setLs_txs (s : Block) (c a : Nat) (b : Byte) : (setLs s c a b).txs = s.txs := rfl
@[simp] theorem setLs_rxs (s : Block) (c a : Nat) (b : Byte) : (setLs s c a b).rxs = s.rxs := rfl
@[simp] theorem setLs_stu (s : Block) (c a : Nat) (b : Byte) : (setLs s c a b).stu = s.stu := rfl
@[simp] theorem setLs_low (s : Block) (c a : Nat) (b : Byte) : (setLs s c a b).low = s.low := rfl
@[simp] theorem setLs_lowSince (s : Block) (c a : Nat) (b : Byte) : (setLs s c a b).lowSince = s.lowSince := rfl
@[simp] theorem setLs_wakes (s : Block) (c a : Nat) (b : Byte) : (setLs s c a b).wakes = s.wakes := rfl
@[simp] theorem setLs_hostResume (s : Block) (c a : Nat) (b : Byte) : (setLs s c a b).hostResume = s.hostResume := rfl
@[simp] theorem setLs_resuming (s : Block) (c a : Nat) (b : Byte) : (setLs s c a b).resuming = s.resuming := rfl
@[simp] theorem setLs_pmeSent (s : Block) (c a : Nat) (b : Byte) : (setLs s c a b).pmeSent = s.pmeSent := rfl
@[simp] theorem setLs_adm (s : Block) (c a : Nat) (b : Byte) : (setLs s c a b).adm = s.adm := rfl
@[simp] theorem setLs_dmErr (s : Block) (c a : Nat) (b : Byte) : (setLs s c a b).dmErr = s.dmErr := rfl
@[simp] theorem setLs_crit (s : Block) (c a : Nat) (b : Byte) : (setLs s c a b).crit = s.crit := rfl
@[simp] theorem setLs_critRead (s : Block) (c a : Nat) (b : Byte) : (setLs s c a b).critRead = s.critRead := rfl
@[simp] theorem setLs_life (s : Block) (c a : Nat) (b : Byte) : (setLs s c a b).life = s.life := rfl
@[simp] theorem setLs_supply (s : Block) (c a : Nat) (b : Byte) : (setLs s c a b).supply = s.supply := rfl
@[simp] theorem setLs_pace (s : Block) (c a : Nat) (b : Byte) : (setLs s c a b).pace = s.pace := rfl
@[simp] theorem setLs_paceEnd (s : Block) (c a : Nat) (b : Byte) : (setLs s c a b).paceEnd = s.paceEnd := rfl
@[simp] theorem setLs_rgnLatch (s : Block) (c a : Nat) (b : Byte) : (setLs s c a b).rgnLatch = s.rgnLatch := rfl
@[simp] theorem setLs_dmWb (s : Block) (c a : Nat) (b : Byte) : (setLs s c a b).dmWb = s.dmWb := rfl
@[simp] theorem setLs_dmCount (s : Block) (c a : Nat) (b : Byte) : (setLs s c a b).dmCount = s.dmCount := rfl
@[simp] theorem setLs_dmWindow (s : Block) (c a : Nat) (b : Byte) : (setLs s c a b).dmWindow = s.dmWindow := rfl
@[simp] theorem setLs_sramErr (s : Block) (c a : Nat) (b : Byte) : (setLs s c a b).sramErr = s.sramErr := rfl
@[simp] theorem setLs_sramWb (s : Block) (c a : Nat) (b : Byte) : (setLs s c a b).sramWb = s.sramWb := rfl
@[simp] theorem setLs_scrubbed (s : Block) (c a : Nat) (b : Byte) : (setLs s c a b).scrubbed = s.scrubbed := rfl
@[simp] theorem setLs_suspect (s : Block) (c a : Nat) (b : Byte) : (setLs s c a b).suspect = s.suspect := rfl
@[simp] theorem setLs_chks (s : Block) (c a : Nat) (b : Byte) : (setLs s c a b).chks = s.chks := rfl
@[simp] theorem setLs_lows (s : Block) (c a : Nat) (b : Byte) : (setLs s c a b).lows = s.lows := rfl
@[simp] theorem setLs_hub (s : Block) (c a : Nat) (b : Byte) : (setLs s c a b).hub = s.hub := rfl
@[simp] theorem setLs_power (s : Block) (c a : Nat) (b : Byte) : (setLs s c a b).power = s.power := rfl
@[simp] theorem setLs_handovers (s : Block) (c a : Nat) (b : Byte) : (setLs s c a b).handovers = s.handovers := rfl
@[simp] theorem setLs_readmits (s : Block) (c a : Nat) (b : Byte) : (setLs s c a b).readmits = s.readmits := rfl
@[simp] theorem setLs_faultFenced (s : Block) (c a : Nat) (b : Byte) : (setLs s c a b).faultFenced = s.faultFenced := rfl
@[simp] theorem setLs_retired (s : Block) (c a : Nat) (b : Byte) : (setLs s c a b).retired = s.retired := rfl
@[simp] theorem setLs_opt (s : Block) (c a : Nat) (b : Byte) : (setLs s c a b).opt = s.opt := rfl
@[simp] theorem setLs_cfl (s : Block) (c a : Nat) (b : Byte) : (setLs s c a b).cfl = s.cfl := rfl
/-! setCs -/
@[simp] theorem setCs_now (s : Block) (g a : Nat) (b : Byte) : (setCs s g a b).now = s.now := rfl
@[simp] theorem setCs_fresh (s : Block) (g a : Nat) (b : Byte) : (setCs s g a b).fresh = s.fresh := rfl
@[simp] theorem setCs_pages (s : Block) (g a : Nat) (b : Byte) : (setCs s g a b).pages = s.pages := rfl
@[simp] theorem setCs_blank (s : Block) (g a : Nat) (b : Byte) : (setCs s g a b).blank = s.blank := rfl
@[simp] theorem setCs_cores (s : Block) (g a : Nat) (b : Byte) : (setCs s g a b).cores = s.cores := rfl
@[simp] theorem setCs_dm (s : Block) (g a : Nat) (b : Byte) : (setCs s g a b).dm = s.dm := rfl
@[simp] theorem setCs_ctxs (s : Block) (g a : Nat) (b : Byte) : (setCs s g a b).ctxs = s.ctxs := rfl
@[simp] theorem setCs_aside (s : Block) (g a : Nat) (b : Byte) : (setCs s g a b).aside = s.aside := rfl
@[simp] theorem setCs_out (s : Block) (g a : Nat) (b : Byte) : (setCs s g a b).out = s.out := rfl
@[simp] theorem setCs_colls (s : Block) (g a : Nat) (b : Byte) : (setCs s g a b).colls = s.colls := rfl
@[simp] theorem setCs_nextPost (s : Block) (g a : Nat) (b : Byte) : (setCs s g a b).nextPost = s.nextPost := rfl
@[simp] theorem setCs_nextCompute (s : Block) (g a : Nat) (b : Byte) : (setCs s g a b).nextCompute = s.nextCompute := rfl
@[simp] theorem setCs_ctls (s : Block) (g a : Nat) (b : Byte) : (setCs s g a b).ctls = s.ctls := rfl
@[simp] theorem setCs_nextCtl (s : Block) (g a : Nat) (b : Byte) : (setCs s g a b).nextCtl = s.nextCtl := rfl
@[simp] theorem setCs_ctlBurst (s : Block) (g a : Nat) (b : Byte) : (setCs s g a b).ctlBurst = s.ctlBurst := rfl
@[simp] theorem setCs_pageUse (s : Block) (g a : Nat) (b : Byte) : (setCs s g a b).pageUse = s.pageUse := rfl
@[simp] theorem setCs_rr (s : Block) (g a : Nat) (b : Byte) : (setCs s g a b).rr = s.rr := rfl
@[simp] theorem setCs_sel (s : Block) (g a : Nat) (b : Byte) : (setCs s g a b).sel = s.sel := rfl
@[simp] theorem setCs_nss (s : Block) (g a : Nat) (b : Byte) : (setCs s g a b).nss = s.nss := rfl
@[simp] theorem setCs_med (s : Block) (g a : Nat) (b : Byte) : (setCs s g a b).med = s.med := rfl
@[simp] theorem setCs_idxs (s : Block) (g a : Nat) (b : Byte) : (setCs s g a b).idxs = s.idxs := rfl
@[simp] theorem setCs_evts (s : Block) (g a : Nat) (b : Byte) : (setCs s g a b).evts = s.evts := rfl
@[simp] theorem setCs_self (s : Block) (g a : Nat) (b : Byte) : (setCs s g a b).self = s.self := rfl
@[simp] theorem setCs_links (s : Block) (g a : Nat) (b : Byte) : (setCs s g a b).links = s.links := rfl
@[simp] theorem setCs_routerIn (s : Block) (g a : Nat) (b : Byte) : (setCs s g a b).routerIn = s.routerIn := rfl
@[simp] theorem setCs_inbox (s : Block) (g a : Nat) (b : Byte) : (setCs s g a b).inbox = s.inbox := rfl
@[simp] theorem setCs_routes (s : Block) (g a : Nat) (b : Byte) : (setCs s g a b).routes = s.routes := rfl
@[simp] theorem setCs_txs (s : Block) (g a : Nat) (b : Byte) : (setCs s g a b).txs = s.txs := rfl
@[simp] theorem setCs_rxs (s : Block) (g a : Nat) (b : Byte) : (setCs s g a b).rxs = s.rxs := rfl
@[simp] theorem setCs_stu (s : Block) (g a : Nat) (b : Byte) : (setCs s g a b).stu = s.stu := rfl
@[simp] theorem setCs_low (s : Block) (g a : Nat) (b : Byte) : (setCs s g a b).low = s.low := rfl
@[simp] theorem setCs_lowSince (s : Block) (g a : Nat) (b : Byte) : (setCs s g a b).lowSince = s.lowSince := rfl
@[simp] theorem setCs_wakes (s : Block) (g a : Nat) (b : Byte) : (setCs s g a b).wakes = s.wakes := rfl
@[simp] theorem setCs_hostResume (s : Block) (g a : Nat) (b : Byte) : (setCs s g a b).hostResume = s.hostResume := rfl
@[simp] theorem setCs_resuming (s : Block) (g a : Nat) (b : Byte) : (setCs s g a b).resuming = s.resuming := rfl
@[simp] theorem setCs_pmeSent (s : Block) (g a : Nat) (b : Byte) : (setCs s g a b).pmeSent = s.pmeSent := rfl
@[simp] theorem setCs_adm (s : Block) (g a : Nat) (b : Byte) : (setCs s g a b).adm = s.adm := rfl
@[simp] theorem setCs_dmErr (s : Block) (g a : Nat) (b : Byte) : (setCs s g a b).dmErr = s.dmErr := rfl
@[simp] theorem setCs_crit (s : Block) (g a : Nat) (b : Byte) : (setCs s g a b).crit = s.crit := rfl
@[simp] theorem setCs_critRead (s : Block) (g a : Nat) (b : Byte) : (setCs s g a b).critRead = s.critRead := rfl
@[simp] theorem setCs_life (s : Block) (g a : Nat) (b : Byte) : (setCs s g a b).life = s.life := rfl
@[simp] theorem setCs_supply (s : Block) (g a : Nat) (b : Byte) : (setCs s g a b).supply = s.supply := rfl
@[simp] theorem setCs_pace (s : Block) (g a : Nat) (b : Byte) : (setCs s g a b).pace = s.pace := rfl
@[simp] theorem setCs_paceEnd (s : Block) (g a : Nat) (b : Byte) : (setCs s g a b).paceEnd = s.paceEnd := rfl
@[simp] theorem setCs_rgnLatch (s : Block) (g a : Nat) (b : Byte) : (setCs s g a b).rgnLatch = s.rgnLatch := rfl
@[simp] theorem setCs_dmWb (s : Block) (g a : Nat) (b : Byte) : (setCs s g a b).dmWb = s.dmWb := rfl
@[simp] theorem setCs_dmCount (s : Block) (g a : Nat) (b : Byte) : (setCs s g a b).dmCount = s.dmCount := rfl
@[simp] theorem setCs_dmWindow (s : Block) (g a : Nat) (b : Byte) : (setCs s g a b).dmWindow = s.dmWindow := rfl
@[simp] theorem setCs_sramErr (s : Block) (g a : Nat) (b : Byte) : (setCs s g a b).sramErr = s.sramErr := rfl
@[simp] theorem setCs_sramWb (s : Block) (g a : Nat) (b : Byte) : (setCs s g a b).sramWb = s.sramWb := rfl
@[simp] theorem setCs_scrubbed (s : Block) (g a : Nat) (b : Byte) : (setCs s g a b).scrubbed = s.scrubbed := rfl
@[simp] theorem setCs_suspect (s : Block) (g a : Nat) (b : Byte) : (setCs s g a b).suspect = s.suspect := rfl
@[simp] theorem setCs_chks (s : Block) (g a : Nat) (b : Byte) : (setCs s g a b).chks = s.chks := rfl
@[simp] theorem setCs_lows (s : Block) (g a : Nat) (b : Byte) : (setCs s g a b).lows = s.lows := rfl
@[simp] theorem setCs_hub (s : Block) (g a : Nat) (b : Byte) : (setCs s g a b).hub = s.hub := rfl
@[simp] theorem setCs_power (s : Block) (g a : Nat) (b : Byte) : (setCs s g a b).power = s.power := rfl
@[simp] theorem setCs_handovers (s : Block) (g a : Nat) (b : Byte) : (setCs s g a b).handovers = s.handovers := rfl
@[simp] theorem setCs_readmits (s : Block) (g a : Nat) (b : Byte) : (setCs s g a b).readmits = s.readmits := rfl
@[simp] theorem setCs_faultFenced (s : Block) (g a : Nat) (b : Byte) : (setCs s g a b).faultFenced = s.faultFenced := rfl
@[simp] theorem setCs_retired (s : Block) (g a : Nat) (b : Byte) : (setCs s g a b).retired = s.retired := rfl
@[simp] theorem setCs_opt (s : Block) (g a : Nat) (b : Byte) : (setCs s g a b).opt = s.opt := rfl
@[simp] theorem setCs_cfl (s : Block) (g a : Nat) (b : Byte) : (setCs s g a b).cfl = s.cfl := rfl
/-! setDm -/
@[simp] theorem setDm_now (s : Block) (a : Nat) (b : Byte) : (setDm s a b).now = s.now := rfl
@[simp] theorem setDm_fresh (s : Block) (a : Nat) (b : Byte) : (setDm s a b).fresh = s.fresh := rfl
@[simp] theorem setDm_pages (s : Block) (a : Nat) (b : Byte) : (setDm s a b).pages = s.pages := rfl
@[simp] theorem setDm_blank (s : Block) (a : Nat) (b : Byte) : (setDm s a b).blank = s.blank := rfl
@[simp] theorem setDm_cores (s : Block) (a : Nat) (b : Byte) : (setDm s a b).cores = s.cores := rfl
@[simp] theorem setDm_cs (s : Block) (a : Nat) (b : Byte) : (setDm s a b).cs = s.cs := rfl
@[simp] theorem setDm_ctxs (s : Block) (a : Nat) (b : Byte) : (setDm s a b).ctxs = s.ctxs := rfl
@[simp] theorem setDm_aside (s : Block) (a : Nat) (b : Byte) : (setDm s a b).aside = s.aside := rfl
@[simp] theorem setDm_out (s : Block) (a : Nat) (b : Byte) : (setDm s a b).out = s.out := rfl
@[simp] theorem setDm_colls (s : Block) (a : Nat) (b : Byte) : (setDm s a b).colls = s.colls := rfl
@[simp] theorem setDm_nextPost (s : Block) (a : Nat) (b : Byte) : (setDm s a b).nextPost = s.nextPost := rfl
@[simp] theorem setDm_nextCompute (s : Block) (a : Nat) (b : Byte) : (setDm s a b).nextCompute = s.nextCompute := rfl
@[simp] theorem setDm_ctls (s : Block) (a : Nat) (b : Byte) : (setDm s a b).ctls = s.ctls := rfl
@[simp] theorem setDm_nextCtl (s : Block) (a : Nat) (b : Byte) : (setDm s a b).nextCtl = s.nextCtl := rfl
@[simp] theorem setDm_ctlBurst (s : Block) (a : Nat) (b : Byte) : (setDm s a b).ctlBurst = s.ctlBurst := rfl
@[simp] theorem setDm_pageUse (s : Block) (a : Nat) (b : Byte) : (setDm s a b).pageUse = s.pageUse := rfl
@[simp] theorem setDm_rr (s : Block) (a : Nat) (b : Byte) : (setDm s a b).rr = s.rr := rfl
@[simp] theorem setDm_sel (s : Block) (a : Nat) (b : Byte) : (setDm s a b).sel = s.sel := rfl
@[simp] theorem setDm_nss (s : Block) (a : Nat) (b : Byte) : (setDm s a b).nss = s.nss := rfl
@[simp] theorem setDm_med (s : Block) (a : Nat) (b : Byte) : (setDm s a b).med = s.med := rfl
@[simp] theorem setDm_idxs (s : Block) (a : Nat) (b : Byte) : (setDm s a b).idxs = s.idxs := rfl
@[simp] theorem setDm_evts (s : Block) (a : Nat) (b : Byte) : (setDm s a b).evts = s.evts := rfl
@[simp] theorem setDm_self (s : Block) (a : Nat) (b : Byte) : (setDm s a b).self = s.self := rfl
@[simp] theorem setDm_links (s : Block) (a : Nat) (b : Byte) : (setDm s a b).links = s.links := rfl
@[simp] theorem setDm_routerIn (s : Block) (a : Nat) (b : Byte) : (setDm s a b).routerIn = s.routerIn := rfl
@[simp] theorem setDm_inbox (s : Block) (a : Nat) (b : Byte) : (setDm s a b).inbox = s.inbox := rfl
@[simp] theorem setDm_routes (s : Block) (a : Nat) (b : Byte) : (setDm s a b).routes = s.routes := rfl
@[simp] theorem setDm_txs (s : Block) (a : Nat) (b : Byte) : (setDm s a b).txs = s.txs := rfl
@[simp] theorem setDm_rxs (s : Block) (a : Nat) (b : Byte) : (setDm s a b).rxs = s.rxs := rfl
@[simp] theorem setDm_stu (s : Block) (a : Nat) (b : Byte) : (setDm s a b).stu = s.stu := rfl
@[simp] theorem setDm_low (s : Block) (a : Nat) (b : Byte) : (setDm s a b).low = s.low := rfl
@[simp] theorem setDm_lowSince (s : Block) (a : Nat) (b : Byte) : (setDm s a b).lowSince = s.lowSince := rfl
@[simp] theorem setDm_wakes (s : Block) (a : Nat) (b : Byte) : (setDm s a b).wakes = s.wakes := rfl
@[simp] theorem setDm_hostResume (s : Block) (a : Nat) (b : Byte) : (setDm s a b).hostResume = s.hostResume := rfl
@[simp] theorem setDm_resuming (s : Block) (a : Nat) (b : Byte) : (setDm s a b).resuming = s.resuming := rfl
@[simp] theorem setDm_pmeSent (s : Block) (a : Nat) (b : Byte) : (setDm s a b).pmeSent = s.pmeSent := rfl
@[simp] theorem setDm_adm (s : Block) (a : Nat) (b : Byte) : (setDm s a b).adm = s.adm := rfl
@[simp] theorem setDm_dmErr (s : Block) (a : Nat) (b : Byte) : (setDm s a b).dmErr = s.dmErr := rfl
@[simp] theorem setDm_crit (s : Block) (a : Nat) (b : Byte) : (setDm s a b).crit = s.crit := rfl
@[simp] theorem setDm_critRead (s : Block) (a : Nat) (b : Byte) : (setDm s a b).critRead = s.critRead := rfl
@[simp] theorem setDm_life (s : Block) (a : Nat) (b : Byte) : (setDm s a b).life = s.life := rfl
@[simp] theorem setDm_supply (s : Block) (a : Nat) (b : Byte) : (setDm s a b).supply = s.supply := rfl
@[simp] theorem setDm_pace (s : Block) (a : Nat) (b : Byte) : (setDm s a b).pace = s.pace := rfl
@[simp] theorem setDm_paceEnd (s : Block) (a : Nat) (b : Byte) : (setDm s a b).paceEnd = s.paceEnd := rfl
@[simp] theorem setDm_rgnLatch (s : Block) (a : Nat) (b : Byte) : (setDm s a b).rgnLatch = s.rgnLatch := rfl
@[simp] theorem setDm_dmWb (s : Block) (a : Nat) (b : Byte) : (setDm s a b).dmWb = s.dmWb := rfl
@[simp] theorem setDm_dmCount (s : Block) (a : Nat) (b : Byte) : (setDm s a b).dmCount = s.dmCount := rfl
@[simp] theorem setDm_dmWindow (s : Block) (a : Nat) (b : Byte) : (setDm s a b).dmWindow = s.dmWindow := rfl
@[simp] theorem setDm_sramErr (s : Block) (a : Nat) (b : Byte) : (setDm s a b).sramErr = s.sramErr := rfl
@[simp] theorem setDm_sramWb (s : Block) (a : Nat) (b : Byte) : (setDm s a b).sramWb = s.sramWb := rfl
@[simp] theorem setDm_scrubbed (s : Block) (a : Nat) (b : Byte) : (setDm s a b).scrubbed = s.scrubbed := rfl
@[simp] theorem setDm_suspect (s : Block) (a : Nat) (b : Byte) : (setDm s a b).suspect = s.suspect := rfl
@[simp] theorem setDm_chks (s : Block) (a : Nat) (b : Byte) : (setDm s a b).chks = s.chks := rfl
@[simp] theorem setDm_lows (s : Block) (a : Nat) (b : Byte) : (setDm s a b).lows = s.lows := rfl
@[simp] theorem setDm_hub (s : Block) (a : Nat) (b : Byte) : (setDm s a b).hub = s.hub := rfl
@[simp] theorem setDm_power (s : Block) (a : Nat) (b : Byte) : (setDm s a b).power = s.power := rfl
@[simp] theorem setDm_handovers (s : Block) (a : Nat) (b : Byte) : (setDm s a b).handovers = s.handovers := rfl
@[simp] theorem setDm_readmits (s : Block) (a : Nat) (b : Byte) : (setDm s a b).readmits = s.readmits := rfl
@[simp] theorem setDm_faultFenced (s : Block) (a : Nat) (b : Byte) : (setDm s a b).faultFenced = s.faultFenced := rfl
@[simp] theorem setDm_retired (s : Block) (a : Nat) (b : Byte) : (setDm s a b).retired = s.retired := rfl
@[simp] theorem setDm_opt (s : Block) (a : Nat) (b : Byte) : (setDm s a b).opt = s.opt := rfl
@[simp] theorem setDm_cfl (s : Block) (a : Nat) (b : Byte) : (setDm s a b).cfl = s.cfl := rfl
/-! emit -/
@[simp] theorem emit_now (s : Block) (o : Output) : (emit s o).now = s.now := rfl
@[simp] theorem emit_fresh (s : Block) (o : Output) : (emit s o).fresh = s.fresh := rfl
@[simp] theorem emit_pages (s : Block) (o : Output) : (emit s o).pages = s.pages := rfl
@[simp] theorem emit_blank (s : Block) (o : Output) : (emit s o).blank = s.blank := rfl
@[simp] theorem emit_cores (s : Block) (o : Output) : (emit s o).cores = s.cores := rfl
@[simp] theorem emit_cs (s : Block) (o : Output) : (emit s o).cs = s.cs := rfl
@[simp] theorem emit_dm (s : Block) (o : Output) : (emit s o).dm = s.dm := rfl
@[simp] theorem emit_ctxs (s : Block) (o : Output) : (emit s o).ctxs = s.ctxs := rfl
@[simp] theorem emit_aside (s : Block) (o : Output) : (emit s o).aside = s.aside := rfl
@[simp] theorem emit_colls (s : Block) (o : Output) : (emit s o).colls = s.colls := rfl
@[simp] theorem emit_nextPost (s : Block) (o : Output) : (emit s o).nextPost = s.nextPost := rfl
@[simp] theorem emit_nextCompute (s : Block) (o : Output) : (emit s o).nextCompute = s.nextCompute := rfl
@[simp] theorem emit_ctls (s : Block) (o : Output) : (emit s o).ctls = s.ctls := rfl
@[simp] theorem emit_nextCtl (s : Block) (o : Output) : (emit s o).nextCtl = s.nextCtl := rfl
@[simp] theorem emit_ctlBurst (s : Block) (o : Output) : (emit s o).ctlBurst = s.ctlBurst := rfl
@[simp] theorem emit_pageUse (s : Block) (o : Output) : (emit s o).pageUse = s.pageUse := rfl
@[simp] theorem emit_rr (s : Block) (o : Output) : (emit s o).rr = s.rr := rfl
@[simp] theorem emit_sel (s : Block) (o : Output) : (emit s o).sel = s.sel := rfl
@[simp] theorem emit_nss (s : Block) (o : Output) : (emit s o).nss = s.nss := rfl
@[simp] theorem emit_med (s : Block) (o : Output) : (emit s o).med = s.med := rfl
@[simp] theorem emit_idxs (s : Block) (o : Output) : (emit s o).idxs = s.idxs := rfl
@[simp] theorem emit_evts (s : Block) (o : Output) : (emit s o).evts = s.evts := rfl
@[simp] theorem emit_self (s : Block) (o : Output) : (emit s o).self = s.self := rfl
@[simp] theorem emit_links (s : Block) (o : Output) : (emit s o).links = s.links := rfl
@[simp] theorem emit_routerIn (s : Block) (o : Output) : (emit s o).routerIn = s.routerIn := rfl
@[simp] theorem emit_inbox (s : Block) (o : Output) : (emit s o).inbox = s.inbox := rfl
@[simp] theorem emit_routes (s : Block) (o : Output) : (emit s o).routes = s.routes := rfl
@[simp] theorem emit_txs (s : Block) (o : Output) : (emit s o).txs = s.txs := rfl
@[simp] theorem emit_rxs (s : Block) (o : Output) : (emit s o).rxs = s.rxs := rfl
@[simp] theorem emit_stu (s : Block) (o : Output) : (emit s o).stu = s.stu := rfl
@[simp] theorem emit_low (s : Block) (o : Output) : (emit s o).low = s.low := rfl
@[simp] theorem emit_lowSince (s : Block) (o : Output) : (emit s o).lowSince = s.lowSince := rfl
@[simp] theorem emit_wakes (s : Block) (o : Output) : (emit s o).wakes = s.wakes := rfl
@[simp] theorem emit_hostResume (s : Block) (o : Output) : (emit s o).hostResume = s.hostResume := rfl
@[simp] theorem emit_resuming (s : Block) (o : Output) : (emit s o).resuming = s.resuming := rfl
@[simp] theorem emit_pmeSent (s : Block) (o : Output) : (emit s o).pmeSent = s.pmeSent := rfl
@[simp] theorem emit_adm (s : Block) (o : Output) : (emit s o).adm = s.adm := rfl
@[simp] theorem emit_dmErr (s : Block) (o : Output) : (emit s o).dmErr = s.dmErr := rfl
@[simp] theorem emit_crit (s : Block) (o : Output) : (emit s o).crit = s.crit := rfl
@[simp] theorem emit_critRead (s : Block) (o : Output) : (emit s o).critRead = s.critRead := rfl
@[simp] theorem emit_life (s : Block) (o : Output) : (emit s o).life = s.life := rfl
@[simp] theorem emit_supply (s : Block) (o : Output) : (emit s o).supply = s.supply := rfl
@[simp] theorem emit_pace (s : Block) (o : Output) : (emit s o).pace = s.pace := rfl
@[simp] theorem emit_paceEnd (s : Block) (o : Output) : (emit s o).paceEnd = s.paceEnd := rfl
@[simp] theorem emit_rgnLatch (s : Block) (o : Output) : (emit s o).rgnLatch = s.rgnLatch := rfl
@[simp] theorem emit_dmWb (s : Block) (o : Output) : (emit s o).dmWb = s.dmWb := rfl
@[simp] theorem emit_dmCount (s : Block) (o : Output) : (emit s o).dmCount = s.dmCount := rfl
@[simp] theorem emit_dmWindow (s : Block) (o : Output) : (emit s o).dmWindow = s.dmWindow := rfl
@[simp] theorem emit_sramErr (s : Block) (o : Output) : (emit s o).sramErr = s.sramErr := rfl
@[simp] theorem emit_sramWb (s : Block) (o : Output) : (emit s o).sramWb = s.sramWb := rfl
@[simp] theorem emit_scrubbed (s : Block) (o : Output) : (emit s o).scrubbed = s.scrubbed := rfl
@[simp] theorem emit_suspect (s : Block) (o : Output) : (emit s o).suspect = s.suspect := rfl
@[simp] theorem emit_chks (s : Block) (o : Output) : (emit s o).chks = s.chks := rfl
@[simp] theorem emit_lows (s : Block) (o : Output) : (emit s o).lows = s.lows := rfl
@[simp] theorem emit_hub (s : Block) (o : Output) : (emit s o).hub = s.hub := rfl
@[simp] theorem emit_power (s : Block) (o : Output) : (emit s o).power = s.power := rfl
@[simp] theorem emit_handovers (s : Block) (o : Output) : (emit s o).handovers = s.handovers := rfl
@[simp] theorem emit_readmits (s : Block) (o : Output) : (emit s o).readmits = s.readmits := rfl
@[simp] theorem emit_faultFenced (s : Block) (o : Output) : (emit s o).faultFenced = s.faultFenced := rfl
@[simp] theorem emit_retired (s : Block) (o : Output) : (emit s o).retired = s.retired := rfl
@[simp] theorem emit_opt (s : Block) (o : Output) : (emit s o).opt = s.opt := rfl
@[simp] theorem emit_cfl (s : Block) (o : Output) : (emit s o).cfl = s.cfl := rfl
/-! lifeBump -/
@[simp] theorem lifeBump_now (s : Block) (i n : Nat) : (lifeBump s i n).now = s.now := rfl
@[simp] theorem lifeBump_fresh (s : Block) (i n : Nat) : (lifeBump s i n).fresh = s.fresh := rfl
@[simp] theorem lifeBump_pages (s : Block) (i n : Nat) : (lifeBump s i n).pages = s.pages := rfl
@[simp] theorem lifeBump_blank (s : Block) (i n : Nat) : (lifeBump s i n).blank = s.blank := rfl
@[simp] theorem lifeBump_cores (s : Block) (i n : Nat) : (lifeBump s i n).cores = s.cores := rfl
@[simp] theorem lifeBump_cs (s : Block) (i n : Nat) : (lifeBump s i n).cs = s.cs := rfl
@[simp] theorem lifeBump_dm (s : Block) (i n : Nat) : (lifeBump s i n).dm = s.dm := rfl
@[simp] theorem lifeBump_ctxs (s : Block) (i n : Nat) : (lifeBump s i n).ctxs = s.ctxs := rfl
@[simp] theorem lifeBump_aside (s : Block) (i n : Nat) : (lifeBump s i n).aside = s.aside := rfl
@[simp] theorem lifeBump_out (s : Block) (i n : Nat) : (lifeBump s i n).out = s.out := rfl
@[simp] theorem lifeBump_colls (s : Block) (i n : Nat) : (lifeBump s i n).colls = s.colls := rfl
@[simp] theorem lifeBump_nextPost (s : Block) (i n : Nat) : (lifeBump s i n).nextPost = s.nextPost := rfl
@[simp] theorem lifeBump_nextCompute (s : Block) (i n : Nat) : (lifeBump s i n).nextCompute = s.nextCompute := rfl
@[simp] theorem lifeBump_ctls (s : Block) (i n : Nat) : (lifeBump s i n).ctls = s.ctls := rfl
@[simp] theorem lifeBump_nextCtl (s : Block) (i n : Nat) : (lifeBump s i n).nextCtl = s.nextCtl := rfl
@[simp] theorem lifeBump_ctlBurst (s : Block) (i n : Nat) : (lifeBump s i n).ctlBurst = s.ctlBurst := rfl
@[simp] theorem lifeBump_pageUse (s : Block) (i n : Nat) : (lifeBump s i n).pageUse = s.pageUse := rfl
@[simp] theorem lifeBump_rr (s : Block) (i n : Nat) : (lifeBump s i n).rr = s.rr := rfl
@[simp] theorem lifeBump_sel (s : Block) (i n : Nat) : (lifeBump s i n).sel = s.sel := rfl
@[simp] theorem lifeBump_nss (s : Block) (i n : Nat) : (lifeBump s i n).nss = s.nss := rfl
@[simp] theorem lifeBump_med (s : Block) (i n : Nat) : (lifeBump s i n).med = s.med := rfl
@[simp] theorem lifeBump_idxs (s : Block) (i n : Nat) : (lifeBump s i n).idxs = s.idxs := rfl
@[simp] theorem lifeBump_evts (s : Block) (i n : Nat) : (lifeBump s i n).evts = s.evts := rfl
@[simp] theorem lifeBump_self (s : Block) (i n : Nat) : (lifeBump s i n).self = s.self := rfl
@[simp] theorem lifeBump_links (s : Block) (i n : Nat) : (lifeBump s i n).links = s.links := rfl
@[simp] theorem lifeBump_routerIn (s : Block) (i n : Nat) : (lifeBump s i n).routerIn = s.routerIn := rfl
@[simp] theorem lifeBump_inbox (s : Block) (i n : Nat) : (lifeBump s i n).inbox = s.inbox := rfl
@[simp] theorem lifeBump_routes (s : Block) (i n : Nat) : (lifeBump s i n).routes = s.routes := rfl
@[simp] theorem lifeBump_txs (s : Block) (i n : Nat) : (lifeBump s i n).txs = s.txs := rfl
@[simp] theorem lifeBump_rxs (s : Block) (i n : Nat) : (lifeBump s i n).rxs = s.rxs := rfl
@[simp] theorem lifeBump_stu (s : Block) (i n : Nat) : (lifeBump s i n).stu = s.stu := rfl
@[simp] theorem lifeBump_low (s : Block) (i n : Nat) : (lifeBump s i n).low = s.low := rfl
@[simp] theorem lifeBump_lowSince (s : Block) (i n : Nat) : (lifeBump s i n).lowSince = s.lowSince := rfl
@[simp] theorem lifeBump_wakes (s : Block) (i n : Nat) : (lifeBump s i n).wakes = s.wakes := rfl
@[simp] theorem lifeBump_hostResume (s : Block) (i n : Nat) : (lifeBump s i n).hostResume = s.hostResume := rfl
@[simp] theorem lifeBump_resuming (s : Block) (i n : Nat) : (lifeBump s i n).resuming = s.resuming := rfl
@[simp] theorem lifeBump_pmeSent (s : Block) (i n : Nat) : (lifeBump s i n).pmeSent = s.pmeSent := rfl
@[simp] theorem lifeBump_adm (s : Block) (i n : Nat) : (lifeBump s i n).adm = s.adm := rfl
@[simp] theorem lifeBump_dmErr (s : Block) (i n : Nat) : (lifeBump s i n).dmErr = s.dmErr := rfl
@[simp] theorem lifeBump_crit (s : Block) (i n : Nat) : (lifeBump s i n).crit = s.crit := rfl
@[simp] theorem lifeBump_critRead (s : Block) (i n : Nat) : (lifeBump s i n).critRead = s.critRead := rfl
@[simp] theorem lifeBump_supply (s : Block) (i n : Nat) : (lifeBump s i n).supply = s.supply := rfl
@[simp] theorem lifeBump_pace (s : Block) (i n : Nat) : (lifeBump s i n).pace = s.pace := rfl
@[simp] theorem lifeBump_paceEnd (s : Block) (i n : Nat) : (lifeBump s i n).paceEnd = s.paceEnd := rfl
@[simp] theorem lifeBump_rgnLatch (s : Block) (i n : Nat) : (lifeBump s i n).rgnLatch = s.rgnLatch := rfl
@[simp] theorem lifeBump_dmWb (s : Block) (i n : Nat) : (lifeBump s i n).dmWb = s.dmWb := rfl
@[simp] theorem lifeBump_dmCount (s : Block) (i n : Nat) : (lifeBump s i n).dmCount = s.dmCount := rfl
@[simp] theorem lifeBump_dmWindow (s : Block) (i n : Nat) : (lifeBump s i n).dmWindow = s.dmWindow := rfl
@[simp] theorem lifeBump_sramErr (s : Block) (i n : Nat) : (lifeBump s i n).sramErr = s.sramErr := rfl
@[simp] theorem lifeBump_sramWb (s : Block) (i n : Nat) : (lifeBump s i n).sramWb = s.sramWb := rfl
@[simp] theorem lifeBump_scrubbed (s : Block) (i n : Nat) : (lifeBump s i n).scrubbed = s.scrubbed := rfl
@[simp] theorem lifeBump_suspect (s : Block) (i n : Nat) : (lifeBump s i n).suspect = s.suspect := rfl
@[simp] theorem lifeBump_chks (s : Block) (i n : Nat) : (lifeBump s i n).chks = s.chks := rfl
@[simp] theorem lifeBump_lows (s : Block) (i n : Nat) : (lifeBump s i n).lows = s.lows := rfl
@[simp] theorem lifeBump_hub (s : Block) (i n : Nat) : (lifeBump s i n).hub = s.hub := rfl
@[simp] theorem lifeBump_power (s : Block) (i n : Nat) : (lifeBump s i n).power = s.power := rfl
@[simp] theorem lifeBump_handovers (s : Block) (i n : Nat) : (lifeBump s i n).handovers = s.handovers := rfl
@[simp] theorem lifeBump_readmits (s : Block) (i n : Nat) : (lifeBump s i n).readmits = s.readmits := rfl
@[simp] theorem lifeBump_faultFenced (s : Block) (i n : Nat) : (lifeBump s i n).faultFenced = s.faultFenced := rfl
@[simp] theorem lifeBump_retired (s : Block) (i n : Nat) : (lifeBump s i n).retired = s.retired := rfl
@[simp] theorem lifeBump_opt (s : Block) (i n : Nat) : (lifeBump s i n).opt = s.opt := rfl
@[simp] theorem lifeBump_cfl (s : Block) (i n : Nat) : (lifeBump s i n).cfl = s.cfl := rfl
/-! updEvt -/
@[simp] theorem updEvt_now (s : Block) (p : Nat) (f : EventPort → EventPort) : (updEvt s p f).now = s.now := rfl
@[simp] theorem updEvt_fresh (s : Block) (p : Nat) (f : EventPort → EventPort) : (updEvt s p f).fresh = s.fresh := rfl
@[simp] theorem updEvt_pages (s : Block) (p : Nat) (f : EventPort → EventPort) : (updEvt s p f).pages = s.pages := rfl
@[simp] theorem updEvt_blank (s : Block) (p : Nat) (f : EventPort → EventPort) : (updEvt s p f).blank = s.blank := rfl
@[simp] theorem updEvt_cores (s : Block) (p : Nat) (f : EventPort → EventPort) : (updEvt s p f).cores = s.cores := rfl
@[simp] theorem updEvt_cs (s : Block) (p : Nat) (f : EventPort → EventPort) : (updEvt s p f).cs = s.cs := rfl
@[simp] theorem updEvt_dm (s : Block) (p : Nat) (f : EventPort → EventPort) : (updEvt s p f).dm = s.dm := rfl
@[simp] theorem updEvt_ctxs (s : Block) (p : Nat) (f : EventPort → EventPort) : (updEvt s p f).ctxs = s.ctxs := rfl
@[simp] theorem updEvt_aside (s : Block) (p : Nat) (f : EventPort → EventPort) : (updEvt s p f).aside = s.aside := rfl
@[simp] theorem updEvt_out (s : Block) (p : Nat) (f : EventPort → EventPort) : (updEvt s p f).out = s.out := rfl
@[simp] theorem updEvt_colls (s : Block) (p : Nat) (f : EventPort → EventPort) : (updEvt s p f).colls = s.colls := rfl
@[simp] theorem updEvt_nextPost (s : Block) (p : Nat) (f : EventPort → EventPort) : (updEvt s p f).nextPost = s.nextPost := rfl
@[simp] theorem updEvt_nextCompute (s : Block) (p : Nat) (f : EventPort → EventPort) : (updEvt s p f).nextCompute = s.nextCompute := rfl
@[simp] theorem updEvt_ctls (s : Block) (p : Nat) (f : EventPort → EventPort) : (updEvt s p f).ctls = s.ctls := rfl
@[simp] theorem updEvt_nextCtl (s : Block) (p : Nat) (f : EventPort → EventPort) : (updEvt s p f).nextCtl = s.nextCtl := rfl
@[simp] theorem updEvt_ctlBurst (s : Block) (p : Nat) (f : EventPort → EventPort) : (updEvt s p f).ctlBurst = s.ctlBurst := rfl
@[simp] theorem updEvt_pageUse (s : Block) (p : Nat) (f : EventPort → EventPort) : (updEvt s p f).pageUse = s.pageUse := rfl
@[simp] theorem updEvt_rr (s : Block) (p : Nat) (f : EventPort → EventPort) : (updEvt s p f).rr = s.rr := rfl
@[simp] theorem updEvt_sel (s : Block) (p : Nat) (f : EventPort → EventPort) : (updEvt s p f).sel = s.sel := rfl
@[simp] theorem updEvt_nss (s : Block) (p : Nat) (f : EventPort → EventPort) : (updEvt s p f).nss = s.nss := rfl
@[simp] theorem updEvt_med (s : Block) (p : Nat) (f : EventPort → EventPort) : (updEvt s p f).med = s.med := rfl
@[simp] theorem updEvt_idxs (s : Block) (p : Nat) (f : EventPort → EventPort) : (updEvt s p f).idxs = s.idxs := rfl
@[simp] theorem updEvt_self (s : Block) (p : Nat) (f : EventPort → EventPort) : (updEvt s p f).self = s.self := rfl
@[simp] theorem updEvt_links (s : Block) (p : Nat) (f : EventPort → EventPort) : (updEvt s p f).links = s.links := rfl
@[simp] theorem updEvt_routerIn (s : Block) (p : Nat) (f : EventPort → EventPort) : (updEvt s p f).routerIn = s.routerIn := rfl
@[simp] theorem updEvt_inbox (s : Block) (p : Nat) (f : EventPort → EventPort) : (updEvt s p f).inbox = s.inbox := rfl
@[simp] theorem updEvt_routes (s : Block) (p : Nat) (f : EventPort → EventPort) : (updEvt s p f).routes = s.routes := rfl
@[simp] theorem updEvt_txs (s : Block) (p : Nat) (f : EventPort → EventPort) : (updEvt s p f).txs = s.txs := rfl
@[simp] theorem updEvt_rxs (s : Block) (p : Nat) (f : EventPort → EventPort) : (updEvt s p f).rxs = s.rxs := rfl
@[simp] theorem updEvt_stu (s : Block) (p : Nat) (f : EventPort → EventPort) : (updEvt s p f).stu = s.stu := rfl
@[simp] theorem updEvt_low (s : Block) (p : Nat) (f : EventPort → EventPort) : (updEvt s p f).low = s.low := rfl
@[simp] theorem updEvt_lowSince (s : Block) (p : Nat) (f : EventPort → EventPort) : (updEvt s p f).lowSince = s.lowSince := rfl
@[simp] theorem updEvt_wakes (s : Block) (p : Nat) (f : EventPort → EventPort) : (updEvt s p f).wakes = s.wakes := rfl
@[simp] theorem updEvt_hostResume (s : Block) (p : Nat) (f : EventPort → EventPort) : (updEvt s p f).hostResume = s.hostResume := rfl
@[simp] theorem updEvt_resuming (s : Block) (p : Nat) (f : EventPort → EventPort) : (updEvt s p f).resuming = s.resuming := rfl
@[simp] theorem updEvt_pmeSent (s : Block) (p : Nat) (f : EventPort → EventPort) : (updEvt s p f).pmeSent = s.pmeSent := rfl
@[simp] theorem updEvt_adm (s : Block) (p : Nat) (f : EventPort → EventPort) : (updEvt s p f).adm = s.adm := rfl
@[simp] theorem updEvt_dmErr (s : Block) (p : Nat) (f : EventPort → EventPort) : (updEvt s p f).dmErr = s.dmErr := rfl
@[simp] theorem updEvt_crit (s : Block) (p : Nat) (f : EventPort → EventPort) : (updEvt s p f).crit = s.crit := rfl
@[simp] theorem updEvt_critRead (s : Block) (p : Nat) (f : EventPort → EventPort) : (updEvt s p f).critRead = s.critRead := rfl
@[simp] theorem updEvt_life (s : Block) (p : Nat) (f : EventPort → EventPort) : (updEvt s p f).life = s.life := rfl
@[simp] theorem updEvt_supply (s : Block) (p : Nat) (f : EventPort → EventPort) : (updEvt s p f).supply = s.supply := rfl
@[simp] theorem updEvt_pace (s : Block) (p : Nat) (f : EventPort → EventPort) : (updEvt s p f).pace = s.pace := rfl
@[simp] theorem updEvt_paceEnd (s : Block) (p : Nat) (f : EventPort → EventPort) : (updEvt s p f).paceEnd = s.paceEnd := rfl
@[simp] theorem updEvt_rgnLatch (s : Block) (p : Nat) (f : EventPort → EventPort) : (updEvt s p f).rgnLatch = s.rgnLatch := rfl
@[simp] theorem updEvt_dmWb (s : Block) (p : Nat) (f : EventPort → EventPort) : (updEvt s p f).dmWb = s.dmWb := rfl
@[simp] theorem updEvt_dmCount (s : Block) (p : Nat) (f : EventPort → EventPort) : (updEvt s p f).dmCount = s.dmCount := rfl
@[simp] theorem updEvt_dmWindow (s : Block) (p : Nat) (f : EventPort → EventPort) : (updEvt s p f).dmWindow = s.dmWindow := rfl
@[simp] theorem updEvt_sramErr (s : Block) (p : Nat) (f : EventPort → EventPort) : (updEvt s p f).sramErr = s.sramErr := rfl
@[simp] theorem updEvt_sramWb (s : Block) (p : Nat) (f : EventPort → EventPort) : (updEvt s p f).sramWb = s.sramWb := rfl
@[simp] theorem updEvt_scrubbed (s : Block) (p : Nat) (f : EventPort → EventPort) : (updEvt s p f).scrubbed = s.scrubbed := rfl
@[simp] theorem updEvt_suspect (s : Block) (p : Nat) (f : EventPort → EventPort) : (updEvt s p f).suspect = s.suspect := rfl
@[simp] theorem updEvt_chks (s : Block) (p : Nat) (f : EventPort → EventPort) : (updEvt s p f).chks = s.chks := rfl
@[simp] theorem updEvt_lows (s : Block) (p : Nat) (f : EventPort → EventPort) : (updEvt s p f).lows = s.lows := rfl
@[simp] theorem updEvt_hub (s : Block) (p : Nat) (f : EventPort → EventPort) : (updEvt s p f).hub = s.hub := rfl
@[simp] theorem updEvt_power (s : Block) (p : Nat) (f : EventPort → EventPort) : (updEvt s p f).power = s.power := rfl
@[simp] theorem updEvt_handovers (s : Block) (p : Nat) (f : EventPort → EventPort) : (updEvt s p f).handovers = s.handovers := rfl
@[simp] theorem updEvt_readmits (s : Block) (p : Nat) (f : EventPort → EventPort) : (updEvt s p f).readmits = s.readmits := rfl
@[simp] theorem updEvt_faultFenced (s : Block) (p : Nat) (f : EventPort → EventPort) : (updEvt s p f).faultFenced = s.faultFenced := rfl
@[simp] theorem updEvt_retired (s : Block) (p : Nat) (f : EventPort → EventPort) : (updEvt s p f).retired = s.retired := rfl
@[simp] theorem updEvt_opt (s : Block) (p : Nat) (f : EventPort → EventPort) : (updEvt s p f).opt = s.opt := rfl
@[simp] theorem updEvt_cfl (s : Block) (p : Nat) (f : EventPort → EventPort) : (updEvt s p f).cfl = s.cfl := rfl
/-! updCtl -/
@[simp] theorem updCtl_now (s : Block) (p : Nat) (f : Controller → Controller) : (updCtl s p f).now = s.now := rfl
@[simp] theorem updCtl_fresh (s : Block) (p : Nat) (f : Controller → Controller) : (updCtl s p f).fresh = s.fresh := rfl
@[simp] theorem updCtl_pages (s : Block) (p : Nat) (f : Controller → Controller) : (updCtl s p f).pages = s.pages := rfl
@[simp] theorem updCtl_blank (s : Block) (p : Nat) (f : Controller → Controller) : (updCtl s p f).blank = s.blank := rfl
@[simp] theorem updCtl_cores (s : Block) (p : Nat) (f : Controller → Controller) : (updCtl s p f).cores = s.cores := rfl
@[simp] theorem updCtl_cs (s : Block) (p : Nat) (f : Controller → Controller) : (updCtl s p f).cs = s.cs := rfl
@[simp] theorem updCtl_dm (s : Block) (p : Nat) (f : Controller → Controller) : (updCtl s p f).dm = s.dm := rfl
@[simp] theorem updCtl_ctxs (s : Block) (p : Nat) (f : Controller → Controller) : (updCtl s p f).ctxs = s.ctxs := rfl
@[simp] theorem updCtl_aside (s : Block) (p : Nat) (f : Controller → Controller) : (updCtl s p f).aside = s.aside := rfl
@[simp] theorem updCtl_out (s : Block) (p : Nat) (f : Controller → Controller) : (updCtl s p f).out = s.out := rfl
@[simp] theorem updCtl_colls (s : Block) (p : Nat) (f : Controller → Controller) : (updCtl s p f).colls = s.colls := rfl
@[simp] theorem updCtl_nextPost (s : Block) (p : Nat) (f : Controller → Controller) : (updCtl s p f).nextPost = s.nextPost := rfl
@[simp] theorem updCtl_nextCompute (s : Block) (p : Nat) (f : Controller → Controller) : (updCtl s p f).nextCompute = s.nextCompute := rfl
@[simp] theorem updCtl_nextCtl (s : Block) (p : Nat) (f : Controller → Controller) : (updCtl s p f).nextCtl = s.nextCtl := rfl
@[simp] theorem updCtl_ctlBurst (s : Block) (p : Nat) (f : Controller → Controller) : (updCtl s p f).ctlBurst = s.ctlBurst := rfl
@[simp] theorem updCtl_pageUse (s : Block) (p : Nat) (f : Controller → Controller) : (updCtl s p f).pageUse = s.pageUse := rfl
@[simp] theorem updCtl_rr (s : Block) (p : Nat) (f : Controller → Controller) : (updCtl s p f).rr = s.rr := rfl
@[simp] theorem updCtl_sel (s : Block) (p : Nat) (f : Controller → Controller) : (updCtl s p f).sel = s.sel := rfl
@[simp] theorem updCtl_nss (s : Block) (p : Nat) (f : Controller → Controller) : (updCtl s p f).nss = s.nss := rfl
@[simp] theorem updCtl_med (s : Block) (p : Nat) (f : Controller → Controller) : (updCtl s p f).med = s.med := rfl
@[simp] theorem updCtl_idxs (s : Block) (p : Nat) (f : Controller → Controller) : (updCtl s p f).idxs = s.idxs := rfl
@[simp] theorem updCtl_evts (s : Block) (p : Nat) (f : Controller → Controller) : (updCtl s p f).evts = s.evts := rfl
@[simp] theorem updCtl_self (s : Block) (p : Nat) (f : Controller → Controller) : (updCtl s p f).self = s.self := rfl
@[simp] theorem updCtl_links (s : Block) (p : Nat) (f : Controller → Controller) : (updCtl s p f).links = s.links := rfl
@[simp] theorem updCtl_routerIn (s : Block) (p : Nat) (f : Controller → Controller) : (updCtl s p f).routerIn = s.routerIn := rfl
@[simp] theorem updCtl_inbox (s : Block) (p : Nat) (f : Controller → Controller) : (updCtl s p f).inbox = s.inbox := rfl
@[simp] theorem updCtl_routes (s : Block) (p : Nat) (f : Controller → Controller) : (updCtl s p f).routes = s.routes := rfl
@[simp] theorem updCtl_txs (s : Block) (p : Nat) (f : Controller → Controller) : (updCtl s p f).txs = s.txs := rfl
@[simp] theorem updCtl_rxs (s : Block) (p : Nat) (f : Controller → Controller) : (updCtl s p f).rxs = s.rxs := rfl
@[simp] theorem updCtl_stu (s : Block) (p : Nat) (f : Controller → Controller) : (updCtl s p f).stu = s.stu := rfl
@[simp] theorem updCtl_low (s : Block) (p : Nat) (f : Controller → Controller) : (updCtl s p f).low = s.low := rfl
@[simp] theorem updCtl_lowSince (s : Block) (p : Nat) (f : Controller → Controller) : (updCtl s p f).lowSince = s.lowSince := rfl
@[simp] theorem updCtl_wakes (s : Block) (p : Nat) (f : Controller → Controller) : (updCtl s p f).wakes = s.wakes := rfl
@[simp] theorem updCtl_hostResume (s : Block) (p : Nat) (f : Controller → Controller) : (updCtl s p f).hostResume = s.hostResume := rfl
@[simp] theorem updCtl_resuming (s : Block) (p : Nat) (f : Controller → Controller) : (updCtl s p f).resuming = s.resuming := rfl
@[simp] theorem updCtl_pmeSent (s : Block) (p : Nat) (f : Controller → Controller) : (updCtl s p f).pmeSent = s.pmeSent := rfl
@[simp] theorem updCtl_adm (s : Block) (p : Nat) (f : Controller → Controller) : (updCtl s p f).adm = s.adm := rfl
@[simp] theorem updCtl_dmErr (s : Block) (p : Nat) (f : Controller → Controller) : (updCtl s p f).dmErr = s.dmErr := rfl
@[simp] theorem updCtl_crit (s : Block) (p : Nat) (f : Controller → Controller) : (updCtl s p f).crit = s.crit := rfl
@[simp] theorem updCtl_critRead (s : Block) (p : Nat) (f : Controller → Controller) : (updCtl s p f).critRead = s.critRead := rfl
@[simp] theorem updCtl_life (s : Block) (p : Nat) (f : Controller → Controller) : (updCtl s p f).life = s.life := rfl
@[simp] theorem updCtl_supply (s : Block) (p : Nat) (f : Controller → Controller) : (updCtl s p f).supply = s.supply := rfl
@[simp] theorem updCtl_pace (s : Block) (p : Nat) (f : Controller → Controller) : (updCtl s p f).pace = s.pace := rfl
@[simp] theorem updCtl_paceEnd (s : Block) (p : Nat) (f : Controller → Controller) : (updCtl s p f).paceEnd = s.paceEnd := rfl
@[simp] theorem updCtl_rgnLatch (s : Block) (p : Nat) (f : Controller → Controller) : (updCtl s p f).rgnLatch = s.rgnLatch := rfl
@[simp] theorem updCtl_dmWb (s : Block) (p : Nat) (f : Controller → Controller) : (updCtl s p f).dmWb = s.dmWb := rfl
@[simp] theorem updCtl_dmCount (s : Block) (p : Nat) (f : Controller → Controller) : (updCtl s p f).dmCount = s.dmCount := rfl
@[simp] theorem updCtl_dmWindow (s : Block) (p : Nat) (f : Controller → Controller) : (updCtl s p f).dmWindow = s.dmWindow := rfl
@[simp] theorem updCtl_sramErr (s : Block) (p : Nat) (f : Controller → Controller) : (updCtl s p f).sramErr = s.sramErr := rfl
@[simp] theorem updCtl_sramWb (s : Block) (p : Nat) (f : Controller → Controller) : (updCtl s p f).sramWb = s.sramWb := rfl
@[simp] theorem updCtl_scrubbed (s : Block) (p : Nat) (f : Controller → Controller) : (updCtl s p f).scrubbed = s.scrubbed := rfl
@[simp] theorem updCtl_suspect (s : Block) (p : Nat) (f : Controller → Controller) : (updCtl s p f).suspect = s.suspect := rfl
@[simp] theorem updCtl_chks (s : Block) (p : Nat) (f : Controller → Controller) : (updCtl s p f).chks = s.chks := rfl
@[simp] theorem updCtl_lows (s : Block) (p : Nat) (f : Controller → Controller) : (updCtl s p f).lows = s.lows := rfl
@[simp] theorem updCtl_hub (s : Block) (p : Nat) (f : Controller → Controller) : (updCtl s p f).hub = s.hub := rfl
@[simp] theorem updCtl_power (s : Block) (p : Nat) (f : Controller → Controller) : (updCtl s p f).power = s.power := rfl
@[simp] theorem updCtl_handovers (s : Block) (p : Nat) (f : Controller → Controller) : (updCtl s p f).handovers = s.handovers := rfl
@[simp] theorem updCtl_readmits (s : Block) (p : Nat) (f : Controller → Controller) : (updCtl s p f).readmits = s.readmits := rfl
@[simp] theorem updCtl_faultFenced (s : Block) (p : Nat) (f : Controller → Controller) : (updCtl s p f).faultFenced = s.faultFenced := rfl
@[simp] theorem updCtl_retired (s : Block) (p : Nat) (f : Controller → Controller) : (updCtl s p f).retired = s.retired := rfl
@[simp] theorem updCtl_opt (s : Block) (p : Nat) (f : Controller → Controller) : (updCtl s p f).opt = s.opt := rfl
@[simp] theorem updCtl_cfl (s : Block) (p : Nat) (f : Controller → Controller) : (updCtl s p f).cfl = s.cfl := rfl
/-! updChk -/
@[simp] theorem updChk_now (s : Block) (u : Nat) (f : ChkUnit → ChkUnit) : (updChk s u f).now = s.now := rfl
@[simp] theorem updChk_fresh (s : Block) (u : Nat) (f : ChkUnit → ChkUnit) : (updChk s u f).fresh = s.fresh := rfl
@[simp] theorem updChk_pages (s : Block) (u : Nat) (f : ChkUnit → ChkUnit) : (updChk s u f).pages = s.pages := rfl
@[simp] theorem updChk_blank (s : Block) (u : Nat) (f : ChkUnit → ChkUnit) : (updChk s u f).blank = s.blank := rfl
@[simp] theorem updChk_cores (s : Block) (u : Nat) (f : ChkUnit → ChkUnit) : (updChk s u f).cores = s.cores := rfl
@[simp] theorem updChk_cs (s : Block) (u : Nat) (f : ChkUnit → ChkUnit) : (updChk s u f).cs = s.cs := rfl
@[simp] theorem updChk_dm (s : Block) (u : Nat) (f : ChkUnit → ChkUnit) : (updChk s u f).dm = s.dm := rfl
@[simp] theorem updChk_ctxs (s : Block) (u : Nat) (f : ChkUnit → ChkUnit) : (updChk s u f).ctxs = s.ctxs := rfl
@[simp] theorem updChk_aside (s : Block) (u : Nat) (f : ChkUnit → ChkUnit) : (updChk s u f).aside = s.aside := rfl
@[simp] theorem updChk_out (s : Block) (u : Nat) (f : ChkUnit → ChkUnit) : (updChk s u f).out = s.out := rfl
@[simp] theorem updChk_colls (s : Block) (u : Nat) (f : ChkUnit → ChkUnit) : (updChk s u f).colls = s.colls := rfl
@[simp] theorem updChk_nextPost (s : Block) (u : Nat) (f : ChkUnit → ChkUnit) : (updChk s u f).nextPost = s.nextPost := rfl
@[simp] theorem updChk_nextCompute (s : Block) (u : Nat) (f : ChkUnit → ChkUnit) : (updChk s u f).nextCompute = s.nextCompute := rfl
@[simp] theorem updChk_ctls (s : Block) (u : Nat) (f : ChkUnit → ChkUnit) : (updChk s u f).ctls = s.ctls := rfl
@[simp] theorem updChk_nextCtl (s : Block) (u : Nat) (f : ChkUnit → ChkUnit) : (updChk s u f).nextCtl = s.nextCtl := rfl
@[simp] theorem updChk_ctlBurst (s : Block) (u : Nat) (f : ChkUnit → ChkUnit) : (updChk s u f).ctlBurst = s.ctlBurst := rfl
@[simp] theorem updChk_pageUse (s : Block) (u : Nat) (f : ChkUnit → ChkUnit) : (updChk s u f).pageUse = s.pageUse := rfl
@[simp] theorem updChk_rr (s : Block) (u : Nat) (f : ChkUnit → ChkUnit) : (updChk s u f).rr = s.rr := rfl
@[simp] theorem updChk_sel (s : Block) (u : Nat) (f : ChkUnit → ChkUnit) : (updChk s u f).sel = s.sel := rfl
@[simp] theorem updChk_nss (s : Block) (u : Nat) (f : ChkUnit → ChkUnit) : (updChk s u f).nss = s.nss := rfl
@[simp] theorem updChk_med (s : Block) (u : Nat) (f : ChkUnit → ChkUnit) : (updChk s u f).med = s.med := rfl
@[simp] theorem updChk_idxs (s : Block) (u : Nat) (f : ChkUnit → ChkUnit) : (updChk s u f).idxs = s.idxs := rfl
@[simp] theorem updChk_evts (s : Block) (u : Nat) (f : ChkUnit → ChkUnit) : (updChk s u f).evts = s.evts := rfl
@[simp] theorem updChk_self (s : Block) (u : Nat) (f : ChkUnit → ChkUnit) : (updChk s u f).self = s.self := rfl
@[simp] theorem updChk_links (s : Block) (u : Nat) (f : ChkUnit → ChkUnit) : (updChk s u f).links = s.links := rfl
@[simp] theorem updChk_routerIn (s : Block) (u : Nat) (f : ChkUnit → ChkUnit) : (updChk s u f).routerIn = s.routerIn := rfl
@[simp] theorem updChk_inbox (s : Block) (u : Nat) (f : ChkUnit → ChkUnit) : (updChk s u f).inbox = s.inbox := rfl
@[simp] theorem updChk_routes (s : Block) (u : Nat) (f : ChkUnit → ChkUnit) : (updChk s u f).routes = s.routes := rfl
@[simp] theorem updChk_txs (s : Block) (u : Nat) (f : ChkUnit → ChkUnit) : (updChk s u f).txs = s.txs := rfl
@[simp] theorem updChk_rxs (s : Block) (u : Nat) (f : ChkUnit → ChkUnit) : (updChk s u f).rxs = s.rxs := rfl
@[simp] theorem updChk_stu (s : Block) (u : Nat) (f : ChkUnit → ChkUnit) : (updChk s u f).stu = s.stu := rfl
@[simp] theorem updChk_low (s : Block) (u : Nat) (f : ChkUnit → ChkUnit) : (updChk s u f).low = s.low := rfl
@[simp] theorem updChk_lowSince (s : Block) (u : Nat) (f : ChkUnit → ChkUnit) : (updChk s u f).lowSince = s.lowSince := rfl
@[simp] theorem updChk_wakes (s : Block) (u : Nat) (f : ChkUnit → ChkUnit) : (updChk s u f).wakes = s.wakes := rfl
@[simp] theorem updChk_hostResume (s : Block) (u : Nat) (f : ChkUnit → ChkUnit) : (updChk s u f).hostResume = s.hostResume := rfl
@[simp] theorem updChk_resuming (s : Block) (u : Nat) (f : ChkUnit → ChkUnit) : (updChk s u f).resuming = s.resuming := rfl
@[simp] theorem updChk_pmeSent (s : Block) (u : Nat) (f : ChkUnit → ChkUnit) : (updChk s u f).pmeSent = s.pmeSent := rfl
@[simp] theorem updChk_adm (s : Block) (u : Nat) (f : ChkUnit → ChkUnit) : (updChk s u f).adm = s.adm := rfl
@[simp] theorem updChk_dmErr (s : Block) (u : Nat) (f : ChkUnit → ChkUnit) : (updChk s u f).dmErr = s.dmErr := rfl
@[simp] theorem updChk_crit (s : Block) (u : Nat) (f : ChkUnit → ChkUnit) : (updChk s u f).crit = s.crit := rfl
@[simp] theorem updChk_critRead (s : Block) (u : Nat) (f : ChkUnit → ChkUnit) : (updChk s u f).critRead = s.critRead := rfl
@[simp] theorem updChk_life (s : Block) (u : Nat) (f : ChkUnit → ChkUnit) : (updChk s u f).life = s.life := rfl
@[simp] theorem updChk_supply (s : Block) (u : Nat) (f : ChkUnit → ChkUnit) : (updChk s u f).supply = s.supply := rfl
@[simp] theorem updChk_pace (s : Block) (u : Nat) (f : ChkUnit → ChkUnit) : (updChk s u f).pace = s.pace := rfl
@[simp] theorem updChk_paceEnd (s : Block) (u : Nat) (f : ChkUnit → ChkUnit) : (updChk s u f).paceEnd = s.paceEnd := rfl
@[simp] theorem updChk_rgnLatch (s : Block) (u : Nat) (f : ChkUnit → ChkUnit) : (updChk s u f).rgnLatch = s.rgnLatch := rfl
@[simp] theorem updChk_dmWb (s : Block) (u : Nat) (f : ChkUnit → ChkUnit) : (updChk s u f).dmWb = s.dmWb := rfl
@[simp] theorem updChk_dmCount (s : Block) (u : Nat) (f : ChkUnit → ChkUnit) : (updChk s u f).dmCount = s.dmCount := rfl
@[simp] theorem updChk_dmWindow (s : Block) (u : Nat) (f : ChkUnit → ChkUnit) : (updChk s u f).dmWindow = s.dmWindow := rfl
@[simp] theorem updChk_sramErr (s : Block) (u : Nat) (f : ChkUnit → ChkUnit) : (updChk s u f).sramErr = s.sramErr := rfl
@[simp] theorem updChk_sramWb (s : Block) (u : Nat) (f : ChkUnit → ChkUnit) : (updChk s u f).sramWb = s.sramWb := rfl
@[simp] theorem updChk_scrubbed (s : Block) (u : Nat) (f : ChkUnit → ChkUnit) : (updChk s u f).scrubbed = s.scrubbed := rfl
@[simp] theorem updChk_suspect (s : Block) (u : Nat) (f : ChkUnit → ChkUnit) : (updChk s u f).suspect = s.suspect := rfl
@[simp] theorem updChk_lows (s : Block) (u : Nat) (f : ChkUnit → ChkUnit) : (updChk s u f).lows = s.lows := rfl
@[simp] theorem updChk_hub (s : Block) (u : Nat) (f : ChkUnit → ChkUnit) : (updChk s u f).hub = s.hub := rfl
@[simp] theorem updChk_power (s : Block) (u : Nat) (f : ChkUnit → ChkUnit) : (updChk s u f).power = s.power := rfl
@[simp] theorem updChk_handovers (s : Block) (u : Nat) (f : ChkUnit → ChkUnit) : (updChk s u f).handovers = s.handovers := rfl
@[simp] theorem updChk_readmits (s : Block) (u : Nat) (f : ChkUnit → ChkUnit) : (updChk s u f).readmits = s.readmits := rfl
@[simp] theorem updChk_faultFenced (s : Block) (u : Nat) (f : ChkUnit → ChkUnit) : (updChk s u f).faultFenced = s.faultFenced := rfl
@[simp] theorem updChk_retired (s : Block) (u : Nat) (f : ChkUnit → ChkUnit) : (updChk s u f).retired = s.retired := rfl
@[simp] theorem updChk_opt (s : Block) (u : Nat) (f : ChkUnit → ChkUnit) : (updChk s u f).opt = s.opt := rfl
@[simp] theorem updChk_cfl (s : Block) (u : Nat) (f : ChkUnit → ChkUnit) : (updChk s u f).cfl = s.cfl := rfl
/-! updCfl -/
@[simp] theorem updCfl_now (s : Block) (f : CflState → CflState) : (updCfl s f).now = s.now := rfl
@[simp] theorem updCfl_fresh (s : Block) (f : CflState → CflState) : (updCfl s f).fresh = s.fresh := rfl
@[simp] theorem updCfl_pages (s : Block) (f : CflState → CflState) : (updCfl s f).pages = s.pages := rfl
@[simp] theorem updCfl_blank (s : Block) (f : CflState → CflState) : (updCfl s f).blank = s.blank := rfl
@[simp] theorem updCfl_cores (s : Block) (f : CflState → CflState) : (updCfl s f).cores = s.cores := rfl
@[simp] theorem updCfl_cs (s : Block) (f : CflState → CflState) : (updCfl s f).cs = s.cs := rfl
@[simp] theorem updCfl_dm (s : Block) (f : CflState → CflState) : (updCfl s f).dm = s.dm := rfl
@[simp] theorem updCfl_ctxs (s : Block) (f : CflState → CflState) : (updCfl s f).ctxs = s.ctxs := rfl
@[simp] theorem updCfl_aside (s : Block) (f : CflState → CflState) : (updCfl s f).aside = s.aside := rfl
@[simp] theorem updCfl_out (s : Block) (f : CflState → CflState) : (updCfl s f).out = s.out := rfl
@[simp] theorem updCfl_colls (s : Block) (f : CflState → CflState) : (updCfl s f).colls = s.colls := rfl
@[simp] theorem updCfl_nextPost (s : Block) (f : CflState → CflState) : (updCfl s f).nextPost = s.nextPost := rfl
@[simp] theorem updCfl_nextCompute (s : Block) (f : CflState → CflState) : (updCfl s f).nextCompute = s.nextCompute := rfl
@[simp] theorem updCfl_ctls (s : Block) (f : CflState → CflState) : (updCfl s f).ctls = s.ctls := rfl
@[simp] theorem updCfl_nextCtl (s : Block) (f : CflState → CflState) : (updCfl s f).nextCtl = s.nextCtl := rfl
@[simp] theorem updCfl_ctlBurst (s : Block) (f : CflState → CflState) : (updCfl s f).ctlBurst = s.ctlBurst := rfl
@[simp] theorem updCfl_pageUse (s : Block) (f : CflState → CflState) : (updCfl s f).pageUse = s.pageUse := rfl
@[simp] theorem updCfl_rr (s : Block) (f : CflState → CflState) : (updCfl s f).rr = s.rr := rfl
@[simp] theorem updCfl_sel (s : Block) (f : CflState → CflState) : (updCfl s f).sel = s.sel := rfl
@[simp] theorem updCfl_nss (s : Block) (f : CflState → CflState) : (updCfl s f).nss = s.nss := rfl
@[simp] theorem updCfl_med (s : Block) (f : CflState → CflState) : (updCfl s f).med = s.med := rfl
@[simp] theorem updCfl_idxs (s : Block) (f : CflState → CflState) : (updCfl s f).idxs = s.idxs := rfl
@[simp] theorem updCfl_evts (s : Block) (f : CflState → CflState) : (updCfl s f).evts = s.evts := rfl
@[simp] theorem updCfl_self (s : Block) (f : CflState → CflState) : (updCfl s f).self = s.self := rfl
@[simp] theorem updCfl_links (s : Block) (f : CflState → CflState) : (updCfl s f).links = s.links := rfl
@[simp] theorem updCfl_routerIn (s : Block) (f : CflState → CflState) : (updCfl s f).routerIn = s.routerIn := rfl
@[simp] theorem updCfl_inbox (s : Block) (f : CflState → CflState) : (updCfl s f).inbox = s.inbox := rfl
@[simp] theorem updCfl_routes (s : Block) (f : CflState → CflState) : (updCfl s f).routes = s.routes := rfl
@[simp] theorem updCfl_txs (s : Block) (f : CflState → CflState) : (updCfl s f).txs = s.txs := rfl
@[simp] theorem updCfl_rxs (s : Block) (f : CflState → CflState) : (updCfl s f).rxs = s.rxs := rfl
@[simp] theorem updCfl_stu (s : Block) (f : CflState → CflState) : (updCfl s f).stu = s.stu := rfl
@[simp] theorem updCfl_low (s : Block) (f : CflState → CflState) : (updCfl s f).low = s.low := rfl
@[simp] theorem updCfl_lowSince (s : Block) (f : CflState → CflState) : (updCfl s f).lowSince = s.lowSince := rfl
@[simp] theorem updCfl_wakes (s : Block) (f : CflState → CflState) : (updCfl s f).wakes = s.wakes := rfl
@[simp] theorem updCfl_hostResume (s : Block) (f : CflState → CflState) : (updCfl s f).hostResume = s.hostResume := rfl
@[simp] theorem updCfl_resuming (s : Block) (f : CflState → CflState) : (updCfl s f).resuming = s.resuming := rfl
@[simp] theorem updCfl_pmeSent (s : Block) (f : CflState → CflState) : (updCfl s f).pmeSent = s.pmeSent := rfl
@[simp] theorem updCfl_adm (s : Block) (f : CflState → CflState) : (updCfl s f).adm = s.adm := rfl
@[simp] theorem updCfl_dmErr (s : Block) (f : CflState → CflState) : (updCfl s f).dmErr = s.dmErr := rfl
@[simp] theorem updCfl_crit (s : Block) (f : CflState → CflState) : (updCfl s f).crit = s.crit := rfl
@[simp] theorem updCfl_critRead (s : Block) (f : CflState → CflState) : (updCfl s f).critRead = s.critRead := rfl
@[simp] theorem updCfl_life (s : Block) (f : CflState → CflState) : (updCfl s f).life = s.life := rfl
@[simp] theorem updCfl_supply (s : Block) (f : CflState → CflState) : (updCfl s f).supply = s.supply := rfl
@[simp] theorem updCfl_pace (s : Block) (f : CflState → CflState) : (updCfl s f).pace = s.pace := rfl
@[simp] theorem updCfl_paceEnd (s : Block) (f : CflState → CflState) : (updCfl s f).paceEnd = s.paceEnd := rfl
@[simp] theorem updCfl_rgnLatch (s : Block) (f : CflState → CflState) : (updCfl s f).rgnLatch = s.rgnLatch := rfl
@[simp] theorem updCfl_dmWb (s : Block) (f : CflState → CflState) : (updCfl s f).dmWb = s.dmWb := rfl
@[simp] theorem updCfl_dmCount (s : Block) (f : CflState → CflState) : (updCfl s f).dmCount = s.dmCount := rfl
@[simp] theorem updCfl_dmWindow (s : Block) (f : CflState → CflState) : (updCfl s f).dmWindow = s.dmWindow := rfl
@[simp] theorem updCfl_sramErr (s : Block) (f : CflState → CflState) : (updCfl s f).sramErr = s.sramErr := rfl
@[simp] theorem updCfl_sramWb (s : Block) (f : CflState → CflState) : (updCfl s f).sramWb = s.sramWb := rfl
@[simp] theorem updCfl_scrubbed (s : Block) (f : CflState → CflState) : (updCfl s f).scrubbed = s.scrubbed := rfl
@[simp] theorem updCfl_suspect (s : Block) (f : CflState → CflState) : (updCfl s f).suspect = s.suspect := rfl
@[simp] theorem updCfl_chks (s : Block) (f : CflState → CflState) : (updCfl s f).chks = s.chks := rfl
@[simp] theorem updCfl_lows (s : Block) (f : CflState → CflState) : (updCfl s f).lows = s.lows := rfl
@[simp] theorem updCfl_hub (s : Block) (f : CflState → CflState) : (updCfl s f).hub = s.hub := rfl
@[simp] theorem updCfl_power (s : Block) (f : CflState → CflState) : (updCfl s f).power = s.power := rfl
@[simp] theorem updCfl_handovers (s : Block) (f : CflState → CflState) : (updCfl s f).handovers = s.handovers := rfl
@[simp] theorem updCfl_readmits (s : Block) (f : CflState → CflState) : (updCfl s f).readmits = s.readmits := rfl
@[simp] theorem updCfl_faultFenced (s : Block) (f : CflState → CflState) : (updCfl s f).faultFenced = s.faultFenced := rfl
@[simp] theorem updCfl_retired (s : Block) (f : CflState → CflState) : (updCfl s f).retired = s.retired := rfl
@[simp] theorem updCfl_opt (s : Block) (f : CflState → CflState) : (updCfl s f).opt = s.opt := rfl
/-! updOpt -/
@[simp] theorem updOpt_now (s : Block) (f : OptState → OptState) : (updOpt s f).now = s.now := rfl
@[simp] theorem updOpt_fresh (s : Block) (f : OptState → OptState) : (updOpt s f).fresh = s.fresh := rfl
@[simp] theorem updOpt_pages (s : Block) (f : OptState → OptState) : (updOpt s f).pages = s.pages := rfl
@[simp] theorem updOpt_blank (s : Block) (f : OptState → OptState) : (updOpt s f).blank = s.blank := rfl
@[simp] theorem updOpt_cores (s : Block) (f : OptState → OptState) : (updOpt s f).cores = s.cores := rfl
@[simp] theorem updOpt_cs (s : Block) (f : OptState → OptState) : (updOpt s f).cs = s.cs := rfl
@[simp] theorem updOpt_dm (s : Block) (f : OptState → OptState) : (updOpt s f).dm = s.dm := rfl
@[simp] theorem updOpt_ctxs (s : Block) (f : OptState → OptState) : (updOpt s f).ctxs = s.ctxs := rfl
@[simp] theorem updOpt_aside (s : Block) (f : OptState → OptState) : (updOpt s f).aside = s.aside := rfl
@[simp] theorem updOpt_out (s : Block) (f : OptState → OptState) : (updOpt s f).out = s.out := rfl
@[simp] theorem updOpt_colls (s : Block) (f : OptState → OptState) : (updOpt s f).colls = s.colls := rfl
@[simp] theorem updOpt_nextPost (s : Block) (f : OptState → OptState) : (updOpt s f).nextPost = s.nextPost := rfl
@[simp] theorem updOpt_nextCompute (s : Block) (f : OptState → OptState) : (updOpt s f).nextCompute = s.nextCompute := rfl
@[simp] theorem updOpt_ctls (s : Block) (f : OptState → OptState) : (updOpt s f).ctls = s.ctls := rfl
@[simp] theorem updOpt_nextCtl (s : Block) (f : OptState → OptState) : (updOpt s f).nextCtl = s.nextCtl := rfl
@[simp] theorem updOpt_ctlBurst (s : Block) (f : OptState → OptState) : (updOpt s f).ctlBurst = s.ctlBurst := rfl
@[simp] theorem updOpt_pageUse (s : Block) (f : OptState → OptState) : (updOpt s f).pageUse = s.pageUse := rfl
@[simp] theorem updOpt_rr (s : Block) (f : OptState → OptState) : (updOpt s f).rr = s.rr := rfl
@[simp] theorem updOpt_sel (s : Block) (f : OptState → OptState) : (updOpt s f).sel = s.sel := rfl
@[simp] theorem updOpt_nss (s : Block) (f : OptState → OptState) : (updOpt s f).nss = s.nss := rfl
@[simp] theorem updOpt_med (s : Block) (f : OptState → OptState) : (updOpt s f).med = s.med := rfl
@[simp] theorem updOpt_idxs (s : Block) (f : OptState → OptState) : (updOpt s f).idxs = s.idxs := rfl
@[simp] theorem updOpt_evts (s : Block) (f : OptState → OptState) : (updOpt s f).evts = s.evts := rfl
@[simp] theorem updOpt_self (s : Block) (f : OptState → OptState) : (updOpt s f).self = s.self := rfl
@[simp] theorem updOpt_links (s : Block) (f : OptState → OptState) : (updOpt s f).links = s.links := rfl
@[simp] theorem updOpt_routerIn (s : Block) (f : OptState → OptState) : (updOpt s f).routerIn = s.routerIn := rfl
@[simp] theorem updOpt_inbox (s : Block) (f : OptState → OptState) : (updOpt s f).inbox = s.inbox := rfl
@[simp] theorem updOpt_routes (s : Block) (f : OptState → OptState) : (updOpt s f).routes = s.routes := rfl
@[simp] theorem updOpt_txs (s : Block) (f : OptState → OptState) : (updOpt s f).txs = s.txs := rfl
@[simp] theorem updOpt_rxs (s : Block) (f : OptState → OptState) : (updOpt s f).rxs = s.rxs := rfl
@[simp] theorem updOpt_stu (s : Block) (f : OptState → OptState) : (updOpt s f).stu = s.stu := rfl
@[simp] theorem updOpt_low (s : Block) (f : OptState → OptState) : (updOpt s f).low = s.low := rfl
@[simp] theorem updOpt_lowSince (s : Block) (f : OptState → OptState) : (updOpt s f).lowSince = s.lowSince := rfl
@[simp] theorem updOpt_wakes (s : Block) (f : OptState → OptState) : (updOpt s f).wakes = s.wakes := rfl
@[simp] theorem updOpt_hostResume (s : Block) (f : OptState → OptState) : (updOpt s f).hostResume = s.hostResume := rfl
@[simp] theorem updOpt_resuming (s : Block) (f : OptState → OptState) : (updOpt s f).resuming = s.resuming := rfl
@[simp] theorem updOpt_pmeSent (s : Block) (f : OptState → OptState) : (updOpt s f).pmeSent = s.pmeSent := rfl
@[simp] theorem updOpt_adm (s : Block) (f : OptState → OptState) : (updOpt s f).adm = s.adm := rfl
@[simp] theorem updOpt_dmErr (s : Block) (f : OptState → OptState) : (updOpt s f).dmErr = s.dmErr := rfl
@[simp] theorem updOpt_crit (s : Block) (f : OptState → OptState) : (updOpt s f).crit = s.crit := rfl
@[simp] theorem updOpt_critRead (s : Block) (f : OptState → OptState) : (updOpt s f).critRead = s.critRead := rfl
@[simp] theorem updOpt_life (s : Block) (f : OptState → OptState) : (updOpt s f).life = s.life := rfl
@[simp] theorem updOpt_supply (s : Block) (f : OptState → OptState) : (updOpt s f).supply = s.supply := rfl
@[simp] theorem updOpt_pace (s : Block) (f : OptState → OptState) : (updOpt s f).pace = s.pace := rfl
@[simp] theorem updOpt_paceEnd (s : Block) (f : OptState → OptState) : (updOpt s f).paceEnd = s.paceEnd := rfl
@[simp] theorem updOpt_rgnLatch (s : Block) (f : OptState → OptState) : (updOpt s f).rgnLatch = s.rgnLatch := rfl
@[simp] theorem updOpt_dmWb (s : Block) (f : OptState → OptState) : (updOpt s f).dmWb = s.dmWb := rfl
@[simp] theorem updOpt_dmCount (s : Block) (f : OptState → OptState) : (updOpt s f).dmCount = s.dmCount := rfl
@[simp] theorem updOpt_dmWindow (s : Block) (f : OptState → OptState) : (updOpt s f).dmWindow = s.dmWindow := rfl
@[simp] theorem updOpt_sramErr (s : Block) (f : OptState → OptState) : (updOpt s f).sramErr = s.sramErr := rfl
@[simp] theorem updOpt_sramWb (s : Block) (f : OptState → OptState) : (updOpt s f).sramWb = s.sramWb := rfl
@[simp] theorem updOpt_scrubbed (s : Block) (f : OptState → OptState) : (updOpt s f).scrubbed = s.scrubbed := rfl
@[simp] theorem updOpt_suspect (s : Block) (f : OptState → OptState) : (updOpt s f).suspect = s.suspect := rfl
@[simp] theorem updOpt_chks (s : Block) (f : OptState → OptState) : (updOpt s f).chks = s.chks := rfl
@[simp] theorem updOpt_lows (s : Block) (f : OptState → OptState) : (updOpt s f).lows = s.lows := rfl
@[simp] theorem updOpt_hub (s : Block) (f : OptState → OptState) : (updOpt s f).hub = s.hub := rfl
@[simp] theorem updOpt_power (s : Block) (f : OptState → OptState) : (updOpt s f).power = s.power := rfl
@[simp] theorem updOpt_handovers (s : Block) (f : OptState → OptState) : (updOpt s f).handovers = s.handovers := rfl
@[simp] theorem updOpt_readmits (s : Block) (f : OptState → OptState) : (updOpt s f).readmits = s.readmits := rfl
@[simp] theorem updOpt_faultFenced (s : Block) (f : OptState → OptState) : (updOpt s f).faultFenced = s.faultFenced := rfl
@[simp] theorem updOpt_retired (s : Block) (f : OptState → OptState) : (updOpt s f).retired = s.retired := rfl
@[simp] theorem updOpt_cfl (s : Block) (f : OptState → OptState) : (updOpt s f).cfl = s.cfl := rfl
/-! putLow -/
@[simp] theorem putLow_now (s : Block) (p off : Nat) (w : Writer) (v : Word) : (putLow s p off w v).now = s.now := rfl
@[simp] theorem putLow_fresh (s : Block) (p off : Nat) (w : Writer) (v : Word) : (putLow s p off w v).fresh = s.fresh := rfl
@[simp] theorem putLow_pages (s : Block) (p off : Nat) (w : Writer) (v : Word) : (putLow s p off w v).pages = s.pages := rfl
@[simp] theorem putLow_blank (s : Block) (p off : Nat) (w : Writer) (v : Word) : (putLow s p off w v).blank = s.blank := rfl
@[simp] theorem putLow_cores (s : Block) (p off : Nat) (w : Writer) (v : Word) : (putLow s p off w v).cores = s.cores := rfl
@[simp] theorem putLow_cs (s : Block) (p off : Nat) (w : Writer) (v : Word) : (putLow s p off w v).cs = s.cs := rfl
@[simp] theorem putLow_dm (s : Block) (p off : Nat) (w : Writer) (v : Word) : (putLow s p off w v).dm = s.dm := rfl
@[simp] theorem putLow_ctxs (s : Block) (p off : Nat) (w : Writer) (v : Word) : (putLow s p off w v).ctxs = s.ctxs := rfl
@[simp] theorem putLow_aside (s : Block) (p off : Nat) (w : Writer) (v : Word) : (putLow s p off w v).aside = s.aside := rfl
@[simp] theorem putLow_out (s : Block) (p off : Nat) (w : Writer) (v : Word) : (putLow s p off w v).out = s.out := rfl
@[simp] theorem putLow_colls (s : Block) (p off : Nat) (w : Writer) (v : Word) : (putLow s p off w v).colls = s.colls := rfl
@[simp] theorem putLow_nextPost (s : Block) (p off : Nat) (w : Writer) (v : Word) : (putLow s p off w v).nextPost = s.nextPost := rfl
@[simp] theorem putLow_nextCompute (s : Block) (p off : Nat) (w : Writer) (v : Word) : (putLow s p off w v).nextCompute = s.nextCompute := rfl
@[simp] theorem putLow_ctls (s : Block) (p off : Nat) (w : Writer) (v : Word) : (putLow s p off w v).ctls = s.ctls := rfl
@[simp] theorem putLow_nextCtl (s : Block) (p off : Nat) (w : Writer) (v : Word) : (putLow s p off w v).nextCtl = s.nextCtl := rfl
@[simp] theorem putLow_ctlBurst (s : Block) (p off : Nat) (w : Writer) (v : Word) : (putLow s p off w v).ctlBurst = s.ctlBurst := rfl
@[simp] theorem putLow_pageUse (s : Block) (p off : Nat) (w : Writer) (v : Word) : (putLow s p off w v).pageUse = s.pageUse := rfl
@[simp] theorem putLow_rr (s : Block) (p off : Nat) (w : Writer) (v : Word) : (putLow s p off w v).rr = s.rr := rfl
@[simp] theorem putLow_sel (s : Block) (p off : Nat) (w : Writer) (v : Word) : (putLow s p off w v).sel = s.sel := rfl
@[simp] theorem putLow_nss (s : Block) (p off : Nat) (w : Writer) (v : Word) : (putLow s p off w v).nss = s.nss := rfl
@[simp] theorem putLow_med (s : Block) (p off : Nat) (w : Writer) (v : Word) : (putLow s p off w v).med = s.med := rfl
@[simp] theorem putLow_idxs (s : Block) (p off : Nat) (w : Writer) (v : Word) : (putLow s p off w v).idxs = s.idxs := rfl
@[simp] theorem putLow_evts (s : Block) (p off : Nat) (w : Writer) (v : Word) : (putLow s p off w v).evts = s.evts := rfl
@[simp] theorem putLow_self (s : Block) (p off : Nat) (w : Writer) (v : Word) : (putLow s p off w v).self = s.self := rfl
@[simp] theorem putLow_links (s : Block) (p off : Nat) (w : Writer) (v : Word) : (putLow s p off w v).links = s.links := rfl
@[simp] theorem putLow_routerIn (s : Block) (p off : Nat) (w : Writer) (v : Word) : (putLow s p off w v).routerIn = s.routerIn := rfl
@[simp] theorem putLow_inbox (s : Block) (p off : Nat) (w : Writer) (v : Word) : (putLow s p off w v).inbox = s.inbox := rfl
@[simp] theorem putLow_routes (s : Block) (p off : Nat) (w : Writer) (v : Word) : (putLow s p off w v).routes = s.routes := rfl
@[simp] theorem putLow_txs (s : Block) (p off : Nat) (w : Writer) (v : Word) : (putLow s p off w v).txs = s.txs := rfl
@[simp] theorem putLow_rxs (s : Block) (p off : Nat) (w : Writer) (v : Word) : (putLow s p off w v).rxs = s.rxs := rfl
@[simp] theorem putLow_stu (s : Block) (p off : Nat) (w : Writer) (v : Word) : (putLow s p off w v).stu = s.stu := rfl
@[simp] theorem putLow_low (s : Block) (p off : Nat) (w : Writer) (v : Word) : (putLow s p off w v).low = s.low := rfl
@[simp] theorem putLow_lowSince (s : Block) (p off : Nat) (w : Writer) (v : Word) : (putLow s p off w v).lowSince = s.lowSince := rfl
@[simp] theorem putLow_wakes (s : Block) (p off : Nat) (w : Writer) (v : Word) : (putLow s p off w v).wakes = s.wakes := rfl
@[simp] theorem putLow_hostResume (s : Block) (p off : Nat) (w : Writer) (v : Word) : (putLow s p off w v).hostResume = s.hostResume := rfl
@[simp] theorem putLow_resuming (s : Block) (p off : Nat) (w : Writer) (v : Word) : (putLow s p off w v).resuming = s.resuming := rfl
@[simp] theorem putLow_pmeSent (s : Block) (p off : Nat) (w : Writer) (v : Word) : (putLow s p off w v).pmeSent = s.pmeSent := rfl
@[simp] theorem putLow_adm (s : Block) (p off : Nat) (w : Writer) (v : Word) : (putLow s p off w v).adm = s.adm := rfl
@[simp] theorem putLow_dmErr (s : Block) (p off : Nat) (w : Writer) (v : Word) : (putLow s p off w v).dmErr = s.dmErr := rfl
@[simp] theorem putLow_crit (s : Block) (p off : Nat) (w : Writer) (v : Word) : (putLow s p off w v).crit = s.crit := rfl
@[simp] theorem putLow_critRead (s : Block) (p off : Nat) (w : Writer) (v : Word) : (putLow s p off w v).critRead = s.critRead := rfl
@[simp] theorem putLow_life (s : Block) (p off : Nat) (w : Writer) (v : Word) : (putLow s p off w v).life = s.life := rfl
@[simp] theorem putLow_supply (s : Block) (p off : Nat) (w : Writer) (v : Word) : (putLow s p off w v).supply = s.supply := rfl
@[simp] theorem putLow_pace (s : Block) (p off : Nat) (w : Writer) (v : Word) : (putLow s p off w v).pace = s.pace := rfl
@[simp] theorem putLow_paceEnd (s : Block) (p off : Nat) (w : Writer) (v : Word) : (putLow s p off w v).paceEnd = s.paceEnd := rfl
@[simp] theorem putLow_rgnLatch (s : Block) (p off : Nat) (w : Writer) (v : Word) : (putLow s p off w v).rgnLatch = s.rgnLatch := rfl
@[simp] theorem putLow_dmWb (s : Block) (p off : Nat) (w : Writer) (v : Word) : (putLow s p off w v).dmWb = s.dmWb := rfl
@[simp] theorem putLow_dmCount (s : Block) (p off : Nat) (w : Writer) (v : Word) : (putLow s p off w v).dmCount = s.dmCount := rfl
@[simp] theorem putLow_dmWindow (s : Block) (p off : Nat) (w : Writer) (v : Word) : (putLow s p off w v).dmWindow = s.dmWindow := rfl
@[simp] theorem putLow_sramErr (s : Block) (p off : Nat) (w : Writer) (v : Word) : (putLow s p off w v).sramErr = s.sramErr := rfl
@[simp] theorem putLow_sramWb (s : Block) (p off : Nat) (w : Writer) (v : Word) : (putLow s p off w v).sramWb = s.sramWb := rfl
@[simp] theorem putLow_scrubbed (s : Block) (p off : Nat) (w : Writer) (v : Word) : (putLow s p off w v).scrubbed = s.scrubbed := rfl
@[simp] theorem putLow_suspect (s : Block) (p off : Nat) (w : Writer) (v : Word) : (putLow s p off w v).suspect = s.suspect := rfl
@[simp] theorem putLow_chks (s : Block) (p off : Nat) (w : Writer) (v : Word) : (putLow s p off w v).chks = s.chks := rfl
@[simp] theorem putLow_hub (s : Block) (p off : Nat) (w : Writer) (v : Word) : (putLow s p off w v).hub = s.hub := rfl
@[simp] theorem putLow_power (s : Block) (p off : Nat) (w : Writer) (v : Word) : (putLow s p off w v).power = s.power := rfl
@[simp] theorem putLow_handovers (s : Block) (p off : Nat) (w : Writer) (v : Word) : (putLow s p off w v).handovers = s.handovers := rfl
@[simp] theorem putLow_readmits (s : Block) (p off : Nat) (w : Writer) (v : Word) : (putLow s p off w v).readmits = s.readmits := rfl
@[simp] theorem putLow_faultFenced (s : Block) (p off : Nat) (w : Writer) (v : Word) : (putLow s p off w v).faultFenced = s.faultFenced := rfl
@[simp] theorem putLow_retired (s : Block) (p off : Nat) (w : Writer) (v : Word) : (putLow s p off w v).retired = s.retired := rfl
@[simp] theorem putLow_opt (s : Block) (p off : Nat) (w : Writer) (v : Word) : (putLow s p off w v).opt = s.opt := rfl
@[simp] theorem putLow_cfl (s : Block) (p off : Nat) (w : Writer) (v : Word) : (putLow s p off w v).cfl = s.cfl := rfl
/-! updAdm -/
@[simp] theorem updAdm_now (s : Block) (f : AdminState → AdminState) : (updAdm s f).now = s.now := rfl
@[simp] theorem updAdm_fresh (s : Block) (f : AdminState → AdminState) : (updAdm s f).fresh = s.fresh := rfl
@[simp] theorem updAdm_pages (s : Block) (f : AdminState → AdminState) : (updAdm s f).pages = s.pages := rfl
@[simp] theorem updAdm_blank (s : Block) (f : AdminState → AdminState) : (updAdm s f).blank = s.blank := rfl
@[simp] theorem updAdm_cores (s : Block) (f : AdminState → AdminState) : (updAdm s f).cores = s.cores := rfl
@[simp] theorem updAdm_cs (s : Block) (f : AdminState → AdminState) : (updAdm s f).cs = s.cs := rfl
@[simp] theorem updAdm_dm (s : Block) (f : AdminState → AdminState) : (updAdm s f).dm = s.dm := rfl
@[simp] theorem updAdm_ctxs (s : Block) (f : AdminState → AdminState) : (updAdm s f).ctxs = s.ctxs := rfl
@[simp] theorem updAdm_aside (s : Block) (f : AdminState → AdminState) : (updAdm s f).aside = s.aside := rfl
@[simp] theorem updAdm_out (s : Block) (f : AdminState → AdminState) : (updAdm s f).out = s.out := rfl
@[simp] theorem updAdm_colls (s : Block) (f : AdminState → AdminState) : (updAdm s f).colls = s.colls := rfl
@[simp] theorem updAdm_nextPost (s : Block) (f : AdminState → AdminState) : (updAdm s f).nextPost = s.nextPost := rfl
@[simp] theorem updAdm_nextCompute (s : Block) (f : AdminState → AdminState) : (updAdm s f).nextCompute = s.nextCompute := rfl
@[simp] theorem updAdm_ctls (s : Block) (f : AdminState → AdminState) : (updAdm s f).ctls = s.ctls := rfl
@[simp] theorem updAdm_nextCtl (s : Block) (f : AdminState → AdminState) : (updAdm s f).nextCtl = s.nextCtl := rfl
@[simp] theorem updAdm_ctlBurst (s : Block) (f : AdminState → AdminState) : (updAdm s f).ctlBurst = s.ctlBurst := rfl
@[simp] theorem updAdm_pageUse (s : Block) (f : AdminState → AdminState) : (updAdm s f).pageUse = s.pageUse := rfl
@[simp] theorem updAdm_rr (s : Block) (f : AdminState → AdminState) : (updAdm s f).rr = s.rr := rfl
@[simp] theorem updAdm_sel (s : Block) (f : AdminState → AdminState) : (updAdm s f).sel = s.sel := rfl
@[simp] theorem updAdm_nss (s : Block) (f : AdminState → AdminState) : (updAdm s f).nss = s.nss := rfl
@[simp] theorem updAdm_med (s : Block) (f : AdminState → AdminState) : (updAdm s f).med = s.med := rfl
@[simp] theorem updAdm_idxs (s : Block) (f : AdminState → AdminState) : (updAdm s f).idxs = s.idxs := rfl
@[simp] theorem updAdm_evts (s : Block) (f : AdminState → AdminState) : (updAdm s f).evts = s.evts := rfl
@[simp] theorem updAdm_self (s : Block) (f : AdminState → AdminState) : (updAdm s f).self = s.self := rfl
@[simp] theorem updAdm_links (s : Block) (f : AdminState → AdminState) : (updAdm s f).links = s.links := rfl
@[simp] theorem updAdm_routerIn (s : Block) (f : AdminState → AdminState) : (updAdm s f).routerIn = s.routerIn := rfl
@[simp] theorem updAdm_inbox (s : Block) (f : AdminState → AdminState) : (updAdm s f).inbox = s.inbox := rfl
@[simp] theorem updAdm_routes (s : Block) (f : AdminState → AdminState) : (updAdm s f).routes = s.routes := rfl
@[simp] theorem updAdm_txs (s : Block) (f : AdminState → AdminState) : (updAdm s f).txs = s.txs := rfl
@[simp] theorem updAdm_rxs (s : Block) (f : AdminState → AdminState) : (updAdm s f).rxs = s.rxs := rfl
@[simp] theorem updAdm_stu (s : Block) (f : AdminState → AdminState) : (updAdm s f).stu = s.stu := rfl
@[simp] theorem updAdm_low (s : Block) (f : AdminState → AdminState) : (updAdm s f).low = s.low := rfl
@[simp] theorem updAdm_lowSince (s : Block) (f : AdminState → AdminState) : (updAdm s f).lowSince = s.lowSince := rfl
@[simp] theorem updAdm_wakes (s : Block) (f : AdminState → AdminState) : (updAdm s f).wakes = s.wakes := rfl
@[simp] theorem updAdm_hostResume (s : Block) (f : AdminState → AdminState) : (updAdm s f).hostResume = s.hostResume := rfl
@[simp] theorem updAdm_resuming (s : Block) (f : AdminState → AdminState) : (updAdm s f).resuming = s.resuming := rfl
@[simp] theorem updAdm_pmeSent (s : Block) (f : AdminState → AdminState) : (updAdm s f).pmeSent = s.pmeSent := rfl
@[simp] theorem updAdm_dmErr (s : Block) (f : AdminState → AdminState) : (updAdm s f).dmErr = s.dmErr := rfl
@[simp] theorem updAdm_crit (s : Block) (f : AdminState → AdminState) : (updAdm s f).crit = s.crit := rfl
@[simp] theorem updAdm_critRead (s : Block) (f : AdminState → AdminState) : (updAdm s f).critRead = s.critRead := rfl
@[simp] theorem updAdm_life (s : Block) (f : AdminState → AdminState) : (updAdm s f).life = s.life := rfl
@[simp] theorem updAdm_supply (s : Block) (f : AdminState → AdminState) : (updAdm s f).supply = s.supply := rfl
@[simp] theorem updAdm_pace (s : Block) (f : AdminState → AdminState) : (updAdm s f).pace = s.pace := rfl
@[simp] theorem updAdm_paceEnd (s : Block) (f : AdminState → AdminState) : (updAdm s f).paceEnd = s.paceEnd := rfl
@[simp] theorem updAdm_rgnLatch (s : Block) (f : AdminState → AdminState) : (updAdm s f).rgnLatch = s.rgnLatch := rfl
@[simp] theorem updAdm_dmWb (s : Block) (f : AdminState → AdminState) : (updAdm s f).dmWb = s.dmWb := rfl
@[simp] theorem updAdm_dmCount (s : Block) (f : AdminState → AdminState) : (updAdm s f).dmCount = s.dmCount := rfl
@[simp] theorem updAdm_dmWindow (s : Block) (f : AdminState → AdminState) : (updAdm s f).dmWindow = s.dmWindow := rfl
@[simp] theorem updAdm_sramErr (s : Block) (f : AdminState → AdminState) : (updAdm s f).sramErr = s.sramErr := rfl
@[simp] theorem updAdm_sramWb (s : Block) (f : AdminState → AdminState) : (updAdm s f).sramWb = s.sramWb := rfl
@[simp] theorem updAdm_scrubbed (s : Block) (f : AdminState → AdminState) : (updAdm s f).scrubbed = s.scrubbed := rfl
@[simp] theorem updAdm_suspect (s : Block) (f : AdminState → AdminState) : (updAdm s f).suspect = s.suspect := rfl
@[simp] theorem updAdm_chks (s : Block) (f : AdminState → AdminState) : (updAdm s f).chks = s.chks := rfl
@[simp] theorem updAdm_lows (s : Block) (f : AdminState → AdminState) : (updAdm s f).lows = s.lows := rfl
@[simp] theorem updAdm_hub (s : Block) (f : AdminState → AdminState) : (updAdm s f).hub = s.hub := rfl
@[simp] theorem updAdm_power (s : Block) (f : AdminState → AdminState) : (updAdm s f).power = s.power := rfl
@[simp] theorem updAdm_handovers (s : Block) (f : AdminState → AdminState) : (updAdm s f).handovers = s.handovers := rfl
@[simp] theorem updAdm_readmits (s : Block) (f : AdminState → AdminState) : (updAdm s f).readmits = s.readmits := rfl
@[simp] theorem updAdm_faultFenced (s : Block) (f : AdminState → AdminState) : (updAdm s f).faultFenced = s.faultFenced := rfl
@[simp] theorem updAdm_retired (s : Block) (f : AdminState → AdminState) : (updAdm s f).retired = s.retired := rfl
@[simp] theorem updAdm_opt (s : Block) (f : AdminState → AdminState) : (updAdm s f).opt = s.opt := rfl
@[simp] theorem updAdm_cfl (s : Block) (f : AdminState → AdminState) : (updAdm s f).cfl = s.cfl := rfl
/-! updDie -/
@[simp] theorem updDie_now (s : Block) (d : Nat) (f : FlashDie → FlashDie) : (updDie s d f).now = s.now := rfl
@[simp] theorem updDie_fresh (s : Block) (d : Nat) (f : FlashDie → FlashDie) : (updDie s d f).fresh = s.fresh := rfl
@[simp] theorem updDie_pages (s : Block) (d : Nat) (f : FlashDie → FlashDie) : (updDie s d f).pages = s.pages := rfl
@[simp] theorem updDie_blank (s : Block) (d : Nat) (f : FlashDie → FlashDie) : (updDie s d f).blank = s.blank := rfl
@[simp] theorem updDie_cores (s : Block) (d : Nat) (f : FlashDie → FlashDie) : (updDie s d f).cores = s.cores := rfl
@[simp] theorem updDie_cs (s : Block) (d : Nat) (f : FlashDie → FlashDie) : (updDie s d f).cs = s.cs := rfl
@[simp] theorem updDie_dm (s : Block) (d : Nat) (f : FlashDie → FlashDie) : (updDie s d f).dm = s.dm := rfl
@[simp] theorem updDie_ctxs (s : Block) (d : Nat) (f : FlashDie → FlashDie) : (updDie s d f).ctxs = s.ctxs := rfl
@[simp] theorem updDie_aside (s : Block) (d : Nat) (f : FlashDie → FlashDie) : (updDie s d f).aside = s.aside := rfl
@[simp] theorem updDie_out (s : Block) (d : Nat) (f : FlashDie → FlashDie) : (updDie s d f).out = s.out := rfl
@[simp] theorem updDie_colls (s : Block) (d : Nat) (f : FlashDie → FlashDie) : (updDie s d f).colls = s.colls := rfl
@[simp] theorem updDie_nextPost (s : Block) (d : Nat) (f : FlashDie → FlashDie) : (updDie s d f).nextPost = s.nextPost := rfl
@[simp] theorem updDie_nextCompute (s : Block) (d : Nat) (f : FlashDie → FlashDie) : (updDie s d f).nextCompute = s.nextCompute := rfl
@[simp] theorem updDie_ctls (s : Block) (d : Nat) (f : FlashDie → FlashDie) : (updDie s d f).ctls = s.ctls := rfl
@[simp] theorem updDie_nextCtl (s : Block) (d : Nat) (f : FlashDie → FlashDie) : (updDie s d f).nextCtl = s.nextCtl := rfl
@[simp] theorem updDie_ctlBurst (s : Block) (d : Nat) (f : FlashDie → FlashDie) : (updDie s d f).ctlBurst = s.ctlBurst := rfl
@[simp] theorem updDie_pageUse (s : Block) (d : Nat) (f : FlashDie → FlashDie) : (updDie s d f).pageUse = s.pageUse := rfl
@[simp] theorem updDie_rr (s : Block) (d : Nat) (f : FlashDie → FlashDie) : (updDie s d f).rr = s.rr := rfl
@[simp] theorem updDie_sel (s : Block) (d : Nat) (f : FlashDie → FlashDie) : (updDie s d f).sel = s.sel := rfl
@[simp] theorem updDie_nss (s : Block) (d : Nat) (f : FlashDie → FlashDie) : (updDie s d f).nss = s.nss := rfl
@[simp] theorem updDie_idxs (s : Block) (d : Nat) (f : FlashDie → FlashDie) : (updDie s d f).idxs = s.idxs := rfl
@[simp] theorem updDie_evts (s : Block) (d : Nat) (f : FlashDie → FlashDie) : (updDie s d f).evts = s.evts := rfl
@[simp] theorem updDie_self (s : Block) (d : Nat) (f : FlashDie → FlashDie) : (updDie s d f).self = s.self := rfl
@[simp] theorem updDie_links (s : Block) (d : Nat) (f : FlashDie → FlashDie) : (updDie s d f).links = s.links := rfl
@[simp] theorem updDie_routerIn (s : Block) (d : Nat) (f : FlashDie → FlashDie) : (updDie s d f).routerIn = s.routerIn := rfl
@[simp] theorem updDie_inbox (s : Block) (d : Nat) (f : FlashDie → FlashDie) : (updDie s d f).inbox = s.inbox := rfl
@[simp] theorem updDie_routes (s : Block) (d : Nat) (f : FlashDie → FlashDie) : (updDie s d f).routes = s.routes := rfl
@[simp] theorem updDie_txs (s : Block) (d : Nat) (f : FlashDie → FlashDie) : (updDie s d f).txs = s.txs := rfl
@[simp] theorem updDie_rxs (s : Block) (d : Nat) (f : FlashDie → FlashDie) : (updDie s d f).rxs = s.rxs := rfl
@[simp] theorem updDie_stu (s : Block) (d : Nat) (f : FlashDie → FlashDie) : (updDie s d f).stu = s.stu := rfl
@[simp] theorem updDie_low (s : Block) (d : Nat) (f : FlashDie → FlashDie) : (updDie s d f).low = s.low := rfl
@[simp] theorem updDie_lowSince (s : Block) (d : Nat) (f : FlashDie → FlashDie) : (updDie s d f).lowSince = s.lowSince := rfl
@[simp] theorem updDie_wakes (s : Block) (d : Nat) (f : FlashDie → FlashDie) : (updDie s d f).wakes = s.wakes := rfl
@[simp] theorem updDie_hostResume (s : Block) (d : Nat) (f : FlashDie → FlashDie) : (updDie s d f).hostResume = s.hostResume := rfl
@[simp] theorem updDie_resuming (s : Block) (d : Nat) (f : FlashDie → FlashDie) : (updDie s d f).resuming = s.resuming := rfl
@[simp] theorem updDie_pmeSent (s : Block) (d : Nat) (f : FlashDie → FlashDie) : (updDie s d f).pmeSent = s.pmeSent := rfl
@[simp] theorem updDie_adm (s : Block) (d : Nat) (f : FlashDie → FlashDie) : (updDie s d f).adm = s.adm := rfl
@[simp] theorem updDie_dmErr (s : Block) (d : Nat) (f : FlashDie → FlashDie) : (updDie s d f).dmErr = s.dmErr := rfl
@[simp] theorem updDie_crit (s : Block) (d : Nat) (f : FlashDie → FlashDie) : (updDie s d f).crit = s.crit := rfl
@[simp] theorem updDie_critRead (s : Block) (d : Nat) (f : FlashDie → FlashDie) : (updDie s d f).critRead = s.critRead := rfl
@[simp] theorem updDie_life (s : Block) (d : Nat) (f : FlashDie → FlashDie) : (updDie s d f).life = s.life := rfl
@[simp] theorem updDie_supply (s : Block) (d : Nat) (f : FlashDie → FlashDie) : (updDie s d f).supply = s.supply := rfl
@[simp] theorem updDie_pace (s : Block) (d : Nat) (f : FlashDie → FlashDie) : (updDie s d f).pace = s.pace := rfl
@[simp] theorem updDie_paceEnd (s : Block) (d : Nat) (f : FlashDie → FlashDie) : (updDie s d f).paceEnd = s.paceEnd := rfl
@[simp] theorem updDie_rgnLatch (s : Block) (d : Nat) (f : FlashDie → FlashDie) : (updDie s d f).rgnLatch = s.rgnLatch := rfl
@[simp] theorem updDie_dmWb (s : Block) (d : Nat) (f : FlashDie → FlashDie) : (updDie s d f).dmWb = s.dmWb := rfl
@[simp] theorem updDie_dmCount (s : Block) (d : Nat) (f : FlashDie → FlashDie) : (updDie s d f).dmCount = s.dmCount := rfl
@[simp] theorem updDie_dmWindow (s : Block) (d : Nat) (f : FlashDie → FlashDie) : (updDie s d f).dmWindow = s.dmWindow := rfl
@[simp] theorem updDie_sramErr (s : Block) (d : Nat) (f : FlashDie → FlashDie) : (updDie s d f).sramErr = s.sramErr := rfl
@[simp] theorem updDie_sramWb (s : Block) (d : Nat) (f : FlashDie → FlashDie) : (updDie s d f).sramWb = s.sramWb := rfl
@[simp] theorem updDie_scrubbed (s : Block) (d : Nat) (f : FlashDie → FlashDie) : (updDie s d f).scrubbed = s.scrubbed := rfl
@[simp] theorem updDie_suspect (s : Block) (d : Nat) (f : FlashDie → FlashDie) : (updDie s d f).suspect = s.suspect := rfl
@[simp] theorem updDie_chks (s : Block) (d : Nat) (f : FlashDie → FlashDie) : (updDie s d f).chks = s.chks := rfl
@[simp] theorem updDie_lows (s : Block) (d : Nat) (f : FlashDie → FlashDie) : (updDie s d f).lows = s.lows := rfl
@[simp] theorem updDie_hub (s : Block) (d : Nat) (f : FlashDie → FlashDie) : (updDie s d f).hub = s.hub := rfl
@[simp] theorem updDie_power (s : Block) (d : Nat) (f : FlashDie → FlashDie) : (updDie s d f).power = s.power := rfl
@[simp] theorem updDie_handovers (s : Block) (d : Nat) (f : FlashDie → FlashDie) : (updDie s d f).handovers = s.handovers := rfl
@[simp] theorem updDie_readmits (s : Block) (d : Nat) (f : FlashDie → FlashDie) : (updDie s d f).readmits = s.readmits := rfl
@[simp] theorem updDie_faultFenced (s : Block) (d : Nat) (f : FlashDie → FlashDie) : (updDie s d f).faultFenced = s.faultFenced := rfl
@[simp] theorem updDie_retired (s : Block) (d : Nat) (f : FlashDie → FlashDie) : (updDie s d f).retired = s.retired := rfl
@[simp] theorem updDie_opt (s : Block) (d : Nat) (f : FlashDie → FlashDie) : (updDie s d f).opt = s.opt := rfl
@[simp] theorem updDie_cfl (s : Block) (d : Nat) (f : FlashDie → FlashDie) : (updDie s d f).cfl = s.cfl := rfl
/-! updChan -/
@[simp] theorem updChan_now (s : Block) (c : Nat) (f : Channel → Channel) : (updChan s c f).now = s.now := rfl
@[simp] theorem updChan_fresh (s : Block) (c : Nat) (f : Channel → Channel) : (updChan s c f).fresh = s.fresh := rfl
@[simp] theorem updChan_pages (s : Block) (c : Nat) (f : Channel → Channel) : (updChan s c f).pages = s.pages := rfl
@[simp] theorem updChan_blank (s : Block) (c : Nat) (f : Channel → Channel) : (updChan s c f).blank = s.blank := rfl
@[simp] theorem updChan_cores (s : Block) (c : Nat) (f : Channel → Channel) : (updChan s c f).cores = s.cores := rfl
@[simp] theorem updChan_cs (s : Block) (c : Nat) (f : Channel → Channel) : (updChan s c f).cs = s.cs := rfl
@[simp] theorem updChan_dm (s : Block) (c : Nat) (f : Channel → Channel) : (updChan s c f).dm = s.dm := rfl
@[simp] theorem updChan_ctxs (s : Block) (c : Nat) (f : Channel → Channel) : (updChan s c f).ctxs = s.ctxs := rfl
@[simp] theorem updChan_aside (s : Block) (c : Nat) (f : Channel → Channel) : (updChan s c f).aside = s.aside := rfl
@[simp] theorem updChan_out (s : Block) (c : Nat) (f : Channel → Channel) : (updChan s c f).out = s.out := rfl
@[simp] theorem updChan_colls (s : Block) (c : Nat) (f : Channel → Channel) : (updChan s c f).colls = s.colls := rfl
@[simp] theorem updChan_nextPost (s : Block) (c : Nat) (f : Channel → Channel) : (updChan s c f).nextPost = s.nextPost := rfl
@[simp] theorem updChan_nextCompute (s : Block) (c : Nat) (f : Channel → Channel) : (updChan s c f).nextCompute = s.nextCompute := rfl
@[simp] theorem updChan_ctls (s : Block) (c : Nat) (f : Channel → Channel) : (updChan s c f).ctls = s.ctls := rfl
@[simp] theorem updChan_nextCtl (s : Block) (c : Nat) (f : Channel → Channel) : (updChan s c f).nextCtl = s.nextCtl := rfl
@[simp] theorem updChan_ctlBurst (s : Block) (c : Nat) (f : Channel → Channel) : (updChan s c f).ctlBurst = s.ctlBurst := rfl
@[simp] theorem updChan_pageUse (s : Block) (c : Nat) (f : Channel → Channel) : (updChan s c f).pageUse = s.pageUse := rfl
@[simp] theorem updChan_rr (s : Block) (c : Nat) (f : Channel → Channel) : (updChan s c f).rr = s.rr := rfl
@[simp] theorem updChan_sel (s : Block) (c : Nat) (f : Channel → Channel) : (updChan s c f).sel = s.sel := rfl
@[simp] theorem updChan_nss (s : Block) (c : Nat) (f : Channel → Channel) : (updChan s c f).nss = s.nss := rfl
@[simp] theorem updChan_idxs (s : Block) (c : Nat) (f : Channel → Channel) : (updChan s c f).idxs = s.idxs := rfl
@[simp] theorem updChan_evts (s : Block) (c : Nat) (f : Channel → Channel) : (updChan s c f).evts = s.evts := rfl
@[simp] theorem updChan_self (s : Block) (c : Nat) (f : Channel → Channel) : (updChan s c f).self = s.self := rfl
@[simp] theorem updChan_links (s : Block) (c : Nat) (f : Channel → Channel) : (updChan s c f).links = s.links := rfl
@[simp] theorem updChan_routerIn (s : Block) (c : Nat) (f : Channel → Channel) : (updChan s c f).routerIn = s.routerIn := rfl
@[simp] theorem updChan_inbox (s : Block) (c : Nat) (f : Channel → Channel) : (updChan s c f).inbox = s.inbox := rfl
@[simp] theorem updChan_routes (s : Block) (c : Nat) (f : Channel → Channel) : (updChan s c f).routes = s.routes := rfl
@[simp] theorem updChan_txs (s : Block) (c : Nat) (f : Channel → Channel) : (updChan s c f).txs = s.txs := rfl
@[simp] theorem updChan_rxs (s : Block) (c : Nat) (f : Channel → Channel) : (updChan s c f).rxs = s.rxs := rfl
@[simp] theorem updChan_stu (s : Block) (c : Nat) (f : Channel → Channel) : (updChan s c f).stu = s.stu := rfl
@[simp] theorem updChan_low (s : Block) (c : Nat) (f : Channel → Channel) : (updChan s c f).low = s.low := rfl
@[simp] theorem updChan_lowSince (s : Block) (c : Nat) (f : Channel → Channel) : (updChan s c f).lowSince = s.lowSince := rfl
@[simp] theorem updChan_wakes (s : Block) (c : Nat) (f : Channel → Channel) : (updChan s c f).wakes = s.wakes := rfl
@[simp] theorem updChan_hostResume (s : Block) (c : Nat) (f : Channel → Channel) : (updChan s c f).hostResume = s.hostResume := rfl
@[simp] theorem updChan_resuming (s : Block) (c : Nat) (f : Channel → Channel) : (updChan s c f).resuming = s.resuming := rfl
@[simp] theorem updChan_pmeSent (s : Block) (c : Nat) (f : Channel → Channel) : (updChan s c f).pmeSent = s.pmeSent := rfl
@[simp] theorem updChan_adm (s : Block) (c : Nat) (f : Channel → Channel) : (updChan s c f).adm = s.adm := rfl
@[simp] theorem updChan_dmErr (s : Block) (c : Nat) (f : Channel → Channel) : (updChan s c f).dmErr = s.dmErr := rfl
@[simp] theorem updChan_crit (s : Block) (c : Nat) (f : Channel → Channel) : (updChan s c f).crit = s.crit := rfl
@[simp] theorem updChan_critRead (s : Block) (c : Nat) (f : Channel → Channel) : (updChan s c f).critRead = s.critRead := rfl
@[simp] theorem updChan_life (s : Block) (c : Nat) (f : Channel → Channel) : (updChan s c f).life = s.life := rfl
@[simp] theorem updChan_supply (s : Block) (c : Nat) (f : Channel → Channel) : (updChan s c f).supply = s.supply := rfl
@[simp] theorem updChan_pace (s : Block) (c : Nat) (f : Channel → Channel) : (updChan s c f).pace = s.pace := rfl
@[simp] theorem updChan_paceEnd (s : Block) (c : Nat) (f : Channel → Channel) : (updChan s c f).paceEnd = s.paceEnd := rfl
@[simp] theorem updChan_rgnLatch (s : Block) (c : Nat) (f : Channel → Channel) : (updChan s c f).rgnLatch = s.rgnLatch := rfl
@[simp] theorem updChan_dmWb (s : Block) (c : Nat) (f : Channel → Channel) : (updChan s c f).dmWb = s.dmWb := rfl
@[simp] theorem updChan_dmCount (s : Block) (c : Nat) (f : Channel → Channel) : (updChan s c f).dmCount = s.dmCount := rfl
@[simp] theorem updChan_dmWindow (s : Block) (c : Nat) (f : Channel → Channel) : (updChan s c f).dmWindow = s.dmWindow := rfl
@[simp] theorem updChan_sramErr (s : Block) (c : Nat) (f : Channel → Channel) : (updChan s c f).sramErr = s.sramErr := rfl
@[simp] theorem updChan_sramWb (s : Block) (c : Nat) (f : Channel → Channel) : (updChan s c f).sramWb = s.sramWb := rfl
@[simp] theorem updChan_scrubbed (s : Block) (c : Nat) (f : Channel → Channel) : (updChan s c f).scrubbed = s.scrubbed := rfl
@[simp] theorem updChan_suspect (s : Block) (c : Nat) (f : Channel → Channel) : (updChan s c f).suspect = s.suspect := rfl
@[simp] theorem updChan_chks (s : Block) (c : Nat) (f : Channel → Channel) : (updChan s c f).chks = s.chks := rfl
@[simp] theorem updChan_lows (s : Block) (c : Nat) (f : Channel → Channel) : (updChan s c f).lows = s.lows := rfl
@[simp] theorem updChan_hub (s : Block) (c : Nat) (f : Channel → Channel) : (updChan s c f).hub = s.hub := rfl
@[simp] theorem updChan_power (s : Block) (c : Nat) (f : Channel → Channel) : (updChan s c f).power = s.power := rfl
@[simp] theorem updChan_handovers (s : Block) (c : Nat) (f : Channel → Channel) : (updChan s c f).handovers = s.handovers := rfl
@[simp] theorem updChan_readmits (s : Block) (c : Nat) (f : Channel → Channel) : (updChan s c f).readmits = s.readmits := rfl
@[simp] theorem updChan_faultFenced (s : Block) (c : Nat) (f : Channel → Channel) : (updChan s c f).faultFenced = s.faultFenced := rfl
@[simp] theorem updChan_retired (s : Block) (c : Nat) (f : Channel → Channel) : (updChan s c f).retired = s.retired := rfl
@[simp] theorem updChan_opt (s : Block) (c : Nat) (f : Channel → Channel) : (updChan s c f).opt = s.opt := rfl
@[simp] theorem updChan_cfl (s : Block) (c : Nat) (f : Channel → Channel) : (updChan s c f).cfl = s.cfl := rfl
/-! updMed -/
@[simp] theorem updMed_now (s : Block) (f : Media → Media) : (updMed s f).now = s.now := rfl
@[simp] theorem updMed_fresh (s : Block) (f : Media → Media) : (updMed s f).fresh = s.fresh := rfl
@[simp] theorem updMed_pages (s : Block) (f : Media → Media) : (updMed s f).pages = s.pages := rfl
@[simp] theorem updMed_blank (s : Block) (f : Media → Media) : (updMed s f).blank = s.blank := rfl
@[simp] theorem updMed_cores (s : Block) (f : Media → Media) : (updMed s f).cores = s.cores := rfl
@[simp] theorem updMed_cs (s : Block) (f : Media → Media) : (updMed s f).cs = s.cs := rfl
@[simp] theorem updMed_dm (s : Block) (f : Media → Media) : (updMed s f).dm = s.dm := rfl
@[simp] theorem updMed_ctxs (s : Block) (f : Media → Media) : (updMed s f).ctxs = s.ctxs := rfl
@[simp] theorem updMed_aside (s : Block) (f : Media → Media) : (updMed s f).aside = s.aside := rfl
@[simp] theorem updMed_out (s : Block) (f : Media → Media) : (updMed s f).out = s.out := rfl
@[simp] theorem updMed_colls (s : Block) (f : Media → Media) : (updMed s f).colls = s.colls := rfl
@[simp] theorem updMed_nextPost (s : Block) (f : Media → Media) : (updMed s f).nextPost = s.nextPost := rfl
@[simp] theorem updMed_nextCompute (s : Block) (f : Media → Media) : (updMed s f).nextCompute = s.nextCompute := rfl
@[simp] theorem updMed_ctls (s : Block) (f : Media → Media) : (updMed s f).ctls = s.ctls := rfl
@[simp] theorem updMed_nextCtl (s : Block) (f : Media → Media) : (updMed s f).nextCtl = s.nextCtl := rfl
@[simp] theorem updMed_ctlBurst (s : Block) (f : Media → Media) : (updMed s f).ctlBurst = s.ctlBurst := rfl
@[simp] theorem updMed_pageUse (s : Block) (f : Media → Media) : (updMed s f).pageUse = s.pageUse := rfl
@[simp] theorem updMed_rr (s : Block) (f : Media → Media) : (updMed s f).rr = s.rr := rfl
@[simp] theorem updMed_sel (s : Block) (f : Media → Media) : (updMed s f).sel = s.sel := rfl
@[simp] theorem updMed_nss (s : Block) (f : Media → Media) : (updMed s f).nss = s.nss := rfl
@[simp] theorem updMed_idxs (s : Block) (f : Media → Media) : (updMed s f).idxs = s.idxs := rfl
@[simp] theorem updMed_evts (s : Block) (f : Media → Media) : (updMed s f).evts = s.evts := rfl
@[simp] theorem updMed_self (s : Block) (f : Media → Media) : (updMed s f).self = s.self := rfl
@[simp] theorem updMed_links (s : Block) (f : Media → Media) : (updMed s f).links = s.links := rfl
@[simp] theorem updMed_routerIn (s : Block) (f : Media → Media) : (updMed s f).routerIn = s.routerIn := rfl
@[simp] theorem updMed_inbox (s : Block) (f : Media → Media) : (updMed s f).inbox = s.inbox := rfl
@[simp] theorem updMed_routes (s : Block) (f : Media → Media) : (updMed s f).routes = s.routes := rfl
@[simp] theorem updMed_txs (s : Block) (f : Media → Media) : (updMed s f).txs = s.txs := rfl
@[simp] theorem updMed_rxs (s : Block) (f : Media → Media) : (updMed s f).rxs = s.rxs := rfl
@[simp] theorem updMed_stu (s : Block) (f : Media → Media) : (updMed s f).stu = s.stu := rfl
@[simp] theorem updMed_low (s : Block) (f : Media → Media) : (updMed s f).low = s.low := rfl
@[simp] theorem updMed_lowSince (s : Block) (f : Media → Media) : (updMed s f).lowSince = s.lowSince := rfl
@[simp] theorem updMed_wakes (s : Block) (f : Media → Media) : (updMed s f).wakes = s.wakes := rfl
@[simp] theorem updMed_hostResume (s : Block) (f : Media → Media) : (updMed s f).hostResume = s.hostResume := rfl
@[simp] theorem updMed_resuming (s : Block) (f : Media → Media) : (updMed s f).resuming = s.resuming := rfl
@[simp] theorem updMed_pmeSent (s : Block) (f : Media → Media) : (updMed s f).pmeSent = s.pmeSent := rfl
@[simp] theorem updMed_adm (s : Block) (f : Media → Media) : (updMed s f).adm = s.adm := rfl
@[simp] theorem updMed_dmErr (s : Block) (f : Media → Media) : (updMed s f).dmErr = s.dmErr := rfl
@[simp] theorem updMed_crit (s : Block) (f : Media → Media) : (updMed s f).crit = s.crit := rfl
@[simp] theorem updMed_critRead (s : Block) (f : Media → Media) : (updMed s f).critRead = s.critRead := rfl
@[simp] theorem updMed_life (s : Block) (f : Media → Media) : (updMed s f).life = s.life := rfl
@[simp] theorem updMed_supply (s : Block) (f : Media → Media) : (updMed s f).supply = s.supply := rfl
@[simp] theorem updMed_pace (s : Block) (f : Media → Media) : (updMed s f).pace = s.pace := rfl
@[simp] theorem updMed_paceEnd (s : Block) (f : Media → Media) : (updMed s f).paceEnd = s.paceEnd := rfl
@[simp] theorem updMed_rgnLatch (s : Block) (f : Media → Media) : (updMed s f).rgnLatch = s.rgnLatch := rfl
@[simp] theorem updMed_dmWb (s : Block) (f : Media → Media) : (updMed s f).dmWb = s.dmWb := rfl
@[simp] theorem updMed_dmCount (s : Block) (f : Media → Media) : (updMed s f).dmCount = s.dmCount := rfl
@[simp] theorem updMed_dmWindow (s : Block) (f : Media → Media) : (updMed s f).dmWindow = s.dmWindow := rfl
@[simp] theorem updMed_sramErr (s : Block) (f : Media → Media) : (updMed s f).sramErr = s.sramErr := rfl
@[simp] theorem updMed_sramWb (s : Block) (f : Media → Media) : (updMed s f).sramWb = s.sramWb := rfl
@[simp] theorem updMed_scrubbed (s : Block) (f : Media → Media) : (updMed s f).scrubbed = s.scrubbed := rfl
@[simp] theorem updMed_suspect (s : Block) (f : Media → Media) : (updMed s f).suspect = s.suspect := rfl
@[simp] theorem updMed_chks (s : Block) (f : Media → Media) : (updMed s f).chks = s.chks := rfl
@[simp] theorem updMed_lows (s : Block) (f : Media → Media) : (updMed s f).lows = s.lows := rfl
@[simp] theorem updMed_hub (s : Block) (f : Media → Media) : (updMed s f).hub = s.hub := rfl
@[simp] theorem updMed_power (s : Block) (f : Media → Media) : (updMed s f).power = s.power := rfl
@[simp] theorem updMed_handovers (s : Block) (f : Media → Media) : (updMed s f).handovers = s.handovers := rfl
@[simp] theorem updMed_readmits (s : Block) (f : Media → Media) : (updMed s f).readmits = s.readmits := rfl
@[simp] theorem updMed_faultFenced (s : Block) (f : Media → Media) : (updMed s f).faultFenced = s.faultFenced := rfl
@[simp] theorem updMed_retired (s : Block) (f : Media → Media) : (updMed s f).retired = s.retired := rfl
@[simp] theorem updMed_opt (s : Block) (f : Media → Media) : (updMed s f).opt = s.opt := rfl
@[simp] theorem updMed_cfl (s : Block) (f : Media → Media) : (updMed s f).cfl = s.cfl := rfl
/-! updHub -/
@[simp] theorem updHub_now (s : Block) (f : HubState → HubState) : (updHub s f).now = s.now := rfl
@[simp] theorem updHub_fresh (s : Block) (f : HubState → HubState) : (updHub s f).fresh = s.fresh := rfl
@[simp] theorem updHub_pages (s : Block) (f : HubState → HubState) : (updHub s f).pages = s.pages := rfl
@[simp] theorem updHub_blank (s : Block) (f : HubState → HubState) : (updHub s f).blank = s.blank := rfl
@[simp] theorem updHub_cores (s : Block) (f : HubState → HubState) : (updHub s f).cores = s.cores := rfl
@[simp] theorem updHub_cs (s : Block) (f : HubState → HubState) : (updHub s f).cs = s.cs := rfl
@[simp] theorem updHub_dm (s : Block) (f : HubState → HubState) : (updHub s f).dm = s.dm := rfl
@[simp] theorem updHub_ctxs (s : Block) (f : HubState → HubState) : (updHub s f).ctxs = s.ctxs := rfl
@[simp] theorem updHub_aside (s : Block) (f : HubState → HubState) : (updHub s f).aside = s.aside := rfl
@[simp] theorem updHub_out (s : Block) (f : HubState → HubState) : (updHub s f).out = s.out := rfl
@[simp] theorem updHub_colls (s : Block) (f : HubState → HubState) : (updHub s f).colls = s.colls := rfl
@[simp] theorem updHub_nextPost (s : Block) (f : HubState → HubState) : (updHub s f).nextPost = s.nextPost := rfl
@[simp] theorem updHub_nextCompute (s : Block) (f : HubState → HubState) : (updHub s f).nextCompute = s.nextCompute := rfl
@[simp] theorem updHub_ctls (s : Block) (f : HubState → HubState) : (updHub s f).ctls = s.ctls := rfl
@[simp] theorem updHub_nextCtl (s : Block) (f : HubState → HubState) : (updHub s f).nextCtl = s.nextCtl := rfl
@[simp] theorem updHub_ctlBurst (s : Block) (f : HubState → HubState) : (updHub s f).ctlBurst = s.ctlBurst := rfl
@[simp] theorem updHub_pageUse (s : Block) (f : HubState → HubState) : (updHub s f).pageUse = s.pageUse := rfl
@[simp] theorem updHub_rr (s : Block) (f : HubState → HubState) : (updHub s f).rr = s.rr := rfl
@[simp] theorem updHub_sel (s : Block) (f : HubState → HubState) : (updHub s f).sel = s.sel := rfl
@[simp] theorem updHub_nss (s : Block) (f : HubState → HubState) : (updHub s f).nss = s.nss := rfl
@[simp] theorem updHub_med (s : Block) (f : HubState → HubState) : (updHub s f).med = s.med := rfl
@[simp] theorem updHub_idxs (s : Block) (f : HubState → HubState) : (updHub s f).idxs = s.idxs := rfl
@[simp] theorem updHub_evts (s : Block) (f : HubState → HubState) : (updHub s f).evts = s.evts := rfl
@[simp] theorem updHub_self (s : Block) (f : HubState → HubState) : (updHub s f).self = s.self := rfl
@[simp] theorem updHub_links (s : Block) (f : HubState → HubState) : (updHub s f).links = s.links := rfl
@[simp] theorem updHub_routerIn (s : Block) (f : HubState → HubState) : (updHub s f).routerIn = s.routerIn := rfl
@[simp] theorem updHub_inbox (s : Block) (f : HubState → HubState) : (updHub s f).inbox = s.inbox := rfl
@[simp] theorem updHub_routes (s : Block) (f : HubState → HubState) : (updHub s f).routes = s.routes := rfl
@[simp] theorem updHub_txs (s : Block) (f : HubState → HubState) : (updHub s f).txs = s.txs := rfl
@[simp] theorem updHub_rxs (s : Block) (f : HubState → HubState) : (updHub s f).rxs = s.rxs := rfl
@[simp] theorem updHub_stu (s : Block) (f : HubState → HubState) : (updHub s f).stu = s.stu := rfl
@[simp] theorem updHub_low (s : Block) (f : HubState → HubState) : (updHub s f).low = s.low := rfl
@[simp] theorem updHub_lowSince (s : Block) (f : HubState → HubState) : (updHub s f).lowSince = s.lowSince := rfl
@[simp] theorem updHub_wakes (s : Block) (f : HubState → HubState) : (updHub s f).wakes = s.wakes := rfl
@[simp] theorem updHub_hostResume (s : Block) (f : HubState → HubState) : (updHub s f).hostResume = s.hostResume := rfl
@[simp] theorem updHub_resuming (s : Block) (f : HubState → HubState) : (updHub s f).resuming = s.resuming := rfl
@[simp] theorem updHub_pmeSent (s : Block) (f : HubState → HubState) : (updHub s f).pmeSent = s.pmeSent := rfl
@[simp] theorem updHub_adm (s : Block) (f : HubState → HubState) : (updHub s f).adm = s.adm := rfl
@[simp] theorem updHub_dmErr (s : Block) (f : HubState → HubState) : (updHub s f).dmErr = s.dmErr := rfl
@[simp] theorem updHub_crit (s : Block) (f : HubState → HubState) : (updHub s f).crit = s.crit := rfl
@[simp] theorem updHub_critRead (s : Block) (f : HubState → HubState) : (updHub s f).critRead = s.critRead := rfl
@[simp] theorem updHub_life (s : Block) (f : HubState → HubState) : (updHub s f).life = s.life := rfl
@[simp] theorem updHub_supply (s : Block) (f : HubState → HubState) : (updHub s f).supply = s.supply := rfl
@[simp] theorem updHub_pace (s : Block) (f : HubState → HubState) : (updHub s f).pace = s.pace := rfl
@[simp] theorem updHub_paceEnd (s : Block) (f : HubState → HubState) : (updHub s f).paceEnd = s.paceEnd := rfl
@[simp] theorem updHub_rgnLatch (s : Block) (f : HubState → HubState) : (updHub s f).rgnLatch = s.rgnLatch := rfl
@[simp] theorem updHub_dmWb (s : Block) (f : HubState → HubState) : (updHub s f).dmWb = s.dmWb := rfl
@[simp] theorem updHub_dmCount (s : Block) (f : HubState → HubState) : (updHub s f).dmCount = s.dmCount := rfl
@[simp] theorem updHub_dmWindow (s : Block) (f : HubState → HubState) : (updHub s f).dmWindow = s.dmWindow := rfl
@[simp] theorem updHub_sramErr (s : Block) (f : HubState → HubState) : (updHub s f).sramErr = s.sramErr := rfl
@[simp] theorem updHub_sramWb (s : Block) (f : HubState → HubState) : (updHub s f).sramWb = s.sramWb := rfl
@[simp] theorem updHub_scrubbed (s : Block) (f : HubState → HubState) : (updHub s f).scrubbed = s.scrubbed := rfl
@[simp] theorem updHub_suspect (s : Block) (f : HubState → HubState) : (updHub s f).suspect = s.suspect := rfl
@[simp] theorem updHub_chks (s : Block) (f : HubState → HubState) : (updHub s f).chks = s.chks := rfl
@[simp] theorem updHub_lows (s : Block) (f : HubState → HubState) : (updHub s f).lows = s.lows := rfl
@[simp] theorem updHub_power (s : Block) (f : HubState → HubState) : (updHub s f).power = s.power := rfl
@[simp] theorem updHub_handovers (s : Block) (f : HubState → HubState) : (updHub s f).handovers = s.handovers := rfl
@[simp] theorem updHub_readmits (s : Block) (f : HubState → HubState) : (updHub s f).readmits = s.readmits := rfl
@[simp] theorem updHub_faultFenced (s : Block) (f : HubState → HubState) : (updHub s f).faultFenced = s.faultFenced := rfl
@[simp] theorem updHub_retired (s : Block) (f : HubState → HubState) : (updHub s f).retired = s.retired := rfl
@[simp] theorem updHub_opt (s : Block) (f : HubState → HubState) : (updHub s f).opt = s.opt := rfl
@[simp] theorem updHub_cfl (s : Block) (f : HubState → HubState) : (updHub s f).cfl = s.cfl := rfl
/-! updPower -/
@[simp] theorem updPower_now (s : Block) (f : PowerState → PowerState) : (updPower s f).now = s.now := rfl
@[simp] theorem updPower_fresh (s : Block) (f : PowerState → PowerState) : (updPower s f).fresh = s.fresh := rfl
@[simp] theorem updPower_pages (s : Block) (f : PowerState → PowerState) : (updPower s f).pages = s.pages := rfl
@[simp] theorem updPower_blank (s : Block) (f : PowerState → PowerState) : (updPower s f).blank = s.blank := rfl
@[simp] theorem updPower_cores (s : Block) (f : PowerState → PowerState) : (updPower s f).cores = s.cores := rfl
@[simp] theorem updPower_cs (s : Block) (f : PowerState → PowerState) : (updPower s f).cs = s.cs := rfl
@[simp] theorem updPower_dm (s : Block) (f : PowerState → PowerState) : (updPower s f).dm = s.dm := rfl
@[simp] theorem updPower_ctxs (s : Block) (f : PowerState → PowerState) : (updPower s f).ctxs = s.ctxs := rfl
@[simp] theorem updPower_aside (s : Block) (f : PowerState → PowerState) : (updPower s f).aside = s.aside := rfl
@[simp] theorem updPower_out (s : Block) (f : PowerState → PowerState) : (updPower s f).out = s.out := rfl
@[simp] theorem updPower_colls (s : Block) (f : PowerState → PowerState) : (updPower s f).colls = s.colls := rfl
@[simp] theorem updPower_nextPost (s : Block) (f : PowerState → PowerState) : (updPower s f).nextPost = s.nextPost := rfl
@[simp] theorem updPower_nextCompute (s : Block) (f : PowerState → PowerState) : (updPower s f).nextCompute = s.nextCompute := rfl
@[simp] theorem updPower_ctls (s : Block) (f : PowerState → PowerState) : (updPower s f).ctls = s.ctls := rfl
@[simp] theorem updPower_nextCtl (s : Block) (f : PowerState → PowerState) : (updPower s f).nextCtl = s.nextCtl := rfl
@[simp] theorem updPower_ctlBurst (s : Block) (f : PowerState → PowerState) : (updPower s f).ctlBurst = s.ctlBurst := rfl
@[simp] theorem updPower_pageUse (s : Block) (f : PowerState → PowerState) : (updPower s f).pageUse = s.pageUse := rfl
@[simp] theorem updPower_rr (s : Block) (f : PowerState → PowerState) : (updPower s f).rr = s.rr := rfl
@[simp] theorem updPower_sel (s : Block) (f : PowerState → PowerState) : (updPower s f).sel = s.sel := rfl
@[simp] theorem updPower_nss (s : Block) (f : PowerState → PowerState) : (updPower s f).nss = s.nss := rfl
@[simp] theorem updPower_med (s : Block) (f : PowerState → PowerState) : (updPower s f).med = s.med := rfl
@[simp] theorem updPower_idxs (s : Block) (f : PowerState → PowerState) : (updPower s f).idxs = s.idxs := rfl
@[simp] theorem updPower_evts (s : Block) (f : PowerState → PowerState) : (updPower s f).evts = s.evts := rfl
@[simp] theorem updPower_self (s : Block) (f : PowerState → PowerState) : (updPower s f).self = s.self := rfl
@[simp] theorem updPower_links (s : Block) (f : PowerState → PowerState) : (updPower s f).links = s.links := rfl
@[simp] theorem updPower_routerIn (s : Block) (f : PowerState → PowerState) : (updPower s f).routerIn = s.routerIn := rfl
@[simp] theorem updPower_inbox (s : Block) (f : PowerState → PowerState) : (updPower s f).inbox = s.inbox := rfl
@[simp] theorem updPower_routes (s : Block) (f : PowerState → PowerState) : (updPower s f).routes = s.routes := rfl
@[simp] theorem updPower_txs (s : Block) (f : PowerState → PowerState) : (updPower s f).txs = s.txs := rfl
@[simp] theorem updPower_rxs (s : Block) (f : PowerState → PowerState) : (updPower s f).rxs = s.rxs := rfl
@[simp] theorem updPower_stu (s : Block) (f : PowerState → PowerState) : (updPower s f).stu = s.stu := rfl
@[simp] theorem updPower_low (s : Block) (f : PowerState → PowerState) : (updPower s f).low = s.low := rfl
@[simp] theorem updPower_lowSince (s : Block) (f : PowerState → PowerState) : (updPower s f).lowSince = s.lowSince := rfl
@[simp] theorem updPower_wakes (s : Block) (f : PowerState → PowerState) : (updPower s f).wakes = s.wakes := rfl
@[simp] theorem updPower_hostResume (s : Block) (f : PowerState → PowerState) : (updPower s f).hostResume = s.hostResume := rfl
@[simp] theorem updPower_resuming (s : Block) (f : PowerState → PowerState) : (updPower s f).resuming = s.resuming := rfl
@[simp] theorem updPower_pmeSent (s : Block) (f : PowerState → PowerState) : (updPower s f).pmeSent = s.pmeSent := rfl
@[simp] theorem updPower_adm (s : Block) (f : PowerState → PowerState) : (updPower s f).adm = s.adm := rfl
@[simp] theorem updPower_dmErr (s : Block) (f : PowerState → PowerState) : (updPower s f).dmErr = s.dmErr := rfl
@[simp] theorem updPower_crit (s : Block) (f : PowerState → PowerState) : (updPower s f).crit = s.crit := rfl
@[simp] theorem updPower_critRead (s : Block) (f : PowerState → PowerState) : (updPower s f).critRead = s.critRead := rfl
@[simp] theorem updPower_life (s : Block) (f : PowerState → PowerState) : (updPower s f).life = s.life := rfl
@[simp] theorem updPower_supply (s : Block) (f : PowerState → PowerState) : (updPower s f).supply = s.supply := rfl
@[simp] theorem updPower_pace (s : Block) (f : PowerState → PowerState) : (updPower s f).pace = s.pace := rfl
@[simp] theorem updPower_paceEnd (s : Block) (f : PowerState → PowerState) : (updPower s f).paceEnd = s.paceEnd := rfl
@[simp] theorem updPower_rgnLatch (s : Block) (f : PowerState → PowerState) : (updPower s f).rgnLatch = s.rgnLatch := rfl
@[simp] theorem updPower_dmWb (s : Block) (f : PowerState → PowerState) : (updPower s f).dmWb = s.dmWb := rfl
@[simp] theorem updPower_dmCount (s : Block) (f : PowerState → PowerState) : (updPower s f).dmCount = s.dmCount := rfl
@[simp] theorem updPower_dmWindow (s : Block) (f : PowerState → PowerState) : (updPower s f).dmWindow = s.dmWindow := rfl
@[simp] theorem updPower_sramErr (s : Block) (f : PowerState → PowerState) : (updPower s f).sramErr = s.sramErr := rfl
@[simp] theorem updPower_sramWb (s : Block) (f : PowerState → PowerState) : (updPower s f).sramWb = s.sramWb := rfl
@[simp] theorem updPower_scrubbed (s : Block) (f : PowerState → PowerState) : (updPower s f).scrubbed = s.scrubbed := rfl
@[simp] theorem updPower_suspect (s : Block) (f : PowerState → PowerState) : (updPower s f).suspect = s.suspect := rfl
@[simp] theorem updPower_chks (s : Block) (f : PowerState → PowerState) : (updPower s f).chks = s.chks := rfl
@[simp] theorem updPower_lows (s : Block) (f : PowerState → PowerState) : (updPower s f).lows = s.lows := rfl
@[simp] theorem updPower_hub (s : Block) (f : PowerState → PowerState) : (updPower s f).hub = s.hub := rfl
@[simp] theorem updPower_handovers (s : Block) (f : PowerState → PowerState) : (updPower s f).handovers = s.handovers := rfl
@[simp] theorem updPower_readmits (s : Block) (f : PowerState → PowerState) : (updPower s f).readmits = s.readmits := rfl
@[simp] theorem updPower_faultFenced (s : Block) (f : PowerState → PowerState) : (updPower s f).faultFenced = s.faultFenced := rfl
@[simp] theorem updPower_retired (s : Block) (f : PowerState → PowerState) : (updPower s f).retired = s.retired := rfl
@[simp] theorem updPower_opt (s : Block) (f : PowerState → PowerState) : (updPower s f).opt = s.opt := rfl
@[simp] theorem updPower_cfl (s : Block) (f : PowerState → PowerState) : (updPower s f).cfl = s.cfl := rfl
/-! putTx -/
@[simp] theorem putTx_now (s : Block) (m vc : Nat) (t : TxStream) : (putTx s m vc t).now = s.now := rfl
@[simp] theorem putTx_fresh (s : Block) (m vc : Nat) (t : TxStream) : (putTx s m vc t).fresh = s.fresh := rfl
@[simp] theorem putTx_pages (s : Block) (m vc : Nat) (t : TxStream) : (putTx s m vc t).pages = s.pages := rfl
@[simp] theorem putTx_blank (s : Block) (m vc : Nat) (t : TxStream) : (putTx s m vc t).blank = s.blank := rfl
@[simp] theorem putTx_cores (s : Block) (m vc : Nat) (t : TxStream) : (putTx s m vc t).cores = s.cores := rfl
@[simp] theorem putTx_cs (s : Block) (m vc : Nat) (t : TxStream) : (putTx s m vc t).cs = s.cs := rfl
@[simp] theorem putTx_dm (s : Block) (m vc : Nat) (t : TxStream) : (putTx s m vc t).dm = s.dm := rfl
@[simp] theorem putTx_ctxs (s : Block) (m vc : Nat) (t : TxStream) : (putTx s m vc t).ctxs = s.ctxs := rfl
@[simp] theorem putTx_aside (s : Block) (m vc : Nat) (t : TxStream) : (putTx s m vc t).aside = s.aside := rfl
@[simp] theorem putTx_out (s : Block) (m vc : Nat) (t : TxStream) : (putTx s m vc t).out = s.out := rfl
@[simp] theorem putTx_colls (s : Block) (m vc : Nat) (t : TxStream) : (putTx s m vc t).colls = s.colls := rfl
@[simp] theorem putTx_nextPost (s : Block) (m vc : Nat) (t : TxStream) : (putTx s m vc t).nextPost = s.nextPost := rfl
@[simp] theorem putTx_nextCompute (s : Block) (m vc : Nat) (t : TxStream) : (putTx s m vc t).nextCompute = s.nextCompute := rfl
@[simp] theorem putTx_ctls (s : Block) (m vc : Nat) (t : TxStream) : (putTx s m vc t).ctls = s.ctls := rfl
@[simp] theorem putTx_nextCtl (s : Block) (m vc : Nat) (t : TxStream) : (putTx s m vc t).nextCtl = s.nextCtl := rfl
@[simp] theorem putTx_ctlBurst (s : Block) (m vc : Nat) (t : TxStream) : (putTx s m vc t).ctlBurst = s.ctlBurst := rfl
@[simp] theorem putTx_pageUse (s : Block) (m vc : Nat) (t : TxStream) : (putTx s m vc t).pageUse = s.pageUse := rfl
@[simp] theorem putTx_rr (s : Block) (m vc : Nat) (t : TxStream) : (putTx s m vc t).rr = s.rr := rfl
@[simp] theorem putTx_sel (s : Block) (m vc : Nat) (t : TxStream) : (putTx s m vc t).sel = s.sel := rfl
@[simp] theorem putTx_nss (s : Block) (m vc : Nat) (t : TxStream) : (putTx s m vc t).nss = s.nss := rfl
@[simp] theorem putTx_med (s : Block) (m vc : Nat) (t : TxStream) : (putTx s m vc t).med = s.med := rfl
@[simp] theorem putTx_idxs (s : Block) (m vc : Nat) (t : TxStream) : (putTx s m vc t).idxs = s.idxs := rfl
@[simp] theorem putTx_evts (s : Block) (m vc : Nat) (t : TxStream) : (putTx s m vc t).evts = s.evts := rfl
@[simp] theorem putTx_self (s : Block) (m vc : Nat) (t : TxStream) : (putTx s m vc t).self = s.self := rfl
@[simp] theorem putTx_links (s : Block) (m vc : Nat) (t : TxStream) : (putTx s m vc t).links = s.links := rfl
@[simp] theorem putTx_routerIn (s : Block) (m vc : Nat) (t : TxStream) : (putTx s m vc t).routerIn = s.routerIn := rfl
@[simp] theorem putTx_inbox (s : Block) (m vc : Nat) (t : TxStream) : (putTx s m vc t).inbox = s.inbox := rfl
@[simp] theorem putTx_routes (s : Block) (m vc : Nat) (t : TxStream) : (putTx s m vc t).routes = s.routes := rfl
@[simp] theorem putTx_rxs (s : Block) (m vc : Nat) (t : TxStream) : (putTx s m vc t).rxs = s.rxs := rfl
@[simp] theorem putTx_stu (s : Block) (m vc : Nat) (t : TxStream) : (putTx s m vc t).stu = s.stu := rfl
@[simp] theorem putTx_low (s : Block) (m vc : Nat) (t : TxStream) : (putTx s m vc t).low = s.low := rfl
@[simp] theorem putTx_lowSince (s : Block) (m vc : Nat) (t : TxStream) : (putTx s m vc t).lowSince = s.lowSince := rfl
@[simp] theorem putTx_wakes (s : Block) (m vc : Nat) (t : TxStream) : (putTx s m vc t).wakes = s.wakes := rfl
@[simp] theorem putTx_hostResume (s : Block) (m vc : Nat) (t : TxStream) : (putTx s m vc t).hostResume = s.hostResume := rfl
@[simp] theorem putTx_resuming (s : Block) (m vc : Nat) (t : TxStream) : (putTx s m vc t).resuming = s.resuming := rfl
@[simp] theorem putTx_pmeSent (s : Block) (m vc : Nat) (t : TxStream) : (putTx s m vc t).pmeSent = s.pmeSent := rfl
@[simp] theorem putTx_adm (s : Block) (m vc : Nat) (t : TxStream) : (putTx s m vc t).adm = s.adm := rfl
@[simp] theorem putTx_dmErr (s : Block) (m vc : Nat) (t : TxStream) : (putTx s m vc t).dmErr = s.dmErr := rfl
@[simp] theorem putTx_crit (s : Block) (m vc : Nat) (t : TxStream) : (putTx s m vc t).crit = s.crit := rfl
@[simp] theorem putTx_critRead (s : Block) (m vc : Nat) (t : TxStream) : (putTx s m vc t).critRead = s.critRead := rfl
@[simp] theorem putTx_life (s : Block) (m vc : Nat) (t : TxStream) : (putTx s m vc t).life = s.life := rfl
@[simp] theorem putTx_supply (s : Block) (m vc : Nat) (t : TxStream) : (putTx s m vc t).supply = s.supply := rfl
@[simp] theorem putTx_pace (s : Block) (m vc : Nat) (t : TxStream) : (putTx s m vc t).pace = s.pace := rfl
@[simp] theorem putTx_paceEnd (s : Block) (m vc : Nat) (t : TxStream) : (putTx s m vc t).paceEnd = s.paceEnd := rfl
@[simp] theorem putTx_rgnLatch (s : Block) (m vc : Nat) (t : TxStream) : (putTx s m vc t).rgnLatch = s.rgnLatch := rfl
@[simp] theorem putTx_dmWb (s : Block) (m vc : Nat) (t : TxStream) : (putTx s m vc t).dmWb = s.dmWb := rfl
@[simp] theorem putTx_dmCount (s : Block) (m vc : Nat) (t : TxStream) : (putTx s m vc t).dmCount = s.dmCount := rfl
@[simp] theorem putTx_dmWindow (s : Block) (m vc : Nat) (t : TxStream) : (putTx s m vc t).dmWindow = s.dmWindow := rfl
@[simp] theorem putTx_sramErr (s : Block) (m vc : Nat) (t : TxStream) : (putTx s m vc t).sramErr = s.sramErr := rfl
@[simp] theorem putTx_sramWb (s : Block) (m vc : Nat) (t : TxStream) : (putTx s m vc t).sramWb = s.sramWb := rfl
@[simp] theorem putTx_scrubbed (s : Block) (m vc : Nat) (t : TxStream) : (putTx s m vc t).scrubbed = s.scrubbed := rfl
@[simp] theorem putTx_suspect (s : Block) (m vc : Nat) (t : TxStream) : (putTx s m vc t).suspect = s.suspect := rfl
@[simp] theorem putTx_chks (s : Block) (m vc : Nat) (t : TxStream) : (putTx s m vc t).chks = s.chks := rfl
@[simp] theorem putTx_lows (s : Block) (m vc : Nat) (t : TxStream) : (putTx s m vc t).lows = s.lows := rfl
@[simp] theorem putTx_hub (s : Block) (m vc : Nat) (t : TxStream) : (putTx s m vc t).hub = s.hub := rfl
@[simp] theorem putTx_power (s : Block) (m vc : Nat) (t : TxStream) : (putTx s m vc t).power = s.power := rfl
@[simp] theorem putTx_handovers (s : Block) (m vc : Nat) (t : TxStream) : (putTx s m vc t).handovers = s.handovers := rfl
@[simp] theorem putTx_readmits (s : Block) (m vc : Nat) (t : TxStream) : (putTx s m vc t).readmits = s.readmits := rfl
@[simp] theorem putTx_faultFenced (s : Block) (m vc : Nat) (t : TxStream) : (putTx s m vc t).faultFenced = s.faultFenced := rfl
@[simp] theorem putTx_retired (s : Block) (m vc : Nat) (t : TxStream) : (putTx s m vc t).retired = s.retired := rfl
@[simp] theorem putTx_opt (s : Block) (m vc : Nat) (t : TxStream) : (putTx s m vc t).opt = s.opt := rfl
@[simp] theorem putTx_cfl (s : Block) (m vc : Nat) (t : TxStream) : (putTx s m vc t).cfl = s.cfl := rfl
/-! putRx -/
@[simp] theorem putRx_now (s : Block) (m vc : Nat) (t : RxStream) : (putRx s m vc t).now = s.now := rfl
@[simp] theorem putRx_fresh (s : Block) (m vc : Nat) (t : RxStream) : (putRx s m vc t).fresh = s.fresh := rfl
@[simp] theorem putRx_pages (s : Block) (m vc : Nat) (t : RxStream) : (putRx s m vc t).pages = s.pages := rfl
@[simp] theorem putRx_blank (s : Block) (m vc : Nat) (t : RxStream) : (putRx s m vc t).blank = s.blank := rfl
@[simp] theorem putRx_cores (s : Block) (m vc : Nat) (t : RxStream) : (putRx s m vc t).cores = s.cores := rfl
@[simp] theorem putRx_cs (s : Block) (m vc : Nat) (t : RxStream) : (putRx s m vc t).cs = s.cs := rfl
@[simp] theorem putRx_dm (s : Block) (m vc : Nat) (t : RxStream) : (putRx s m vc t).dm = s.dm := rfl
@[simp] theorem putRx_ctxs (s : Block) (m vc : Nat) (t : RxStream) : (putRx s m vc t).ctxs = s.ctxs := rfl
@[simp] theorem putRx_aside (s : Block) (m vc : Nat) (t : RxStream) : (putRx s m vc t).aside = s.aside := rfl
@[simp] theorem putRx_out (s : Block) (m vc : Nat) (t : RxStream) : (putRx s m vc t).out = s.out := rfl
@[simp] theorem putRx_colls (s : Block) (m vc : Nat) (t : RxStream) : (putRx s m vc t).colls = s.colls := rfl
@[simp] theorem putRx_nextPost (s : Block) (m vc : Nat) (t : RxStream) : (putRx s m vc t).nextPost = s.nextPost := rfl
@[simp] theorem putRx_nextCompute (s : Block) (m vc : Nat) (t : RxStream) : (putRx s m vc t).nextCompute = s.nextCompute := rfl
@[simp] theorem putRx_ctls (s : Block) (m vc : Nat) (t : RxStream) : (putRx s m vc t).ctls = s.ctls := rfl
@[simp] theorem putRx_nextCtl (s : Block) (m vc : Nat) (t : RxStream) : (putRx s m vc t).nextCtl = s.nextCtl := rfl
@[simp] theorem putRx_ctlBurst (s : Block) (m vc : Nat) (t : RxStream) : (putRx s m vc t).ctlBurst = s.ctlBurst := rfl
@[simp] theorem putRx_pageUse (s : Block) (m vc : Nat) (t : RxStream) : (putRx s m vc t).pageUse = s.pageUse := rfl
@[simp] theorem putRx_rr (s : Block) (m vc : Nat) (t : RxStream) : (putRx s m vc t).rr = s.rr := rfl
@[simp] theorem putRx_sel (s : Block) (m vc : Nat) (t : RxStream) : (putRx s m vc t).sel = s.sel := rfl
@[simp] theorem putRx_nss (s : Block) (m vc : Nat) (t : RxStream) : (putRx s m vc t).nss = s.nss := rfl
@[simp] theorem putRx_med (s : Block) (m vc : Nat) (t : RxStream) : (putRx s m vc t).med = s.med := rfl
@[simp] theorem putRx_idxs (s : Block) (m vc : Nat) (t : RxStream) : (putRx s m vc t).idxs = s.idxs := rfl
@[simp] theorem putRx_evts (s : Block) (m vc : Nat) (t : RxStream) : (putRx s m vc t).evts = s.evts := rfl
@[simp] theorem putRx_self (s : Block) (m vc : Nat) (t : RxStream) : (putRx s m vc t).self = s.self := rfl
@[simp] theorem putRx_links (s : Block) (m vc : Nat) (t : RxStream) : (putRx s m vc t).links = s.links := rfl
@[simp] theorem putRx_routerIn (s : Block) (m vc : Nat) (t : RxStream) : (putRx s m vc t).routerIn = s.routerIn := rfl
@[simp] theorem putRx_inbox (s : Block) (m vc : Nat) (t : RxStream) : (putRx s m vc t).inbox = s.inbox := rfl
@[simp] theorem putRx_routes (s : Block) (m vc : Nat) (t : RxStream) : (putRx s m vc t).routes = s.routes := rfl
@[simp] theorem putRx_txs (s : Block) (m vc : Nat) (t : RxStream) : (putRx s m vc t).txs = s.txs := rfl
@[simp] theorem putRx_stu (s : Block) (m vc : Nat) (t : RxStream) : (putRx s m vc t).stu = s.stu := rfl
@[simp] theorem putRx_low (s : Block) (m vc : Nat) (t : RxStream) : (putRx s m vc t).low = s.low := rfl
@[simp] theorem putRx_lowSince (s : Block) (m vc : Nat) (t : RxStream) : (putRx s m vc t).lowSince = s.lowSince := rfl
@[simp] theorem putRx_wakes (s : Block) (m vc : Nat) (t : RxStream) : (putRx s m vc t).wakes = s.wakes := rfl
@[simp] theorem putRx_hostResume (s : Block) (m vc : Nat) (t : RxStream) : (putRx s m vc t).hostResume = s.hostResume := rfl
@[simp] theorem putRx_resuming (s : Block) (m vc : Nat) (t : RxStream) : (putRx s m vc t).resuming = s.resuming := rfl
@[simp] theorem putRx_pmeSent (s : Block) (m vc : Nat) (t : RxStream) : (putRx s m vc t).pmeSent = s.pmeSent := rfl
@[simp] theorem putRx_adm (s : Block) (m vc : Nat) (t : RxStream) : (putRx s m vc t).adm = s.adm := rfl
@[simp] theorem putRx_dmErr (s : Block) (m vc : Nat) (t : RxStream) : (putRx s m vc t).dmErr = s.dmErr := rfl
@[simp] theorem putRx_crit (s : Block) (m vc : Nat) (t : RxStream) : (putRx s m vc t).crit = s.crit := rfl
@[simp] theorem putRx_critRead (s : Block) (m vc : Nat) (t : RxStream) : (putRx s m vc t).critRead = s.critRead := rfl
@[simp] theorem putRx_life (s : Block) (m vc : Nat) (t : RxStream) : (putRx s m vc t).life = s.life := rfl
@[simp] theorem putRx_supply (s : Block) (m vc : Nat) (t : RxStream) : (putRx s m vc t).supply = s.supply := rfl
@[simp] theorem putRx_pace (s : Block) (m vc : Nat) (t : RxStream) : (putRx s m vc t).pace = s.pace := rfl
@[simp] theorem putRx_paceEnd (s : Block) (m vc : Nat) (t : RxStream) : (putRx s m vc t).paceEnd = s.paceEnd := rfl
@[simp] theorem putRx_rgnLatch (s : Block) (m vc : Nat) (t : RxStream) : (putRx s m vc t).rgnLatch = s.rgnLatch := rfl
@[simp] theorem putRx_dmWb (s : Block) (m vc : Nat) (t : RxStream) : (putRx s m vc t).dmWb = s.dmWb := rfl
@[simp] theorem putRx_dmCount (s : Block) (m vc : Nat) (t : RxStream) : (putRx s m vc t).dmCount = s.dmCount := rfl
@[simp] theorem putRx_dmWindow (s : Block) (m vc : Nat) (t : RxStream) : (putRx s m vc t).dmWindow = s.dmWindow := rfl
@[simp] theorem putRx_sramErr (s : Block) (m vc : Nat) (t : RxStream) : (putRx s m vc t).sramErr = s.sramErr := rfl
@[simp] theorem putRx_sramWb (s : Block) (m vc : Nat) (t : RxStream) : (putRx s m vc t).sramWb = s.sramWb := rfl
@[simp] theorem putRx_scrubbed (s : Block) (m vc : Nat) (t : RxStream) : (putRx s m vc t).scrubbed = s.scrubbed := rfl
@[simp] theorem putRx_suspect (s : Block) (m vc : Nat) (t : RxStream) : (putRx s m vc t).suspect = s.suspect := rfl
@[simp] theorem putRx_chks (s : Block) (m vc : Nat) (t : RxStream) : (putRx s m vc t).chks = s.chks := rfl
@[simp] theorem putRx_lows (s : Block) (m vc : Nat) (t : RxStream) : (putRx s m vc t).lows = s.lows := rfl
@[simp] theorem putRx_hub (s : Block) (m vc : Nat) (t : RxStream) : (putRx s m vc t).hub = s.hub := rfl
@[simp] theorem putRx_power (s : Block) (m vc : Nat) (t : RxStream) : (putRx s m vc t).power = s.power := rfl
@[simp] theorem putRx_handovers (s : Block) (m vc : Nat) (t : RxStream) : (putRx s m vc t).handovers = s.handovers := rfl
@[simp] theorem putRx_readmits (s : Block) (m vc : Nat) (t : RxStream) : (putRx s m vc t).readmits = s.readmits := rfl
@[simp] theorem putRx_faultFenced (s : Block) (m vc : Nat) (t : RxStream) : (putRx s m vc t).faultFenced = s.faultFenced := rfl
@[simp] theorem putRx_retired (s : Block) (m vc : Nat) (t : RxStream) : (putRx s m vc t).retired = s.retired := rfl
@[simp] theorem putRx_opt (s : Block) (m vc : Nat) (t : RxStream) : (putRx s m vc t).opt = s.opt := rfl
@[simp] theorem putRx_cfl (s : Block) (m vc : Nat) (t : RxStream) : (putRx s m vc t).cfl = s.cfl := rfl
/-! updLink -/
@[simp] theorem updLink_now (s : Block) (l : Nat) (f : Link → Link) : (updLink s l f).now = s.now := rfl
@[simp] theorem updLink_fresh (s : Block) (l : Nat) (f : Link → Link) : (updLink s l f).fresh = s.fresh := rfl
@[simp] theorem updLink_pages (s : Block) (l : Nat) (f : Link → Link) : (updLink s l f).pages = s.pages := rfl
@[simp] theorem updLink_blank (s : Block) (l : Nat) (f : Link → Link) : (updLink s l f).blank = s.blank := rfl
@[simp] theorem updLink_cores (s : Block) (l : Nat) (f : Link → Link) : (updLink s l f).cores = s.cores := rfl
@[simp] theorem updLink_cs (s : Block) (l : Nat) (f : Link → Link) : (updLink s l f).cs = s.cs := rfl
@[simp] theorem updLink_dm (s : Block) (l : Nat) (f : Link → Link) : (updLink s l f).dm = s.dm := rfl
@[simp] theorem updLink_ctxs (s : Block) (l : Nat) (f : Link → Link) : (updLink s l f).ctxs = s.ctxs := rfl
@[simp] theorem updLink_aside (s : Block) (l : Nat) (f : Link → Link) : (updLink s l f).aside = s.aside := rfl
@[simp] theorem updLink_out (s : Block) (l : Nat) (f : Link → Link) : (updLink s l f).out = s.out := rfl
@[simp] theorem updLink_colls (s : Block) (l : Nat) (f : Link → Link) : (updLink s l f).colls = s.colls := rfl
@[simp] theorem updLink_nextPost (s : Block) (l : Nat) (f : Link → Link) : (updLink s l f).nextPost = s.nextPost := rfl
@[simp] theorem updLink_nextCompute (s : Block) (l : Nat) (f : Link → Link) : (updLink s l f).nextCompute = s.nextCompute := rfl
@[simp] theorem updLink_ctls (s : Block) (l : Nat) (f : Link → Link) : (updLink s l f).ctls = s.ctls := rfl
@[simp] theorem updLink_nextCtl (s : Block) (l : Nat) (f : Link → Link) : (updLink s l f).nextCtl = s.nextCtl := rfl
@[simp] theorem updLink_ctlBurst (s : Block) (l : Nat) (f : Link → Link) : (updLink s l f).ctlBurst = s.ctlBurst := rfl
@[simp] theorem updLink_pageUse (s : Block) (l : Nat) (f : Link → Link) : (updLink s l f).pageUse = s.pageUse := rfl
@[simp] theorem updLink_rr (s : Block) (l : Nat) (f : Link → Link) : (updLink s l f).rr = s.rr := rfl
@[simp] theorem updLink_sel (s : Block) (l : Nat) (f : Link → Link) : (updLink s l f).sel = s.sel := rfl
@[simp] theorem updLink_nss (s : Block) (l : Nat) (f : Link → Link) : (updLink s l f).nss = s.nss := rfl
@[simp] theorem updLink_med (s : Block) (l : Nat) (f : Link → Link) : (updLink s l f).med = s.med := rfl
@[simp] theorem updLink_idxs (s : Block) (l : Nat) (f : Link → Link) : (updLink s l f).idxs = s.idxs := rfl
@[simp] theorem updLink_evts (s : Block) (l : Nat) (f : Link → Link) : (updLink s l f).evts = s.evts := rfl
@[simp] theorem updLink_self (s : Block) (l : Nat) (f : Link → Link) : (updLink s l f).self = s.self := rfl
@[simp] theorem updLink_routerIn (s : Block) (l : Nat) (f : Link → Link) : (updLink s l f).routerIn = s.routerIn := rfl
@[simp] theorem updLink_inbox (s : Block) (l : Nat) (f : Link → Link) : (updLink s l f).inbox = s.inbox := rfl
@[simp] theorem updLink_routes (s : Block) (l : Nat) (f : Link → Link) : (updLink s l f).routes = s.routes := rfl
@[simp] theorem updLink_txs (s : Block) (l : Nat) (f : Link → Link) : (updLink s l f).txs = s.txs := rfl
@[simp] theorem updLink_rxs (s : Block) (l : Nat) (f : Link → Link) : (updLink s l f).rxs = s.rxs := rfl
@[simp] theorem updLink_stu (s : Block) (l : Nat) (f : Link → Link) : (updLink s l f).stu = s.stu := rfl
@[simp] theorem updLink_low (s : Block) (l : Nat) (f : Link → Link) : (updLink s l f).low = s.low := rfl
@[simp] theorem updLink_lowSince (s : Block) (l : Nat) (f : Link → Link) : (updLink s l f).lowSince = s.lowSince := rfl
@[simp] theorem updLink_wakes (s : Block) (l : Nat) (f : Link → Link) : (updLink s l f).wakes = s.wakes := rfl
@[simp] theorem updLink_hostResume (s : Block) (l : Nat) (f : Link → Link) : (updLink s l f).hostResume = s.hostResume := rfl
@[simp] theorem updLink_resuming (s : Block) (l : Nat) (f : Link → Link) : (updLink s l f).resuming = s.resuming := rfl
@[simp] theorem updLink_pmeSent (s : Block) (l : Nat) (f : Link → Link) : (updLink s l f).pmeSent = s.pmeSent := rfl
@[simp] theorem updLink_adm (s : Block) (l : Nat) (f : Link → Link) : (updLink s l f).adm = s.adm := rfl
@[simp] theorem updLink_dmErr (s : Block) (l : Nat) (f : Link → Link) : (updLink s l f).dmErr = s.dmErr := rfl
@[simp] theorem updLink_crit (s : Block) (l : Nat) (f : Link → Link) : (updLink s l f).crit = s.crit := rfl
@[simp] theorem updLink_critRead (s : Block) (l : Nat) (f : Link → Link) : (updLink s l f).critRead = s.critRead := rfl
@[simp] theorem updLink_life (s : Block) (l : Nat) (f : Link → Link) : (updLink s l f).life = s.life := rfl
@[simp] theorem updLink_supply (s : Block) (l : Nat) (f : Link → Link) : (updLink s l f).supply = s.supply := rfl
@[simp] theorem updLink_pace (s : Block) (l : Nat) (f : Link → Link) : (updLink s l f).pace = s.pace := rfl
@[simp] theorem updLink_paceEnd (s : Block) (l : Nat) (f : Link → Link) : (updLink s l f).paceEnd = s.paceEnd := rfl
@[simp] theorem updLink_rgnLatch (s : Block) (l : Nat) (f : Link → Link) : (updLink s l f).rgnLatch = s.rgnLatch := rfl
@[simp] theorem updLink_dmWb (s : Block) (l : Nat) (f : Link → Link) : (updLink s l f).dmWb = s.dmWb := rfl
@[simp] theorem updLink_dmCount (s : Block) (l : Nat) (f : Link → Link) : (updLink s l f).dmCount = s.dmCount := rfl
@[simp] theorem updLink_dmWindow (s : Block) (l : Nat) (f : Link → Link) : (updLink s l f).dmWindow = s.dmWindow := rfl
@[simp] theorem updLink_sramErr (s : Block) (l : Nat) (f : Link → Link) : (updLink s l f).sramErr = s.sramErr := rfl
@[simp] theorem updLink_sramWb (s : Block) (l : Nat) (f : Link → Link) : (updLink s l f).sramWb = s.sramWb := rfl
@[simp] theorem updLink_scrubbed (s : Block) (l : Nat) (f : Link → Link) : (updLink s l f).scrubbed = s.scrubbed := rfl
@[simp] theorem updLink_suspect (s : Block) (l : Nat) (f : Link → Link) : (updLink s l f).suspect = s.suspect := rfl
@[simp] theorem updLink_chks (s : Block) (l : Nat) (f : Link → Link) : (updLink s l f).chks = s.chks := rfl
@[simp] theorem updLink_lows (s : Block) (l : Nat) (f : Link → Link) : (updLink s l f).lows = s.lows := rfl
@[simp] theorem updLink_hub (s : Block) (l : Nat) (f : Link → Link) : (updLink s l f).hub = s.hub := rfl
@[simp] theorem updLink_power (s : Block) (l : Nat) (f : Link → Link) : (updLink s l f).power = s.power := rfl
@[simp] theorem updLink_handovers (s : Block) (l : Nat) (f : Link → Link) : (updLink s l f).handovers = s.handovers := rfl
@[simp] theorem updLink_readmits (s : Block) (l : Nat) (f : Link → Link) : (updLink s l f).readmits = s.readmits := rfl
@[simp] theorem updLink_faultFenced (s : Block) (l : Nat) (f : Link → Link) : (updLink s l f).faultFenced = s.faultFenced := rfl
@[simp] theorem updLink_retired (s : Block) (l : Nat) (f : Link → Link) : (updLink s l f).retired = s.retired := rfl
@[simp] theorem updLink_opt (s : Block) (l : Nat) (f : Link → Link) : (updLink s l f).opt = s.opt := rfl
@[simp] theorem updLink_cfl (s : Block) (l : Nat) (f : Link → Link) : (updLink s l f).cfl = s.cfl := rfl
/-! updStu -/
@[simp] theorem updStu_now (s : Block) (f : StuState → StuState) : (updStu s f).now = s.now := rfl
@[simp] theorem updStu_fresh (s : Block) (f : StuState → StuState) : (updStu s f).fresh = s.fresh := rfl
@[simp] theorem updStu_pages (s : Block) (f : StuState → StuState) : (updStu s f).pages = s.pages := rfl
@[simp] theorem updStu_blank (s : Block) (f : StuState → StuState) : (updStu s f).blank = s.blank := rfl
@[simp] theorem updStu_cores (s : Block) (f : StuState → StuState) : (updStu s f).cores = s.cores := rfl
@[simp] theorem updStu_cs (s : Block) (f : StuState → StuState) : (updStu s f).cs = s.cs := rfl
@[simp] theorem updStu_dm (s : Block) (f : StuState → StuState) : (updStu s f).dm = s.dm := rfl
@[simp] theorem updStu_ctxs (s : Block) (f : StuState → StuState) : (updStu s f).ctxs = s.ctxs := rfl
@[simp] theorem updStu_aside (s : Block) (f : StuState → StuState) : (updStu s f).aside = s.aside := rfl
@[simp] theorem updStu_out (s : Block) (f : StuState → StuState) : (updStu s f).out = s.out := rfl
@[simp] theorem updStu_colls (s : Block) (f : StuState → StuState) : (updStu s f).colls = s.colls := rfl
@[simp] theorem updStu_nextPost (s : Block) (f : StuState → StuState) : (updStu s f).nextPost = s.nextPost := rfl
@[simp] theorem updStu_nextCompute (s : Block) (f : StuState → StuState) : (updStu s f).nextCompute = s.nextCompute := rfl
@[simp] theorem updStu_ctls (s : Block) (f : StuState → StuState) : (updStu s f).ctls = s.ctls := rfl
@[simp] theorem updStu_nextCtl (s : Block) (f : StuState → StuState) : (updStu s f).nextCtl = s.nextCtl := rfl
@[simp] theorem updStu_ctlBurst (s : Block) (f : StuState → StuState) : (updStu s f).ctlBurst = s.ctlBurst := rfl
@[simp] theorem updStu_pageUse (s : Block) (f : StuState → StuState) : (updStu s f).pageUse = s.pageUse := rfl
@[simp] theorem updStu_rr (s : Block) (f : StuState → StuState) : (updStu s f).rr = s.rr := rfl
@[simp] theorem updStu_sel (s : Block) (f : StuState → StuState) : (updStu s f).sel = s.sel := rfl
@[simp] theorem updStu_nss (s : Block) (f : StuState → StuState) : (updStu s f).nss = s.nss := rfl
@[simp] theorem updStu_med (s : Block) (f : StuState → StuState) : (updStu s f).med = s.med := rfl
@[simp] theorem updStu_idxs (s : Block) (f : StuState → StuState) : (updStu s f).idxs = s.idxs := rfl
@[simp] theorem updStu_evts (s : Block) (f : StuState → StuState) : (updStu s f).evts = s.evts := rfl
@[simp] theorem updStu_self (s : Block) (f : StuState → StuState) : (updStu s f).self = s.self := rfl
@[simp] theorem updStu_links (s : Block) (f : StuState → StuState) : (updStu s f).links = s.links := rfl
@[simp] theorem updStu_routerIn (s : Block) (f : StuState → StuState) : (updStu s f).routerIn = s.routerIn := rfl
@[simp] theorem updStu_inbox (s : Block) (f : StuState → StuState) : (updStu s f).inbox = s.inbox := rfl
@[simp] theorem updStu_routes (s : Block) (f : StuState → StuState) : (updStu s f).routes = s.routes := rfl
@[simp] theorem updStu_txs (s : Block) (f : StuState → StuState) : (updStu s f).txs = s.txs := rfl
@[simp] theorem updStu_rxs (s : Block) (f : StuState → StuState) : (updStu s f).rxs = s.rxs := rfl
@[simp] theorem updStu_low (s : Block) (f : StuState → StuState) : (updStu s f).low = s.low := rfl
@[simp] theorem updStu_lowSince (s : Block) (f : StuState → StuState) : (updStu s f).lowSince = s.lowSince := rfl
@[simp] theorem updStu_wakes (s : Block) (f : StuState → StuState) : (updStu s f).wakes = s.wakes := rfl
@[simp] theorem updStu_hostResume (s : Block) (f : StuState → StuState) : (updStu s f).hostResume = s.hostResume := rfl
@[simp] theorem updStu_resuming (s : Block) (f : StuState → StuState) : (updStu s f).resuming = s.resuming := rfl
@[simp] theorem updStu_pmeSent (s : Block) (f : StuState → StuState) : (updStu s f).pmeSent = s.pmeSent := rfl
@[simp] theorem updStu_adm (s : Block) (f : StuState → StuState) : (updStu s f).adm = s.adm := rfl
@[simp] theorem updStu_dmErr (s : Block) (f : StuState → StuState) : (updStu s f).dmErr = s.dmErr := rfl
@[simp] theorem updStu_crit (s : Block) (f : StuState → StuState) : (updStu s f).crit = s.crit := rfl
@[simp] theorem updStu_critRead (s : Block) (f : StuState → StuState) : (updStu s f).critRead = s.critRead := rfl
@[simp] theorem updStu_life (s : Block) (f : StuState → StuState) : (updStu s f).life = s.life := rfl
@[simp] theorem updStu_supply (s : Block) (f : StuState → StuState) : (updStu s f).supply = s.supply := rfl
@[simp] theorem updStu_pace (s : Block) (f : StuState → StuState) : (updStu s f).pace = s.pace := rfl
@[simp] theorem updStu_paceEnd (s : Block) (f : StuState → StuState) : (updStu s f).paceEnd = s.paceEnd := rfl
@[simp] theorem updStu_rgnLatch (s : Block) (f : StuState → StuState) : (updStu s f).rgnLatch = s.rgnLatch := rfl
@[simp] theorem updStu_dmWb (s : Block) (f : StuState → StuState) : (updStu s f).dmWb = s.dmWb := rfl
@[simp] theorem updStu_dmCount (s : Block) (f : StuState → StuState) : (updStu s f).dmCount = s.dmCount := rfl
@[simp] theorem updStu_dmWindow (s : Block) (f : StuState → StuState) : (updStu s f).dmWindow = s.dmWindow := rfl
@[simp] theorem updStu_sramErr (s : Block) (f : StuState → StuState) : (updStu s f).sramErr = s.sramErr := rfl
@[simp] theorem updStu_sramWb (s : Block) (f : StuState → StuState) : (updStu s f).sramWb = s.sramWb := rfl
@[simp] theorem updStu_scrubbed (s : Block) (f : StuState → StuState) : (updStu s f).scrubbed = s.scrubbed := rfl
@[simp] theorem updStu_suspect (s : Block) (f : StuState → StuState) : (updStu s f).suspect = s.suspect := rfl
@[simp] theorem updStu_chks (s : Block) (f : StuState → StuState) : (updStu s f).chks = s.chks := rfl
@[simp] theorem updStu_lows (s : Block) (f : StuState → StuState) : (updStu s f).lows = s.lows := rfl
@[simp] theorem updStu_hub (s : Block) (f : StuState → StuState) : (updStu s f).hub = s.hub := rfl
@[simp] theorem updStu_power (s : Block) (f : StuState → StuState) : (updStu s f).power = s.power := rfl
@[simp] theorem updStu_handovers (s : Block) (f : StuState → StuState) : (updStu s f).handovers = s.handovers := rfl
@[simp] theorem updStu_readmits (s : Block) (f : StuState → StuState) : (updStu s f).readmits = s.readmits := rfl
@[simp] theorem updStu_faultFenced (s : Block) (f : StuState → StuState) : (updStu s f).faultFenced = s.faultFenced := rfl
@[simp] theorem updStu_retired (s : Block) (f : StuState → StuState) : (updStu s f).retired = s.retired := rfl
@[simp] theorem updStu_opt (s : Block) (f : StuState → StuState) : (updStu s f).opt = s.opt := rfl
@[simp] theorem updStu_cfl (s : Block) (f : StuState → StuState) : (updStu s f).cfl = s.cfl := rfl
/-! Registers of a core. -/
/-! setA -/
@[simp] theorem setA_placed (k : Core) (n : Nat) (v : AReg) : (setA k n v).placed = k.placed := rfl
@[simp] theorem setA_run (k : Core) (n : Nat) (v : AReg) : (setA k n v).run = k.run := rfl
@[simp] theorem setA_array (k : Core) (n : Nat) (v : AReg) : (setA k n v).array = k.array := rfl
@[simp] theorem setA_ramping (k : Core) (n : Nat) (v : AReg) : (setA k n v).ramping = k.ramping := rfl
@[simp] theorem setA_pc (k : Core) (n : Nat) (v : AReg) : (setA k n v).pc = k.pc := rfl
@[simp] theorem setA_fault (k : Core) (n : Nat) (v : AReg) : (setA k n v).fault = k.fault := rfl
@[simp] theorem setA_faultOff (k : Core) (n : Nat) (v : AReg) : (setA k n v).faultOff = k.faultOff := rfl
@[simp] theorem setA_s (k : Core) (n : Nat) (v : AReg) : (setA k n v).s = k.s := rfl
@[simp] theorem setA_lc (k : Core) (n : Nat) (v : AReg) : (setA k n v).lc = k.lc := rfl
@[simp] theorem setA_loops (k : Core) (n : Nat) (v : AReg) : (setA k n v).loops = k.loops := rfl
@[simp] theorem setA_v (k : Core) (n : Nat) (v : AReg) : (setA k n v).v = k.v := rfl
@[simp] theorem setA_p (k : Core) (n : Nat) (v : AReg) : (setA k n v).p = k.p := rfl
@[simp] theorem setA_t (k : Core) (n : Nat) (v : AReg) : (setA k n v).t = k.t := rfl
@[simp] theorem setA_fstat (k : Core) (n : Nat) (v : AReg) : (setA k n v).fstat = k.fstat := rfl
@[simp] theorem setA_steps (k : Core) (n : Nat) (v : AReg) : (setA k n v).steps = k.steps := rfl
@[simp] theorem setA_portWaits (k : Core) (n : Nat) (v : AReg) : (setA k n v).portWaits = k.portWaits := rfl
@[simp] theorem setA_mirage (k : Core) (n : Nat) (v : AReg) : (setA k n v).mirage = k.mirage := rfl
@[simp] theorem setA_acc (k : Core) (n : Nat) (v : AReg) : (setA k n v).acc = k.acc := rfl
@[simp] theorem setA_parts (k : Core) (n : Nat) (v : AReg) : (setA k n v).parts = k.parts := rfl
@[simp] theorem setA_live (k : Core) (n : Nat) (v : AReg) : (setA k n v).live = k.live := rfl
@[simp] theorem setA_pq (k : Core) (n : Nat) (v : AReg) : (setA k n v).pq = k.pq := rfl
@[simp] theorem setA_waiting (k : Core) (n : Nat) (v : AReg) : (setA k n v).waiting = k.waiting := rfl
@[simp] theorem setA_asked (k : Core) (n : Nat) (v : AReg) : (setA k n v).asked = k.asked := rfl
@[simp] theorem setA_det (k : Core) (n : Nat) (v : AReg) : (setA k n v).det = k.det := rfl
@[simp] theorem setA_drains (k : Core) (n : Nat) (v : AReg) : (setA k n v).drains = k.drains := rfl
@[simp] theorem setA_since (k : Core) (n : Nat) (v : AReg) : (setA k n v).since = k.since := rfl
@[simp] theorem setA_recorded (k : Core) (n : Nat) (v : AReg) : (setA k n v).recorded = k.recorded := rfl
@[simp] theorem setA_resident (k : Core) (n : Nat) (v : AReg) : (setA k n v).resident = k.resident := rfl
@[simp] theorem setA_sets (k : Core) (n : Nat) (v : AReg) : (setA k n v).sets = k.sets := rfl
@[simp] theorem setA_posted (k : Core) (n : Nat) (v : AReg) : (setA k n v).posted = k.posted := rfl
@[simp] theorem setA_topLists (k : Core) (n : Nat) (v : AReg) : (setA k n v).topLists = k.topLists := rfl
@[simp] theorem setA_postWait (k : Core) (n : Nat) (v : AReg) : (setA k n v).postWait = k.postWait := rfl
@[simp] theorem setA_twait (k : Core) (n : Nat) (v : AReg) : (setA k n v).twait = k.twait := rfl
@[simp] theorem setA_endWait (k : Core) (n : Nat) (v : AReg) : (setA k n v).endWait = k.endWait := rfl
@[simp] theorem setA_ended (k : Core) (n : Nat) (v : AReg) : (setA k n v).ended = k.ended := rfl
@[simp] theorem setA_timed (k : Core) (n : Nat) (v : AReg) : (setA k n v).timed = k.timed := rfl
@[simp] theorem setA_collSeq (k : Core) (n : Nat) (v : AReg) : (setA k n v).collSeq = k.collSeq := rfl
@[simp] theorem setA_stop (k : Core) (n : Nat) (v : AReg) : (setA k n v).stop = k.stop := rfl
@[simp] theorem setA_loads (k : Core) (n : Nat) (v : AReg) : (setA k n v).loads = k.loads := rfl
@[simp] theorem setA_gate (k : Core) (n : Nat) (v : AReg) : (setA k n v).gate = k.gate := rfl
@[simp] theorem setA_gateOpen (k : Core) (n : Nat) (v : AReg) : (setA k n v).gateOpen = k.gateOpen := rfl
@[simp] theorem setA_nextLayer (k : Core) (n : Nat) (v : AReg) : (setA k n v).nextLayer = k.nextLayer := rfl
@[simp] theorem setA_iter (k : Core) (n : Nat) (v : AReg) : (setA k n v).iter = k.iter := rfl
@[simp] theorem setA_inLayers (k : Core) (n : Nat) (v : AReg) : (setA k n v).inLayers = k.inLayers := rfl
@[simp] theorem setA_ls (k : Core) (n : Nat) (v : AReg) : (setA k n v).ls = k.ls := rfl
/-! setV -/
@[simp] theorem setV_placed (k : Core) (n : Nat) (v : BitVec 1024) : (setV k n v).placed = k.placed := rfl
@[simp] theorem setV_run (k : Core) (n : Nat) (v : BitVec 1024) : (setV k n v).run = k.run := rfl
@[simp] theorem setV_array (k : Core) (n : Nat) (v : BitVec 1024) : (setV k n v).array = k.array := rfl
@[simp] theorem setV_ramping (k : Core) (n : Nat) (v : BitVec 1024) : (setV k n v).ramping = k.ramping := rfl
@[simp] theorem setV_pc (k : Core) (n : Nat) (v : BitVec 1024) : (setV k n v).pc = k.pc := rfl
@[simp] theorem setV_fault (k : Core) (n : Nat) (v : BitVec 1024) : (setV k n v).fault = k.fault := rfl
@[simp] theorem setV_faultOff (k : Core) (n : Nat) (v : BitVec 1024) : (setV k n v).faultOff = k.faultOff := rfl
@[simp] theorem setV_s (k : Core) (n : Nat) (v : BitVec 1024) : (setV k n v).s = k.s := rfl
@[simp] theorem setV_a (k : Core) (n : Nat) (v : BitVec 1024) : (setV k n v).a = k.a := rfl
@[simp] theorem setV_lc (k : Core) (n : Nat) (v : BitVec 1024) : (setV k n v).lc = k.lc := rfl
@[simp] theorem setV_loops (k : Core) (n : Nat) (v : BitVec 1024) : (setV k n v).loops = k.loops := rfl
@[simp] theorem setV_p (k : Core) (n : Nat) (v : BitVec 1024) : (setV k n v).p = k.p := rfl
@[simp] theorem setV_t (k : Core) (n : Nat) (v : BitVec 1024) : (setV k n v).t = k.t := rfl
@[simp] theorem setV_fstat (k : Core) (n : Nat) (v : BitVec 1024) : (setV k n v).fstat = k.fstat := rfl
@[simp] theorem setV_steps (k : Core) (n : Nat) (v : BitVec 1024) : (setV k n v).steps = k.steps := rfl
@[simp] theorem setV_portWaits (k : Core) (n : Nat) (v : BitVec 1024) : (setV k n v).portWaits = k.portWaits := rfl
@[simp] theorem setV_mirage (k : Core) (n : Nat) (v : BitVec 1024) : (setV k n v).mirage = k.mirage := rfl
@[simp] theorem setV_acc (k : Core) (n : Nat) (v : BitVec 1024) : (setV k n v).acc = k.acc := rfl
@[simp] theorem setV_parts (k : Core) (n : Nat) (v : BitVec 1024) : (setV k n v).parts = k.parts := rfl
@[simp] theorem setV_live (k : Core) (n : Nat) (v : BitVec 1024) : (setV k n v).live = k.live := rfl
@[simp] theorem setV_pq (k : Core) (n : Nat) (v : BitVec 1024) : (setV k n v).pq = k.pq := rfl
@[simp] theorem setV_waiting (k : Core) (n : Nat) (v : BitVec 1024) : (setV k n v).waiting = k.waiting := rfl
@[simp] theorem setV_asked (k : Core) (n : Nat) (v : BitVec 1024) : (setV k n v).asked = k.asked := rfl
@[simp] theorem setV_det (k : Core) (n : Nat) (v : BitVec 1024) : (setV k n v).det = k.det := rfl
@[simp] theorem setV_drains (k : Core) (n : Nat) (v : BitVec 1024) : (setV k n v).drains = k.drains := rfl
@[simp] theorem setV_since (k : Core) (n : Nat) (v : BitVec 1024) : (setV k n v).since = k.since := rfl
@[simp] theorem setV_recorded (k : Core) (n : Nat) (v : BitVec 1024) : (setV k n v).recorded = k.recorded := rfl
@[simp] theorem setV_resident (k : Core) (n : Nat) (v : BitVec 1024) : (setV k n v).resident = k.resident := rfl
@[simp] theorem setV_sets (k : Core) (n : Nat) (v : BitVec 1024) : (setV k n v).sets = k.sets := rfl
@[simp] theorem setV_posted (k : Core) (n : Nat) (v : BitVec 1024) : (setV k n v).posted = k.posted := rfl
@[simp] theorem setV_topLists (k : Core) (n : Nat) (v : BitVec 1024) : (setV k n v).topLists = k.topLists := rfl
@[simp] theorem setV_postWait (k : Core) (n : Nat) (v : BitVec 1024) : (setV k n v).postWait = k.postWait := rfl
@[simp] theorem setV_twait (k : Core) (n : Nat) (v : BitVec 1024) : (setV k n v).twait = k.twait := rfl
@[simp] theorem setV_endWait (k : Core) (n : Nat) (v : BitVec 1024) : (setV k n v).endWait = k.endWait := rfl
@[simp] theorem setV_ended (k : Core) (n : Nat) (v : BitVec 1024) : (setV k n v).ended = k.ended := rfl
@[simp] theorem setV_timed (k : Core) (n : Nat) (v : BitVec 1024) : (setV k n v).timed = k.timed := rfl
@[simp] theorem setV_collSeq (k : Core) (n : Nat) (v : BitVec 1024) : (setV k n v).collSeq = k.collSeq := rfl
@[simp] theorem setV_stop (k : Core) (n : Nat) (v : BitVec 1024) : (setV k n v).stop = k.stop := rfl
@[simp] theorem setV_loads (k : Core) (n : Nat) (v : BitVec 1024) : (setV k n v).loads = k.loads := rfl
@[simp] theorem setV_gate (k : Core) (n : Nat) (v : BitVec 1024) : (setV k n v).gate = k.gate := rfl
@[simp] theorem setV_gateOpen (k : Core) (n : Nat) (v : BitVec 1024) : (setV k n v).gateOpen = k.gateOpen := rfl
@[simp] theorem setV_nextLayer (k : Core) (n : Nat) (v : BitVec 1024) : (setV k n v).nextLayer = k.nextLayer := rfl
@[simp] theorem setV_iter (k : Core) (n : Nat) (v : BitVec 1024) : (setV k n v).iter = k.iter := rfl
@[simp] theorem setV_inLayers (k : Core) (n : Nat) (v : BitVec 1024) : (setV k n v).inLayers = k.inLayers := rfl
@[simp] theorem setV_ls (k : Core) (n : Nat) (v : BitVec 1024) : (setV k n v).ls = k.ls := rfl
/-! setT -/
@[simp] theorem setT_placed (k : Core) (n : Nat) (v : BitVec 256) : (setT k n v).placed = k.placed := rfl
@[simp] theorem setT_run (k : Core) (n : Nat) (v : BitVec 256) : (setT k n v).run = k.run := rfl
@[simp] theorem setT_array (k : Core) (n : Nat) (v : BitVec 256) : (setT k n v).array = k.array := rfl
@[simp] theorem setT_ramping (k : Core) (n : Nat) (v : BitVec 256) : (setT k n v).ramping = k.ramping := rfl
@[simp] theorem setT_pc (k : Core) (n : Nat) (v : BitVec 256) : (setT k n v).pc = k.pc := rfl
@[simp] theorem setT_fault (k : Core) (n : Nat) (v : BitVec 256) : (setT k n v).fault = k.fault := rfl
@[simp] theorem setT_faultOff (k : Core) (n : Nat) (v : BitVec 256) : (setT k n v).faultOff = k.faultOff := rfl
@[simp] theorem setT_s (k : Core) (n : Nat) (v : BitVec 256) : (setT k n v).s = k.s := rfl
@[simp] theorem setT_a (k : Core) (n : Nat) (v : BitVec 256) : (setT k n v).a = k.a := rfl
@[simp] theorem setT_lc (k : Core) (n : Nat) (v : BitVec 256) : (setT k n v).lc = k.lc := rfl
@[simp] theorem setT_loops (k : Core) (n : Nat) (v : BitVec 256) : (setT k n v).loops = k.loops := rfl
@[simp] theorem setT_v (k : Core) (n : Nat) (v : BitVec 256) : (setT k n v).v = k.v := rfl
@[simp] theorem setT_p (k : Core) (n : Nat) (v : BitVec 256) : (setT k n v).p = k.p := rfl
@[simp] theorem setT_fstat (k : Core) (n : Nat) (v : BitVec 256) : (setT k n v).fstat = k.fstat := rfl
@[simp] theorem setT_steps (k : Core) (n : Nat) (v : BitVec 256) : (setT k n v).steps = k.steps := rfl
@[simp] theorem setT_portWaits (k : Core) (n : Nat) (v : BitVec 256) : (setT k n v).portWaits = k.portWaits := rfl
@[simp] theorem setT_mirage (k : Core) (n : Nat) (v : BitVec 256) : (setT k n v).mirage = k.mirage := rfl
@[simp] theorem setT_acc (k : Core) (n : Nat) (v : BitVec 256) : (setT k n v).acc = k.acc := rfl
@[simp] theorem setT_parts (k : Core) (n : Nat) (v : BitVec 256) : (setT k n v).parts = k.parts := rfl
@[simp] theorem setT_live (k : Core) (n : Nat) (v : BitVec 256) : (setT k n v).live = k.live := rfl
@[simp] theorem setT_pq (k : Core) (n : Nat) (v : BitVec 256) : (setT k n v).pq = k.pq := rfl
@[simp] theorem setT_waiting (k : Core) (n : Nat) (v : BitVec 256) : (setT k n v).waiting = k.waiting := rfl
@[simp] theorem setT_asked (k : Core) (n : Nat) (v : BitVec 256) : (setT k n v).asked = k.asked := rfl
@[simp] theorem setT_det (k : Core) (n : Nat) (v : BitVec 256) : (setT k n v).det = k.det := rfl
@[simp] theorem setT_drains (k : Core) (n : Nat) (v : BitVec 256) : (setT k n v).drains = k.drains := rfl
@[simp] theorem setT_since (k : Core) (n : Nat) (v : BitVec 256) : (setT k n v).since = k.since := rfl
@[simp] theorem setT_recorded (k : Core) (n : Nat) (v : BitVec 256) : (setT k n v).recorded = k.recorded := rfl
@[simp] theorem setT_resident (k : Core) (n : Nat) (v : BitVec 256) : (setT k n v).resident = k.resident := rfl
@[simp] theorem setT_sets (k : Core) (n : Nat) (v : BitVec 256) : (setT k n v).sets = k.sets := rfl
@[simp] theorem setT_posted (k : Core) (n : Nat) (v : BitVec 256) : (setT k n v).posted = k.posted := rfl
@[simp] theorem setT_topLists (k : Core) (n : Nat) (v : BitVec 256) : (setT k n v).topLists = k.topLists := rfl
@[simp] theorem setT_postWait (k : Core) (n : Nat) (v : BitVec 256) : (setT k n v).postWait = k.postWait := rfl
@[simp] theorem setT_twait (k : Core) (n : Nat) (v : BitVec 256) : (setT k n v).twait = k.twait := rfl
@[simp] theorem setT_endWait (k : Core) (n : Nat) (v : BitVec 256) : (setT k n v).endWait = k.endWait := rfl
@[simp] theorem setT_ended (k : Core) (n : Nat) (v : BitVec 256) : (setT k n v).ended = k.ended := rfl
@[simp] theorem setT_timed (k : Core) (n : Nat) (v : BitVec 256) : (setT k n v).timed = k.timed := rfl
@[simp] theorem setT_collSeq (k : Core) (n : Nat) (v : BitVec 256) : (setT k n v).collSeq = k.collSeq := rfl
@[simp] theorem setT_stop (k : Core) (n : Nat) (v : BitVec 256) : (setT k n v).stop = k.stop := rfl
@[simp] theorem setT_loads (k : Core) (n : Nat) (v : BitVec 256) : (setT k n v).loads = k.loads := rfl
@[simp] theorem setT_gate (k : Core) (n : Nat) (v : BitVec 256) : (setT k n v).gate = k.gate := rfl
@[simp] theorem setT_gateOpen (k : Core) (n : Nat) (v : BitVec 256) : (setT k n v).gateOpen = k.gateOpen := rfl
@[simp] theorem setT_nextLayer (k : Core) (n : Nat) (v : BitVec 256) : (setT k n v).nextLayer = k.nextLayer := rfl
@[simp] theorem setT_iter (k : Core) (n : Nat) (v : BitVec 256) : (setT k n v).iter = k.iter := rfl
@[simp] theorem setT_inLayers (k : Core) (n : Nat) (v : BitVec 256) : (setT k n v).inLayers = k.inLayers := rfl
@[simp] theorem setT_ls (k : Core) (n : Nat) (v : BitVec 256) : (setT k n v).ls = k.ls := rfl
/-! setLC -/
@[simp] theorem setLC_placed (k : Core) (n : Nat) (v : DWord) : (setLC k n v).placed = k.placed := rfl
@[simp] theorem setLC_run (k : Core) (n : Nat) (v : DWord) : (setLC k n v).run = k.run := rfl
@[simp] theorem setLC_array (k : Core) (n : Nat) (v : DWord) : (setLC k n v).array = k.array := rfl
@[simp] theorem setLC_ramping (k : Core) (n : Nat) (v : DWord) : (setLC k n v).ramping = k.ramping := rfl
@[simp] theorem setLC_pc (k : Core) (n : Nat) (v : DWord) : (setLC k n v).pc = k.pc := rfl
@[simp] theorem setLC_fault (k : Core) (n : Nat) (v : DWord) : (setLC k n v).fault = k.fault := rfl
@[simp] theorem setLC_faultOff (k : Core) (n : Nat) (v : DWord) : (setLC k n v).faultOff = k.faultOff := rfl
@[simp] theorem setLC_s (k : Core) (n : Nat) (v : DWord) : (setLC k n v).s = k.s := rfl
@[simp] theorem setLC_a (k : Core) (n : Nat) (v : DWord) : (setLC k n v).a = k.a := rfl
@[simp] theorem setLC_loops (k : Core) (n : Nat) (v : DWord) : (setLC k n v).loops = k.loops := rfl
@[simp] theorem setLC_v (k : Core) (n : Nat) (v : DWord) : (setLC k n v).v = k.v := rfl
@[simp] theorem setLC_p (k : Core) (n : Nat) (v : DWord) : (setLC k n v).p = k.p := rfl
@[simp] theorem setLC_t (k : Core) (n : Nat) (v : DWord) : (setLC k n v).t = k.t := rfl
@[simp] theorem setLC_fstat (k : Core) (n : Nat) (v : DWord) : (setLC k n v).fstat = k.fstat := rfl
@[simp] theorem setLC_steps (k : Core) (n : Nat) (v : DWord) : (setLC k n v).steps = k.steps := rfl
@[simp] theorem setLC_portWaits (k : Core) (n : Nat) (v : DWord) : (setLC k n v).portWaits = k.portWaits := rfl
@[simp] theorem setLC_mirage (k : Core) (n : Nat) (v : DWord) : (setLC k n v).mirage = k.mirage := rfl
@[simp] theorem setLC_acc (k : Core) (n : Nat) (v : DWord) : (setLC k n v).acc = k.acc := rfl
@[simp] theorem setLC_parts (k : Core) (n : Nat) (v : DWord) : (setLC k n v).parts = k.parts := rfl
@[simp] theorem setLC_live (k : Core) (n : Nat) (v : DWord) : (setLC k n v).live = k.live := rfl
@[simp] theorem setLC_pq (k : Core) (n : Nat) (v : DWord) : (setLC k n v).pq = k.pq := rfl
@[simp] theorem setLC_waiting (k : Core) (n : Nat) (v : DWord) : (setLC k n v).waiting = k.waiting := rfl
@[simp] theorem setLC_asked (k : Core) (n : Nat) (v : DWord) : (setLC k n v).asked = k.asked := rfl
@[simp] theorem setLC_det (k : Core) (n : Nat) (v : DWord) : (setLC k n v).det = k.det := rfl
@[simp] theorem setLC_drains (k : Core) (n : Nat) (v : DWord) : (setLC k n v).drains = k.drains := rfl
@[simp] theorem setLC_since (k : Core) (n : Nat) (v : DWord) : (setLC k n v).since = k.since := rfl
@[simp] theorem setLC_recorded (k : Core) (n : Nat) (v : DWord) : (setLC k n v).recorded = k.recorded := rfl
@[simp] theorem setLC_resident (k : Core) (n : Nat) (v : DWord) : (setLC k n v).resident = k.resident := rfl
@[simp] theorem setLC_sets (k : Core) (n : Nat) (v : DWord) : (setLC k n v).sets = k.sets := rfl
@[simp] theorem setLC_posted (k : Core) (n : Nat) (v : DWord) : (setLC k n v).posted = k.posted := rfl
@[simp] theorem setLC_topLists (k : Core) (n : Nat) (v : DWord) : (setLC k n v).topLists = k.topLists := rfl
@[simp] theorem setLC_postWait (k : Core) (n : Nat) (v : DWord) : (setLC k n v).postWait = k.postWait := rfl
@[simp] theorem setLC_twait (k : Core) (n : Nat) (v : DWord) : (setLC k n v).twait = k.twait := rfl
@[simp] theorem setLC_endWait (k : Core) (n : Nat) (v : DWord) : (setLC k n v).endWait = k.endWait := rfl
@[simp] theorem setLC_ended (k : Core) (n : Nat) (v : DWord) : (setLC k n v).ended = k.ended := rfl
@[simp] theorem setLC_timed (k : Core) (n : Nat) (v : DWord) : (setLC k n v).timed = k.timed := rfl
@[simp] theorem setLC_collSeq (k : Core) (n : Nat) (v : DWord) : (setLC k n v).collSeq = k.collSeq := rfl
@[simp] theorem setLC_stop (k : Core) (n : Nat) (v : DWord) : (setLC k n v).stop = k.stop := rfl
@[simp] theorem setLC_loads (k : Core) (n : Nat) (v : DWord) : (setLC k n v).loads = k.loads := rfl
@[simp] theorem setLC_gate (k : Core) (n : Nat) (v : DWord) : (setLC k n v).gate = k.gate := rfl
@[simp] theorem setLC_gateOpen (k : Core) (n : Nat) (v : DWord) : (setLC k n v).gateOpen = k.gateOpen := rfl
@[simp] theorem setLC_nextLayer (k : Core) (n : Nat) (v : DWord) : (setLC k n v).nextLayer = k.nextLayer := rfl
@[simp] theorem setLC_iter (k : Core) (n : Nat) (v : DWord) : (setLC k n v).iter = k.iter := rfl
@[simp] theorem setLC_inLayers (k : Core) (n : Nat) (v : DWord) : (setLC k n v).inLayers = k.inLayers := rfl
@[simp] theorem setLC_ls (k : Core) (n : Nat) (v : DWord) : (setLC k n v).ls = k.ls := rfl
/-! putSet -/
@[simp] theorem putSet_placed (k : Core) (n : Nat) (v : CSet) : (putSet k n v).placed = k.placed := rfl
@[simp] theorem putSet_run (k : Core) (n : Nat) (v : CSet) : (putSet k n v).run = k.run := rfl
@[simp] theorem putSet_array (k : Core) (n : Nat) (v : CSet) : (putSet k n v).array = k.array := rfl
@[simp] theorem putSet_ramping (k : Core) (n : Nat) (v : CSet) : (putSet k n v).ramping = k.ramping := rfl
@[simp] theorem putSet_pc (k : Core) (n : Nat) (v : CSet) : (putSet k n v).pc = k.pc := rfl
@[simp] theorem putSet_fault (k : Core) (n : Nat) (v : CSet) : (putSet k n v).fault = k.fault := rfl
@[simp] theorem putSet_faultOff (k : Core) (n : Nat) (v : CSet) : (putSet k n v).faultOff = k.faultOff := rfl
@[simp] theorem putSet_s (k : Core) (n : Nat) (v : CSet) : (putSet k n v).s = k.s := rfl
@[simp] theorem putSet_a (k : Core) (n : Nat) (v : CSet) : (putSet k n v).a = k.a := rfl
@[simp] theorem putSet_lc (k : Core) (n : Nat) (v : CSet) : (putSet k n v).lc = k.lc := rfl
@[simp] theorem putSet_loops (k : Core) (n : Nat) (v : CSet) : (putSet k n v).loops = k.loops := rfl
@[simp] theorem putSet_v (k : Core) (n : Nat) (v : CSet) : (putSet k n v).v = k.v := rfl
@[simp] theorem putSet_p (k : Core) (n : Nat) (v : CSet) : (putSet k n v).p = k.p := rfl
@[simp] theorem putSet_t (k : Core) (n : Nat) (v : CSet) : (putSet k n v).t = k.t := rfl
@[simp] theorem putSet_fstat (k : Core) (n : Nat) (v : CSet) : (putSet k n v).fstat = k.fstat := rfl
@[simp] theorem putSet_steps (k : Core) (n : Nat) (v : CSet) : (putSet k n v).steps = k.steps := rfl
@[simp] theorem putSet_portWaits (k : Core) (n : Nat) (v : CSet) : (putSet k n v).portWaits = k.portWaits := rfl
@[simp] theorem putSet_mirage (k : Core) (n : Nat) (v : CSet) : (putSet k n v).mirage = k.mirage := rfl
@[simp] theorem putSet_acc (k : Core) (n : Nat) (v : CSet) : (putSet k n v).acc = k.acc := rfl
@[simp] theorem putSet_parts (k : Core) (n : Nat) (v : CSet) : (putSet k n v).parts = k.parts := rfl
@[simp] theorem putSet_live (k : Core) (n : Nat) (v : CSet) : (putSet k n v).live = k.live := rfl
@[simp] theorem putSet_pq (k : Core) (n : Nat) (v : CSet) : (putSet k n v).pq = k.pq := rfl
@[simp] theorem putSet_waiting (k : Core) (n : Nat) (v : CSet) : (putSet k n v).waiting = k.waiting := rfl
@[simp] theorem putSet_asked (k : Core) (n : Nat) (v : CSet) : (putSet k n v).asked = k.asked := rfl
@[simp] theorem putSet_det (k : Core) (n : Nat) (v : CSet) : (putSet k n v).det = k.det := rfl
@[simp] theorem putSet_drains (k : Core) (n : Nat) (v : CSet) : (putSet k n v).drains = k.drains := rfl
@[simp] theorem putSet_since (k : Core) (n : Nat) (v : CSet) : (putSet k n v).since = k.since := rfl
@[simp] theorem putSet_recorded (k : Core) (n : Nat) (v : CSet) : (putSet k n v).recorded = k.recorded := rfl
@[simp] theorem putSet_resident (k : Core) (n : Nat) (v : CSet) : (putSet k n v).resident = k.resident := rfl
@[simp] theorem putSet_posted (k : Core) (n : Nat) (v : CSet) : (putSet k n v).posted = k.posted := rfl
@[simp] theorem putSet_topLists (k : Core) (n : Nat) (v : CSet) : (putSet k n v).topLists = k.topLists := rfl
@[simp] theorem putSet_postWait (k : Core) (n : Nat) (v : CSet) : (putSet k n v).postWait = k.postWait := rfl
@[simp] theorem putSet_twait (k : Core) (n : Nat) (v : CSet) : (putSet k n v).twait = k.twait := rfl
@[simp] theorem putSet_endWait (k : Core) (n : Nat) (v : CSet) : (putSet k n v).endWait = k.endWait := rfl
@[simp] theorem putSet_ended (k : Core) (n : Nat) (v : CSet) : (putSet k n v).ended = k.ended := rfl
@[simp] theorem putSet_timed (k : Core) (n : Nat) (v : CSet) : (putSet k n v).timed = k.timed := rfl
@[simp] theorem putSet_collSeq (k : Core) (n : Nat) (v : CSet) : (putSet k n v).collSeq = k.collSeq := rfl
@[simp] theorem putSet_stop (k : Core) (n : Nat) (v : CSet) : (putSet k n v).stop = k.stop := rfl
@[simp] theorem putSet_loads (k : Core) (n : Nat) (v : CSet) : (putSet k n v).loads = k.loads := rfl
@[simp] theorem putSet_gate (k : Core) (n : Nat) (v : CSet) : (putSet k n v).gate = k.gate := rfl
@[simp] theorem putSet_gateOpen (k : Core) (n : Nat) (v : CSet) : (putSet k n v).gateOpen = k.gateOpen := rfl
@[simp] theorem putSet_nextLayer (k : Core) (n : Nat) (v : CSet) : (putSet k n v).nextLayer = k.nextLayer := rfl
@[simp] theorem putSet_iter (k : Core) (n : Nat) (v : CSet) : (putSet k n v).iter = k.iter := rfl
@[simp] theorem putSet_inLayers (k : Core) (n : Nat) (v : CSet) : (putSet k n v).inLayers = k.inLayers := rfl
@[simp] theorem putSet_ls (k : Core) (n : Nat) (v : CSet) : (putSet k n v).ls = k.ls := rfl
/-! addFlags -/
@[simp] theorem addFlags_placed (k : Core) (f : BitVec 16) : (addFlags k f).placed = k.placed := rfl
@[simp] theorem addFlags_run (k : Core) (f : BitVec 16) : (addFlags k f).run = k.run := rfl
@[simp] theorem addFlags_array (k : Core) (f : BitVec 16) : (addFlags k f).array = k.array := rfl
@[simp] theorem addFlags_ramping (k : Core) (f : BitVec 16) : (addFlags k f).ramping = k.ramping := rfl
@[simp] theorem addFlags_pc (k : Core) (f : BitVec 16) : (addFlags k f).pc = k.pc := rfl
@[simp] theorem addFlags_fault (k : Core) (f : BitVec 16) : (addFlags k f).fault = k.fault := rfl
@[simp] theorem addFlags_faultOff (k : Core) (f : BitVec 16) : (addFlags k f).faultOff = k.faultOff := rfl
@[simp] theorem addFlags_s (k : Core) (f : BitVec 16) : (addFlags k f).s = k.s := rfl
@[simp] theorem addFlags_a (k : Core) (f : BitVec 16) : (addFlags k f).a = k.a := rfl
@[simp] theorem addFlags_lc (k : Core) (f : BitVec 16) : (addFlags k f).lc = k.lc := rfl
@[simp] theorem addFlags_loops (k : Core) (f : BitVec 16) : (addFlags k f).loops = k.loops := rfl
@[simp] theorem addFlags_v (k : Core) (f : BitVec 16) : (addFlags k f).v = k.v := rfl
@[simp] theorem addFlags_p (k : Core) (f : BitVec 16) : (addFlags k f).p = k.p := rfl
@[simp] theorem addFlags_t (k : Core) (f : BitVec 16) : (addFlags k f).t = k.t := rfl
@[simp] theorem addFlags_steps (k : Core) (f : BitVec 16) : (addFlags k f).steps = k.steps := rfl
@[simp] theorem addFlags_portWaits (k : Core) (f : BitVec 16) : (addFlags k f).portWaits = k.portWaits := rfl
@[simp] theorem addFlags_mirage (k : Core) (f : BitVec 16) : (addFlags k f).mirage = k.mirage := rfl
@[simp] theorem addFlags_acc (k : Core) (f : BitVec 16) : (addFlags k f).acc = k.acc := rfl
@[simp] theorem addFlags_parts (k : Core) (f : BitVec 16) : (addFlags k f).parts = k.parts := rfl
@[simp] theorem addFlags_live (k : Core) (f : BitVec 16) : (addFlags k f).live = k.live := rfl
@[simp] theorem addFlags_pq (k : Core) (f : BitVec 16) : (addFlags k f).pq = k.pq := rfl
@[simp] theorem addFlags_waiting (k : Core) (f : BitVec 16) : (addFlags k f).waiting = k.waiting := rfl
@[simp] theorem addFlags_asked (k : Core) (f : BitVec 16) : (addFlags k f).asked = k.asked := rfl
@[simp] theorem addFlags_det (k : Core) (f : BitVec 16) : (addFlags k f).det = k.det := rfl
@[simp] theorem addFlags_drains (k : Core) (f : BitVec 16) : (addFlags k f).drains = k.drains := rfl
@[simp] theorem addFlags_since (k : Core) (f : BitVec 16) : (addFlags k f).since = k.since := rfl
@[simp] theorem addFlags_recorded (k : Core) (f : BitVec 16) : (addFlags k f).recorded = k.recorded := rfl
@[simp] theorem addFlags_resident (k : Core) (f : BitVec 16) : (addFlags k f).resident = k.resident := rfl
@[simp] theorem addFlags_sets (k : Core) (f : BitVec 16) : (addFlags k f).sets = k.sets := rfl
@[simp] theorem addFlags_posted (k : Core) (f : BitVec 16) : (addFlags k f).posted = k.posted := rfl
@[simp] theorem addFlags_topLists (k : Core) (f : BitVec 16) : (addFlags k f).topLists = k.topLists := rfl
@[simp] theorem addFlags_postWait (k : Core) (f : BitVec 16) : (addFlags k f).postWait = k.postWait := rfl
@[simp] theorem addFlags_twait (k : Core) (f : BitVec 16) : (addFlags k f).twait = k.twait := rfl
@[simp] theorem addFlags_endWait (k : Core) (f : BitVec 16) : (addFlags k f).endWait = k.endWait := rfl
@[simp] theorem addFlags_ended (k : Core) (f : BitVec 16) : (addFlags k f).ended = k.ended := rfl
@[simp] theorem addFlags_timed (k : Core) (f : BitVec 16) : (addFlags k f).timed = k.timed := rfl
@[simp] theorem addFlags_collSeq (k : Core) (f : BitVec 16) : (addFlags k f).collSeq = k.collSeq := rfl
@[simp] theorem addFlags_stop (k : Core) (f : BitVec 16) : (addFlags k f).stop = k.stop := rfl
@[simp] theorem addFlags_loads (k : Core) (f : BitVec 16) : (addFlags k f).loads = k.loads := rfl
@[simp] theorem addFlags_gate (k : Core) (f : BitVec 16) : (addFlags k f).gate = k.gate := rfl
@[simp] theorem addFlags_gateOpen (k : Core) (f : BitVec 16) : (addFlags k f).gateOpen = k.gateOpen := rfl
@[simp] theorem addFlags_nextLayer (k : Core) (f : BitVec 16) : (addFlags k f).nextLayer = k.nextLayer := rfl
@[simp] theorem addFlags_iter (k : Core) (f : BitVec 16) : (addFlags k f).iter = k.iter := rfl
@[simp] theorem addFlags_inLayers (k : Core) (f : BitVec 16) : (addFlags k f).inLayers = k.inLayers := rfl
@[simp] theorem addFlags_ls (k : Core) (f : BitVec 16) : (addFlags k f).ls = k.ls := rfl
/-! setPc -/
@[simp] theorem setPc_placed (k : Core) (n : Nat) : (setPc k n).placed = k.placed := rfl
@[simp] theorem setPc_run (k : Core) (n : Nat) : (setPc k n).run = k.run := rfl
@[simp] theorem setPc_array (k : Core) (n : Nat) : (setPc k n).array = k.array := rfl
@[simp] theorem setPc_ramping (k : Core) (n : Nat) : (setPc k n).ramping = k.ramping := rfl
@[simp] theorem setPc_fault (k : Core) (n : Nat) : (setPc k n).fault = k.fault := rfl
@[simp] theorem setPc_faultOff (k : Core) (n : Nat) : (setPc k n).faultOff = k.faultOff := rfl
@[simp] theorem setPc_s (k : Core) (n : Nat) : (setPc k n).s = k.s := rfl
@[simp] theorem setPc_a (k : Core) (n : Nat) : (setPc k n).a = k.a := rfl
@[simp] theorem setPc_lc (k : Core) (n : Nat) : (setPc k n).lc = k.lc := rfl
@[simp] theorem setPc_loops (k : Core) (n : Nat) : (setPc k n).loops = k.loops := rfl
@[simp] theorem setPc_v (k : Core) (n : Nat) : (setPc k n).v = k.v := rfl
@[simp] theorem setPc_p (k : Core) (n : Nat) : (setPc k n).p = k.p := rfl
@[simp] theorem setPc_t (k : Core) (n : Nat) : (setPc k n).t = k.t := rfl
@[simp] theorem setPc_fstat (k : Core) (n : Nat) : (setPc k n).fstat = k.fstat := rfl
@[simp] theorem setPc_steps (k : Core) (n : Nat) : (setPc k n).steps = k.steps := rfl
@[simp] theorem setPc_portWaits (k : Core) (n : Nat) : (setPc k n).portWaits = k.portWaits := rfl
@[simp] theorem setPc_mirage (k : Core) (n : Nat) : (setPc k n).mirage = k.mirage := rfl
@[simp] theorem setPc_acc (k : Core) (n : Nat) : (setPc k n).acc = k.acc := rfl
@[simp] theorem setPc_parts (k : Core) (n : Nat) : (setPc k n).parts = k.parts := rfl
@[simp] theorem setPc_live (k : Core) (n : Nat) : (setPc k n).live = k.live := rfl
@[simp] theorem setPc_pq (k : Core) (n : Nat) : (setPc k n).pq = k.pq := rfl
@[simp] theorem setPc_waiting (k : Core) (n : Nat) : (setPc k n).waiting = k.waiting := rfl
@[simp] theorem setPc_asked (k : Core) (n : Nat) : (setPc k n).asked = k.asked := rfl
@[simp] theorem setPc_det (k : Core) (n : Nat) : (setPc k n).det = k.det := rfl
@[simp] theorem setPc_drains (k : Core) (n : Nat) : (setPc k n).drains = k.drains := rfl
@[simp] theorem setPc_since (k : Core) (n : Nat) : (setPc k n).since = k.since := rfl
@[simp] theorem setPc_recorded (k : Core) (n : Nat) : (setPc k n).recorded = k.recorded := rfl
@[simp] theorem setPc_resident (k : Core) (n : Nat) : (setPc k n).resident = k.resident := rfl
@[simp] theorem setPc_sets (k : Core) (n : Nat) : (setPc k n).sets = k.sets := rfl
@[simp] theorem setPc_posted (k : Core) (n : Nat) : (setPc k n).posted = k.posted := rfl
@[simp] theorem setPc_topLists (k : Core) (n : Nat) : (setPc k n).topLists = k.topLists := rfl
@[simp] theorem setPc_postWait (k : Core) (n : Nat) : (setPc k n).postWait = k.postWait := rfl
@[simp] theorem setPc_twait (k : Core) (n : Nat) : (setPc k n).twait = k.twait := rfl
@[simp] theorem setPc_endWait (k : Core) (n : Nat) : (setPc k n).endWait = k.endWait := rfl
@[simp] theorem setPc_ended (k : Core) (n : Nat) : (setPc k n).ended = k.ended := rfl
@[simp] theorem setPc_timed (k : Core) (n : Nat) : (setPc k n).timed = k.timed := rfl
@[simp] theorem setPc_collSeq (k : Core) (n : Nat) : (setPc k n).collSeq = k.collSeq := rfl
@[simp] theorem setPc_stop (k : Core) (n : Nat) : (setPc k n).stop = k.stop := rfl
@[simp] theorem setPc_loads (k : Core) (n : Nat) : (setPc k n).loads = k.loads := rfl
@[simp] theorem setPc_gate (k : Core) (n : Nat) : (setPc k n).gate = k.gate := rfl
@[simp] theorem setPc_nextLayer (k : Core) (n : Nat) : (setPc k n).nextLayer = k.nextLayer := rfl
@[simp] theorem setPc_iter (k : Core) (n : Nat) : (setPc k n).iter = k.iter := rfl
@[simp] theorem setPc_inLayers (k : Core) (n : Nat) : (setPc k n).inLayers = k.inLayers := rfl
@[simp] theorem setPc_ls (k : Core) (n : Nat) : (setPc k n).ls = k.ls := rfl
/-! setS: register 0 is hard-wired -/
@[simp] theorem setS_placed (k : Core) (n : Nat) (v : DWord) : (setS k n v).placed = k.placed := by
  unfold setS; split <;> rfl
@[simp] theorem setS_run (k : Core) (n : Nat) (v : DWord) : (setS k n v).run = k.run := by
  unfold setS; split <;> rfl
@[simp] theorem setS_array (k : Core) (n : Nat) (v : DWord) : (setS k n v).array = k.array := by
  unfold setS; split <;> rfl
@[simp] theorem setS_ramping (k : Core) (n : Nat) (v : DWord) : (setS k n v).ramping = k.ramping := by
  unfold setS; split <;> rfl
@[simp] theorem setS_pc (k : Core) (n : Nat) (v : DWord) : (setS k n v).pc = k.pc := by
  unfold setS; split <;> rfl
@[simp] theorem setS_fault (k : Core) (n : Nat) (v : DWord) : (setS k n v).fault = k.fault := by
  unfold setS; split <;> rfl
@[simp] theorem setS_faultOff (k : Core) (n : Nat) (v : DWord) : (setS k n v).faultOff = k.faultOff := by
  unfold setS; split <;> rfl
@[simp] theorem setS_a (k : Core) (n : Nat) (v : DWord) : (setS k n v).a = k.a := by
  unfold setS; split <;> rfl
@[simp] theorem setS_lc (k : Core) (n : Nat) (v : DWord) : (setS k n v).lc = k.lc := by
  unfold setS; split <;> rfl
@[simp] theorem setS_loops (k : Core) (n : Nat) (v : DWord) : (setS k n v).loops = k.loops := by
  unfold setS; split <;> rfl
@[simp] theorem setS_v (k : Core) (n : Nat) (v : DWord) : (setS k n v).v = k.v := by
  unfold setS; split <;> rfl
@[simp] theorem setS_p (k : Core) (n : Nat) (v : DWord) : (setS k n v).p = k.p := by
  unfold setS; split <;> rfl
@[simp] theorem setS_t (k : Core) (n : Nat) (v : DWord) : (setS k n v).t = k.t := by
  unfold setS; split <;> rfl
@[simp] theorem setS_fstat (k : Core) (n : Nat) (v : DWord) : (setS k n v).fstat = k.fstat := by
  unfold setS; split <;> rfl
@[simp] theorem setS_steps (k : Core) (n : Nat) (v : DWord) : (setS k n v).steps = k.steps := by
  unfold setS; split <;> rfl
@[simp] theorem setS_portWaits (k : Core) (n : Nat) (v : DWord) : (setS k n v).portWaits = k.portWaits := by
  unfold setS; split <;> rfl
@[simp] theorem setS_mirage (k : Core) (n : Nat) (v : DWord) : (setS k n v).mirage = k.mirage := by
  unfold setS; split <;> rfl
@[simp] theorem setS_acc (k : Core) (n : Nat) (v : DWord) : (setS k n v).acc = k.acc := by
  unfold setS; split <;> rfl
@[simp] theorem setS_parts (k : Core) (n : Nat) (v : DWord) : (setS k n v).parts = k.parts := by
  unfold setS; split <;> rfl
@[simp] theorem setS_live (k : Core) (n : Nat) (v : DWord) : (setS k n v).live = k.live := by
  unfold setS; split <;> rfl
@[simp] theorem setS_pq (k : Core) (n : Nat) (v : DWord) : (setS k n v).pq = k.pq := by
  unfold setS; split <;> rfl
@[simp] theorem setS_waiting (k : Core) (n : Nat) (v : DWord) : (setS k n v).waiting = k.waiting := by
  unfold setS; split <;> rfl
@[simp] theorem setS_asked (k : Core) (n : Nat) (v : DWord) : (setS k n v).asked = k.asked := by
  unfold setS; split <;> rfl
@[simp] theorem setS_det (k : Core) (n : Nat) (v : DWord) : (setS k n v).det = k.det := by
  unfold setS; split <;> rfl
@[simp] theorem setS_drains (k : Core) (n : Nat) (v : DWord) : (setS k n v).drains = k.drains := by
  unfold setS; split <;> rfl
@[simp] theorem setS_since (k : Core) (n : Nat) (v : DWord) : (setS k n v).since = k.since := by
  unfold setS; split <;> rfl
@[simp] theorem setS_recorded (k : Core) (n : Nat) (v : DWord) : (setS k n v).recorded = k.recorded := by
  unfold setS; split <;> rfl
@[simp] theorem setS_resident (k : Core) (n : Nat) (v : DWord) : (setS k n v).resident = k.resident := by
  unfold setS; split <;> rfl
@[simp] theorem setS_sets (k : Core) (n : Nat) (v : DWord) : (setS k n v).sets = k.sets := by
  unfold setS; split <;> rfl
@[simp] theorem setS_posted (k : Core) (n : Nat) (v : DWord) : (setS k n v).posted = k.posted := by
  unfold setS; split <;> rfl
@[simp] theorem setS_topLists (k : Core) (n : Nat) (v : DWord) : (setS k n v).topLists = k.topLists := by
  unfold setS; split <;> rfl
@[simp] theorem setS_postWait (k : Core) (n : Nat) (v : DWord) : (setS k n v).postWait = k.postWait := by
  unfold setS; split <;> rfl
@[simp] theorem setS_twait (k : Core) (n : Nat) (v : DWord) : (setS k n v).twait = k.twait := by
  unfold setS; split <;> rfl
@[simp] theorem setS_endWait (k : Core) (n : Nat) (v : DWord) : (setS k n v).endWait = k.endWait := by
  unfold setS; split <;> rfl
@[simp] theorem setS_ended (k : Core) (n : Nat) (v : DWord) : (setS k n v).ended = k.ended := by
  unfold setS; split <;> rfl
@[simp] theorem setS_timed (k : Core) (n : Nat) (v : DWord) : (setS k n v).timed = k.timed := by
  unfold setS; split <;> rfl
@[simp] theorem setS_collSeq (k : Core) (n : Nat) (v : DWord) : (setS k n v).collSeq = k.collSeq := by
  unfold setS; split <;> rfl
@[simp] theorem setS_stop (k : Core) (n : Nat) (v : DWord) : (setS k n v).stop = k.stop := by
  unfold setS; split <;> rfl
@[simp] theorem setS_loads (k : Core) (n : Nat) (v : DWord) : (setS k n v).loads = k.loads := by
  unfold setS; split <;> rfl
@[simp] theorem setS_gate (k : Core) (n : Nat) (v : DWord) : (setS k n v).gate = k.gate := by
  unfold setS; split <;> rfl
@[simp] theorem setS_gateOpen (k : Core) (n : Nat) (v : DWord) : (setS k n v).gateOpen = k.gateOpen := by
  unfold setS; split <;> rfl
@[simp] theorem setS_nextLayer (k : Core) (n : Nat) (v : DWord) : (setS k n v).nextLayer = k.nextLayer := by
  unfold setS; split <;> rfl
@[simp] theorem setS_iter (k : Core) (n : Nat) (v : DWord) : (setS k n v).iter = k.iter := by
  unfold setS; split <;> rfl
@[simp] theorem setS_inLayers (k : Core) (n : Nat) (v : DWord) : (setS k n v).inLayers = k.inLayers := by
  unfold setS; split <;> rfl
@[simp] theorem setS_ls (k : Core) (n : Nat) (v : DWord) : (setS k n v).ls = k.ls := by
  unfold setS; split <;> rfl
/-! setP: register 0 is hard-wired -/
@[simp] theorem setP_placed (k : Core) (n : Nat) (v : DWord) : (setP k n v).placed = k.placed := by
  unfold setP; split <;> rfl
@[simp] theorem setP_run (k : Core) (n : Nat) (v : DWord) : (setP k n v).run = k.run := by
  unfold setP; split <;> rfl
@[simp] theorem setP_array (k : Core) (n : Nat) (v : DWord) : (setP k n v).array = k.array := by
  unfold setP; split <;> rfl
@[simp] theorem setP_ramping (k : Core) (n : Nat) (v : DWord) : (setP k n v).ramping = k.ramping := by
  unfold setP; split <;> rfl
@[simp] theorem setP_pc (k : Core) (n : Nat) (v : DWord) : (setP k n v).pc = k.pc := by
  unfold setP; split <;> rfl
@[simp] theorem setP_fault (k : Core) (n : Nat) (v : DWord) : (setP k n v).fault = k.fault := by
  unfold setP; split <;> rfl
@[simp] theorem setP_faultOff (k : Core) (n : Nat) (v : DWord) : (setP k n v).faultOff = k.faultOff := by
  unfold setP; split <;> rfl
@[simp] theorem setP_s (k : Core) (n : Nat) (v : DWord) : (setP k n v).s = k.s := by
  unfold setP; split <;> rfl
@[simp] theorem setP_a (k : Core) (n : Nat) (v : DWord) : (setP k n v).a = k.a := by
  unfold setP; split <;> rfl
@[simp] theorem setP_lc (k : Core) (n : Nat) (v : DWord) : (setP k n v).lc = k.lc := by
  unfold setP; split <;> rfl
@[simp] theorem setP_loops (k : Core) (n : Nat) (v : DWord) : (setP k n v).loops = k.loops := by
  unfold setP; split <;> rfl
@[simp] theorem setP_v (k : Core) (n : Nat) (v : DWord) : (setP k n v).v = k.v := by
  unfold setP; split <;> rfl
@[simp] theorem setP_t (k : Core) (n : Nat) (v : DWord) : (setP k n v).t = k.t := by
  unfold setP; split <;> rfl
@[simp] theorem setP_fstat (k : Core) (n : Nat) (v : DWord) : (setP k n v).fstat = k.fstat := by
  unfold setP; split <;> rfl
@[simp] theorem setP_steps (k : Core) (n : Nat) (v : DWord) : (setP k n v).steps = k.steps := by
  unfold setP; split <;> rfl
@[simp] theorem setP_portWaits (k : Core) (n : Nat) (v : DWord) : (setP k n v).portWaits = k.portWaits := by
  unfold setP; split <;> rfl
@[simp] theorem setP_mirage (k : Core) (n : Nat) (v : DWord) : (setP k n v).mirage = k.mirage := by
  unfold setP; split <;> rfl
@[simp] theorem setP_acc (k : Core) (n : Nat) (v : DWord) : (setP k n v).acc = k.acc := by
  unfold setP; split <;> rfl
@[simp] theorem setP_parts (k : Core) (n : Nat) (v : DWord) : (setP k n v).parts = k.parts := by
  unfold setP; split <;> rfl
@[simp] theorem setP_live (k : Core) (n : Nat) (v : DWord) : (setP k n v).live = k.live := by
  unfold setP; split <;> rfl
@[simp] theorem setP_pq (k : Core) (n : Nat) (v : DWord) : (setP k n v).pq = k.pq := by
  unfold setP; split <;> rfl
@[simp] theorem setP_waiting (k : Core) (n : Nat) (v : DWord) : (setP k n v).waiting = k.waiting := by
  unfold setP; split <;> rfl
@[simp] theorem setP_asked (k : Core) (n : Nat) (v : DWord) : (setP k n v).asked = k.asked := by
  unfold setP; split <;> rfl
@[simp] theorem setP_det (k : Core) (n : Nat) (v : DWord) : (setP k n v).det = k.det := by
  unfold setP; split <;> rfl
@[simp] theorem setP_drains (k : Core) (n : Nat) (v : DWord) : (setP k n v).drains = k.drains := by
  unfold setP; split <;> rfl
@[simp] theorem setP_since (k : Core) (n : Nat) (v : DWord) : (setP k n v).since = k.since := by
  unfold setP; split <;> rfl
@[simp] theorem setP_recorded (k : Core) (n : Nat) (v : DWord) : (setP k n v).recorded = k.recorded := by
  unfold setP; split <;> rfl
@[simp] theorem setP_resident (k : Core) (n : Nat) (v : DWord) : (setP k n v).resident = k.resident := by
  unfold setP; split <;> rfl
@[simp] theorem setP_sets (k : Core) (n : Nat) (v : DWord) : (setP k n v).sets = k.sets := by
  unfold setP; split <;> rfl
@[simp] theorem setP_posted (k : Core) (n : Nat) (v : DWord) : (setP k n v).posted = k.posted := by
  unfold setP; split <;> rfl
@[simp] theorem setP_topLists (k : Core) (n : Nat) (v : DWord) : (setP k n v).topLists = k.topLists := by
  unfold setP; split <;> rfl
@[simp] theorem setP_postWait (k : Core) (n : Nat) (v : DWord) : (setP k n v).postWait = k.postWait := by
  unfold setP; split <;> rfl
@[simp] theorem setP_twait (k : Core) (n : Nat) (v : DWord) : (setP k n v).twait = k.twait := by
  unfold setP; split <;> rfl
@[simp] theorem setP_endWait (k : Core) (n : Nat) (v : DWord) : (setP k n v).endWait = k.endWait := by
  unfold setP; split <;> rfl
@[simp] theorem setP_ended (k : Core) (n : Nat) (v : DWord) : (setP k n v).ended = k.ended := by
  unfold setP; split <;> rfl
@[simp] theorem setP_timed (k : Core) (n : Nat) (v : DWord) : (setP k n v).timed = k.timed := by
  unfold setP; split <;> rfl
@[simp] theorem setP_collSeq (k : Core) (n : Nat) (v : DWord) : (setP k n v).collSeq = k.collSeq := by
  unfold setP; split <;> rfl
@[simp] theorem setP_stop (k : Core) (n : Nat) (v : DWord) : (setP k n v).stop = k.stop := by
  unfold setP; split <;> rfl
@[simp] theorem setP_loads (k : Core) (n : Nat) (v : DWord) : (setP k n v).loads = k.loads := by
  unfold setP; split <;> rfl
@[simp] theorem setP_gate (k : Core) (n : Nat) (v : DWord) : (setP k n v).gate = k.gate := by
  unfold setP; split <;> rfl
@[simp] theorem setP_gateOpen (k : Core) (n : Nat) (v : DWord) : (setP k n v).gateOpen = k.gateOpen := by
  unfold setP; split <;> rfl
@[simp] theorem setP_nextLayer (k : Core) (n : Nat) (v : DWord) : (setP k n v).nextLayer = k.nextLayer := by
  unfold setP; split <;> rfl
@[simp] theorem setP_iter (k : Core) (n : Nat) (v : DWord) : (setP k n v).iter = k.iter := by
  unfold setP; split <;> rfl
@[simp] theorem setP_inLayers (k : Core) (n : Nat) (v : DWord) : (setP k n v).inLayers = k.inLayers := by
  unfold setP; split <;> rfl
@[simp] theorem setP_ls (k : Core) (n : Nat) (v : DWord) : (setP k n v).ls = k.ls := by
  unfold setP; split <;> rfl

end Sys2Proof.Machine
end

