-- ==== Sys2Proof/Laws/Table.lean ====
section
/-! SUPPORT. Table: what reading after writing gives, for tables and byte memories, and that every memory operation keeps the canonical
form. -/
namespace Sys2Proof.Machine

theorem tabFind_tabSet_same {α : Type} (t : Tab α) (k : Nat) (v : α) : tabFind (tabSet t k v) k = some v := by
  induction t with
  | nil => simp [tabSet, tabFind]
  | cons e t ih =>
    obtain ⟨k', v'⟩ := e
    simp only [tabSet]
    split
    · simp [tabFind]
    · split
      · simp [tabFind]
      · next h1 h2 => simp [tabFind, h1, h2, ih]

theorem tabFind_tabSet_other {α : Type} (t : Tab α) (k o : Nat) (v : α) (h : o ≠ k) : tabFind (tabSet t k v) o = tabFind t o := by
  induction t with
  | nil =>
    simp only [tabSet, tabFind]
    rw [if_neg (fun e => h e.symm)]
    simp
  | cons e t ih =>
    obtain ⟨k', v'⟩ := e
    simp only [tabSet]
    split
    · next h1 =>
      subst h1
      have hne : ¬k' = o := fun e => h e.symm
      simp only [tabFind, if_neg hne]
    · split
      · next h1 h2 =>
        simp only [tabFind]
        rw [if_neg (fun e => h e.symm)]
        by_cases h3 : o < k
        · rw [if_pos h3, if_neg (by omega), if_pos (by omega)]
        · rw [if_neg h3]
      · next h1 h2 => simp only [tabFind, ih]

@[simp] theorem tabGet_tabSet_same {α : Type} (d : α) (t : Tab α) (k : Nat) (v : α) : tabGet d (tabSet t k v) k = v := by
  simp [tabGet, tabFind_tabSet_same]

theorem tabGet_tabSet_other {α : Type} (d : α) (t : Tab α) (k o : Nat) (v : α) (h : o ≠ k) :
    tabGet d (tabSet t k v) o = tabGet d t o := by
  simp [tabGet, tabFind_tabSet_other t k o v h]

/-! Byte memories. -/

theorem memWf_all_cons {d : Byte} {m : Mem} {a : Nat} {b : Byte} :
    memWf d ((a, b) :: m) = true ↔ b ≠ d ∧ (∀ e ∈ m, a < e.1) ∧ memWf d m = true := by
  simp [memWf, and_assoc]

theorem memCons_mem {d : Byte} {m : Mem} {a : Nat} {b : Byte} {e : Host.Cell} (h : e ∈ memCons d a b m) : e = (a, b) ∨ e ∈ m := by
  unfold memCons at h
  split at h
  · exact .inr h
  · simpa using h

theorem memSet_mem {d : Byte} {m : Mem} {a : Nat} {b : Byte} {e : Host.Cell} (h : e ∈ memSet d m a b) : e.1 = a ∨ e ∈ m := by
  induction m with
  | nil =>
    rcases memCons_mem h with h | h
    · exact .inl (by rw [h])
    · exact .inr h
  | cons x m ih =>
    obtain ⟨a', b'⟩ := x
    simp only [memSet] at h
    split at h
    · rcases memCons_mem h with h | h
      · exact .inl (by rw [h])
      · exact .inr (List.mem_cons_of_mem _ h)
    · split at h
      · rcases memCons_mem h with h | h
        · exact .inl (by rw [h])
        · exact .inr h
      · rcases List.mem_cons.1 h with h | h
        · exact .inr (by simp [h])
        · rcases ih h with h | h
          · exact .inl h
          · exact .inr (List.mem_cons_of_mem _ h)

theorem memCons_wf {d : Byte} {m : Mem} {a : Nat} {b : Byte} (h : memWf d m = true) (hl : ∀ e ∈ m, a < e.1) :
    memWf d (memCons d a b m) = true := by
  unfold memCons
  split
  · exact h
  · next hb => exact memWf_all_cons.2 ⟨hb, hl, h⟩

/-- Writing one byte keeps the canonical form. -/
theorem memSet_wf {d : Byte} {m : Mem} (a : Nat) (b : Byte) (h : memWf d m = true) : memWf d (memSet d m a b) = true := by
  induction m with
  | nil => exact memCons_wf h (by simp)
  | cons x m ih =>
    obtain ⟨a', b'⟩ := x
    obtain ⟨h1, h2, h3⟩ := memWf_all_cons.1 h
    simp only [memSet]
    split
    · next e => subst e; exact memCons_wf h3 h2
    · split
      · next hne hlt =>
        refine memCons_wf h ?_
        intro e he
        rcases List.mem_cons.1 he with he | he
        · rw [he]; exact hlt
        · exact lt_trans hlt (h2 e he)
      · next hne hlt =>
        refine memWf_all_cons.2 ⟨h1, ?_, ih h3⟩
        intro e he
        rcases memSet_mem he with he | he
        · rw [he]; omega
        · exact h2 e he

/-- Writing bytes keeps the canonical form. -/
theorem memPut_wf {d : Byte} (bs : List Byte) : ∀ (m : Mem) (a : Nat), memWf d m = true → memWf d (memPut d m a bs) = true := by
  induction bs with
  | nil => intro m a h; exact h
  | cons b bs ih => intro m a h; exact ih _ _ (memSet_wf a b h)

theorem memFilter_wf {d : Byte} {m : Mem} (p : Host.Cell → Bool) (h : memWf d m = true) : memWf d (m.filter p) = true := by
  induction m with
  | nil => rfl
  | cons x m ih =>
    obtain ⟨a, b⟩ := x
    obtain ⟨h1, h2, h3⟩ := memWf_all_cons.1 h
    rw [List.filter_cons]
    split
    · exact memWf_all_cons.2 ⟨h1, fun e he => h2 e (List.mem_filter.1 he).1, ih h3⟩
    · exact ih h3

/-- Taking a range of bytes out, or keeping it alone, keeps the canonical form. -/
theorem memDrop_wf {d : Byte} {m : Mem} (lo hi : Nat) (h : memWf d m = true) : memWf d (memDrop m lo hi) = true := memFilter_wf _ h
theorem memKeep_wf {d : Byte} {m : Mem} (lo hi : Nat) (h : memWf d m = true) : memWf d (memKeep m lo hi) = true := memFilter_wf _ h

theorem memMap_wf {d : Byte} {m : Mem} (f : Nat → Nat) (h : memWf d m = true)
    (hf : ∀ x ∈ m, ∀ y ∈ m, x.1 < y.1 → f x.1 < f y.1) : memWf d (m.map (fun e => (f e.1, e.2))) = true := by
  induction m with
  | nil => rfl
  | cons x m ih =>
    obtain ⟨a, b⟩ := x
    obtain ⟨h1, h2, h3⟩ := memWf_all_cons.1 h
    rw [List.map_cons]
    refine memWf_all_cons.2 ⟨h1, ?_, ih h3 (fun x hx y hy => hf x (List.mem_cons_of_mem _ hx) y (List.mem_cons_of_mem _ hy))⟩
    intro e he
    obtain ⟨y, hy, rfl⟩ := List.mem_map.1 he
    exact hf (a, b) List.mem_cons_self y (List.mem_cons_of_mem _ hy) (h2 y hy)

/-- Moving the bytes of a memory keeps the canonical form. -/
theorem memShiftUp_wf {d : Byte} {m : Mem} (n : Nat) (h : memWf d m = true) : memWf d (memShiftUp m n) = true :=
  memMap_wf (· + n) h (fun _ _ _ _ hlt => Nat.add_lt_add_right hlt n)

theorem memShiftDown_wf {d : Byte} {m : Mem} (n : Nat) (h : memWf d m = true) : memWf d (memShiftDown m n) = true := by
  refine memMap_wf (· - n) (memFilter_wf _ h) ?_
  intro x hx y hy hlt
  have hx' := (List.mem_filter.1 hx).2
  have hy' := (List.mem_filter.1 hy).2
  simp only [decide_eq_true_eq] at hx' hy'
  show x.1 - n < y.1 - n
  omega

theorem memGet_below {d : Byte} {m : Mem} {a : Nat} (h : ∀ e ∈ m, a < e.1) : memGet d m a = d := by
  cases m with
  | nil => rfl
  | cons x m =>
    obtain ⟨a', b'⟩ := x
    have := h (a', b') List.mem_cons_self
    simp only [memGet]
    rw [if_neg (by simp only at this; omega), if_pos (by simpa using this)]

theorem memGet_memCons {d : Byte} {m : Mem} (a : Nat) (b : Byte) (_h : memWf d m = true) (hl : ∀ e ∈ m, a < e.1) (o : Nat) :
    memGet d (memCons d a b m) o = if o = a then b else memGet d m o := by
  unfold memCons
  split
  · next hb =>
    split
    · next ho => rw [ho, memGet_below hl, hb]
    · rfl
  · simp only [memGet]
    by_cases ho : o = a
    · rw [if_pos ho.symm, if_pos ho]
    · rw [if_neg (fun e => ho e.symm), if_neg ho]
      split
      · next hlt => exact (memGet_below (fun e he => lt_trans hlt (hl e he))).symm
      · rfl

/-- A read after a write of one byte gives the byte written at its address and what stood before at every other. -/
theorem memGet_memSet {d : Byte} {m : Mem} (a : Nat) (b : Byte) (h : memWf d m = true) (o : Nat) :
    memGet d (memSet d m a b) o = if o = a then b else memGet d m o := by
  induction m with
  | nil => exact memGet_memCons a b h (by simp) o
  | cons x m ih =>
    obtain ⟨a', b'⟩ := x
    obtain ⟨h1, h2, h3⟩ := memWf_all_cons.1 h
    simp only [memSet]
    split
    · next e =>
      subst e
      rw [memGet_memCons a' b h3 h2 o]
      split
      · rfl
      · next ho =>
        simp only [memGet]
        rw [if_neg (fun e => ho e.symm)]
        split
        · next hlt => exact memGet_below (fun e he => lt_trans hlt (h2 e he))
        · rfl
    · split
      · next hne hlt =>
        refine memGet_memCons a b h ?_ o
        intro e he
        rcases List.mem_cons.1 he with he | he
        · rw [he]; exact hlt
        · exact lt_trans hlt (h2 e he)
      · next hne hlt =>
        simp only [memGet, ih h3]
        by_cases ho : o = a
        · subst ho
          rw [if_neg hne, if_neg hlt]
          simp
        · simp only [if_neg ho]

/-- The bytes of a list that lie wholly within it. -/
theorem bytesAt_within (l : List Byte) : ∀ n i : Nat, i + n ≤ l.length → bytesAt l i n = (l.drop i).take n
  | 0, _, _ => by simp [bytesAt]
  | n + 1, i, h => by
    have hi : i < l.length := by omega
    rw [bytesAt, bytesAt_within l n (i + 1) (by omega), List.drop_eq_getElem_cons hi, List.take_succ_cons, byteAt]
    simp [hi]

end Sys2Proof.Machine
end

