-- ==== Sys2Proof/Laws/Core.lean ====
section
/-! SUPPORT. Core: what the operations on cores do, and what issuing a short instruction leaves. -/
namespace Sys2Proof.Machine

@[simp] theorem getCore_setCore_same (s : Block) (c : Nat) (k : Core) : getCore (setCore s c k) c = k := by
  simp [getCore, setCore]

theorem getCore_setCore_other (s : Block) (c o : Nat) (k : Core) (h : o ≠ c) : getCore (setCore s c k) o = getCore s o := by
  simp [getCore, setCore, tabGet_tabSet_other _ _ _ _ _ h]

@[simp] theorem getCore_updCore_same (s : Block) (c : Nat) (f : Core → Core) : getCore (updCore s c f) c = f (getCore s c) := by
  simp [updCore]

theorem getCore_updCore_other (s : Block) (c o : Nat) (f : Core → Core) (h : o ≠ c) : getCore (updCore s c f) o = getCore s o := by
  simp [updCore, getCore_setCore_other s c o _ h]

@[simp] theorem getCore_updCtx (s : Block) (x o : Nat) (f : Ctx → Ctx) : getCore (updCtx s x f) o = getCore s o := rfl
@[simp] theorem getCore_bump (s : Block) (p i n o : Nat) : getCore (bump s p i n) o = getCore s o := rfl
@[simp] theorem getCore_drawFresh (s : Block) (o : Nat) : getCore (drawFresh s) o = getCore s o := rfl

/-- A fold of one context's instances keeps the image. -/
theorem leaveInst_image (gs : List GateWait) (rank : Nat) : ∀ x : Ctx, (gs.foldl (fun x g => leaveInst x g rank) x).image = x.image := by
  induction gs with
  | nil => intro x; rfl
  | cons g gs ih => intro x; exact ih _

theorem getCtx_updCtx_same (s : Block) (x : Nat) (f : Ctx → Ctx) : getCtx (updCtx s x f) x = f (getCtx s x) := by
  simp [updCtx, getCtx, setCtx]

theorem getCtx_updCtx_other (s : Block) (x y : Nat) (f : Ctx → Ctx) (h : y ≠ x) : getCtx (updCtx s x f) y = getCtx s y := by
  simp [updCtx, getCtx, setCtx, tabGet_tabSet_other _ _ _ _ _ h]

/-- Issue leaves device memory, the cluster stores, the other cores and every image alone. -/
theorem noteIssue_frame (s : Block) (c : Nat) :
    (noteIssue s c).dm = s.dm ∧ (noteIssue s c).cs = s.cs ∧ (∀ o, o ≠ c → getCore (noteIssue s c) o = getCore s o) ∧
      (∀ x, (getCtx (noteIssue s c) x).image = (getCtx s x).image) ∧
      ∃ l, getCore (noteIssue s c) c = { getCore s c with inLayers := l } := by
  unfold noteIssue
  simp only
  split
  · exact ⟨rfl, rfl, fun _ _ => rfl, fun _ => rfl, _, rfl⟩
  · refine ⟨rfl, rfl, fun o ho => ?_, fun x => ?_, ?_⟩
    · rw [getCore_updCtx, getCore_setCore_other _ _ _ _ ho]
    · by_cases hx : x = ctxNoOf (getCore s c)
      · subst hx
        rw [getCtx_updCtx_same, leaveInst_image]
        rfl
      · rw [getCtx_updCtx_other _ _ _ _ hx]
        rfl
    · exact ⟨_, by rw [getCore_updCtx, getCore_setCore_same]⟩

/-- The fields of the core that issuing finds as they were. -/
theorem issuing_eq (s : Block) (c : Nat) : ∃ l, issuing s c = { getCore s c with inLayers := l } := (noteIssue_frame s c).2.2.2.2

theorem countSteps_core (s : Block) (c : Nat) : ∃ n, 1 ≤ n ∧ getCore (countSteps s c) c = counted (getCore s c) n ∧
    (∀ o, o ≠ c → getCore (countSteps s c) o = getCore s o) ∧ (countSteps s c).dm = s.dm ∧ (countSteps s c).cs = s.cs ∧
    (countSteps s c).ctxs = s.ctxs := by
  refine ⟨1 + (Config.freeWord s.fresh).toNat, Nat.le_add_right _ _, ?_, fun o ho => ?_, rfl, rfl, rfl⟩
  · unfold countSteps
    simp only [getCore_bump, getCore_updCore_same, getCore_drawFresh]
    rfl
  · unfold countSteps
    simp only [getCore_bump, getCore_updCore_other _ _ _ _ ho, getCore_drawFresh]

/-- Where a loop end goes on depends on the active loops and the loop counters alone. -/
theorem loopEnd_pc (fuel : Nat) : ∀ (k k' : Core) (pc : Nat), k.loops = k'.loops → k.lc = k'.lc →
    (loopEnd fuel k pc).2 = (loopEnd fuel k' pc).2 := by
  induction fuel with
  | zero => intro k k' pc _ _; rfl
  | succ m ih =>
    intro k k' pc h1 h2
    cases hl : k.loops with
    | nil =>
      unfold loopEnd
      rw [← h1, hl]
    | cons l ls =>
      unfold loopEnd
      rw [← h1, hl]
      simp only
      have hc : getLC (applyLstep k l.lc) l.lc = getLC (applyLstep k' l.lc) l.lc := by
        show tabGet 0 k.lc l.lc = tabGet 0 k'.lc l.lc
        rw [h2]
      rw [hc]
      split
      · split
        · refine ih _ _ pc rfl ?_
          show tabSet k.lc l.lc 0 = tabSet k'.lc l.lc 0
          rw [h2]
        · rfl
      · rfl

/-- Going on in sequence inside CODE. -/
theorem advance_core (s : Block) (c len : Nat)
    (h : (loopEnd 4 (getCore s c) ((getCore s c).pc + len)).2 < codeLen s (getCore s c)) :
    getCore (advance s c len) c = inSequence (getCore s c) len ∧ (∀ o, o ≠ c → getCore (advance s c len) o = getCore s o) ∧
      (advance s c len).dm = s.dm ∧ (advance s c len).cs = s.cs ∧ (advance s c len).ctxs = s.ctxs := by
  unfold advance
  simp only
  have h' : ¬codeLen (setCore s c (setPc (loopEnd 4 (getCore s c) ((getCore s c).pc + len)).1
      (loopEnd 4 (getCore s c) ((getCore s c).pc + len)).2)) (getCore s c) ≤
      (loopEnd 4 (getCore s c) ((getCore s c).pc + len)).2 := Nat.not_le.2 h
  rw [if_neg h']
  exact ⟨getCore_setCore_same _ _ _, fun o ho => getCore_setCore_other _ _ _ _ ho, rfl, rfl, rfl⟩

/-- What `issuable` says. -/
theorem issuable_spec {s : Block} {c len : Nat} {sr vr : List Nat} (h : issuable s c len sr vr = true) :
    canIssue (getCore s c) = true ∧ gateShut s (getCore s c) = false ∧ (getCore s c).timed.isSome = false ∧
      (getCore s c).pc + len ≤ codeLen s (getCore s c) ∧
      ¬(len = 8 ∧ (getCore s c).loops.any (fun l => l.past = (getCore s c).pc + 4) = true) ∧
      loadPending (getCore s c) sr vr = false ∧ (longDst (getCore s c)).any (fun r => sr.contains r) = false ∧
      (loopEnd 4 (getCore s c) ((getCore s c).pc + len)).2 < codeLen s (getCore s c) := by
  simp only [issuable, Bool.and_eq_true, Bool.not_eq_true', decide_eq_true_eq, Option.isNone_iff_eq_none, Bool.or_eq_true,
    bne_iff_ne, ne_eq] at h
  obtain ⟨⟨⟨⟨⟨⟨⟨h2, h3⟩, h4⟩, h5⟩, h6⟩, h7⟩, h8⟩, h9⟩ := h
  refine ⟨h2, h3, by simp [h4], h5, ?_, h7, h8, h9⟩
  rintro ⟨e, ha⟩
  rcases h6 with h6 | h6
  · exact h6 e
  · rw [List.all_eq_true] at h6
    rw [List.any_eq_true] at ha
    obtain ⟨l, hl, hp⟩ := ha
    have := h6 l hl
    simp only [bne_iff_ne, ne_eq] at this
    exact this (by simpa using hp)

/-- A well-formed word decodes without a fault. -/
theorem decodeFault_none {s : Block} {c len : Nat} {sr vr : List Nat} (h : issuable s c len sr vr = true) :
    decodeFault s c len [] = none := by
  obtain ⟨_, _, _, h5, h6, _⟩ := issuable_spec h
  have h5' : ¬codeLen s (getCore s c) < (getCore s c).pc + len := Nat.not_lt.2 h5
  simp only [decodeFault, if_neg h5', List.append_nil]
  show (if _ then _ else _) = _
  rw [if_neg h6]

/-- The issue of a well-formed short instruction is what it does, on the core that has left the layers that end there. -/
theorem issueShort_eq {s : Block} {c len : Nat} {sr vr : List Nat} {f : Block → Exec} (h : issuable s c len sr vr = true) :
    issueShort s c len [] sr vr f =
      match f (noteIssue s c) with
      | .done s' => advance (countSteps s' c) c len
      | .jump s' t => updCore (countSteps s' c) c (fun k => jumped k t)
      | .fault cls d => faultCore s c cls d (getCore s c).pc
      | .stay s' => countSteps s' c
      | .wait => s := by
  obtain ⟨h2, h3, h4, _, _, h7, h8, _⟩ := issuable_spec h
  have hd := decodeFault_none h
  unfold issueShort
  simp only [h2, h3, h4, Bool.not_true, Bool.or_self, Bool.false_eq_true, if_false, List.append_nil, hd, h7, h8]
  cases f (noteIssue s c) <;> rfl

/-- A short instruction that changes its core alone, in sequence. f changes neither the loops nor their counters. -/
theorem issueShort_core {s : Block} {c len : Nat} {sr vr : List Nat} {f : Core → Core} (h : issuable s c len sr vr = true)
    (hl : ∀ k, (f k).loops = k.loops) (hc : ∀ k, (f k).lc = k.lc) (hp : ∀ k, (f k).pc = k.pc) (hx : ∀ k, (f k).placed = k.placed) :
    Issued s (issueShort s c len [] sr vr (onCore c f)) c len f := by
  obtain ⟨_, _, _, _, _, _, _, h9⟩ := issuable_spec h
  rw [issueShort_eq h]
  show Issued s (advance (countSteps (updCore (noteIssue s c) c f) c) c len) c len f
  obtain ⟨f1, f2, f3, f4, l, f5⟩ := noteIssue_frame s c
  obtain ⟨n, n1, n2, n3, n4, n5, n6⟩ := countSteps_core (updCore (noteIssue s c) c f) c
  rw [getCore_updCore_same] at n2
  have hlen : codeLen (countSteps (updCore (noteIssue s c) c f) c) (counted (f (getCore (noteIssue s c) c)) n) =
      codeLen s (getCore s c) := by
    have e1 : ctxNoOf (counted (f (getCore (noteIssue s c) c)) n) = ctxNoOf (getCore s c) := by
      show ((f _).placed.map _).getD 0 = _
      rw [hx, f5]
      rfl
    unfold codeLen ctxOf
    rw [e1]
    unfold getCtx
    rw [n6, updCore_ctxs]
    exact congrArg (fun i => i.code.length) (f4 (ctxNoOf (getCore s c)))
  have hpc : (counted (f (getCore (noteIssue s c) c)) n).pc = (getCore s c).pc := by
    show (f _).pc = _
    rw [hp, f5]
  have hend : (loopEnd 4 (counted (f (getCore (noteIssue s c) c)) n) ((getCore s c).pc + len)).2 =
      (loopEnd 4 (getCore s c) ((getCore s c).pc + len)).2 := by
    refine loopEnd_pc 4 _ _ _ ?_ ?_
    · show (f _).loops = _
      rw [hl, f5]
    · show (f _).lc = _
      rw [hc, f5]
  obtain ⟨a1, a2, a3, a4, _⟩ := advance_core (countSteps (updCore (noteIssue s c) c f) c) c len (by
    rw [n2, hpc, hend, hlen]
    exact h9)
  refine ⟨⟨n, n1, by rw [a1, n2]; rfl⟩, fun o ho => ?_, ?_, ?_⟩
  · rw [a2 o ho, n3 o ho, getCore_updCore_other _ _ _ _ ho, f3 o ho]
  · rw [a3, n4, updCore_dm, f1]
  · rw [a4, n5, updCore_cs, f2]

/-- A command of a started module completes with its effect on the block. -/
theorem onStarted_eq {f : Block → Block} {s : State} (h : started s.block = true) :
    onStarted f s = .next { s with block := f s.block } := by
  simp only [started, Bool.and_eq_true, decide_eq_true_eq] at h
  simp only [onStarted, onBlock]
  rw [if_pos h]

/-- A command whose meaning acts on a started module completes with its effect. -/
theorem completes_started {i : Instr} {f : Block → Block} {s : State} {Q : Block → Prop} (e : exec i s = onStarted f s)
    (h : started s.block = true) (q : Q (f s.block)) : Completes i s Q :=
  ⟨_, e.trans (onStarted_eq h), rfl, q⟩

/-- A command whose meaning acts whatever the module's phase completes with its effect. -/
theorem completes_block {i : Instr} {f : Block → Block} {s : State} {Q : Block → Prop} (e : exec i s = onBlock f s)
    (q : Q (f s.block)) : Completes i s Q :=
  ⟨_, e, rfl, q⟩

end Sys2Proof.Machine
end

