-- ==== Sys2Proof/Laws/Ops.lean ====
section
/-! SUPPORT. Ops: what the shared operations over pages, completions, events and critical warnings can change of a block; each lemma says
of every other field at once that it stays. -/
namespace Sys2Proof.Machine

/-- A block but for what completing a command changes: controllers, statistics and registers of pages, what the module sent, the error
log and the counts over its life (R431, R433). -/
def besideDone (s : Block) : Block :=
  { s with ctls := [], pages := [], out := [], life := [], adm := { s.adm with errLog := [] } }

/-- A block but for what an event changes as well: the events of ports, wake causes, the event counts of contexts, and notices to peers
(R47, R363, R454, R469, R509). -/
def besideTold (s : Block) : Block :=
  { besideDone s with evts := [], wakes := [], ctxs := [], routerIn := [] }

theorem besideTold_of_done {s t : Block} (h : besideDone t = besideDone s) : besideTold t = besideTold s := by
  unfold besideTold
  rw [h]

@[simp] theorem besideDone_setPage (s : Block) (p : Nat) (g : Page) : besideDone (setPage s p g) = besideDone s := rfl
@[simp] theorem besideDone_updPage (s : Block) (p : Nat) (f : Page → Page) : besideDone (updPage s p f) = besideDone s := rfl
@[simp] theorem besideDone_bump (s : Block) (p i n : Nat) : besideDone (bump s p i n) = besideDone s := rfl
@[simp] theorem besideDone_bumpMax (s : Block) (p i n : Nat) : besideDone (bumpMax s p i n) = besideDone s := rfl
@[simp] theorem besideDone_setReg (s : Block) (p off : Nat) (v : Word) : besideDone (setReg s p off v) = besideDone s := rfl
@[simp] theorem besideDone_incGen (s : Block) (p : Nat) : besideDone (incGen s p) = besideDone s := rfl
@[simp] theorem besideDone_emit (s : Block) (o : Output) : besideDone (emit s o) = besideDone s := rfl
@[simp] theorem besideDone_lifeBump (s : Block) (i n : Nat) : besideDone (lifeBump s i n) = besideDone s := rfl
@[simp] theorem besideDone_updCtl (s : Block) (p : Nat) (f : Controller → Controller) : besideDone (updCtl s p f) = besideDone s := rfl
@[simp] theorem besideDone_beginCmd (s : Block) (cmd : CmdRef) : besideDone (beginCmd s cmd) = besideDone s := rfl
@[simp] theorem besideDone_logError (s : Block) (cmd : Option CmdRef) (st : Nat) (v : Word) :
    besideDone (logError s cmd st v) = besideDone s := by
  simp only [logError, besideDone, lifeBump]

@[simp] theorem besideDone_interruptFor (s : Block) (p q : Nat) (cq : CompQ) : besideDone (interruptFor s p q cq) = besideDone s := by
  unfold interruptFor
  split
  · rfl
  · dsimp only
    split
    · rfl
    · split <;> rfl

@[simp] theorem besideDone_postEntry (s : Block) (e : Entry) : besideDone (postEntry s e) = besideDone s := by
  unfold postEntry
  dsimp only
  split
  · rfl
  · split
    · rfl
    · rfl
    · split
      · rw [besideDone_interruptFor]
        rfl
      · rfl

/-- Everything that completing a command can change (R431, R433). -/
@[simp] theorem besideDone_complete (s : Block) (cmd : CmdRef) (dw0 dw1 st : Nat) :
    besideDone (complete s cmd dw0 dw1 st) = besideDone s := by
  unfold complete
  split
  · rfl
  · simp only [besideDone_postEntry]
    split <;> split <;> (try split) <;> simp

@[simp] theorem besideDone_sendData (s : Block) (cmd : CmdRef) (off : Nat) (b : List Byte) :
    besideDone (sendData s cmd off b) = besideDone s := by
  unfold sendData
  split
  · rfl
  · split <;> rfl

/-- A command that holds no tag is not completed. -/
theorem complete_not (s : Block) (cmd : CmdRef) (dw0 dw1 st : Nat) (h : isOutstanding s cmd = false) : complete s cmd dw0 dw1 st = s := by
  unfold complete
  simp [h]

@[simp] theorem besideTold_complete (s : Block) (cmd : CmdRef) (dw0 dw1 st : Nat) :
    besideTold (complete s cmd dw0 dw1 st) = besideTold s := besideTold_of_done (besideDone_complete s cmd dw0 dw1 st)
@[simp] theorem besideTold_bump (s : Block) (p i n : Nat) : besideTold (bump s p i n) = besideTold s := rfl
@[simp] theorem besideTold_updPage (s : Block) (p : Nat) (f : Page → Page) : besideTold (updPage s p f) = besideTold s := rfl
@[simp] theorem besideTold_setPage (s : Block) (p : Nat) (g : Page) : besideTold (setPage s p g) = besideTold s := rfl
@[simp] theorem besideTold_emit (s : Block) (o : Output) : besideTold (emit s o) = besideTold s := rfl
@[simp] theorem besideTold_updEvt (s : Block) (p : Nat) (f : EventPort → EventPort) : besideTold (updEvt s p f) = besideTold s := rfl
@[simp] theorem besideTold_updCtx (s : Block) (x : Nat) (f : Ctx → Ctx) : besideTold (updCtx s x f) = besideTold s := rfl
@[simp] theorem besideTold_logError (s : Block) (cmd : Option CmdRef) (st : Nat) (v : Word) :
    besideTold (logError s cmd st v) = besideTold s := besideTold_of_done (besideDone_logError s cmd st v)

/-- Everything that an asynchronous event can change (R469). -/
@[simp] theorem besideTold_postRaw (s : Block) (p : Nat) (e : AEvent) : besideTold (postRaw s p e) = besideTold s := by
  unfold postRaw
  dsimp only
  split
  · rfl
  · split
    · simp
    · rfl

@[simp] theorem besideTold_postEventBy (s : Block) (p bit : Nat) (e : AEvent) : besideTold (postEventBy s p bit e) = besideTold s := by
  unfold postEventBy
  split
  · simp
  · rfl

@[simp] theorem besideTold_postEvent (s : Block) (p : Nat) (e : AEvent) : besideTold (postEvent s p e) = besideTold s :=
  besideTold_postEventBy s p (eventBit e) e

theorem besideTold_foldl {α : Type} (f : Block → α → Block) (h : ∀ s a, besideTold (f s a) = besideTold s) :
    ∀ (l : List α) (s : Block), besideTold (l.foldl f s) = besideTold s
  | [], _ => rfl
  | a :: l, s => by rw [List.foldl_cons, besideTold_foldl f h l, h]

/-- Everything that a wake cause can change (R454, R455). -/
@[simp] theorem besideTold_wakeCause (s : Block) (cause x d : Nat) : besideTold (wakeCause s cause x d) = besideTold s := by
  unfold wakeCause
  split
  · rfl
  · simp only [besideTold_bump]
    rw [besideTold_foldl _ (fun s a => besideTold_updEvt s a _)]
    rfl

theorem wakeCause_not (s : Block) (cause x d : Nat) (h : s.low = false) : wakeCause s cause x d = s := by
  unfold wakeCause
  simp [h]

/-- Everything that a signal can change: it reaches a context, a peer, a port or the module manager, and nothing of the units. -/
@[simp] theorem besideTold_signal (s : Block) (p : Nat) (bits : Word) : besideTold (signal s p bits) = besideTold s := by
  unfold signal
  dsimp only
  split
  · simp
  · rfl
  · split
    · simp
    · rfl
  · rfl

/-- Everything that raising an interrupt can change (R47). -/
@[simp] theorem besideTold_raiseIrq (s : Block) (p bit : Nat) : besideTold (raiseIrq s p bit) = besideTold s := by
  unfold raiseIrq
  dsimp only
  split
  · rfl
  · simp

/-- Everything that an error can change (R49, R51). -/
@[simp] theorem besideTold_recordError (s : Block) (p m code d : Nat) : besideTold (recordError s p m code d) = besideTold s := by
  unfold recordError
  simp only [besideTold_raiseIrq, besideTold_bump]
  split <;> simp

/-- Everything that a rejected write can change (R62). -/
@[simp] theorem besideTold_rejectWrite (s : Block) (p : Nat) (w : Writer) (code off : Nat) :
    besideTold (rejectWrite s p w code off) = besideTold s := by
  unfold rejectWrite
  simp only [besideTold_raiseIrq, besideTold_bump]
  split <;> simp

/-- A guarded write that is not refused is its effect on the page with GEN + 1 (R60). -/
theorem guardedWrite_ok {s : Block} {p off : Nat} {w : Writer} {value : Word} {f : Block → Block}
    (h : bvBits value 24 8 = (getPage s p).gen.toNat % 256) : guardedWrite s p off w value none none f = f (incGen s p) := by
  unfold guardedWrite
  simp [h]

/-- Everything else that a guarded write can do is a rejection (R60). -/
theorem guardedWrite_bad {s : Block} {p off : Nat} {w : Writer} {value : Word} {right bad : Option Nat} {f : Block → Block}
    (h : right.isSome ∨ bad.isSome ∨ bvBits value 24 8 ≠ (getPage s p).gen.toNat % 256) :
    ∃ code, guardedWrite s p off w value right bad f = rejectWrite s p w code off := by
  unfold guardedWrite
  cases right with
  | some code => exact ⟨code, rfl⟩
  | none =>
    by_cases hg : bvBits value 24 8 = (getPage s p).gen.toNat % 256
    · cases bad with
      | some code => exact ⟨code, by simp [hg]⟩
      | none => simp [hg] at h
    · exact ⟨eGuard, by simp [hg]⟩

theorem plainWrite_ok {s : Block} {p off : Nat} {w : Writer} {f : Block → Block} : plainWrite s p off w none none f = f s := rfl

end Sys2Proof.Machine
end

