-- ==== Sys2Proof/Tests/Slice0.lean ====
section
/-! SUPPORT. Tests: small checks of the model's own, and for every statement a state and operands that meet its hypotheses. -/
set_option Elab.async false
namespace Sys2Proof.Tests
open Sys2Proof.Machine

/-! A started module, and one at work: context 0 runs on core 0. -/

def up : Block := { hub := { phase := .started, ready := 0x7F } }
def image2 : Image := { level := 2, code := List.replicate 64 0, localBytes := 1024 }
def compute0 : ComputeCmd := ⟨⟨0, 1, 7⟩, 0, 1, 16, 0, 0, 0, 0, []⟩
def run0 : Run := { cc := compute0, since := 0, cores := [0] }
def ctx0 : Ctx := { phase := .running, ncores := 1, image := image2, run := some run0 }
def core0 : Core := { placed := some ⟨0, 0⟩, run := .running }
def work (k : Core) : Block := { up with ctxs := [(0, ctx0)], cores := [(0, k)] }
/-- The same with an image of level 1. -/
def work1 (k : Core) : Block := { work k with ctxs := [(0, { ctx0 with image := { image2 with level := 1 } })] }
def st (b : Block) : State := ⟨b, []⟩

/-- The same as `work` with one page of device memory, and an owned slice of the cluster store. -/
def workDm (k : Core) : Block :=
  { work k with ctxs := [(0, { ctx0 with image := { image2 with devBytes := 0x200000 }, pages := [5] })] }
def x0 : XT := ⟨0, 0, 0, 0, 0, 0, 0, 0, 0⟩

/-- A descriptor from its fields. -/
def dsc (addr fmt kind flags d0 d1 d2 s1 : Nat) : BitVec 256 :=
  BitVec.ofNat 256 (addr + fmt * 2 ^ 48 + kind * 2 ^ 56 + flags * 2 ^ 60 + d0 * 2 ^ 64 + d1 * 2 ^ 96 + d2 * 2 ^ 128 + s1 * 2 ^ 160)
/-- The same as `work` with 64 KiB of local store. -/
def workL (k : Core) : Block := { work k with ctxs := [(0, { ctx0 with image := { image2 with localBytes := 0x10000 } })] }
def coreT (t : Tab (BitVec 256)) : Core := { core0 with t := t }
def long0 (kind : LongKind) (x : XT) : Long := { kind := kind, x := x, off := 0 }
def xt (td ta tb tc : Fin 16) (sa sb sd : Fin 32) (opt : BitVec 14) : XT := ⟨td, ta, tb, tc, 0, sa, sb, sd, opt⟩

/-! Programs: the same block with the words of an instruction at the pc of core 0. -/

def wordsOf (i : Instr) : List Byte :=
  match encode i with
  | some (n, w) => leBytes n w
  | none => []
def spelt (i : Instr) (b : Block) : Block :=
  { b with ctxs := tabMap (fun _ x => { x with image := { x.image with code := bytesPut x.image.code (getCore b 0).pc (wordsOf i) } }) b.ctxs }
/-- The words at the pc of core 0 spell the instruction, and the core can issue it, or decode it. -/
def issues (i : Instr) (b : Block) (len : Nat) (sr vr : List Nat) : Bool :=
  decide (spelling (spelt i b) 0 = .inl i) && issuable (spelt i b) 0 len sr vr
def decodes (i : Instr) (b : Block) (regs : List Nat) (timed : Bool) : Bool :=
  decide (spelling (spelt i b) 0 = .inl i) && decodable (spelt i b) 0 regs timed

/-! The step. -/
theorem test_queue_front : State.pending ⟨up, [.endOp 0 ⟨0, 0, 0⟩]⟩ = .endOp 0 ⟨0, 0, 0⟩ :: [] := rfl
theorem test_idle_queue : (st up).pending = [] := rfl
theorem test_memories_step : memWf 0 (st up).block.dm = true ∧ memWf 0xFF (st up).block.cfl.mem = true ∧ ∃ t, step (st up) = .next t :=
  ⟨by decide, by decide, _, rfl⟩
/-- words of the spec's worked examples: the loop nest over a matrix, and the selection of experts -/
theorem test_decode_scalar : decodeWord 0 0x20C00001 0 = .inl (.lui 0 ⟨6, 0, 1⟩) ∧ decodeWord 0 0x14E0F000 0 = .inl (.ori 0 ⟨7, 0, 0xF000⟩) ∧
    decodeWord 0 0x0D20FC00 0 = .inl (.addi 0 ⟨9, 0, 0xFC00⟩) ∧ decodeWord 0 0x31840006 0 = .inl (.loopi 0 ⟨1, 64, 6⟩) ∧
    decodeWord 0 0x04000800 0 = .inl (.endOp 0 ⟨0, 0, 0⟩) := by decide +kernel
theorem test_decode_address : decodeWord 0 0x3C470000 0 = .inl (.aset 0 ⟨2, 7, 0⟩) ∧ decodeWord 0 0x3C280001 0 = .inl (.astride 0 ⟨1, 8, 0⟩) ∧
    decodeWord 0 0x3C490802 0 = .inl (.alstep 0 ⟨2, 9, 1⟩) := by decide +kernel
theorem test_decode_vector : decodeWord 0 0x2820F000 0 = .inl (.vld 0 ⟨1, 0, 1, 0⟩) ∧ decodeWord 0 0x2C22F000 0 = .inl (.vst 0 ⟨1, 1, 1, 0⟩) ∧
    decodeWord 0 0x40211000 0 = .inl (.vadd 0 ⟨1, 1, 2, 0, false⟩) ∧ decodeWord 0 0x40210004 0 = .inl (.vmax 0 ⟨1, 1, 0, 0, false⟩) ∧
    decodeWord 0 0x4000000F 0 = .inl (.vbcast 0 ⟨0, 0, 0, 0, false⟩) := by decide +kernel
theorem test_decode_long : decodeWord 0 0xD0840001 0x00080000 = .inl (.topk 0 ⟨2, 1, 0, 0, 0, 0, 0, 0, 2⟩) ∧
    decodeWord 0 0xC4D15800 0x00640000 = .inl (.amul 0 ⟨3, 4, 5, 6, 0, 0, 0, 0, 0x19⟩) ∧ wordLen 0xC4D15800 = 8 ∧
    encode (.amul 0 ⟨3, 4, 5, 6, 0, 0, 0, 0, 0x19⟩) = some (8, 0x00640000C4D15800) := by decide +kernel
/-- majors 0, 0x15 and 0x39 are reserved -/
theorem test_decode_reserved : decodeWord 0 0 0 = .inr 1 ∧ decodeWord 0 0x54000000 0 = .inr 1 ∧ decodeWord 0 0xE4000000 0 = .inr 1 := by decide +kernel

/-! WellFormed: for each of its checks a term that the check refuses; and reset. -/
def badCmd : CmdRef := ⟨5, 0, 1⟩
def okCmd : CmdRef := ⟨0, 1, 1⟩
def zeros640 : List Byte := List.replicate 640 0
def pi0 : PrInfo := ⟨false, false, false, false, 0, 0, 0⟩
theorem test_wf_accepts : wellFormed (.ownerWrite ⟨.mm, 0⟩ 0 0) = true ∧ wellFormed (.runAbort okCmd 0) = true ∧
    wellFormed (.blockReceive 0 0 ⟨true, 0, 0, zeros640, some 16⟩) = true ∧ wellFormed (.registerWrite ⟨.pk, 7⟩ 0 0 8 0) = true := by decide +kernel
theorem test_wf_no_master : wellFormed (.ownerWrite ⟨.none, 0⟩ 0 0) = false := by decide +kernel
theorem test_wf_tag_of_a_host : wellFormed (.ownerWrite ⟨.h0, 1⟩ 0 0) = false := by decide +kernel
theorem test_wf_size : wellFormed (.registerWrite ⟨.mm, 0⟩ 0 0 0 0) = false ∧ wellFormed (.counterLowRead ⟨.mm, 0⟩ 0 0 4097) = false := by decide +kernel
theorem test_wf_bar4_read : wellFormed (.bar4Read 0 (2 ^ 34) 1) = false := by decide +kernel
theorem test_wf_bar4_write : wellFormed (.bar4Write 0 (2 ^ 34 - 1) [0, 0]) = false := by decide +kernel
theorem test_wf_slice : wellFormed (.zeroiseComplete 0 (some 0) true) = false := by decide +kernel
theorem test_wf_rank : wellFormed (.fabricTransferArrival 0 12288 0) = false ∧ wellFormed (.fabricTransferError 0 12288 0) = false ∧
    wellFormed (.postedFinish 0 12288 0 []) = false ∧ wellFormed (.postedFailure 0 12288 0 0 0) = false ∧
    wellFormed (.collectiveFinish 0 12288 0) = false ∧ wellFormed (.collectiveMemberLost 0 12288 0 true) = false := by decide +kernel
theorem test_wf_command : wellFormed (.runAbort badCmd 0) = false ∧ wellFormed (.runAbort ⟨0, 4097, 0⟩ 0) = false ∧
    wellFormed (.runAbort ⟨0, 0, 65536⟩ 0) = false ∧ wellFormed (.runAbort ⟨4, 1, 0⟩ 0) = false := by decide +kernel
theorem test_wf_dword : wellFormed (.runAbort okCmd (2 ^ 32)) = false := by decide +kernel
theorem test_wf_span : wellFormed (.read okCmd ⟨1, 0, 0⟩ pi0 ⟨[], [], true⟩) = false ∧ wellFormed (.read okCmd ⟨1, 0, 65537⟩ pi0 ⟨[], [], true⟩) = false ∧
    wellFormed (.read okCmd ⟨1, 2 ^ 64, 1⟩ pi0 ⟨[], [], true⟩) = false ∧ wellFormed (.read okCmd ⟨2 ^ 32, 0, 1⟩ pi0 ⟨[], [], true⟩) = false := by decide +kernel
theorem test_wf_reservation_type : wellFormed (.reservationAcquire okCmd 1 0 256 0 0) = false := by decide +kernel
theorem test_wf_holdup : wellFormed (.holdupTest (2 ^ 32)) = false := by decide +kernel
theorem test_wf_queue : wellFormed (.createIoSq okCmd 65536 8 1 0) = false ∧ wellFormed (.createIoSq okCmd 1 65537 1 0) = false ∧
    wellFormed (.createIoCq okCmd 1 8 65536 true) = false ∧ wellFormed (.deleteIoSq okCmd 65536) = false := by decide +kernel
theorem test_wf_revision : wellFormed (.fwCommitReplace okCmd 1 ⟨true, [0], 0, 0, 0⟩) = false := by decide +kernel
theorem test_wf_sideband_tag : wellFormed (.miVpdRead 65536) = false ∧ wellFormed (.miConfigurationSet 0 0 (2 ^ 32)) = false := by decide +kernel
theorem test_wf_block : wellFormed (.blockReceive 0 0 ⟨true, 0, 0, [0], none⟩) = false ∧
    wellFormed (.blockReceive 0 0 ⟨true, 0, 0, zeros640, some 17⟩) = false := by decide +kernel
theorem test_wf_training : wellFormed (.trainRecordReceive 0 ⟨256, 1, 0, 0, 3, none, 0⟩) = false ∧
    wellFormed (.trainRecordReceive 0 ⟨1, 1, 0, 24, 3, none, 0⟩) = false ∧ wellFormed (.trainRecordReceive 0 ⟨1, 1, 0, 0, 3, some 4096, 0⟩) = false := by decide +kernel
theorem test_wf_lines : wellFormed (.dmWriteBack (2 ^ 33)) = false ∧ wellFormed (.sramWriteBack (12288 * 131072 + 768 * 2 ^ 21)) = false := by decide +kernel
theorem test_wf_scrub : wellFormed (.sramScrubRead true 768 0 0) = false ∧ wellFormed (.sramScrubRead false 0 131072 0) = false := by decide +kernel
theorem test_wf_self_test : wellFormed (.computeReady ⟨[0, 0], [], [], 0, [], [], []⟩) = false ∧
    wellFormed (.computeReady ⟨[], [], [], 0, [196608], [], []⟩) = false := by decide +kernel
theorem test_wf_reset_memory : Memory.wf State.reset.block = true := by decide +kernel

/-! Scalar instructions. -/
def sr1 : SR := ⟨31, 1, 0⟩
theorem test_scalar_issue :
    (∀ i ∈ [Instr.add 0 sr1, .sub 0 sr1, .mul 0 sr1, .mulhs 0 sr1, .mulhu 0 sr1, .divs 0 sr1, .divu 0 sr1, .rems 0 sr1, .remu 0 sr1,
        .andOp 0 sr1, .orOp 0 sr1, .xorOp 0 sr1, .shl 0 sr1, .shr 0 sr1, .sra 0 sr1, .minOp 0 sr1, .maxOp 0 sr1, .minu 0 sr1, .maxu 0 sr1,
        .slt 0 sr1, .sltu 0 sr1, .seq 0 sr1, .popc 0 sr1, .clz 0 sr1],
      issues i (work core0) 4 [31, 1, 0] [] = true ∧ issues i (work1 core0) 4 [31, 1, 0] [] = true) ∧
    levelOf (work core0) core0 ≠ 1 ∧ levelOf (work1 core0) core0 = 1 := by decide +kernel
/-- the corners of the divisions -/
theorem test_division_corners :
    let k := { core0 with s := [(1, BitVec.intMin 64), (2, BitVec.allOnes 64)] }
    issues (.divs 0 ⟨31, 1, 2⟩) (work k) 4 [31, 1, 2] [] = true ∧ getS (issuing (work k) 0) 1 = BitVec.intMin 64 ∧
      getS (issuing (work k) 0) 2 = BitVec.allOnes 64 ∧ getS (issuing (work k) 0) 0 = 0 := by decide +kernel
theorem test_immediate_issue : ∀ i ∈ [Instr.addi 0 ⟨31, 0, 1⟩, .andi 0 ⟨31, 0, 1⟩, .ori 0 ⟨31, 0, 1⟩, .xori 0 ⟨31, 0, 1⟩, .slti 0 ⟨31, 0, 1⟩,
      .lui 0 ⟨31, 0, 1⟩, .shifti 0 ⟨31, 0, 0x003F⟩, .shifti 0 ⟨31, 0, 0x00C0⟩, .shifti 0 ⟨31, 0, 0x0100⟩],
    issues i (work core0) 4 [31, 0] [] = true := by decide +kernel
theorem test_shifti_words : bvBits (0x003F : BitVec 16) 8 8 = 0 ∧ bvBits (0x003F : BitVec 16) 6 2 = 0 ∧ bvBits (0x0040 : BitVec 16) 6 2 = 1 ∧
    bvBits (0x00BF : BitVec 16) 6 2 = 2 ∧ bvBits (0x00C0 : BitVec 16) 6 2 = 3 ∧ bvBits (0x0100 : BitVec 16) 8 8 ≠ 0 ∧
    bvBits (0x0100 : BitVec 16) 6 2 ≠ 3 := by decide
theorem test_address_registers : (∀ i ∈ [Instr.aset 0 ⟨15, 1, 0⟩, .astride 0 ⟨15, 1, 0⟩, .alstep 0 ⟨15, 1, 0⟩, .alstep 0 ⟨15, 1, 3⟩, .aget 0 ⟨15, 1, 0⟩,
      .aadd 0 ⟨15, 1, 0⟩], issues i (work core0) 4 [15, 1] [] = true ∧ issues i (work1 core0) 4 [15, 1] [] = true) ∧
    levelOf (work core0) core0 ≠ 1 ∧ levelOf (work1 core0) core0 = 1 := by decide +kernel
/-- branches: taken to offset 60, taken beyond CODE (the pc at 0, offsets of 16 words and of -1), not taken -/
theorem test_branch_targets : (∀ i ∈ [Instr.bz 0 ⟨1, 15⟩, .bz 0 ⟨1, 16⟩, .bz 0 ⟨1, -1⟩, .bnz 0 ⟨1, 15⟩, .bltz 0 ⟨1, 15⟩, .bgez 0 ⟨1, 15⟩],
      issues i (work core0) 4 [1] [] = true) ∧ issues (.b 0 ⟨0, 15⟩) (work core0) 4 [0] [] = true ∧
    issues (.call 0 ⟨0, 15⟩) (work core0) 4 [0] [] = true ∧ (getS core0 1 == 0) = true ∧ (getS core0 1 != 0) = false ∧
    (0 : Int) + 4 * (15 : BitVec 18).toInt < codeLen (work core0) core0 ∧ ¬(0 : Int) + 4 * (16 : BitVec 18).toInt < codeLen (work core0) core0 ∧
    ¬(0 : Int) ≤ 0 + 4 * (-1 : BitVec 18).toInt ∧ loadPending core0 [31] [] = false ∧ (longDst core0).contains 31 = false := by decide +kernel
theorem test_branch_fields : issues (.bany 0 ⟨8, 15⟩) (work core0) 4 [8] [] = true := by decide +kernel
theorem test_branch_predicates : issues (.bany 0 ⟨1, 15⟩) (work core0) 4 [1] [] = true ∧ issues (.bnone 0 ⟨0, 15⟩) (work core0) 4 [0] [] = true ∧
    (getP core0 1 != 0) = false ∧ (getP core0 0 != 0) = true ∧ (getP core0 0 == 0) = false := by decide +kernel
theorem test_jump_targets : let k := { core0 with s := [(1, 60), (2, 64), (3, 2)] }
    (∀ i ∈ [Instr.jr 0 ⟨30, 1, 0⟩, .jalr 0 ⟨30, 1, 0⟩], issues i (work k) 4 [30, 1] [] = true) ∧ (getS k 1).toNat % 4 = 0 ∧
      (getS k 1).toNat < codeLen (work k) k ∧ issues (.jalr 0 ⟨30, 2, 0⟩) (work k) 4 [30, 2] [] = true ∧
      ¬(getS k 2).toNat < codeLen (work k) k ∧ issues (.jalr 0 ⟨30, 3, 0⟩) (work k) 4 [30, 3] [] = true ∧ (getS k 3).toNat % 4 ≠ 0 := by
  decide +kernel
/-- loops: nested in a loop whose body ends where this one's does, the counter in use, across its end, to the end of CODE -/
theorem test_loops : let k := { core0 with pc := 8, lc := [(1, 3)], loops := [⟨1, 4, 24⟩] }
    issues (.loop 0 ⟨0, 1, 0, 3⟩) (work k) 4 [1] [] = true ∧ issues (.loopi 0 ⟨0, 5, 3⟩) (work k) 4 [] [] = true ∧ (∃ l ∈ k.loops, l.lc = 1) ∧
      ¬(∃ l ∈ k.loops, l.lc = 0) ∧ ¬(∃ l ∈ k.loops, l.past < k.pc + 4 + 4 * 3 ∧ l.first ≤ k.pc ∧ k.pc < l.past) ∧
      (∃ l ∈ k.loops, l.past < k.pc + 4 + 4 * 4 ∧ l.first ≤ k.pc ∧ k.pc < l.past) ∧
      (loopEnd 4 k (k.pc + 4 + 4 * 3)).2 < codeLen (work k) k ∧
      core0.pc + 4 + 4 * 15 ≤ codeLen (work core0) core0 ∧ codeLen (work core0) core0 < core0.pc + 4 + 4 * 16 := by decide +kernel
theorem test_predicate_state : (∀ i ∈ [Instr.pand 0 ⟨2, 1, 0, 0⟩, .por 0 ⟨2, 1, 0, 0⟩, .pxor 0 ⟨2, 1, 0, 0⟩, .pandn 0 ⟨2, 1, 0, 0⟩, .pnot 0 ⟨2, 1, 0, 0⟩,
      .pmovs 0 ⟨2, 0, 0, 0⟩, .smovp 0 ⟨0, 1, 0, 0⟩, .pcnt 0 ⟨0, 1, 0, 0⟩, .pfirst 0 ⟨0, 1, 0, 0⟩], issues i (work core0) 4 [0] [] = true) ∧
    issues (.smovp 0 ⟨0, 1, 0, 31⟩) (work core0) 4 [31] [] = true ∧ getP (issuing (work core0) 0) 1 = 0 ∧
    getP (issuing (work core0) 0) 0 ≠ 0 := by decide +kernel
theorem test_special_registers : (∀ i ∈ [Instr.nop 0 ⟨0, 0, 0⟩, .trap 0 ⟨0, 0, 0x7FF⟩, .mts 0 ⟨0, 0, 0x10⟩, .mts 0 ⟨0, 0, 5⟩],
      issues i (work core0) 4 [0, 0] [] = true) ∧
    (∀ i ∈ [Instr.mfs 0 ⟨31, 0, 0x18⟩, .mfs 0 ⟨31, 0, 5⟩, .qcap 0 ⟨31, 0, 5⟩], issues i (work core0) 4 [31, 0] [] = true) ∧
    issues (.mts 0 ⟨0, 1, 9⟩) (work core0) 4 [0, 1] [] = true ∧ (loopEnd 4 core0 (core0.pc + 4)).2 < codeLen (work core0) core0 ∧
    (ctxOf (work core0) core0).image.level ≠ 1 ∧ ((5 : BitVec 11).toNat ∉ [0, 1, 2, 3, 4, 8, 9, 0xA, 0xB, 0x10, 0x11, 0x12, 0x13, 0x18]) := by
  decide +kernel

/-! Programs' ends, accesses, descriptors. -/
def end0 : Instr := .endOp 0 ⟨0, 0, 0⟩
theorem test_end_clean : issues end0 (work core0) 4 [] [] = true ∧ allDone core0 = true ∧ ∀ i < 8, (getSet core0 i).word = 0 := by decide +kernel
theorem test_end_failed_set : let k := { core0 with sets := [(7, ⟨0, 5⟩)], endWait := true }
    issues end0 (work { k with endWait := false }) 4 [] [] = true ∧ allDone k = true ∧ k.stop = none ∧ k.run = .running ∧ (getSet k 7).word ≠ 0 ∧
      ∀ i < 7, (getSet k i).word = 0 := by decide +kernel
theorem test_end_waits : let k := { core0 with posted := [⟨1, .move, x0, 0, 0, 0, 0, 0, 0, [], false, none⟩] }
    issues end0 (work k) 4 [] [] = true ∧ allDone k = false := by decide +kernel
/-- a byte at the end of the local store; a vector there -/
theorem test_access_local : let x : MA := ⟨1, 0, 0, -1⟩
    let k := { core0 with a := [(0, { base := 0x1000 })] }
    let y : MA := ⟨1, 0, 1, -1⟩
    issues (.ld 0 0 x) (work k) 4 (maIndex x ++ [x.d.val]) [] = true ∧ issues (.st 0 0 x) (work k) 4 (maIndex x ++ [x.d.val]) [] = true ∧
      maKinds x = [] ∧ baseBusy k 0 = false ∧ maAddr k x 1 = 0xFFF ∧
      judge (work k) 0 0xFFF 1 1 = .inl [.ls 0xFFF] ∧ accessWaits (work k) 0 (0xFFF, 0x1000) false = false ∧
      accessWaits (work k) 0 (0xFFF, 0x1000) true = false ∧ (sramReads (work k) 0 [.ls 0xFFF]).2 = none ∧ dmAddrs [.ls 0xFFF] = [] ∧
      storeBad (work k) [.ls 0xFFF] = none ∧ Memory.wf (work k) = true ∧
      issues (.vld 0 y) (work k) 4 (maIndex y) [y.d.val] = true ∧ issues (.vst 0 y) (work k) 4 (maIndex y) [y.d.val] = true ∧
      maKinds y = [] ∧ maAddr k y 128 = 0xF80 ∧ (judge (work k) 0 0xF80 128 8).isLeft = true := by decide +kernel
/-- a byte of device memory, and the return of its line -/
theorem test_access_device : let x : MA := ⟨1, 0, 0, 0⟩
    let k := { core0 with a := [(0, { base := 0x10000000000 })] }
    let s := workDm k
    issues (.ld 0 0 x) s 4 (maIndex x ++ [x.d.val]) [] = true ∧ baseBusy k 0 = false ∧ maAddr k x 1 = dmBase ∧
      judge s 0 dmBase 1 1 = .inl [.dm (5 * 2 ^ 21)] ∧ accessWaits s 0 (dmBase, dmBase + 1) false = false ∧
      (sramReads s 0 [.dm (5 * 2 ^ 21)]).2 = none ∧ dmAddrs [.dm (5 * 2 ^ 21)] ≠ [] := by decide +kernel
theorem test_line_return : let l : PendLoad := ⟨3, 0, .scalar 1 0, 0x10000000000, [(163840, [])], [9], none⟩
    let k := { core0 with loads := [l] }
    k.loads.find? (fun l => l.id == 3) = some l ∧ (dmReadSyms (workDm k) l.lines ⟨1, some (ctxNoOf k)⟩).2 = none := by decide
/-- a misaligned address, and one that is not present -/
theorem test_access_faults : let x : MA := ⟨1, 0, 0, 0⟩
    let at' (n : Nat) : Block := work { core0 with a := [(0, { base := BitVec.ofNat 64 n })] }
    issues (.ld 0 1 x) (at' 1) 4 (maIndex x ++ [x.d.val]) [] = true ∧ issues (.st 0 1 x) (at' 1) 4 (maIndex x ++ [x.d.val]) [] = true ∧
      judge (at' 1) 0 1 2 2 = .inr (2, detail20 3 1) ∧
      judge (at' 0x1000) 0 0x1000 1 1 = .inr (2, detail20 2 0x1000) ∧ issues (.vld 0 x) (at' 4) 4 (maIndex x) [x.d.val] = true ∧
      issues (.vst 0 x) (at' 4) 4 (maIndex x) [x.d.val] = true ∧ judge (at' 4) 0 4 128 8 = .inr (2, detail20 3 4) := by decide +kernel
theorem test_gather_lanes : let x : VV := ⟨1, 0, 2, 1, false⟩
    let k := { core0 with p := [(1, 3)], v := [(2, 1)] }
    issues (.vgth 0 x) (work k) 4 [] [x.vd.val, x.vb.val] = true ∧ issues (.vsct 0 x) (work k) 4 [] [x.vd.val, x.vb.val] = true ∧
      baseBusy k 0 = false ∧ lanes32 k 1 = [0, 1] ∧ (lanes32 k 1).map (laneAddr k x) = [4, 0] ∧
      judgeAll (work k) 0 4 4 [4, 0] = .inl [[.ls 4, .ls 5, .ls 6, .ls 7], [.ls 0, .ls 1, .ls 2, .ls 3]] ∧
      (∀ a ∈ [4, 0], accessWaits (work k) 0 (a, a + 4) true = false ∧ accessWaits (work k) 0 (a, a + 4) false = false) ∧
      (sramReads (work k) 0 [.ls 4, .ls 5, .ls 6, .ls 7, .ls 0, .ls 1, .ls 2, .ls 3]).2 = none ∧
      storeBad (work k) [.ls 0, .ls 1, .ls 2, .ls 3] = none ∧ Memory.wf (work k) = true := by decide +kernel
theorem test_gather_device : let x : VV := ⟨1, 0, 2, 1, false⟩
    let k := { core0 with p := [(1, 1)], a := [(0, { base := 0x10000000000 })] }
    (lanes32 k 1).map (laneAddr k x) = [dmBase] ∧ ∃ ls, judgeAll (workDm k) 0 4 4 [dmBase] = .inl ls ∧ dmAddrs ls.flatten ≠ [] ∧
      (sramReads (workDm k) 0 ls.flatten).2 = none := ⟨by decide +kernel, _, rfl, by decide +kernel, by decide +kernel⟩
theorem test_descriptor_forms : let k := { core0 with s := [(1, 0xFE0)] }
    let x : XT := { x0 with sa := 1, td := 15 }
    (∀ i ∈ [Instr.tld 0 x, .tst 0 x, .taddr 0 x], issues i (work k) 8 [1] [] = true) ∧
      xtUnused x true false false false false true false false 0 = [] ∧
      (getS k 1).toNat % 32 = 0 ∧ (getS k 1).toNat + 32 ≤ presentLocal (ctxOf (work k) k) ∧ accessWaits (work k) 0 (0xFE0, 0x1000) true = false ∧
      accessWaits (work k) 0 (0xFE0, 0x1000) false = false ∧ issues (.tmov 0 { x0 with ta := 1, td := 15 }) (work k) 8 [] [] = true ∧
      xtUnused { x0 with ta := 1, td := 15 } true true false false false false false false 0 = [] ∧
      (∀ f : Fin 8, let y : XT := { x0 with sa := 1, opt := BitVec.ofNat 14 f.val }
        let z : XT := { x0 with sd := 1, opt := BitVec.ofNat 14 f.val }
        issues (.tsetf 0 y) (work k) 8 [1] [] = true ∧ xtUnused y true false false false false true false false 7 = [] ∧
        issues (.tgetf 0 z) (work k) 8 [1] [] = true ∧ xtUnused z false true false false false false false true 7 = []) := by decide +kernel

/-! Vector instructions. -/
def vv1 : VV := ⟨31, 1, 0, 0, false⟩
def vvH : VV := ⟨31, 1, 0, 0, true⟩
theorem test_vector_issue :
    (∀ i ∈ [Instr.vadd 0 vv1, .vsub 0 vv1, .vmul 0 vv1, .vmin 0 vv1, .vmax 0 vv1, .vfma 0 vv1, .viadd 0 vv1, .visub 0 vv1, .vimul 0 vv1,
        .vand 0 vv1, .vor 0 vv1, .vxor 0 vv1, .vshl 0 vv1, .vshr 0 vv1, .vabs 0 vv1, .vneg 0 vv1, .vrcp 0 vv1, .vrsq 0 vv1, .vexp2 0 vv1,
        .vlog2 0 vv1, .vcvtif 0 vv1, .vcvtfi 0 vv1, .vsel 0 vv1, .vrsum 0 vv1, .vrmax 0 vv1],
      issues i (work core0) 4 [] [31, 1, 0] = true ∧ issues i (work1 core0) 4 [] [31, 1, 0] = true) ∧
    (∀ i ∈ [Instr.vtanh 0 vvH, .vnarrow 0 vvH, .vwidenl 0 vvH, .vwidenh 0 vvH, .vadd 0 vvH], issues i (work core0) 4 [] [31, 1, 0] = true) ∧
    levelOf (work core0) core0 ≠ 1 ∧ issues (.vbcast 0 ⟨1, 31, 0, 0, false⟩) (work core0) 4 [31] [1] = true ∧
    issues (.vextr 0 ⟨1, 0, 31, 0, false⟩) (work core0) 4 [1, 31] [0] = true ∧
    issues (.vcmp 0 0 ⟨1, 1, 31, 0, false⟩) (work core0) 4 [] [1, 31] = true ∧
    issues (.vcmp 0 5 ⟨1, 1, 31, 0, false⟩) (work core0) 4 [] [1, 31] = true := by decide +kernel
theorem test_no_lane : ∀ i < 32, (getP (issuing (work core0) 0) 1).getLsbD i = false := by decide
theorem test_mixed_lanes : let k := { core0 with p := [(1, 0x80000001)] }
    (getP (issuing (work k) 0) 1).getLsbD 0 = true ∧ (getP (issuing (work k) 0) 1).getLsbD 1 = false ∧
      (getP (issuing (work k) 0) 1).getLsbD 31 = true := by decide

/-! Long and posted instructions. -/
def fp32 (a n : Nat) : BitVec 256 := dsc a 0x20 0 0 n 1 1 (4 * n)
def int8 (a n : Nat) : BitVec 256 := dsc a 0x11 0 0 n 1 1 n
def list32 (a n pairs : Nat) : BitVec 256 := dsc a 0x31 2 pairs n 1 1 0
/-- one tile of weights by one vector, groups of 64 -/
def amulX : XT := xt 1 2 3 4 0 0 0 0
def amulT : Tab (BitVec 256) :=
  [(1, fp32 0 64), (2, dsc 0x1000 8 1 0 64 64 1 0x2000), (3, int8 0x4000 64), (4, dsc 0x5000 0x22 3 4 0 0x400 0 0x800)]
def amulK : Core := coreT amulT
theorem test_decode_amul : decodes (.amul 0 amulX) (workL amulK) [0, 0, 0] true = true ∧ amulKinds (workL amulK) 0 amulX = [] ∧
    amulChecks amulX 0 (workL amulK) = none := by decide +kernel
theorem test_decode_range : let k := { coreT [(1, fp32 0 1), (2, fp32 0x1000 64), (3, fp32 0x2000 1)] with s := [(1, 0x4000), (2, 0x3F800000)] }
    let x := xt 1 2 3 0 1 2 0 0x110
    decodes (.range 0 x) (workL k) [1, 2, 0] true = true ∧ rangeChecks x 0 (workL k) = none ∧
      xtUnused x true true true (natBit x.opt.toNat 9) false true true false 0xFFF ++ groupKinds (workL k) 0 x.opt.toNat = [] := by
  decide +kernel
theorem test_decode_convert : let k := coreT [(1, int8 0 64), (2, fp32 0x1000 64), (3, fp32 0x2000 1), (4, fp32 0x3000 64)]
    decodes (.qconv 0 (xt 1 2 3 0 0 0 0 0)) (workL k) [0, 0, 0] true = true ∧ decodes (.dqconv 0 (xt 4 1 3 0 0 0 0 0)) (workL k) [0, 0, 0] true = true ∧
      qconvChecks (xt 1 2 3 0 0 0 0 0) 0 (workL k) = none ∧
      dqconvChecks (xt 4 1 3 0 0 0 0 0) 0 (workL k) = none ∧
      xtUnused (xt 1 2 3 0 0 0 0 0) true true true false false false false false 0x1F ++ groupKinds (workL k) 0 0 = [] ∧
      xtUnused (xt 4 1 3 0 0 0 0 0) true true true false false false false false 0xF ++ groupKinds (workL k) 0 0 = [] := by decide +kernel
theorem test_decode_tpack : let k := coreT [(1, dsc 0 8 1 0 64 64 1 0x2000), (2, dsc 0x3000 8 0 0 64 64 1 64)]
    let x := xt 1 2 0 0 0 0 0 0
    decodes (.tpack 0 x) (workL k) [0, 0, 0] true = true ∧ tpackChecks x 0 (workL k) = none ∧ xtUnused x true true false false false false false true 1 = [] := by decide +kernel
theorem test_decode_select : let k := coreT [(1, list32 0 1 0), (2, fp32 0x1000 64), (3, list32 0x2000 1 1), (4, dsc 0x3000 0x20 0 0 16 1 1 64)]
    decodes (.selt 0 (xt 1 2 0 0 0 0 0 0)) (workL k) [0, 0, 0] false = true ∧ decodes (.topk 0 (xt 3 2 0 0 0 0 0 1)) (workL k) [0, 0, 0] false = true ∧
      decodes (.pqload 0 (xt 0 4 0 0 0 0 0 0)) (workL k) [0, 0, 0] false = true ∧ seltChecks (xt 1 2 0 0 0 0 0 0) 0 (workL k) = none ∧
      xtUnused (xt 1 2 0 0 0 0 0 0) true true false false false true true false 3 ++ k2 (workL k) 0 (natBit 0 1) = [] ∧
      topkChecks (xt 3 2 0 0 0 0 0 1) 0 (workL k) = none ∧ xtUnused (xt 3 2 0 0 0 0 0 1) true true false false false false true false 0x1F = [] ∧
      pqloadChecks (xt 0 4 0 0 0 0 0 0) 0 (workL k) = none ∧ xtUnused (xt 0 4 0 0 0 0 0 0) false true false false false false false false 0 = [] := by
  decide +kernel
theorem test_decode_pqscan :
    let k := { coreT [(1, fp32 0 1), (2, dsc 0x1000 0x18 0 0 1 1 1 1), (3, list32 0x2000 1 0), (4, list32 0x3000 1 1)] with pq := some ⟨16, 1, []⟩ }
    decodes (.pqscan 0 (xt 1 2 0 0 0 0 0 0)) (workL k) [0, 0, 0] false = true ∧
      decodes (.pqscan 0 (xt 3 2 0 0 0 0 0 1)) (workL k) [0, 0, 0] false = true ∧
      decodes (.pqscan 0 (xt 4 2 0 0 0 0 0 0xA)) (workL k) [0, 0, 0] false = true ∧ (∀ l ∈ longs k, l.kind ≠ .pqload) ∧
      pqscanChecks (xt 1 2 0 0 0 0 0 0) 0 (workL k) = none ∧ pqscanChecks (xt 3 2 0 0 0 0 0 1) 0 (workL k) = none ∧
      pqscanChecks (xt 4 2 0 0 0 0 0 0xA) 0 (workL k) = none ∧
      xtUnused (xt 1 2 0 0 0 0 0 0) true true false false false true false false 3 = [] ∧
      xtUnused (xt 3 2 0 0 0 0 0 1) true true false false false true true true 7 = [] ∧
      xtUnused (xt 4 2 0 0 0 0 0 0xA) true true false false false true true false 0xFB = [] := by decide +kernel
theorem test_decode_chkv : let k := { coreT [(2, dsc 0x1000 8 0 0 1 1 1 1)] with s := [(1, 0x100)], ls := [(0x100, 8), (0x108, 7)] }
    let x := xt 0 2 0 0 1 0 3 0
    decodes (.chkv 0 x) (workL k) [1, 0, 3] false = true ∧ chkvChecks x 0 (workL k) = none ∧ xtUnused x false true false false false true false true 3 = [] := by
  decide +kernel

/-- the array instruction and a vector of conversions at their issue points -/
theorem test_issue_array : let l := long0 .amul amulX
    let k := { amulK with waiting := some l, run := .operandWait, asked := some 0 }
    issueReady (workL k) 0 true = true ∧ mayAdmit (workL k) 0 0 (modeOf l) = true ∧ amulList l.x = 0 ∧ amulPasses (capture k { l with list := [] }) ≠ [] ∧ l.timed = none ∧
      (workL k).sramErr = [] ∧ (loopEnd 4 k (k.pc + 8)).2 < codeLen (workL k) k := by decide +kernel
def selectT : Tab (BitVec 256) := [(1, list32 0 1 0), (2, fp32 0x1000 64)]
theorem test_issue_long : let l := long0 .selt (xt 1 2 0 0 0 0 0 0)
    let k := { coreT selectT with waiting := some l, run := .operandWait, asked := some 0 }
    issueReady (workL k) 0 false = true ∧ k.det = none := by decide +kernel
theorem test_issue_resumed : let l : Long := { long0 .selt (xt 1 2 0 0 0 0 0 0) with parked := true, unit := 1, td := list32 0 1 0, ta := fp32 0x1000 64 }
    let m : Long := { long0 .amul amulX with parked := true, unit := 1, ta := dsc 0x1000 8 1 0 64 128 1 0x2000 }
    issueReady (workL { core0 with det := some l, run := .operandWait, asked := some 0 }) 0 false = true ∧
      issueReady (workL { core0 with det := some m, run := .operandWait, asked := some 0 }) 0 true = true ∧
      mayAdmit (workL { core0 with det := some m }) 0 0 (modeOf m) = true := by decide +kernel
def capt (kind : LongKind) (x : XT) (k : Core) : Long := capture k (long0 kind x)
def amulP : Pass := ⟨[(0, 0)], 0, 1⟩
/-- The weights of an array instruction, and what it fetches for the group that it works on. -/
def weightsAt (l : Long) : Weights := let ta := descOf l.ta; ⟨ta.addr, (ta.d1 + 63) / 64, (ta.d0 + 63) / 64, ta.s1, ta.fmt⟩
def fetchedBy (s : Block) (l : Long) : List (Nat × Nat × Tile) ⊕ (Nat × Nat) :=
  let g := groupSize (dG (descOf l.tc))
  fetchInputs s 0 (weightsAt l) amulP l
    (if g = 128 then [2 * l.unit, 2 * l.unit + 1].filter (fun q => decide (q < (weightsAt l).q)) else [l.unit * g / 64])
/-- the only group of a pass, the first of two, and a tile map that names a tile its length does not hold -/
theorem test_array_resumable : let l := capt .amul amulX amulK
    (amulPasses l)[l.pass]? = some amulP ∧ (amulPasses l)[l.pass + 1]? = none ∧ groupSize (dG (descOf l.tc)) = 64 ∧
      (fetchedBy (workL amulK) l).isLeft = true ∧ Memory.wf (workL amulK) = true ∧
      ((descOf l.ta).d0 + 63) / 64 ≤ l.unit + 1 ∧ l.parked = false ∧ l.ended = false := by decide +kernel
def amulT2 : Tab (BitVec 256) :=
  [(1, fp32 0 64), (2, dsc 0x1000 8 1 0 65 64 1 0x2000), (3, int8 0x4000 65), (4, dsc 0x5000 0x22 3 4 0 0x400 0 0x800)]
theorem test_array_resumable_first : let l := capt .amul amulX (coreT amulT2)
    (amulPasses l)[l.pass]? = some amulP ∧ (fetchedBy (workL amulK) l).isLeft = true ∧
      l.unit + 1 < ((descOf l.ta).d0 + 63) / 64 := by decide +kernel
theorem test_array_resumable_fault : let l := capt .amul amulX amulK
    (fetchedBy (workL { amulK with ls := [(0x1000, 1), (0x1200, 0xFF)] }) l).isRight = true := by decide +kernel
/-- the end of the elements or not: QCONV, TOPK and TPACK of 64 elements, SELT of 20,000 -/
theorem test_long_resumable : let k := coreT selectT
    let total (l : Long) : Nat := (descOf l.ta).d0 * (descOf l.ta).d1 * (descOf l.ta).d2
    (capt .selt (xt 1 2 0 0 0 0 0 0) k).parked = false ∧ (capt .selt (xt 1 2 0 0 0 0 0 0) k).ended = false ∧ Memory.wf (workL k) = true ∧
      natBit (xt 1 2 3 0 0 0 0 0).opt.toNat 4 = false ∧ total (capt .topk (xt 1 2 0 0 0 0 0 0) k) = 64 ∧
      min 64 ((0 : Nat) + 16384) = 64 ∧ min (20000 : Nat) (0 + 16384) ≠ 20000 := by decide +kernel
theorem test_long_completes : let l : Long := { long0 .selt x0 with ended := true }
    longs { core0 with det := some l } = l :: [] ∧ longs { core0 with drains := [l], det := some l } = l :: [l] ∧ l.parked = false ∧
      longs { core0 with det := some (long0 .pqload x0) } = long0 .pqload x0 :: [] ∧ (long0 .pqload x0).parked = false := by decide
theorem test_admission : let l := long0 .amul amulX
    let k := { amulK with waiting := some l, run := .admitWait, asked := some 0 }
    let held : Block := { workL { k with run := .operandWait } with power := { admitHeld := [0] } }
    atIssue (workL k) 0 l = true ∧ mayAdmit (workL k) 0 0 (modeOf l) = true ∧ (∀ d, k.det = some d → d.parked = false) ∧
      toIssue (getCore held 0) = some l ∧ issueReady held 0 true = true ∧ mayAdmit held 0 held.now (modeOf l) = false := by decide +kernel
theorem test_ramp_down : let k := { core0 with ramping := true, det := some { long0 .amul amulX with ended := true } }
    k.ramping = true ∧ ∀ d, k.det = some d → d.kind = .amul → d.ended = true ∨ d.parked = true :=
  ⟨rfl, fun d h _ => by cases h; exact .inl rfl⟩

/-! Posted instructions. -/
def post (kind : PostKind) (x : XT) : Posted := { id := 0, kind := kind, x := x, off := 0 }
def moveT : Tab (BitVec 256) := [(1, int8 0 16), (2, int8 0x100 16)]
def moveX : XT := xt 1 2 0 0 0 0 0 0
/-- `workL` with namespace 1 bound to slot 0, and a fabric of two ranks -/
def workN (k : Core) : Block :=
  let b := workL k
  { b with
    nss := [(1, { blocks := 8, lba := 512 })]
    ctxs := [(0, { ctx0 with image := { image2 with localBytes := 0x10000 }, binds := [(0, ⟨1, true⟩)], ncores := 1 })] }
theorem test_decode_posted : let k := coreT [(1, int8 0 512), (2, int8 0x1000 512), (3, fp32 0x2000 4), (4, fp32 0x3000 4), (5, list32 0x4000 4 1), (6, list32 0x5000 4 1)]
    decodes (.move 0 moveX) (workN k) [0, 0] true = true ∧ decodes (.mrd 0 (xt 1 0 0 0 0 0 0 0)) (workN k) [0, 0] true = true ∧
      decodes (.mwr 0 (xt 1 0 0 0 0 0 0 0)) (workN k) [0, 0] true = true ∧ decodes (.cred 0 (xt 3 4 0 0 0 0 0 4)) (workN k) [0, 0] true = true ∧
      decodes (.cbcast 0 (xt 3 4 0 0 0 0 0 4)) (workN k) [0, 0] true = true ∧ decodes (.ccat 0 (xt 5 6 0 0 0 0 0 4)) (workN k) [0, 0] true = true ∧
      decodes (.ctopk 0 (xt 5 6 0 0 0 0 0 0x44)) (workN k) [0, 0] true = true ∧ decodes (.cbar 0 (xt 0 0 0 0 0 0 0 0)) (workN k) [0, 0] true = true ∧
      moveChecks moveX 0 (workN k) = none ∧
      xtUnused moveX true true false false true false false false 1 = [] ∧
      mediaChecks (xt 1 0 0 0 0 0 0 0) 0 false (workN k) = none ∧ mediaChecks (xt 1 0 0 0 0 0 0 0) 0 true (workN k) = none ∧
      xtUnused (xt 1 0 0 0 0 0 0 0) true false false false true false true false 0xF = [] ∧
      (∀ e ∈ [(PostKind.cred, xt 3 4 0 0 0 0 0 4), (.cbcast, xt 3 4 0 0 0 0 0 4), (.ccat, xt 5 6 0 0 0 0 0 4), (.ctopk, xt 5 6 0 0 0 0 0 0x44),
        (.cbar, xt 0 0 0 0 0 0 0 0)], collKinds (workN k) 0 e.1 e.2 = [] ∧ collChecks e.1 e.2 0 (workN k) = none) := by decide +kernel
theorem test_posted_accept : let p := post .move moveX
    let k := { coreT moveT with postWait := some p }
    longs k = [] ∧ k.posted.length < 64 ∧ tagsUsed (workL k) < 262144 ∧ (contribCheck (workL k) 0 (capturePost (workL k) 0 p).1).2 = none ∧
      (loopEnd 4 k (k.pc + 8)).2 < codeLen (workL k) k ∧ p.timed = none := by decide +kernel
def moving : Posted := { post .move moveX with td := int8 0 16, ta := int8 0x100 16 }
theorem test_move_finish : let k := { coreT moveT with posted := [moving] }
    seatOf (workL k) 0 0 = .placed 0 ∧ k.posted.find? (fun p => p.id == 0) = some moving ∧ moveRoute (workL k) (.placed 0) moving = none ∧
      moveCut (workL k) (.placed 0) moving = false ∧
      moveFree (workL k) (.placed 0) moving = true ∧ Memory.wf (workL k) = true ∧ tensorRows (descOf moving.td) = [(0, 16)] ∧
      tensorRows (descOf moving.ta) = [(0x100, 16)] ∧ (fmtContainer (descOf moving.td).fmt = 4 → (descOf moving.td).d0 % 2 = 0) := by
  decide +kernel
theorem test_media_finish : let p : Posted := { post .mrd (xt 1 0 0 0 0 0 0 0) with td := int8 0 512 }
    let k := { core0 with posted := [p] }
    let s := workN k
    (bindingOf s (ctxNoOf k) 0).isSome = true ∧ destBusy s (.placed 0) p (extent (descOf p.td)) = false ∧
      mediaWaits s 1 0 1 = false ∧ buffered s 1 0 1 = false ∧ s.med.readOnly = false ∧ bufferRoom s 512 = true ∧ writeThrough { s with med := { s.med with holdupOk := true } } = false := by
  decide +kernel
/-- a REMOTE move to a core of another cluster, which is in service or not -/
def remote : Posted := { moving with x := { moveX with opt := 1, sa := 1 }, sa := 1 }
def twoClusters (svc : SvcState) : Block :=
  { workL core0 with
    ctxs := [(0, { ctx0 with ncores := 2, run := some { run0 with cores := [0, 16] } })]
    cores := [(0, { core0 with posted := [remote] }), (16, { core0 with placed := some ⟨0, 1⟩ })]
    pages := tabSet [] (pgCor 16) { service := svc } }
theorem test_fabric : let s := twoClusters .inService
    seatOf s 0 0 = .placed 0 ∧ moveRoute s (.placed 0) remote = some (0, 1) ∧ moveTarget s (.placed 0) remote = .placed 16 ∧
      moveCut s (.placed 0) remote = false ∧ earlierTransfers s (0, 1) remote = false ∧ moveFree s (.placed 0) remote = true ∧ s.sramErr = [] ∧
      (∀ r ∈ tensorRows (descOf remote.ta) ++ tensorRows (descOf remote.td), r.1 < csBase) ∧
      moveTarget (twoClusters .fenced) (.placed 0) remote = .placed 16 ∧ unreachable (twoClusters .fenced) 16 = true := by decide +kernel

/-! Collectives: two members, in a context of two ranks; a team that is a cluster. -/
def shapeR : CollShape := ⟨fnCred, 4, 0x20, 0, 0, 1, 1, 1, 0⟩
def teamOf (n : Nat) (parts : List CollPart) (stage : CollStage) : Block :=
  { up with
    ctxs := [(0, { ctx0 with ncores := n, run := some { run0 with cores := (List.range n) } })]
    colls := [{ scope := .team 0 0, n := 0, parts := parts, stage := stage }] }
def parts (n : Nat) : List CollPart := (List.range n).map (fun i => { ordinal := i, shape := shapeR, data := [0, 0, 128, 63] })
theorem test_merge : let s := teamOf 16 (parts 16) .gathering
    (findColl s (.team 0 0) 0).any (fun q => collComplete s q) = true ∧ teamCluster s (.team 0 0) = some 0 ∧
      (let s := teamOf 16 (parts 16) (.queued 3)
       ∀ o ∈ s.colls, (findColl s (.team 0 0) 0).any (fun q => mergeBefore s o q) = false) := by decide +kernel
def redP : Posted := { post .cred (xt 1 2 0 0 0 0 0 0) with td := fp32 0 1, ta := fp32 0x100 1 }
def redB (parts : List CollPart) (lost : Bool) : Block :=
  { workL { core0 with posted := [redP] } with
    colls := [{ scope := .team 0 0, n := 0, parts := parts, lost := lost }] }
theorem test_collective : let s := redB (parts 1) false
    seatOf s 0 0 = .placed 0 ∧ postedScope s (.placed 0) redP = some (.team 0 0, 0) ∧
      (findColl s (.team 0 0) 0).any (fun q => collComplete s q && mergeDone s q && collAgree q && (localShape q).getD shapeR == shapeR) = true ∧
      destBusy s (.placed 0) redP (extent (descOf redP.td)) = false ∧
      (combineParts redP.seq 1 shapeR (parts 1)) = some ([0x3F800000], [], 0) ∧ tensorRows (descOf redP.td) = [(0, 4)] ∧
      ([0x3F800000].flatMap (leBytes (partWidth (descOf redP.td).fmt))).length = 4 ∧ Memory.wf s = true ∧
      (findColl (redB [] true) (.team 0 0) 0).any (fun q => memberLost (redB [] true) q) = true := by decide +kernel
theorem test_collective_disagrees : let s := { twoClusters .inService with
      colls := [{ scope := .team 0 0, n := 0, parts := [{ ordinal := 0, shape := shapeR, data := [0, 0, 0, 0] }, { ordinal := 1, shape := { shapeR with root := 1 }, data := [0, 0, 0, 0] }] }] }
    (findColl s (.team 0 0) 0).any (fun q => collComplete s q && mergeDone s q && !collAgree q) = true := by decide +kernel

/-! Waits and timed launches. -/
def twaitX : XT := xt 0 0 0 0 0 0 1 1
theorem test_twait : let k := { core0 with sets := [(0, ⟨0, 9⟩)] }
    issues (.twait 0 twaitX) (work k) 8 [1] [] = true ∧ issues (.twait 0 { twaitX with opt := 0x101 }) (work k) 8 [1] [] = true ∧
      issues (.tat 0 (xt 0 0 0 0 1 0 2 1)) (work k) 8 [1, 2] [] = true ∧ levelOf (work k) k ≠ 1 ∧ xtUnused twaitX false false false false false false false true 0x1FF = [] ∧ twaitReady k twaitX = true ∧
      (getSet k 0).word ≠ 0 ∧ twaitReady core0 twaitX = true ∧ (getSet core0 0).word = 0 ∧
      twaitReady { core0 with sets := [(0, ⟨1, 0⟩)] } twaitX = false ∧
      xtUnused { twaitX with opt := 0x101 } false false false false false false false true 0x1FF = [] ∧
      xtUnused (xt 0 0 0 0 1 0 2 1) false false false false false true false true 1 = [] := by decide +kernel
theorem test_timed_long : let l : Long := { long0 .dqconv (xt 4 1 3 0 0 0 0 0) with timed := some ⟨5, true, 1, 0⟩ }
    let k := { coreT [(1, int8 0 64), (3, fp32 0x2000 1), (4, fp32 0x3000 64)] with waiting := some l, run := .operandWait, asked := some 0 }
    let at' (n : Nat) : Block := { workL k with now := n }
    issueReady (at' 5) 0 (l.kind == .amul) = true ∧ launchDropped (at' 5) l.timed = false ∧ issueReady (at' 2000) 0 (l.kind == .amul) = true ∧
      launchDropped (at' 2000) l.timed = true := by decide +kernel
theorem test_timed_posted : let p : Posted := { post .move moveX with timed := some ⟨5, true, 1, 0⟩ }
    let k := { coreT moveT with postWait := some p }
    let at' (n : Nat) : Block := { workL k with now := n }
    longs k = [] ∧ tagsUsed (at' 5) < 262144 ∧ launchDropped (at' 5) p.timed = false ∧ launchDropped (at' 2000) p.timed = true := by decide +kernel

/-! The control space. -/
def mm : Writer := ⟨.mm, 0⟩
def host0 : Writer := ⟨.h0, 0⟩
def pk0 : Writer := ⟨.pk, 0⟩
/-- a started module with one page as given -/
def withPage (p : Nat) (g : Page) : Block := { up with pages := [(p, g)] }
theorem test_stop_requested : let s (ph : CtxPhase) : Block := { work core0 with ctxs := [(0, { ctx0 with phase := ph })] }
    core0.placed ≠ none ∧ core0.run ≠ .faulted ∧ (ctxOf (s .saving) core0).phase = .saving ∧ (ctxOf (s .teardown) core0).phase = .teardown ∧
      core0.ended = false ∧ core0.run ≠ .zeroising := by decide
theorem test_stop_point : let k := { core0 with det := some { long0 .selt x0 with moved := true } }
    (∀ q ∈ [StopKind.halt, .preempt, .teardown], stoppable { k with stop := some q } = true) ∧ stopPoint k = true ∧
      natBit (getPage (withPage 0 { ctl := 1 }) 0).ctl.toNat 0 = true := by decide
/-- the owner's write, a reassignment by MM, a claim by a host; a host's write of itself again -/
theorem test_owner_writes : judged up 0 mm 0x00C = true ∧ judged up 0x3F00 host0 0x00C = true ∧ pageOf 0 = some (.cor, 0) ∧
    bvBits (0x00000076 : Word) 24 8 = (getPage up 0).gen.toNat % 256 ∧ bvBits (0x00000076 : Word) 0 4 < 8 ∧
    bvBits (0x00000001 : Word) 4 15 = 0 ∧ bvBits (0x00000001 : Word) 0 4 = masterCode host0.master ∧ ownerMaster (getPage up 0x3F00) = 0 ∧
    ownerMaster (getPage (withPage 0 { owner := 1 }) 0) = masterCode host0.master ∧
    (BitVec.ofNat 32 (0 * 16 + 1) : Word) = (getPage (withPage 0 { owner := 1 }) 0).owner := by decide +kernel
theorem test_owner_writes_rejected : judged up 0 pk0 0x00C = true ∧ judged up 0 ⟨.pe, 5⟩ 0x00C = true ∧
    ¬((bvBits (0x00000012 : Word) 0 4 = 0 ∨ bvBits (0x00000012 : Word) 0 4 = masterCode host0.master) ∧ bvBits (0x00000012 : Word) 4 15 = 0) ∧
    ownerMaster (getPage (withPage 0 { owner := 2 }) 0) ≠ 0 ∧ ownerMaster (getPage (withPage 0 { owner := 2 }) 0) ≠ masterCode host0.master ∧
    bvBits (0x01000001 : Word) 24 8 ≠ (getPage up 0).gen.toNat % 256 ∧ 8 ≤ bvBits (0x00000008 : Word) 0 4 := by decide +kernel
theorem test_halt_resume : let k := { core0 with run := .halted, stop := some .halt }
    judged (work core0) 0 mm 0x014 = true ∧ mmOrOwner (work core0) 0 mm = true ∧ (0 : Byte).toNat = (getPage (work core0) 0).gen.toNat % 256 ∧
      stoppable core0 = true ∧ core0.stop = none ∧ judged (work k) 0 mm 0x014 = true ∧ k.det.all (fun l => !l.parked) = true := by decide +kernel
theorem test_slice_and_lead : judged up (pgClu 767) mm (0x140 + 4 * 15) = true ∧ judged up (pgTie 3) mm 0x110 = true ∧
    mmOrOwner up (pgTie 3) mm = true ∧ 1 ≤ bvBits (8 : Word) 0 4 ∧ bvBits (8 : Word) 0 4 ≤ 8 := by decide +kernel
theorem test_register_writes : pageOf pgHub = some (.hub, 0) ∧ judged up pgHub mm 0x01C = true ∧ judged up pgHub mm 0x020 = true ∧
    up.hub.remove ≠ .ready ∧ mmOrOwner up pgHub mm = true ∧
    (getPage up pgHub).irqStatus &&& (5 &&& irqMask .hub 0) &&& ~~~(getPage up pgHub).irqEnable = 0 ∧ judged up pgHub mm 0xFC = true := by
  decide +kernel
theorem test_register_reads : started up = true ∧ natBit up.hub.ready 0 = true ∧ (getPage up pgHub).held = [] ∧
    readable up .hub 0 (getPage up pgHub) mm 0x80 = true ∧ readable up .hub 0 (getPage up pgHub) mm 0xFC = true ∧
    readable up .hub 0 (getPage up pgHub) mm 0x024 = true ∧ pageAnswers up .chk 7 = true ∧ (getChk up 7).scan = none ∧
    tabFind (getPage (withPage pgHub { snaps := [(5, (0x84, 9))] }) pgHub).snaps (masterCode mm.master) = some (0x84, 9) ∧
    (tabFind (getPage up pgHub).snaps (masterCode mm.master)).all (fun e => e.1 != 0x84) = true := by decide +kernel

/-! Commands of a host: identifier 9 of queue 1 of port 0, and identifier 8 of its admin queue, fetched and not yet begun. -/
def io9 : CmdRef := ⟨0, 1, 9⟩
def adm8 : CmdRef := ⟨0, 0, 8⟩
def ctl0 : Controller :=
  { en := true, rdy := true, sqs := [(0, { size := 8, cq := 0 }), (1, { size := 8, cq := 1 })], cqs := [(0, { size := 8 }), (1, { size := 8 })]
    cmds := [⟨io9, .fetched, 2, 0⟩, ⟨adm8, .fetched, 6, 0⟩], attached := [1] }
def hosted (b : Block) : Block := { b with ctls := [(0, ctl0)] }
theorem test_asked : asked (hosted up) io9 = true ∧ adminAsked (hosted up) adm8 = true ∧ awaited (hosted up) io9 = true := by decide
theorem test_context_control : let s := { hosted (work core0) with pages := [(5, { owner := 6 })] }
    asked s io9 = true ∧ ctxStatus s io9 0 = none ∧ pageAnswers s .cor 5 = true ∧ (getPage s 5).held = [] ∧ ownerMaster (getPage s 5) = 6 ∧
      ownerTag (getPage s 5) = 0 := by decide
/-- zeroises: of a core, a cluster, a unit without storage, a slice; a page of device memory -/
theorem test_zeroise : pageOf 0 = some (.cor, 0) ∧ pageOf (pgClu 0) = some (.clu, 0) ∧ pageOf (pgChk 0) = some (.chk, 0) ∧
    (getPage (withPage (pgClu 0) { zeroising := true }) (pgClu 0)).zeroising = true ∧ Memory.wf up = true ∧ tabWf up.cs = true ∧
    natBit (sliceOwner (withPage (pgClu 0) { regs := [(0x17C, 0x80010000)] }) 0 15).toNat 16 = true ∧
    tabGet .dirty up.pageUse 196607 = .dirty ∧ natBit up.hub.ready 3 = true := by decide
theorem test_windows_and_epochs : tabGet 0 up.paceEnd 47 < 1 ∧ tabGet [] up.rgnLatch 47 = [] ∧ paceCan up 47 1 1300 = true ∧ paceCan up 47 1 2600 = true ∧
    outOfService (withPage (pgRgn 0) { service := .fenced }) (pgRgn 0) = true ∧ outOfService up (pgRgn 0) = false ∧
    StuState.sched { sched := some 100000, last := some 0 } = some 100000 ∧ (0 : Nat) + 100000 ≤ 100000 ∧
    tabGet [] [((47 : Nat), [((3 : Nat), (2000 : Nat)), (4, 3000)])] 47 = (3, 2000) :: [(4, 3000)] ∧ (2000 : Nat) / 1000 ≤ tabGet 0 [((47 : Nat), (2 : Nat))] 47 := by decide

/-! The caravan: layer 0 of an iteration waits for tensor 0, whose copy of rank 0 lies at 0x800. -/
def layer0 : LayerDecl := { ref := 0, firstRank := 0, rankCount := 1, gate := 0, endOff := 16, deadline := 50, tensors := [0], mirage := none }
def tensor0 : TensorDecl :=
  { persist := false, perRank := true, dstCluster := false, srcNs := false, nsSlot := 0, place := 0, src := 0x10000000000, bytes := 64, dst := 0x800, stride := 64 }
def copy0 (st : CopyState) : Copy := { tid := 0, cluster := false, place := 0, lo := 0x800, bytes := 64, state := st }
def caravan (st : CopyState) (insts : List Inst) : Ctx :=
  { ctx0 with
    image := { image2 with devBytes := 0x200000, tensors := [tensor0], layers := [layer0], iterations := 1 }, pages := [5]
    copies := [copy0 st], insts := insts }
def inst0 (d : Option Decision) : Inst := { layer := 0, iter := 0, gateTime := some 0, decision := d }
def caravanB (k : Core) (st : CopyState) (insts : List Inst) : Block := { work k with ctxs := [(0, caravan st insts)] }
theorem test_fill_start : let s := caravanB core0 .absent []
    firstFill s 0 = some (copy0 .absent, 0, 0) ∧ (∀ e ∈ s.ctxs, e.1 = 0) := by decide +kernel
theorem test_fill_ends : let s := caravanB core0 .filling [inst0 none]
    let x := caravan .filling [inst0 none]
    findCopy x 0 false 0 = some (copy0 .filling) ∧ sourceWaits s 0 (copy0 .filling) tensor0 = false ∧
      mayFill x = true ∧ fillBehind s 0 (copy0 .filling) = false ∧
      (readSource s 0 (copy0 .filling) tensor0 64).2 = .inl (zeroBytes 64) ∧ copySeat s 0 (copy0 .filling) = .placed 0 ∧ caravanActs x = true ∧ instDecision x 0 0 = none := by decide +kernel
def timed : Ctx := { caravan .filling [inst0 none] with
  image := { (caravan .filling []).image with layers := [{ layer0 with ref := 1, mirage := some 0 }], mirages := [⟨1, 32, []⟩] } }
theorem test_layer_deadline : (timed.image.layers[0]?).any (fun l => !layerWaits l) = true ∧ instDeadline timed 0 0 = some 50 ∧
    caravanActs timed = true ∧ instDecision timed 0 0 = none := by decide +kernel
theorem test_copy_release : let x := caravan .resident [{ inst0 (some .full) with left := [0] }]
    findCopy x 0 false 0 = some (copy0 .resident) ∧ (findInst x 0 0).isSome = true ∧ tensorPersist x 0 = false ∧
      (∀ r ∈ layerRanks layer0, r ∈ [0]) ∧ copyPinned (caravanB core0 .resident [{ inst0 (some .full) with left := [0] }]) 0 (copy0 .resident) = false := by
  decide +kernel
theorem test_decided_full : fullInTime (caravan .filling [inst0 none]) 0 0 = false := by decide +kernel
theorem test_gate : let s := caravanB core0 .absent []
    canIssue core0 = true ∧ nextGate (caravan .absent []) (rankOf core0) 0 0 = some (0, 0) ∧ gatesAt s core0 = [0] ∧
      instDecision (caravan .absent []) 0 0 = none ∧
      (let k := { core0 with pc := 4 }
       let two := { caravan .absent [] with image := { (caravan .absent []).image with layers := [layer0, { layer0 with gate := 4 }] } }
       nextGate two (rankOf k) 0 0 = some (0, 0) ∧ gatesAt { work k with ctxs := [(0, two)] } k = [1]) := by decide +kernel
theorem test_decision : let k := { core0 with run := .operandWait, gate := some ⟨0, 0⟩ }
    instDecision (ctxOf (caravanB k .resident [inst0 (some .full)]) k) 0 0 = some .full ∧
      (∀ y ∈ instCopies (caravan .resident [inst0 (some .full)]) layer0, copyServes (caravan .resident [inst0 (some .full)]) y 0 0 = true) ∧
      instDecision (ctxOf (caravanB k .absent [inst0 (some (.mirage 1 32))]) k) 0 0 = some (.mirage 1 32) := by decide +kernel

/-! Contexts and runs. -/
theorem test_context_phases : let s := hosted (work core0)
    asked s io9 = true ∧ ctxStatus s io9 0 = none ∧ (getCtx s 0).search = false ∧ (getCtx s 0).run ≠ none ∧ (getCtx s 0).closeCmd = none ∧
      (let i := { s with ctxs := [(0, { ctx0 with phase := .idle, run := none })] }
       ctxStatus i io9 0 = none ∧ tabWf i.ctxs = true ∧ getRegD i pgDsp 0x118 0 = 0 ∧ (getCtx i 0).queue = [] ∧ (getCtx i 0).job = none ∧ (getCtx i 0).run = none) ∧
      (let o := { hosted up with ctxs := [(0, { ctx0 with phase := .opening, openCmd := some io9 })] }
       (getCtx o 0).phase = .opening ∧ awaited o io9 = true ∧ tabWf o.ctxs = true) := by decide +kernel
/-- a compute command's data whose argument lies in the window, and data whose argument does not -/
def goodPlaces : List Byte := [0, 0, 0, 0, 0, 1, 0, 0, 64, 0, 0, 0, 0, 0, 0, 0, 0, 0, 0, 0, 0, 1, 0, 0] ++ zeroBytes 104
def badPlaces : List Byte := [1] ++ zeroBytes 127
def ctxW : Ctx := { ctx0 with image := { image2 with devBytes := 0x200000 } }
theorem test_compute_places : goodPlaces.length = 128 ∧ fieldAt goodPlaces 8 4 = 64 ∧ fieldAt goodPlaces 12 4 = 0 ∧
    fieldAt goodPlaces 0 8 = dmBase ∧ fieldAt goodPlaces 16 8 = dmBase ∧ fieldAt badPlaces 0 8 = 1 := by decide +kernel
theorem test_compute_windows : inWindow ctxW dmBase 64 = true ∧ inWindow ctxW dmBase 0 = true := by decide +kernel
def waitingB (x : Ctx) : Block := { up with ctxs := [(0, { x with phase := .waiting, run := some { run0 with cores := [] } })] }
theorem test_placement_free : natBit (getPage (waitingB ctx0) pgDsp).ctl.toNat 0 = false ∧ (getCtx (waitingB ctx0) 0).heldCores = [] ∧
    (waitingB ctx0).low = false := by decide
theorem test_placement_cores : coresFor (waitingB ctx0) 0 (getCtx (waitingB ctx0) 0) = some [0] := by decide +kernel
theorem test_placement_runs : waitingRuns (waitingB ctx0) = [(0, getCtx (waitingB ctx0) 0)] := by decide +kernel
theorem test_placement_heldBack : heldBack (waitingB ctx0) (waitingRuns (waitingB ctx0)) (0, getCtx (waitingB ctx0) 0) = false := by decide +kernel
/-- a best-effort run that has held core 0 for the quantum, while the reservation keeps another from its cores -/
def quantumB : Block :=
  { up with
    pages := [(pgDsp, { regs := [(0x10C, 12288), (0x110, 1)] })], now := 5000
    cores := [(0, { placed := some ⟨0, 0⟩, run := .running })]
    ctxs := [(0, { ctx0 with cls := .be, run := some run0 }),
      (1, { ctx0 with cls := .be, phase := .waiting, run := some { run0 with cores := [] } })] }
theorem test_quantum : ((waitingRuns quantumB).find? (fun e => decide (e.2.cls = .be) && (coresFor quantumB e.1 e.2).isNone)).isSome = true ∧
    quantumHeld quantumB 1000 = true ∧ (∀ a ∈ quantumB.aside, a.2 ≠ 1) ∧
    scanUnits (fun u => (unitCores (unitSize 0) u).all (coreTakeable quantumB 1 1000)) (unitSize 0) 12288 0 1 = some [0] ∧
    victims quantumB [0] = [0] ∧ allEnding quantumB (getCtx quantumB 0) = false := by decide +kernel
def phaseB (ph : CtxPhase) (k : Core) : Block := { work k with ctxs := [(0, { ctx0 with phase := ph })] }
theorem test_run_starts : runZeroised (phaseB .placing core0) 0 [0] = true ∧ runZeroised (phaseB .restoring core0) 0 [0] = true ∧
    imageBusy (getCtx (phaseB .restoring core0) 0) = false ∧ (phaseB .restoring core0).dmErr = [] := by decide +kernel
def stoppedK : Core := { core0 with run := .halted, stop := some .preempt, recorded := true }
theorem test_run_stops : coreSaved stoppedK = true ∧ stoppedK.placed.any (fun p => p.ctx == 0) = true ∧
    coreTorn { placed := some ⟨0, 0⟩, run := .halted, stop := some .teardown } = true ∧
    (phaseB .saving stoppedK).sramErr = [] ∧ (phaseB .saving stoppedK).dmErr = [] ∧ tabFind (phaseB .saving stoppedK).handovers 0 = none := by decide +kernel
def endedB : Block :=
  { hosted (work { core0 with run := .idle, ended := true }) with
    ctxs := [(0, { ctx0 with run := some { run0 with cc := { compute0 with cmd := io9 } } })] }
theorem test_run_completes : awaited endedB io9 = true ∧ (getCtx endedB 0).queue = [] ∧ (getCore endedB 0).ended = true ∧ (getCtx endedB 0).closing = false ∧ endedB.dmErr = [] := by decide +kernel
/-- an image of level 2 with four bytes of CODE, and the open that carries it -/
def imageBytes (crc : Nat) : List Byte :=
  leBytes 4 0x44414E4B ++ [0, 2, 2, 0] ++ leBytes 4 84 ++ leBytes 4 1 ++ leBytes 4 0 ++ leBytes 4 1 ++ leBytes 4 1 ++ leBytes 4 4096 ++
    zeroBytes 24 ++ leBytes 4 crc ++ zeroBytes 4 ++ ([1, 0, 0, 0] ++ leBytes 4 80 ++ leBytes 4 4 ++ zeroBytes 4) ++ zeroBytes 4
def openBytes (crc : Nat) : List Byte := [0, 0, 0, 0] ++ leBytes 4 1 ++ leBytes 4 84 ++ zeroBytes 500 ++ imageBytes crc
theorem test_open : descOk (openBytes 0) = true ∧ freeCtx (hosted up) = some 0 ∧ descBinds (openBytes 0) = [] ∧ descLends (openBytes 0) = [] ∧
    (imageSource (beginCmd (hosted up) io9) io9 (openBytes 0)).2 = .inl (imageBytes 0) := by decide +kernel
def openCtx (crc : Nat) : Ctx := { phase := .opening, ncores := 1, image := parseImage (imageBytes crc) }
set_option maxRecDepth 100000 in
theorem test_open_good : imageReason (setCtx (hosted up) 0 (openCtx 4160623710)) (imageBytes 4160623710) 84 (openCtx 4160623710) = none := by decide +kernel
theorem test_open_pages : pagesLeft (openCtx 0) = 0 ∧ freePages (hosted up) = 196608 := by decide +kernel
theorem test_open_bad : imageReason (hosted up) (zeroBytes 84) 84 (openCtx 0) = some 1 ∧ tabWf (beginCmd (hosted up) io9).ctxs = true := by decide +kernel

/-! Queues, doorbells, staging, aborts. -/
def withCtl (c : Controller) : Block := { up with ctls := [(0, c)] }
theorem test_queue_commands : tabFind ctl0.cqs 4096 = none ∧ tabFind ctl0.sqs 4096 = none ∧ (tabFind ctl0.cqs 1).isSome = true ∧
    (tabFind ctl0.sqs 1).isSome = true ∧ (∀ f ∈ ctl0.cmds, f.cmd.ctrl = 0) ∧ tabWf ctl0.cqs = true ∧
    (∀ e ∈ ctl0.sqs, e.1 ≠ 0 → e.2.cq ≠ 2) ∧ (∃ e ∈ ctl0.sqs, e.1 ≠ 0 ∧ e.2.cq = 1) ∧ (getEvt up 0).queued = [] ∧ (getEvt up 0).aers.length < 16 ∧
    ((cqOf ctl0 1).bind (tabFind ctl0.cqs)).isSome = true := by decide
theorem test_doorbells : let c := { ctl0 with cqs := [(0, { size := 8 }), (1, { size := 8, used := 7, waiting := [⟨io9, 0, 0, 0⟩] })] }
    c.rdy = true ∧ tabFind c.sqs 1 = some { size := 8, cq := 1 } ∧ tabFind c.sqs 2 = none ∧ tabFind c.cqs 2 = none ∧
      tabFind c.cqs 1 = some { size := 8, used := 7, waiting := [⟨io9, 0, 0, 0⟩] } ∧ cqOf c 1 = some 1 ∧ ((1 : Nat) + 8 - 0) % max 1 8 ≤ 7 ∧
      7 - ((1 : Nat) + 8 - 0) % max 1 8 + 1 < 8 := by decide
theorem test_fetch : let c := { ctl0 with sqs := [(0, { size := 8, cq := 0, tail := 1 })], cmds := [] }
    pickCtl (withCtl c) = some (0, 0) ∧ (withCtl c).hub.remove = .serving ∧ isOutstanding (withCtl c) ⟨0, 0, 3⟩ = false ∧
      tabGet 0 ({ c with coalescing := [(2047, 1)] } : Controller).coalescing 2047 ≠ 0 := by decide +kernel
/-- staging page 0 of port 0 is page 9; page 3 of the window shows its last 4 KiB; page 10 is zeroised -/
def staged : Block := { withCtl { ctl0 with staging := [(0, 9)], map := [(3, 511)] } with pageUse := [(9, .used), (10, .clean)] }
theorem test_staging : asked staged io9 = true ∧ computeReady staged = true ∧ tabWf staged.pageUse = true ∧
    (∀ e ∈ staged.pageUse, e.1 / pagesPerStack < 8) ∧ cleanPages staged = 1 ∧ freeIndex staged 1 3 0 = some 1 ∧ stagingStatus staged 0 0 = none ∧
    pageLent staged 9 = false ∧ (stagingStatus staged 0 1).isSome = true ∧ windowAddr staged 0 (3 * 4096 + 4095) = some (10 * 2 ^ 21 - 1) ∧
    windowAddr staged 0 0 = none ∧ staged.dmErr = [] := by decide +kernel
def begun : Block := withCtl { ctl0 with cmds := [⟨io9, .begun, 2, 0⟩, ⟨adm8, .fetched, 8, 0⟩] }
def span : LbaSpan := ⟨1, 0, 1⟩
theorem test_aborts : isOutstanding (hosted up) ⟨0, 1, 3⟩ = false ∧ ctl0.cmds.find? (fun f => f.cmd == io9) = some ⟨io9, .fetched, 2, 0⟩ ∧
    abortable 2 = true ∧ abortable 0 = false ∧ adminAsked begun adm8 = true ∧ awaited begun io9 = true ∧
    withdrawCompute begun io9 = none ∧ withdrawSearch begun io9 = none ∧ runOf begun io9 = none ∧
    (withdrawCompute { begun with ctxs := [(0, { ctx0 with phase := .waiting, run := some { run0 with cc := { compute0 with cmd := io9 } } })] } io9).isSome = true ∧
    (runOf { begun with ctxs := [(0, { ctx0 with run := some { run0 with cc := { compute0 with cmd := io9 } } })] } io9).isSome = true := by
  decide +kernel
theorem test_poisoned : decodeLine { staged with dmErr := [(327616, [0, 1, 2, 3])] } 327616 = .uncorrectable ∧
    windowAddr staged 0 (3 * 4096) = some (327616 * 64) ∧ (327616 * 64) % 64 + 8 ≤ 64 := by decide +kernel

/-! Indexes: one of 8 dimensions, one list, raw vectors kept, attached as context 0 of port 0. -/
def nsI : Namespace := { blocks := 4096, lba := 512 }
def shape1 : IShape := { rawKind := 1, rawStride := 32 }
def index1 : SIndex := {
  nsid := 1, view := { shape := shape1, centroids := List.replicate 8 0, codebooks := List.replicate 2048 0 }, capacity := 4,
  cent := 0x1000, book := 0x2000, dir := 0x4000 }
def searching : Ctx := { phase := .idle, search := true, image := { image2 with devBytes := 0x200000 }, pages := [5] }
def indexB (i : SIndex) : Block :=
  { hosted up with nss := [(1, nsI)], idxs := [(0, i)], ctxs := [(0, searching)], hub := { phase := .started, ready := 0x7F } }
theorem test_index_serves : asked (indexB index1) io9 = true ∧ computeReady (indexB index1) = true ∧ getIdx (indexB index1) 0 = some index1 ∧
    (getCtx (indexB index1) 0).phase = .idle ∧ (getCtx (indexB index1) 0).port = io9.ctrl ∧ indexIdle index1 = true ∧
    tabWf (indexB index1).idxs = true ∧ tabWf (indexB index1).ctxs = true ∧ (indexB index1).med.readOnly = false := by decide +kernel
theorem test_insert : let data := zeroBytes 40
    data.length = 8 + 4 * index1.view.shape.dim ∧ prepVec shape1 (elemsOf 0x20 (data.drop 8) 8) = some (List.replicate 8 0) ∧
      fieldAt data 0 8 ≠ 0xFFFFFFFFFFFFFFFF ∧ (bestLists index1.view (List.replicate 8 0) 1).head? = some 0 ∧ freeSlot (indexB index1) index1 = some 0 ∧
      index1.view.drift.length + index1.folded < shape1.driftCap ∧ held index1.view < index1.capacity := by decide +kernel
def drift1 : Drift := ⟨1, 0, ⟨0, 0, encodeVec index1.view (List.replicate 8 0) 0⟩⟩
set_option maxRecDepth 100000 in
/-- a page for the drift entry, and none in a window that the index fills -/
theorem test_insert_place : (placeDrift 0x200000 index1 drift1).isSome = true ∧ placeDrift 0x5000 index1 drift1 = none := by decide +kernel
set_option maxRecDepth 100000 in
theorem test_insert_raw : (holdRaw (beginCmd (indexB index1) io9) 0 index1 0 (List.replicate 8 0)).isSome = true := by decide +kernel
/-- a vector that holds a NaN -/
theorem test_insert_nan : prepVec shape1 (elemsOf 0x20 (((zeroBytes 8) ++ [0, 0, 0xC0, 0x7F] ++ zeroBytes 28).drop 8) 8) = none := by decide +kernel
theorem test_tombstones : index1.view.tombs.length + 1024 ≤ shape1.tombCap := by decide
def fullTombs : List (Nat × Nat) := (List.range 1024).map (fun i => (i, 0))
theorem test_tombstones_full : shape1.tombCap ≤ fullTombs.length ∧ ∀ t ∈ fullTombs, t.1 ≠ 1024 := by decide +kernel
theorem test_merge_due : index1.seq - 1 ≤ leastCut index1.view ∧ leastCut index1.view < ({ index1 with seq := 2 } : SIndex).seq - 1 := by decide
theorem test_rebuild : shapeOk (rebuiltShape shape1 ⟨1, 1, 8, 256, 1, 0⟩) none = true ∧
    (shapeOk (rebuiltShape shape1 ⟨0, 1, 8, 256, 1, 0⟩) none) = false ∧ index1.rebuild = none ∧
    slotsOf index1.view ++ index1.retired = [] ∧ indexCapacity (rebuiltShape shape1 ⟨1, 1, 8, 256, 1, 0⟩) (nsBytes nsI) ≥ 1024 ∧
    (rebuildBytes (rebuiltShape shape1 ⟨1, 1, 8, 256, 1, 0⟩) 0 + pageBytes - 1) / pageBytes ≤ freePages (indexB index1) := by decide +kernel
def indexNs : Block := { hosted up with nss := [(1, nsI)], hub := { phase := .started, ready := 0x7F } }
theorem test_blocks_serve : asked indexNs io9 = true ∧ deferredFor indexNs io9 1 = none ∧ getNs indexNs 1 = some nsI ∧
    1 ∈ (getCtl indexNs 0).attached ∧ mediaReady indexNs = true ∧ indexed indexNs 1 = false ∧ freeCtx indexNs = some 0 ∧
    resvBlocks nsI (hostOf indexNs io9) true = false ∧ resvBlocks nsI (hostOf indexNs io9) false = false := by decide +kernel
/-- a namespace without an index, and one whose first block holds the header of an index -/
theorem test_index_absent : coresOk 0 1 = true ∧ (readIndex (beginCmd indexNs io9) 1 nsI).2.isRight = true := by decide +kernel
def shape4 : IShape := { codeBits := 4, m := 2, rawStride := 32 }
def stored : Namespace := { nsI with store := [(0, .data (padTo 512 (headerBytes shape4 0x1000 0x2000 0x3000 1 0 0)) [] .buffer 0)] }
def storedB : Block := beginCmd { indexNs with nss := [(1, stored)] } io9
set_option maxRecDepth 100000 in
theorem test_index_attach : (match readIndex storedB 1 stored with
    | (s, .inl (i, raws)) => decide (pagesLeft (searchCtx s io9 stored false 0 1 i raws) ≤ freePages s)
    | _ => false) = true := by decide +kernel
def headerData : List Byte := leBytes 4 0x58444E56 ++ [1, 0, 0, 4, 8, 0, 0, 0, 2, 0, 0, 0, 1, 0, 0, 0, 0x20, 0x20, 0, 100] ++ zeroBytes 32 ++
  zeroBytes 4 ++ leBytes 4 32 ++ leBytes 4 1024 ++ leBytes 4 1024 ++ zeroBytes 56 ++ zeroBytes (32 + 512)
set_option maxRecDepth 100000 in
theorem test_index_create : headerOk indexNs headerData (nsBytes nsI) false = true ∧
    headerData.length = 128 + centBytes (parseShape headerData) + bookBytes (parseShape headerData) := by decide +kernel
/-! Searches: one query of 8 dimensions at byte 64, its block at 128. -/
theorem test_search_places : let data := [1, 0, 0, 0, 128, 0, 0, 0] ++ zeroBytes 56 ++ zeroBytes 64 ++ zeroBytes 64
    fieldAt data 0 4 = 1 ∧ fieldAt data 4 4 % 64 = 0 ∧ 64 + fieldAt data 0 4 * roundUp (32 + 4 * 8) 64 ≤ fieldAt data 4 4 ∧
      allZero data 8 56 = true ∧ (readQuery shape1 0 io9 0 (data.drop 64)).2 ≠ 0 ∧
      128 + roundUp (32 + 16 * roomOf (readQuery shape1 0 io9 0 (data.drop 64)).1) 64 ≤ data.length := by decide +kernel
def query0 : IQuery := ⟨io9, 0, 1, 1, 0, false, false, 0, List.replicate 8 0, List.replicate 8 0⟩
def window0 : IWindow := { opened := 0, queries := [query0] }
def scanningI : SIndex := { index1 with scanning := some window0, searches := [⟨io9, [128], [0], true⟩] }
theorem test_window_opens : ({ index1 with openWin := some window0 } : SIndex).openWin = some window0 ∧ index1.scanning = none ∧
    (∀ e ∈ index1.searches, e.cmd ≠ io9) ∧ (∀ e ∈ index1.mergeCmds, e.1 ≠ io9) := by decide
theorem test_windows : getIdx (indexB scanningI) 0 = some scanningI ∧
    scanningI.searches.find? (fun e => e.cmd == query0.cmd) = some ⟨io9, [128], [0], true⟩ ∧ query0.cmd.ctrl ≠ sideband ∧
    awaited (indexB scanningI) io9 = true ∧ ∃ q ∈ window0.queries, q.cmd = io9 ∧ q.idx = 0 := by decide +kernel
def mergeI : SIndex := { index1 with seq := 3, mergeCmds := [(io9, 2)] }
theorem test_list_merge : 0 < mergeI.view.shape.nlist ∧ tabFind mergeI.merging 0 = none ∧
    (∃ e ∈ mergeI.mergeCmds, (tabGet ({} : IList) mergeI.view.lists 0).cut < e.2) ∧
    (installMerge 0x200000 mergeI 0 2).isSome = true ∧
    tabFind ({ mergeI with merging := [(0, 2)] } : SIndex).merging 0 = some 2 ∧ mergeI.scanning = none ∧ mergeI.rebuild = none := by decide +kernel
def rebuildI : IRebuild := { cmd := io9, params := ⟨1, 1, 8, 256, 1, 0⟩, cut := some 0 }
theorem test_promotion : awaited (indexB { index1 with rebuild := some rebuildI }) rebuildI.cmd = true ∧ rebuildI.cut = some 0 ∧
    (let v := rebuiltView index1 rebuildI 0 []
     v.lists.all (fun e => decide (e.2.entries.length ≤ maxCount)) = true ∧ (placeView 0x200000 index1 v).isSome = true) := by decide +kernel

/-! Namespaces and their blocks. -/
def buffered0 : Blk := .data (List.replicate 512 1) [] .buffer 0
def withNs (store : Tab Blk) (m : Media) : Block := { hosted up with nss := [(1, { blocks := 8, lba := 512, store := store })], med := m }
def ns8 : Namespace := { blocks := 8, lba := 512 }
def plain : PrInfo := ⟨false, false, false, false, 0, 0, 0⟩
def readsAs (s : Block) (n : Namespace) : Bool × Bool × Bool :=
  match (readSpan (beginCmd s io9) ⟨1, 7, 1⟩ n plain ⟨[], [], true⟩ n.dulbe 0 1).2 with
  | .ok _ => (true, false, false)
  | .fails _ => (false, true, false)
  | .waits => (false, false, true)
/-- a block that reads, one that is lost, one behind a fenced channel that nothing else covers -/
def fencedBand : Block :=
  { withNs [(7, .data (List.replicate 512 1) [] (.band 0 0) 0)] { bands := [(0, { group := 0, members := [0], state := .released })] } with
    pages := [(pgOnf 0, { service := .fenced })] }
theorem test_read_spans : readsAs (withNs [(7, buffered0)] {}) ns8 = (true, false, false) ∧ readsAs (withNs [(7, .lost)] {}) ns8 = (false, true, false) ∧
    readsAs fencedBand ns8 = (false, false, true) := by decide +kernel
theorem test_io_serves : asked (withNs [] {}) io9 = true ∧ deferredFor (withNs [] {}) io9 1 = none ∧ getNs (withNs [] {}) 1 = some ns8 ∧
    1 ∈ (getCtl (withNs [] {}) 0).attached ∧ mediaReady (withNs [] {}) = true ∧ (withNs [] {}).med.readOnly = false ∧
    resvBlocks ns8 (hostOf (withNs [] {}) io9) true = false ∧ 7 + 1 ≤ ns8.blocks ∧ practBad ns8 plain = false ∧
    bufferRoom (withNs [] {}) 512 = true ∧ bufferRoom (withNs [] {}) 0 = true ∧ tabWf ns8.store = true ∧ ns8.prot = 0 ∧ ns8.mdBytes = 0 := by decide +kernel
theorem test_take_blocks : (takeBlocks ns8 plain 1 (List.replicate 512 2)).isSome = true ∧
    (writeFields ns8 ⟨1, 7, 1⟩ plain [(List.replicate 512 2, [])]).isLeft = true := by decide +kernel
def deferred1 : Deferred := ⟨1, 1, 0, 1, 0, false⟩
def pending9 : PendRead := ⟨io9, 5, 1000000000, ⟨1, 7, 1⟩, plain, ⟨[], [], true⟩, .read⟩
theorem test_deferred : deferredFor (withNs [] { deferred := [deferred1] }) io9 1 = some deferred1 ∧
    Media.pendReads { pendReads := [pending9] } = [pending9] ∧ pending9.cmd = io9 ∧ awaited (withNs [] { pendReads := [pending9] }) io9 = true := by
  decide +kernel
theorem test_reservations : let n := { ns8 with registrants := [⟨0, 0, 5⟩, ⟨9, 1, 6⟩], holder := some (9, 1) }
    ns8.registrants.find? (fun r => r.host == 0) = none ∧ n.registrants.find? (fun r => r.host == 0) = some ⟨0, 0, 5⟩ ∧
      hostOf (withNs [] {}) io9 = 0 ∧ (∃ r ∈ n.registrants, r.host = 9 ∧ r.key = 6) := by decide
def adminNs : Block := withNs [] {}
theorem test_format : formatOk 0 0 = true ∧ (lbaFormat 0).isSome = true ∧ adminAsked adminNs adm8 = true ∧ mediaReady adminNs = true := by decide +kernel
/-- the least data of a namespace to be made: one block, format 0 -/
def nsData : List Byte := leBytes 8 1 ++ leBytes 8 1 ++ zeroBytes 368
theorem test_create : (List.range 128).find? (fun i => (getNs adminNs (i + 1)).isNone) = some 1 ∧ fieldAt nsData 0 8 = 1 ∧ fieldAt nsData 8 8 = 1 ∧
    fieldAt nsData 26 1 = 0 ∧ fieldAt nsData 29 1 = 0 ∧ usedBytes adminNs + 512 ≤ userBytes ∧ usedBytes adminNs + 4096 ≤ userBytes ∧
    tabWf adminNs.nss = true ∧ (attachedTo adminNs 2).length + 1 ≤ 1 ∧ 2 ∉ (getCtl adminNs 0).attached := by decide +kernel

/-! The flow of blocks: buffer, gather stripes, bands. -/
def inBuffer : Block := withNs [(7, buffered0)] {}
theorem test_stripe : (stripeUnits inBuffer).flatten ≠ [] ∧ gatherFull inBuffer = false ∧
    2 ≤ (stripeDies inBuffer 14).length := by decide +kernel
theorem test_direct : (directUnits inBuffer).flatten ≠ [] ∧ gatherFull (withNs [(7, buffered0)] { gatherGB := 0 }) = true ∧
    dieCut inBuffer 0 = false ∧ (putBand inBuffer 0 (directUnits inBuffer)).isSome = true := by decide +kernel
def inGather : Block := withNs [(7, .data (List.replicate 512 1) [] (.gather 0 0) 0)] { stripes := [(0, { group := 0, parity := 1, reads := 300000 })], nextStripe := 1 }
theorem test_fold : (foldUnits inGather).flatten ≠ [] ∧
    (putBand inGather 0 (foldUnits inGather)).isSome = true := by decide +kernel
def bandOf (st : BandState) : Band := { group := 0, members := [0], state := st, wordlines := [(0, bandWordlines)], reads := [(0, 30000)] }
def inBand (st : BandState) : Block := withNs [(7, .data (List.replicate 512 1) [] (.band 3 0) 0)] { bands := [(3, bandOf st)], nextBand := 4 }
theorem test_bands : tabFind (inBand .opened).med.bands 3 = some (bandOf .opened) ∧ (∀ d ∈ (bandOf .opened).members, tabGet 0 (bandOf .opened).wordlines d = bandWordlines) ∧
    verifyMoves (inBand .verifying) 3 [(0, 0)] ≠ [] ∧ (bandOf .verifying).state = .verifying ∧ tabWf (inBand .released).med.bands = true := by
  decide +kernel
/-- the last die is of another group -/
def lastDie : Nat := 479
theorem test_relocations : (relocate (inBand .verifying) 0 lastDie (bandBlocks (inBand .verifying) 3 (fun _ _ => true)) 6).isSome = true ∧
    (relocate (inBand .released) 16 lastDie (bandBlocks (inBand .released) 3 (fun _ _ => true)) 5).isSome = true := by decide +kernel
theorem test_block_care : blockFacts (inBand .closed) ⟨false, 3, 0⟩ = some (0, 0, 30000, 16 * bandWordlines) ∧
    blockFacts inGather ⟨true, 0, 0⟩ = some (16, 0, 300000, 1) ∧ tabWf (bandOf .closed).reads = true ∧
    (relocate inGather 16 lastDie (blockHolds inGather ⟨true, 0, 0⟩) 6).isSome = true ∧ inGather.med.queued = [] ∧ 0 + retentionNs 70 ≤ 90 * 86400 * 1000000000 / 8 := by
  decide +kernel
theorem test_die_care : evacuationDue { inBand .closed with med := { dies := [(0, { dayReads := 99, daySoft := 1 })] } } 0 = true ∧
    (relocate (fenceDie (inBand .closed) 0) 0 lastDie ((dieBlocks (inBand .closed) 0).filter (coveredBlk (inBand .closed))) 6).isSome = true ∧
    dieBlocks (inBand .closed) 0 ≠ [] ∧ tabWf (inBand .closed).nss = true ∧ (getDie (inBand .closed) 0).state = .inService := by decide +kernel
theorem test_media_writes : judged up pgMed mm 0x014 = true ∧ mmOrOwner up pgMed mm = true ∧ judged up (pgOnf 31) mm (0x140 + 4 * 15) = true ∧
    dieBlocks up 0 = [] ∧ (getChan { up with med := { chans := [(0, { trained := true, trainTemp := 0, hot := 20 })] } } 0).trained = true := by
  decide +kernel
theorem test_deferred_create : let s := inGather
    blkOf s 1 7 = some (.data (List.replicate 512 1) [] (.gather 0 0) 0) ∧ started s = true := by decide +kernel

/-! Admin commands, the manager, code flash and the option area. -/
theorem test_identify : (identifyData (hosted up) 0 1 0 0).isLeft = true ∧ (identifyData (hosted up) 0 0 0 0).isRight = true ∧
    (logPage (hosted up) 0 3).isSome = true ∧ (logPage (hosted up) 0 0x7F).isNone = true ∧ (logPage (hosted up) 0 0xC1).isSome = true := by
  decide +kernel
theorem test_features : (putFeature (beginCmd (hosted up) adm8) 0 0x02 false 0 4 []).isRight = true ∧
    (putFeature (beginCmd (hosted up) adm8) 0 0x02 false 0 3 []).isLeft = true ∧ plainFeature 1 = true ∧ saveable 1 = true ∧
    (featureOf (hosted up) 0 1 2 0 0).isLeft = true ∧ (featureOf (hosted up) 0 4 0 0 (9 * 65536)).isRight = true := by decide +kernel
def goodFw : FwFacts := ⟨true, [], 0, 0, 4⟩
def withDownload : Block := { up with ctls := [(0, { ctl0 with download := [(0, [1, 2, 3, 4])] })] }
theorem test_firmware : fwBusy withDownload = false ∧ fwSlot withDownload 0 = 2 ∧ fwSlot withDownload 0 ≠ withDownload.adm.active ∧
    fwGood withDownload (downloaded (getCtl withDownload 0)) goodFw = true ∧
    fwGood withDownload (downloaded (getCtl withDownload 0)) { goodFw with signed := false } = false ∧ (slotFr up 1).isSome = true ∧
    adminAsked withDownload adm8 = true ∧ 33554432 - 65536 + 65536 ≤ 33554432 := by decide +kernel
/-- an overlay of no entry, and of one entry of an item that there is not -/
theorem test_calibration : parseOverlay (zeroBytes 16) = some [] ∧ calStatus ⟨0, 0, 0⟩ = some (vend 0x51 1) := by decide +kernel
theorem test_mi : (miData up (.readData 0)).isSome = true ∧ (miData up .subsystemPoll).isSome = true ∧ up.opt.committing = none ∧
    mmUp up = true ∧ up.hub.aux = true ∧ recovering up = false ∧ writeForbid up = false ∧ islandOnly { hub := {} } = true ∧
    ((optLatest up).drop 0x100).length = 256 ∧ writeForbid { up with opt := { inforce := zeroBytes 0x12 ++ [1] } } = true ∧
    (getCtl up 0).pp = false ∧ 0 < activePorts up ∧ (getCtl up 0).download = [] := by decide +kernel
def committing (step : Nat) : Block := { hosted up with adm := { commit := some ⟨adm8, 2, 3, ⟨[], 0, 0, []⟩⟩, step := step } }
theorem test_activation : awaited (committing 1) adm8 = true ∧ (committing 1).adm.standby ≠ .failed ∧ mtfaLost (committing 3) = false ∧
    mtfaLost { committing 3 with adm := { (committing 3).adm with standby := .booting } } = true ∧
    (∀ q ∈ (committing 6).adm.unitsLeft, passedOver (committing 6) q = true) ∧ passedOver (withPage 0x3800 { service := .fenced }) 0x3800 = true := by
  decide +kernel
/-- every port suspended; the module in LOW with a wake pending; a port that may send the PME -/
def lowB : Block := { up with low := true, wakes := [⟨1, 0, 0, 0⟩], ctls := [(0, { ctl0 with dstate := .d3hot, pmeEn := true })] }
theorem test_low_power : pmePort lowB = some 0 ∧ lowB.pmeSent = false ∧ lowB.resuming = false ∧ (getCtl lowB 0).dstate = .d3hot ∧
    (∀ q < activePorts lowB, suspended (getCtl lowB q) = true) ∧ natBit (getEvt lowB 0).config.toNat 20 = true := by decide +kernel
theorem test_flash : judged up pgCfl mm 0x128 = true ∧ cflMay (committing 1) 1 511 = true ∧ cflMay up 1 511 = false ∧ cflMay up 0 648 = true ∧
    cflRunning { up with cfl := { ops := [⟨1, 1, 0, 0, []⟩] } } 1 = true ∧ pageAnswers up .cfl 0 = true ∧
    regionOf (0 % bankBytes / sectorBytes) = .slot ∧ regionOf 640 = .ring ∧ refreshable (regionOf 640) = true ∧ up.cfl.ops = [] := by
  decide +kernel
def optOwned (o : OptState) : Block := { withPage pgOpt { owner := 1 } with opt := o }
theorem test_option : optMay (optOwned {}) host0 0 = true ∧ judged (optOwned {}) pgOpt host0 (0x400 + 4 * 127) = true ∧ optUnlocked {} = true ∧
    optUnlocked { password := some 5 } = false ∧ optFieldBad (padTo 512 []) = some 0 := by decide +kernel
theorem test_option_good : optFieldBad (padTo 512 optDefault) = none := by decide +kernel

/-! Links. -/
def withLink (k : Link) : Block := { up with links := [(23, k)] }
theorem test_lane : mayTrain (withLink { st := .search }) 23 = true ∧ natBit up.hub.ready 2 = true ∧ ({} : LaneRx).disabled = false ∧
    ({} : LaneRx).locked = false ∧ ((63 : Nat) + 1) % 64 = 0 := by decide +kernel
/-- a NOTICE that fills two cells of a block whose check value is right -/
def notice1 : Frame := streamNotice 5 6 7 3 1 0 0 0
def lockedLane : LaneRx := { locked := true }
set_option maxRecDepth 200000 in
theorem test_frame_cells : frameOf (frameBytes notice1) = notice1 ∧ frameCells notice1 ≤ 39 ∧ 1 ≤ notice1.type ∧ notice1.type ≤ 9 ∧
    admitsFrame { st := .active } notice1 = true := by decide +kernel
theorem test_replay : let h : HeldBlock := ⟨0, [], 0, [], 0⟩
    ({ st := .active, replay := [h] } : Link).replay = h :: [] ∧ ({ tries := 4 } : Link).tries = 4 := by decide
theorem test_training : laneBits { lane0 := lockedLane } = 1 ∧ popBits (Nat.land (laneBits { lane0 := lockedLane }) 3) = 1 ∧
    Nat.land (laneBits { lane0 := lockedLane }) 2 = 0 ∧ natBits ((0x120000 : BitVec 24).toNat) 16 8 = 0x12 ∧
    natBits ((0x200000 : BitVec 24).toNat) 16 8 = 0x20 ∧ mayTrain (withLink { st := .negotiate }) 23 = true := by decide +kernel
theorem test_admission_of_links : natBit (getPage (withPage (pgAup 23) { ctl := 1 }) (pgAup 23)).ctl.toNat 0 = true := by decide
theorem test_link_writes : judged up (pgAup 23) mm 0x014 = true ∧ mmOrOwner up (pgAup 23) mm = true ∧ bvBits (0x00200001 : Word) 16 8 = 0x20 ∧
    bvBits (0x00200001 : Word) 24 8 = 0 ∧ judged up (pgAup 23) mm 0x11C = true ∧ routeRight (getPage up (pgAup 23)) mm = none ∧
    bvBits (0x97170001 : Word) 24 5 = 23 ∧ bvBits (0x97170001 : Word) 16 5 = 23 ∧ 23 < bvBits (0x98170001 : Word) 24 5 := by decide +kernel
/-- a block that carries `notice1` alone, with sequence number 0, and its check value -/
def block1 : List Byte := List.replicate 12 0 ++ leBytes 4 2067208242 ++ padTo 624 (frameBytes notice1)
def word1 : CodeWord := ⟨true, 0, 0xAD800, block1, none⟩
/-- the same with a check value of 0 -/
def block2 : List Byte := List.replicate 16 0 ++ padTo 624 (frameBytes notice1)
set_option maxRecDepth 200000 in
theorem block1_length : block1.length = 640 ∧ block2.length = 640 := by decide +kernel
set_option maxRecDepth 200000 in
theorem block1_body : bytesAt block1 16 624 = padTo 624 (frameBytes notice1) ∧ bytesAt block2 16 624 = bytesAt block1 16 624 := by
  rw [bytesAt_within block1 624 16 (by rw [block1_length.1]), bytesAt_within block2 624 16 (by rw [block1_length.2])]; decide +kernel
set_option maxRecDepth 200000 in
theorem block1_check : fieldAt block1 0xC 4 = crc32cOf (bytesAt block1 0 12 ++ bytesAt block1 16 624) := by
  rw [block1_body.1, bytesAt_within block1 12 0 (by rw [block1_length.1]; decide)]; decide +kernel
theorem test_good_block : bvBits word1.header 10 10 = 0x2B6 ∧ bvBits word1.header 9 1 = lockedLane.field ∧
    bvBits word1.header 3 6 = lockedLane.cw ∧ natBit (fieldAt block1 2 2) 12 = false ∧ fieldAt block1 0 2 = ({} : Link).expect ∧
    ({} : Link).partly = [] ∧ ({} : Link).discard = false := by decide +kernel
theorem test_bad_block : fieldAt block2 0xC 4 ≠ crc32cOf (bytesAt block2 0 12 ++ bytesAt block2 16 624) := by
  have h : bytesAt block2 0 12 = bytesAt block1 0 12 := by decide +kernel
  rw [h, block1_body.2, ← block1_check]; decide +kernel

/-! Frames of streams: this module is 0; module 7 writes, reads, tells. -/
def frameTo (dst type : Nat) (payload : List Byte) : Frame := { type := type, vc := 0, dst := dst, src := 7, payload := payload }
def arrived (f : Frame) : Block := { up with inbox := [⟨none, f⟩] }
theorem test_forward : let s : Block := { up with routes := [(9, 0x97000000)], links := [(23, { st := .active, version := 0x12 })] }
    (frameTo 0 1 []).dst = s.self ∧ (frameTo 9 1 []).dst ≠ s.self ∧ routeOf s 8 = none ∧ (routeOf s 9).isSome = true ∧ inStream 1 = true ∧
      inStream 5 = false := by decide +kernel
/-- the frame expected, one that is early, one that is too early, one of the past, one of a generation that is past -/
theorem test_stream_order : nextInStream (arrived (frameTo 0 1 [])) (frameTo 0 1 []) = true ∧ seqAhead 0 64 = 64 ∧ seqAhead 0 65 = 65 ∧
    32768 ≤ seqAhead 0 65535 ∧ genNewer 1 0 = false ∧ viaA12 up ⟨none, frameTo 0 1 []⟩ = false := by decide +kernel
theorem test_read_frame : let x : List Byte := leBytes 2 pgHub ++ leBytes 2 0 ++ [4]
    let s1 := streamApplied { up with inbox := [] } 7 0
    let f := frameTo 0 2 x
    sizeOk (fieldAt x 2 2) (fieldAt x 4 1) = true ∧ fieldAt x 2 2 < 4096 ∧ mustWait s1 (fieldAt x 0 2) (peerOf f) (fieldAt x 2 2) = false ∧
      seqAhead (getTx s1 7 1).base (getTx s1 7 1).next < 32768 ∧ (getTx s1 7 1).waiting = [] := by decide +kernel
def joinedB : Block := { work core0 with ctxs := [(0, { ctx0 with job := some { id := 5, count := 2, index := 0, since := 0, cmd := io9, members := [(0, (0, 0))], joined := true } })] }
theorem test_coll_frame : jobMembers up 5 = [] ∧ jobMembers joinedB 5 ≠ [] ∧ findColl joinedB (.system 5) 0 = none := by decide +kernel
theorem test_stream_states : (∀ e ∈ (getTx up 7 0).frames, e.init = .mm) ∧ (getTx up 7 0).waiting = [] ∧ seqAhead (getTx up 7 0).base 0 ≤ 32768 ∧
    RxStream.held { held := [(0, ⟨none, frameTo 0 1 []⟩)] } = [(0, ⟨none, frameTo 0 1 []⟩)] ∧ TxStream.frames { frames := [⟨0, 0, 0, .mm⟩] } = [⟨0, 0, 0, .mm⟩] := by decide +kernel
def jobJ : Job := { id := 5, count := 2, index := 0, since := 0, cmd := io9, members := [(0, (0, 0))] }
def joiningB : Block := { hosted (work core0) with ctxs := [(0, { ctx0 with job := some jobJ })] }
theorem test_join : (getCtx joiningB 0).job = some jobJ ∧ joining joiningB 5 = [(0, jobJ)] ∧ jobJ.members = [(jobJ.index, (joiningB.self, 0))] ∧
    awaited joiningB io9 = true ∧ tabWf joiningB.ctxs = true ∧ ctxStatus (hosted (work core0)) io9 0 = none ∧
    joining (hosted (work core0)) 5 = [] ∧ (getCtx (hosted (work core0)) 0).job = none := by decide +kernel

/-! System time. -/
def timeFrameOf (kind : Nat) : Frame := { type := 5, vc := 2, linkLocal := true, dst := 0, src := 7, payload := leBytes 1 kind ++ zeroBytes 7 ++ leBytes 2 3 ++ zeroBytes 14 }
def timeLink : Link := { st := .active, peer := some (7, 2), exch := some { num := 3, t1 := 100, answer := some (200, 300, 5) } }
theorem test_time_frames : fieldAt (timeFrameOf 2).payload 0 1 = 2 ∧ fieldAt (timeFrameOf 2).payload 8 2 = 3 ∧ linkTrained timeLink = true ∧
    (getLink { up with links := [(23, timeLink)] } 23).exch = some { num := 3, t1 := 100, answer := some (200, 300, 5) } := by decide +kernel
def boundaryStu : StuState := { parent := none, domain := some (1, 1), gm := false, st := .locked, claimDue := none }
theorem test_founding : ({} : StuState).domain = none ∧ hearing up = [] ∧
    ownPriority { up with pages := [(pgStu, { ctl := 0x050000 })] } < 255 ∧ boundaryStu.domain.isSome = true := by decide +kernel
/-- an armed write of a register, an armed epoch 2 µs away and one too soon after the last -/
def slotW : Slot := { st := 1, by_ := mm, target := 0x3F001000, time := 500 }
def slotE : Slot := { st := 1, by_ := mm, epoch := true, time := 200000 }
def slotted (x : Slot) (last : Option Nat) : Block := { up with stu := { slots := [(63, x)], last := last } }
theorem test_actions : getSlot (slotted slotW none) 63 = slotW ∧ bvBits slotW.target 16 14 = pgHub % 2 ^ 14 ∧ bvBits slotW.target 0 12 % 4 = 0 ∧
    (slotted slotE none).stu.last ≠ some 200000 ∧ tooSoon (slotted slotE none) 200000 = false ∧ tooSoon (slotted slotE (some 150000)) 200000 = true := by
  decide +kernel
theorem test_due : let s : Block := { slotted slotW none with low := true }
    s.stu.sched = none ∧ (63, slotW) ∈ s.stu.slots ∧ ¬slotW.time ∈ s.stu.woken ∧
      (∀ f ∈ s.stu.slots, f.2.st = 1 → ¬f.2.time ∈ s.stu.woken → f = (63, slotW) ∨ slotW.time < f.2.time) := by decide +kernel
theorem test_stu_writes : judged up pgStu mm 0x014 = true ∧ mmOrOwner up pgStu mm = true ∧ judged up pgStu mm 0x154 = true ∧ judged up pgStu mm 0x138 = true ∧
    judged up pgStu mm 0x130 = true ∧ judged up pgStu mm 0x134 = true ∧ judged up pgStu mm 0x128 = true ∧ judged up pgStu mm 0x12C = true ∧
    targetOk 0x3F001000 = true ∧ bvBits (0x00001700 : Word) 8 5 = 23 := by decide +kernel

/-! Check units and scrubs. -/
def withChk (c : ChkUnit) (regs : Tab Word) : Block := { withPage (pgChk 15) { regs := regs } with chks := [(15, c)] }
theorem test_chk_writes : judged up (pgChk 15) mm 0x014 = true ∧ mmOrOwner up (pgChk 15) mm = true ∧ judged up (pgChk 15) mm 0x130 = true ∧
    judged up (pgChk 15) mm 0x134 = true ∧ judged up (pgChk 15) mm 0x138 = true ∧ judged up (pgChk 15) mm 0x140 = true ∧
    judged up (pgChk 15) mm 0x144 = true ∧ judged up (pgChk 15) mm 0x200 = true ∧ judged up (pgChk 15) host0 0x200 = true := by decide +kernel
def modeRegs : Tab Word := [(0x100, 8), (0x108, 7)]
def scanZ : ChkScan := { kind := 0, port := 0, id := 0, start := 0, len := 4 }
theorem test_write_backs : takeWb [⟨5, false⟩] 5 = some (false, []) ∧ takeWb [⟨5, true⟩] 5 = some (true, []) := by decide
theorem test_scrub : let s : Block := { up with dmErr := [(0, [1]), (1, [1, 2, 3])], sramErr := [(0, 1)], crit := 4 }
    sortBy Nat.ble ((lineSyms s (lineNo 0 5) ++ []).eraseDups) = [] ∧ natBit s.crit 2 = true ∧
      decodeSyms s 0 [1] = .corrected ∧ tabGet 0 s.sramErr 0 + 1 = 2 ∧ tabGet 0 s.sramErr 1 + 0 = 0 := by decide +kernel
theorem test_parity : (work core0).cores ≠ [] ∧ core0.placed.isSome = true ∧ core0.ended = false ∧ core0.run ≠ .faulted ∧ core0.run ≠ .zeroising := by decide
def chk0 : ChkUnit := {}
theorem test_chk_mode : chkModeOk (withChk chk0 modeRegs) 15 = true ∧ chkModeOk (withChk chk0 [(0x100, 0)]) 15 = false ∧
    chkModeOk (withChk chk0 [(0x100, 65)]) 15 = false ∧ (getChk (withChk chk0 modeRegs) 15).st ≠ 2 ∧
    ((withChk { st := 1, count := 3 } modeRegs).chks.map (fun e => e.2.st)) = [1] := by decide +kernel
/-- a scan of the first block of namespace 1, which the management master's unit reads -/
def scanRegs : Tab Word := modeRegs ++ [(0x148, 0x20000000), (0x14C, 1), (0x158, 512)]
def withNs1 (s : Block) : Block := { s with nss := [(1, { blocks := 8, lba := 512 })] }
theorem test_scan_order : scanOk (withNs1 (withChk chk0 scanRegs)) 15 = true ∧ scanOk (withChk chk0 scanRegs) 15 = false ∧
    scanOk (withChk chk0 modeRegs) 15 = false := by decide +kernel
theorem test_scan_outcomes : (scanBytes up scanZ 0 0 []).2.2 = false ∧
    (scanBytes up { scanZ with kind := 2, id := 1 } 0 4 []).2.2 = true ∧
    mediaWaits up 1 0 0 = false := by decide +kernel

/-! Power and service. -/
theorem test_governor : started up = true ∧ natBit up.hub.ready 3 = true ∧ supplyOf up 3 = 700 ∧ (695 : Nat) ≠ 700 ∧ 700 ≤ 695 + 5 ∧
    supplyOf { up with supply := [(3, 549)] } 3 = 549 := by decide +kernel
/-- whatever the calibration, the supply may be raised to 550 mV -/
theorem test_governor_raise : 550 ≤ supplyTarget { up with supply := [(3, 549)] } 3 := by
  have h : ∀ b : Int, 550 ≤ (max 550 b).toNat := fun b => by omega
  exact h _
theorem test_trips : (110 : Int) ≤ 110 ∧ (∃ n, tabFind ({ hot := [(4, 0)] } : PowerState).hot 4 = some n ∧ n + 1000000 ≤ 1000000) ∧
    tabWf ({} : PowerState).hot = true ∧ tabWf ({} : PowerState).throttled = true := ⟨by decide, ⟨0, by decide, by decide⟩, by decide, by decide⟩
theorem test_caps : ({ outletCap := some 800, outletCool := some 5 } : PowerState).outletCap = some 800 ∧ ({} : PowerState).leak = false ∧
    ({} : PowerState).inletCap = false ∧ modePowerBad 0 = false ∧ modePowerBad 3 = true := by decide +kernel
theorem test_hub_writes : judged up pgHub mm 0x140 = true ∧ judged up pgHub mm 0x148 = true ∧ mmOrOwner up pgHub mm = true ∧ (1024 : Nat) % 128 = 0 ∧
    up.med.gatherGB < (getRegD (withPage pgHub { regs := [(0x148, 640)] }) pgHub 0x148 0x200).toNat % 2 ^ 16 := by decide +kernel
theorem test_service : judged up (pgCor 0) mm 0x030 = true ∧ serviceRight .cor (getPage up (pgCor 0)) mm = none ∧ capFence .cor = true ∧ capFence .hub = false ∧
    judged up pgHub mm 0x030 = true ∧ serviceRight .hub (getPage up pgHub) mm = none ∧ spareState up (cluOfCore 0) = 0 ∧ 0 ∉ up.readmits ∧
    pageAnswers up .cor 0 = true ∧ capFence .aup = true := by decide +kernel
theorem test_handover : let s : Block := { work { core0 with run := .halted, stop := some .preempt } with handovers := [(0, {})] }
    tabFind s.handovers 0 = some {} ∧ tabFind ({ s with handovers := [(0, { copied := true })] } : Block).handovers 0 = some { copied := true } ∧
      tabWf s.handovers = true := by decide +kernel
theorem test_handover_still : handoverStill { up with handovers := [(0, {})], cores := [(0, {})] } 0 = true ∧
    storeAwaited { up with handovers := [(0, {})], cores := [(0, {})] } 0 = false := by decide +kernel
theorem test_spared : spared (withPage (pgClu 0) { regs := [(0x100, 0x51)] }) 5 = true ∧ spareState (withPage (pgClu 0) { regs := [(0x100, 0x51)] }) 0 ≠ 0 := by
  decide +kernel

/-! Start and removal. -/
theorem test_off : (st State.reset.block).block.hub.phase = .off ∧ (st State.reset.block).block.hub.tripped = false ∧
    ({ tripped := true } : HubState).mainLost = none := by decide
theorem test_ready_bits : natBit (1 : Nat) 1 = false ∧ natBit (7 : Nat) 2 = true ∧ natBit (7 : Nat) 3 = false ∧ natBit (31 : Nat) 3 = true ∧
    natBit (31 : Nat) 5 = false ∧ natBit (3 : Nat) 1 = true ∧ ({ standby := .failed } : AdminState).standby ≠ .ready := by decide
theorem test_enable : let s : Block := { up with ctls := [(0, { rate := 6, released := true })] }
    0 < activePorts s ∧ (getCtl s 0).rate ≠ 0 ∧ (getCtl s 0).en = false ∧ settled s 0 = true ∧ 6 ≤ maxRate s ∧ (16 : Nat) ≤ 16 / activePorts s := by
  decide +kernel
theorem test_reset_write : resetRight up mm = none ∧ judged up pgHub mm 0x100 = true ∧
    bvBits (0xD1CE0001 : Word) 16 16 = 0xD1CE ∧ natBit (0xD1CE0001 : Word).toNat 0 = true ∧ judged up pgHub mm 0x154 = true := by decide +kernel

end Sys2Proof.Tests
end

section
/-! What a program sees of a block, and what the bookkeeping of the units leaves of it. -/
namespace Sys2Proof.Machine

/-- What the cores of a block compute with: the cores themselves, device memory, the cluster stores and the images of the contexts. Statistics, events,
error records and free values are beside it. -/
@[ext] structure View where
  cores : Nat → Core
  dm : Mem
  cs : Tab Mem
  images : Nat → Image

/-- The view of a block. -/
def view (s : Block) : View := ⟨getCore s, s.dm, s.cs, fun x => (getCtx s x).image⟩

/-- The view with core c changed. -/
def View.upd (v : View) (c : Nat) (f : Core → Core) : View := { v with cores := Function.update v.cores c (f (v.cores c)) }

@[simp] theorem View.upd_cores_same (v : View) (c : Nat) (f : Core → Core) : (v.upd c f).cores c = f (v.cores c) := by
  simp [View.upd]
theorem View.upd_cores_other (v : View) {c o : Nat} (f : Core → Core) (h : o ≠ c) : (v.upd c f).cores o = v.cores o := by
  simp [View.upd, h]
@[simp] theorem View.upd_dm (v : View) (c : Nat) (f : Core → Core) : (v.upd c f).dm = v.dm := rfl
@[simp] theorem View.upd_cs (v : View) (c : Nat) (f : Core → Core) : (v.upd c f).cs = v.cs := rfl
@[simp] theorem View.upd_images (v : View) (c : Nat) (f : Core → Core) : (v.upd c f).images = v.images := rfl
@[simp] theorem View.upd_upd (v : View) (c : Nat) (f g : Core → Core) : (v.upd c f).upd c g = v.upd c (fun k => g (f k)) := by
  simp [View.upd]
@[simp] theorem View.upd_id (v : View) (c : Nat) : v.upd c (fun k => k) = v :=
  View.ext (Function.update_eq_self c v.cores) rfl rfl rfl

/-- A change of a core counts for what it makes of the core that stands there. -/
theorem View.upd_congr (v : View) {c : Nat} {f g : Core → Core} (h : f (v.cores c) = g (v.cores c)) : v.upd c f = v.upd c g := by
  unfold View.upd
  rw [h]

@[simp] theorem view_cores (s : Block) : (view s).cores = getCore s := rfl
@[simp] theorem view_dm (s : Block) : (view s).dm = s.dm := rfl
@[simp] theorem view_cs (s : Block) : (view s).cs = s.cs := rfl
@[simp] theorem view_images (s : Block) (x : Nat) : (view s).images x = (getCtx s x).image := rfl

theorem view_setCore (s : Block) (c : Nat) (k : Core) : view (setCore s c k) = (view s).upd c (fun _ => k) := by
  refine View.ext ?_ rfl rfl rfl
  funext o
  by_cases h : o = c
  · subst h
    simp
  · rw [View.upd_cores_other _ _ h]
    exact getCore_setCore_other s c o k h

@[simp] theorem view_updCore (s : Block) (c : Nat) (f : Core → Core) : view (updCore s c f) = (view s).upd c f :=
  view_setCore s c (f (getCore s c))

/-- A change of a context that keeps its image is not seen. -/
theorem view_updCtx (s : Block) (x : Nat) (f : Ctx → Ctx) (h : (f (getCtx s x)).image = (getCtx s x).image) :
    view (updCtx s x f) = view s := by
  refine View.ext rfl rfl rfl ?_
  funext y
  show (getCtx (updCtx s x f) y).image = (getCtx s y).image
  by_cases hy : y = x
  · subst hy
    rw [getCtx_updCtx_same, h]
  · rw [getCtx_updCtx_other s x y f hy]

/-- A fold of changes that are not seen is not seen. -/
theorem view_foldl {α : Type} (f : Block → α → Block) (h : ∀ s a, view (f s a) = view s) (l : List α) (s : Block) :
    view (l.foldl f s) = view s := by
  induction l generalizing s with
  | nil => rfl
  | cons a l ih => rw [List.foldl_cons, ih, h]

/-- Of two blocks that are seen as s, so is the one that a condition chooses. -/
theorem view_ite {p : Prop} [Decidable p] {a b s : Block} (ha : view a = view s) (hb : view b = view s) :
    view (if p then a else b) = view s := by
  split
  · exact ha
  · exact hb

/-! Statistics, counts and free values. -/

@[simp] theorem view_setPage (s : Block) (p : Nat) (g : Page) : view (setPage s p g) = view s := rfl
@[simp] theorem view_updPage (s : Block) (p : Nat) (f : Page → Page) : view (updPage s p f) = view s := rfl
@[simp] theorem view_bump (s : Block) (p i n : Nat) : view (bump s p i n) = view s := rfl
@[simp] theorem view_setReg (s : Block) (p off : Nat) (v : Word) : view (setReg s p off v) = view s := rfl
@[simp] theorem view_drawFresh (s : Block) : view (drawFresh s) = view s := rfl
@[simp] theorem view_lifeBump (s : Block) (i n : Nat) : view (lifeBump s i n) = view s := rfl
@[simp] theorem view_emit (s : Block) (o : Output) : view (emit s o) = view s := rfl
@[simp] theorem view_updEvt (s : Block) (p : Nat) (f : EventPort → EventPort) : view (updEvt s p f) = view s := rfl

@[simp] theorem view_contend (s : Block) (p i : Nat) (b : Bool) : view (contend s p i b) = view s := by
  unfold contend
  split <;> rfl

@[simp] theorem view_countClu (s : Block) (g i n : Nat) : view (countClu s g i n) = view s := by
  unfold countClu
  split
  · rfl
  · rw [view_contend, view_bump]

@[simp] theorem view_countRgn (s : Block) (r i n : Nat) : view (countRgn s r i n) = view s := by
  unfold countRgn
  split
  · rfl
  · rw [view_contend, view_bump]

@[simp] theorem view_countWait (s : Block) (c : Nat) : view (countWait s c) = view s := by
  unfold countWait
  dsimp only
  split
  · rfl
  · split <;> rfl

/-! Events and interrupts reach contexts and ports, and leave what the cores compute with (R47, R454, R469). -/

/-- What a block shares with another up to `besideDone` it shares with it in its view. -/
theorem view_of_besideDone {s t : Block} (h : besideDone t = besideDone s) : view t = view s := by
  have hview : view (besideDone t) = view (besideDone s) := congrArg view h
  exact hview

@[simp] theorem view_complete (s : Block) (cmd : CmdRef) (dw0 dw1 st : Nat) : view (complete s cmd dw0 dw1 st) = view s :=
  view_of_besideDone (besideDone_complete s cmd dw0 dw1 st)

@[simp] theorem view_postEventBy (s : Block) (p bit : Nat) (e : AEvent) : view (postEventBy s p bit e) = view s := by
  unfold postEventBy postRaw
  dsimp only
  split
  · split
    · rfl
    · split
      · rw [view_bump, view_complete, view_updEvt]
      · rfl
  · rfl

@[simp] theorem view_postEvent (s : Block) (p : Nat) (e : AEvent) : view (postEvent s p e) = view s := view_postEventBy s p _ e

@[simp] theorem view_wakeCause (s : Block) (cause x d : Nat) : view (wakeCause s cause x d) = view s := by
  unfold wakeCause
  split
  · rfl
  · dsimp only
    rw [view_bump, view_foldl _ (fun s p => view_updEvt s p _)]
    rfl

@[simp] theorem view_signal (s : Block) (p : Nat) (bits : Word) : view (signal s p bits) = view s := by
  unfold signal
  dsimp only
  split
  · rw [view_wakeCause, view_postEvent, view_updEvt]
    exact view_updCtx s _ _ rfl
  · rfl
  · split
    · rw [view_postEvent, view_updEvt]
    · rfl
  · rfl

@[simp] theorem view_raiseIrq (s : Block) (p bit : Nat) : view (raiseIrq s p bit) = view s := by
  unfold raiseIrq
  dsimp only
  split
  · rfl
  · rw [view_signal, view_setPage]

@[simp] theorem view_raiseCrit (s : Block) (bit : Nat) : view (raiseCrit s bit) = view s := by
  unfold raiseCrit
  split
  · rfl
  · dsimp only
    rw [view_wakeCause, view_foldl _ (fun s p => view_postEventBy s p _ _)]
    rfl

/-! The codes of device memory and of the SRAM stores: they count, show and signal errors, and no byte changes (R556 to R565). -/

@[simp] theorem view_markDie (s : Block) (k d : Nat) : view (markDie s k d) = view s := by
  unfold markDie
  split
  · rfl
  · simp only [view_raiseCrit, view_raiseIrq, view_lifeBump, view_setReg]

@[simp] theorem view_countCorrected (s : Block) (line : Nat) (ys : List Nat) : view (countCorrected s line ys) = view s :=
  (view_foldl _ (fun t d => view_ite (view_markDie t _ d) rfl) _ _).trans (view_ite (p := s.dmWindow = s.now / 1000000) rfl rfl)

@[simp] theorem view_dmCorrected (s : Block) (line : Nat) (ys : List Nat) : view (dmCorrected s line ys) = view s :=
  view_countCorrected s line ys

@[simp] theorem view_dmUncorrectable (s : Block) (line : Nat) (r : Reader) : view (dmUncorrectable s line r) = view s := by
  unfold dmUncorrectable
  simp only [view_raiseIrq, view_setReg, view_lifeBump, view_bump]

@[simp] theorem view_dmNoteWrite (s : Block) (line : Nat) (whole : Bool) : view (dmNoteWrite s line whole) = view s := by
  have hcount : ∀ t : Block, view (bump (if whole then t else bump t (pgDmm (stackOf (line * 64))) 9 1)
      (pgDmm (stackOf (line * 64))) 3 64) = view t := fun t => (view_bump _ _ _ _).trans (view_ite rfl rfl)
  exact (hcount _).trans (view_ite (view_countCorrected s line _) rfl)

@[simp] theorem view_sramNoteWrite (s : Block) (base a n : Nat) : view (sramNoteWrite s base a n) = view s := by
  unfold sramNoteWrite
  refine view_foldl _ (fun _ _ => ?_) _ s
  rfl

/-- A fold that carries a block and an answer leaves the view, when each of its steps does. -/
theorem view_foldl_fst {α β : Type} (f : Block × β → α → Block × β) (h : ∀ p a, view (f p a).1 = view p.1) (l : List α)
    (p : Block × β) : view (l.foldl f p).1 = view p.1 := by
  induction l generalizing p with
  | nil => rfl
  | cons a l ih => rw [List.foldl_cons, ih, h]

@[simp] theorem view_dmReadSyms (s : Block) (lines : List (Nat × List Nat)) (r : Reader) : view (dmReadSyms s lines r).1 = view s := by
  refine view_foldl_fst _ (fun p l => ?_) lines (s, none)
  obtain ⟨t, bad⟩ := p
  dsimp only
  split
  · rfl
  · rw [view_dmCorrected, view_bump]
  · rw [view_dmUncorrectable, view_bump]

@[simp] theorem view_sramRead (s : Block) (kind unit : Nat) (words : List Nat) : view (sramRead s kind unit words).1 = view s := by
  refine view_foldl_fst _ (fun p w => ?_) words (s, none)
  obtain ⟨t, bad⟩ := p
  dsimp only
  generalize (if kind = 1 then dieOfCore unit else unit / 192) = die
  generalize (if kind = 1 then wordLs unit 0 else wordCs unit 0) = base
  split
  · rfl
  · split
    · rfl
    · simp only [view_raiseIrq, view_setReg, view_bump]

@[simp] theorem view_sramReads (s : Block) (c : Nat) (l : List Loc) : view (sramReads s c l).1 = view s := by
  unfold sramReads
  simp only [view_sramRead, view_countClu]

/-- An access through the ports of a core changes nothing that is seen but whether its port is busy. -/
theorem view_usePort (s : Block) (c : Nat) (l : List Loc) :
    ∃ w, view (usePort s c l) = (view s).upd c (fun k => { k with portWaits := w }) := by
  have hsame : (view s).upd c (fun k => { k with portWaits := (getCore s c).portWaits }) = view s := by
    refine View.ext (Function.update_eq_self c (getCore s)) rfl rfl rfl
  unfold usePort
  dsimp only
  rw [view_ite rfl (view_bump _ _ _ _)]
  split
  · exact ⟨_, hsame.symm⟩
  · exact ⟨_, by rw [view_updCore, view_contend, view_bump]⟩

end Sys2Proof.Machine
end

section
/-! What issuing an instruction leaves, for each way that the instruction can end. -/
namespace Sys2Proof.Machine

/-! The block as the instruction at the pc finds it. -/

/-- Issue changes cores and contexts alone. -/
theorem noteIssue_eq (s : Block) (c : Nat) :
    noteIssue s c = { s with cores := (noteIssue s c).cores, ctxs := (noteIssue s c).ctxs } := by
  unfold noteIssue
  dsimp only
  split <;> rfl

/-- A fold of one context's instances changes the instances alone. -/
theorem leaveInst_insts (gs : List GateWait) (rank : Nat) (x : Ctx) :
    ∃ i, gs.foldl (fun x g => leaveInst x g rank) x = { x with insts := i } := by
  induction gs generalizing x with
  | nil => exact ⟨x.insts, rfl⟩
  | cons g gs ih =>
    obtain ⟨i, hi⟩ := ih (leaveInst x g rank)
    exact ⟨i, hi⟩

/-- Of a context, issue changes the layer instances alone. -/
theorem getCtx_noteIssue (s : Block) (c x : Nat) : ∃ i, getCtx (noteIssue s c) x = { getCtx s x with insts := i } := by
  unfold noteIssue
  dsimp only
  split
  · exact ⟨_, rfl⟩
  · by_cases hx : x = ctxNoOf (getCore s c)
    · subst hx
      rw [getCtx_updCtx_same]
      exact leaveInst_insts _ _ _
    · rw [getCtx_updCtx_other _ _ _ _ hx]
      exact ⟨_, rfl⟩

theorem view_noteIssue (s : Block) (c : Nat) :
    ∃ l, view (noteIssue s c) = (view s).upd c (fun k => { k with inLayers := l }) := by
  obtain ⟨hdm, hcs, hothers, himg, l, hcore⟩ := noteIssue_frame s c
  refine ⟨l, View.ext ?_ hdm hcs (funext himg)⟩
  funext o
  by_cases ho : o = c
  · subst ho
    rw [View.upd_cores_same]
    exact hcore
  · rw [View.upd_cores_other _ _ ho]
    exact hothers o ho

@[simp] theorem getCore_noteIssue (s : Block) (c : Nat) : getCore (noteIssue s c) c = issuing s c := rfl

@[simp] theorem codeLen_noteIssue (s : Block) (c : Nat) (k : Core) : codeLen (noteIssue s c) k = codeLen s k := by
  obtain ⟨i, hi⟩ := getCtx_noteIssue s c (ctxNoOf k)
  unfold codeLen ctxOf
  rw [hi]

@[simp] theorem levelOf_noteIssue (s : Block) (c : Nat) (k : Core) : levelOf (noteIssue s c) k = levelOf s k := by
  obtain ⟨i, hi⟩ := getCtx_noteIssue s c (ctxNoOf k)
  unfold levelOf ctxOf
  rw [hi]

@[simp] theorem sliceOwner_noteIssue (s : Block) (c g i : Nat) : sliceOwner (noteIssue s c) g i = sliceOwner s g i := by
  rw [noteIssue_eq]
  rfl

@[simp] theorem slicesHeld_noteIssue (s : Block) (c g x : Nat) : slicesHeld (noteIssue s c) g x = slicesHeld s g x := by
  unfold slicesHeld
  simp only [sliceOwner_noteIssue]

/-! The registers that the instruction finds are those that the core had. -/

@[simp] theorem issuing_pc (s : Block) (c : Nat) : (issuing s c).pc = (getCore s c).pc := by
  obtain ⟨l, hl⟩ := issuing_eq s c
  rw [hl]
@[simp] theorem issuing_placed (s : Block) (c : Nat) : (issuing s c).placed = (getCore s c).placed := by
  obtain ⟨l, hl⟩ := issuing_eq s c
  rw [hl]
@[simp] theorem issuing_loops (s : Block) (c : Nat) : (issuing s c).loops = (getCore s c).loops := by
  obtain ⟨l, hl⟩ := issuing_eq s c
  rw [hl]
@[simp] theorem issuing_lc (s : Block) (c : Nat) : (issuing s c).lc = (getCore s c).lc := by
  obtain ⟨l, hl⟩ := issuing_eq s c
  rw [hl]
@[simp] theorem issuing_loads (s : Block) (c : Nat) : (issuing s c).loads = (getCore s c).loads := by
  obtain ⟨l, hl⟩ := issuing_eq s c
  rw [hl]
@[simp] theorem issuing_ls (s : Block) (c : Nat) : (issuing s c).ls = (getCore s c).ls := by
  obtain ⟨l, hl⟩ := issuing_eq s c
  rw [hl]
@[simp] theorem issuing_v (s : Block) (c : Nat) : (issuing s c).v = (getCore s c).v := by
  obtain ⟨l, hl⟩ := issuing_eq s c
  rw [hl]
@[simp] theorem getS_issuing (s : Block) (c n : Nat) : getS (issuing s c) n = getS (getCore s c) n := by
  obtain ⟨l, hl⟩ := issuing_eq s c
  rw [hl]
  rfl
@[simp] theorem getA_issuing (s : Block) (c n : Nat) : getA (issuing s c) n = getA (getCore s c) n := by
  obtain ⟨l, hl⟩ := issuing_eq s c
  rw [hl]
  rfl
@[simp] theorem getV_issuing (s : Block) (c n : Nat) : getV (issuing s c) n = getV (getCore s c) n := by
  obtain ⟨l, hl⟩ := issuing_eq s c
  rw [hl]
  rfl
@[simp] theorem getP_issuing (s : Block) (c n : Nat) : getP (issuing s c) n = getP (getCore s c) n := by
  obtain ⟨l, hl⟩ := issuing_eq s c
  rw [hl]
  rfl
@[simp] theorem getLC_issuing (s : Block) (c n : Nat) : getLC (issuing s c) n = getLC (getCore s c) n := by
  obtain ⟨l, hl⟩ := issuing_eq s c
  rw [hl]
  rfl
@[simp] theorem baseBusy_issuing (s : Block) (c n : Nat) : baseBusy (issuing s c) n = baseBusy (getCore s c) n := by
  obtain ⟨l, hl⟩ := issuing_eq s c
  rw [hl]
  rfl

@[simp] theorem levelOf_issuing (s : Block) (c : Nat) : levelOf s (issuing s c) = levelOf s (getCore s c) := by
  unfold levelOf ctxOf ctxNoOf
  rw [issuing_placed]

@[simp] theorem codeLen_issuing (s : Block) (c : Nat) : codeLen s (issuing s c) = codeLen s (getCore s c) := by
  unfold codeLen ctxOf ctxNoOf
  rw [issuing_placed]

/-- The context of the core, too, is as it was but for the layer instances. -/
theorem ctxOf_issuing (s : Block) (c : Nat) : ∃ i, ctxOf (noteIssue s c) (issuing s c) = { ctxOf s (getCore s c) with insts := i } := by
  unfold ctxOf ctxNoOf
  rw [issuing_placed]
  exact getCtx_noteIssue s c _

/-! Counting the steps and going on in sequence. -/

theorem view_countSteps (s : Block) (c : Nat) : ∃ n, 1 ≤ n ∧ view (countSteps s c) = (view s).upd c (fun k => counted k n) :=
  ⟨1 + (Config.freeWord s.fresh).toNat, Nat.le_add_right _ _, by
    unfold countSteps
    rw [view_bump, view_updCore, view_drawFresh]
    rfl⟩

/-- CODE is as long for a block that is seen as another with a core changed. -/
theorem codeLen_of_view {s t : Block} {c : Nat} {f : Core → Core} (h : view t = (view s).upd c f) (k : Core) :
    codeLen t k = codeLen s k := by
  have himg : (view t).images = (view s).images := by rw [h, View.upd_images]
  exact congrArg (fun i : Image => i.code.length) (congrFun himg (ctxNoOf k))

/-- Going on in sequence inside CODE. -/
theorem view_advance {s : Block} {c len : Nat}
    (h : (loopEnd 4 (getCore s c) ((getCore s c).pc + len)).2 < codeLen s (getCore s c)) :
    view (advance s c len) = (view s).upd c (fun k => inSequence k len) := by
  have hin : ¬codeLen (setCore s c (inSequence (getCore s c) len)) (getCore s c) ≤
      (loopEnd 4 (getCore s c) ((getCore s c).pc + len)).2 := Nat.not_le.2 h
  have hadv : advance s c len = setCore s c (inSequence (getCore s c) len) := if_neg hin
  rw [hadv, view_setCore]
  rfl

/-- A completed instruction counts its steps and goes on in sequence. -/
theorem view_done {s : Block} {c len : Nat}
    (h : (loopEnd 4 (getCore s c) ((getCore s c).pc + len)).2 < codeLen s (getCore s c)) :
    ∃ n, 1 ≤ n ∧ view (advance (countSteps s c) c len) = (view s).upd c (fun k => inSequence (counted k n) len) := by
  obtain ⟨n, hn, hview⟩ := view_countSteps s c
  have hcore : getCore (countSteps s c) c = counted (getCore s c) n := by
    have := congrFun (congrArg View.cores hview) c
    rwa [View.upd_cores_same] at this
  refine ⟨n, hn, ?_⟩
  rw [view_advance, hview, View.upd_upd]
  rw [hcore, codeLen_of_view hview]
  rw [loopEnd_pc 4 (counted (getCore s c) n) (getCore s c) _ rfl rfl]
  exact h

/-- A block that is seen as another with core c changed keeps the rest. -/
theorem othersKept_of_view {s b : Block} {c : Nat} {f : Core → Core} (h : view b = (view s).upd c f) : othersKept s b c := by
  refine ⟨fun o ho => ?_, congrArg View.dm h, congrArg View.cs h⟩
  have := congrFun (congrArg View.cores h) o
  rwa [View.upd_cores_other _ _ ho] at this

theorem getCore_of_view {s b : Block} {c : Nat} {f : Core → Core} (h : view b = (view s).upd c f) :
    getCore b c = f (getCore s c) := by
  have := congrFun (congrArg View.cores h) c
  rwa [View.upd_cores_same] at this

theorem othersKept_of_noteIssue {s b : Block} {c : Nat} {f : Core → Core} (h : view b = (view (noteIssue s c)).upd c f) :
    othersKept s b c := by
  obtain ⟨l, hl⟩ := view_noteIssue s c
  rw [hl, View.upd_upd] at h
  exact othersKept_of_view h

/-- What a change of core c in sequence leaves, as a block is seen. -/
theorem issued_of_view {s b : Block} {c len : Nat} {f : Core → Core}
    (h : ∃ n, 1 ≤ n ∧ view b = (view (noteIssue s c)).upd c (fun k => inSequence (counted (f k) n) len)) : Issued s b c len f := by
  obtain ⟨n, hn, hview⟩ := h
  exact ⟨⟨n, hn, getCore_of_view hview⟩, othersKept_of_noteIssue hview⟩

/-- What an instruction does to its core counts on the core that it finds. -/
theorem issued_congr {s b : Block} {c len : Nat} {f g : Core → Core} (h : f (issuing s c) = g (issuing s c)) (hi : Issued s b c len f) :
    Issued s b c len g := by
  obtain ⟨⟨n, hn, hcore⟩, hkept⟩ := hi
  exact ⟨⟨n, hn, by rw [hcore, h]⟩, hkept⟩

/-! Operands and kinds of the instruction word. -/

/-- Where an instruction can issue, another can that uses registers which no load and no long instruction is to write. -/
theorem issuable_of {s : Block} {c len : Nat} {sr sr' vr vr' : List Nat} (h : issuable s c len sr vr = true)
    (hload : loadPending (getCore s c) sr' vr' = false) (hlong : ∀ r ∈ longDst (getCore s c), r ∉ sr') :
    issuable s c len sr' vr' = true := by
  have hany : (longDst (getCore s c)).any (fun r => sr'.contains r) = false := by simpa using hlong
  simp only [issuable, Bool.and_eq_true, Bool.not_eq_true'] at h ⊢
  obtain ⟨⟨⟨hpre, -⟩, -⟩, hend⟩ := h
  exact ⟨⟨⟨hpre, hload⟩, hany⟩, hend⟩

/-- An instruction that uses fewer registers can issue where one that uses more can. -/
theorem issuable_mono {s : Block} {c len : Nat} {sr sr' vr vr' : List Nat} (h : issuable s c len sr vr = true) (hs : sr' ⊆ sr)
    (hv : vr' ⊆ vr) : issuable s c len sr' vr' = true := by
  obtain ⟨-, -, -, -, -, hload, hlong, -⟩ := issuable_spec h
  refine issuable_of h ?_ ?_
  · unfold loadPending at hload ⊢
    rw [List.any_eq_false] at hload ⊢
    intro l hl hc
    refine hload l hl ?_
    cases hd : l.dst with
    | scalar sd size =>
      rw [hd] at hc
      exact List.contains_iff_mem.2 (hs (List.contains_iff_mem.1 hc))
    | vector vd =>
      rw [hd] at hc
      exact List.contains_iff_mem.2 (hv (List.contains_iff_mem.1 hc))
    | gather vd lanes =>
      rw [hd] at hc
      exact List.contains_iff_mem.2 (hv (List.contains_iff_mem.1 hc))
  · intro r hr hmem
    rw [List.any_eq_false] at hlong
    exact hlong r hr (List.contains_iff_mem.2 (hs hmem))

@[simp] theorem mustZero_true : mustZero true = [] := rfl
@[simp] theorem mustZero_false : mustZero false = [3] := rfl
@[simp] theorem k2_false (s : Block) (c : Nat) : k2 s c false = [] := rfl
theorem k2_of_level2 {s : Block} {c : Nat} (b : Bool) (h : levelOf s (getCore s c) ≠ 1) : k2 s c b = [] := by
  simp [k2, h]
theorem k2_of_level1 {s : Block} {c : Nat} (h : levelOf s (getCore s c) = 1) : k2 s c true = [4] := by
  simp [k2, h]

/-- The change of a core from k to k' leaves its place in the program: the pc, the loops with their counters, the context. -/
def InPlace (k k' : Core) : Prop := k'.loops = k.loops ∧ k'.lc = k.lc ∧ k'.pc = k.pc ∧ k'.placed = k.placed

theorem InPlace.refl (k : Core) : InPlace k k := ⟨rfl, rfl, rfl, rfl⟩
theorem InPlace.trans {k k' k'' : Core} (h : InPlace k k') (h' : InPlace k' k'') : InPlace k k'' := by
  obtain ⟨hloops, hlc, hpc, hplaced⟩ := h
  obtain ⟨hloops', hlc', hpc', hplaced'⟩ := h'
  exact ⟨hloops'.trans hloops, hlc'.trans hlc, hpc'.trans hpc, hplaced'.trans hplaced⟩
theorem inPlace_setS (k : Core) (n : Nat) (v : DWord) : InPlace k (setS k n v) :=
  ⟨setS_loops k n v, setS_lc k n v, setS_pc k n v, setS_placed k n v⟩
theorem inPlace_setP (k : Core) (n : Nat) (v : DWord) : InPlace k (setP k n v) :=
  ⟨setP_loops k n v, setP_lc k n v, setP_pc k n v, setP_placed k n v⟩
theorem inPlace_setA (k : Core) (n : Nat) (v : AReg) : InPlace k (setA k n v) := ⟨rfl, rfl, rfl, rfl⟩
theorem inPlace_setV (k : Core) (n : Nat) (v : BitVec 1024) : InPlace k (setV k n v) := ⟨rfl, rfl, rfl, rfl⟩
theorem inPlace_addFlags (k : Core) (f : BitVec 16) : InPlace k (addFlags k f) := ⟨rfl, rfl, rfl, rfl⟩
theorem inPlace_stepBase (k : Core) (an : Option Nat) : InPlace k (stepBase k an) := by
  cases an with
  | none => exact .refl k
  | some n => exact inPlace_setA k n _

/-! The ends of a short instruction. -/

section
variable {s s' : Block} {c len : Nat} {kinds sr vr : List Nat} {f : Block → Exec} {g : Core → Core}

/-- It completes: it goes on in sequence from what it left. -/
theorem view_issueShort_done (h : issuable s c len sr vr = true) (hk : kinds = []) (he : f (noteIssue s c) = .done s')
    (himg : (view s').images = (view (noteIssue s c)).images)
    (hend : (loopEnd 4 (getCore s' c) ((getCore s' c).pc + len)).2 < codeLen s (getCore s' c)) :
    ∃ n, 1 ≤ n ∧ view (issueShort s c len kinds sr vr f) = (view s').upd c (fun k => inSequence (counted k n) len) := by
  subst hk
  rw [issueShort_eq h, he]
  have hcode : codeLen s' (getCore s' c) = codeLen s (getCore s' c) :=
    (congrArg (fun i : Image => i.code.length) (congrFun himg _)).trans (codeLen_noteIssue s c _)
  exact view_done (hcode ▸ hend)

/-- Where it leaves its place in the program, it goes on in sequence inside CODE. -/
theorem loopEnd_inPlace {k : Core} (h : issuable s c len sr vr = true) (hg : InPlace (issuing s c) k) :
    (loopEnd 4 k (k.pc + len)).2 < codeLen s k := by
  obtain ⟨hloops, hlc, hpc, hplaced⟩ := hg
  obtain ⟨_, _, _, _, _, _, _, hend⟩ := issuable_spec h
  have hcode : codeLen s k = codeLen s (getCore s c) := by
    unfold codeLen ctxOf ctxNoOf
    rw [hplaced, issuing_placed]
  rw [hpc, issuing_pc, hcode, loopEnd_pc 4 k (getCore s c) _ (hloops.trans (issuing_loops s c)) (hlc.trans (issuing_lc s c))]
  exact hend

/-- It completes: what it did to its core, in sequence. -/
theorem issued_done (h : issuable s c len sr vr = true) (hk : kinds = []) (he : f (noteIssue s c) = .done s')
    (hv : view s' = (view (noteIssue s c)).upd c g)
    (hend : (loopEnd 4 (g (issuing s c)) ((g (issuing s c)).pc + len)).2 < codeLen s (g (issuing s c))) :
    Issued s (issueShort s c len kinds sr vr f) c len g := by
  have hcore : getCore s' c = g (issuing s c) := getCore_of_view hv
  obtain ⟨n, hn, hview⟩ := view_issueShort_done h hk he (by rw [hv, View.upd_images]) (hcore ▸ hend)
  refine issued_of_view ⟨n, hn, ?_⟩
  rw [hview, hv, View.upd_upd]

/-- It completes and leaves its place in the program. -/
theorem issued_done_in_place (h : issuable s c len sr vr = true) (hk : kinds = []) (he : f (noteIssue s c) = .done s')
    (hv : view s' = (view (noteIssue s c)).upd c g) (hg : InPlace (issuing s c) (g (issuing s c))) :
    Issued s (issueShort s c len kinds sr vr f) c len g :=
  issued_done h hk he hv (loopEnd_inPlace h hg)

/-- It changes its core alone. -/
theorem issued_onCore (h : issuable s c len sr vr = true) (hk : kinds = [])
    (hg : InPlace (issuing s c) (g (issuing s c))) :
    Issued s (issueShort s c len kinds sr vr (onCore c g)) c len g :=
  issued_done_in_place h hk rfl (view_updCore _ c g) hg

/-- It jumps: the loops whose bodies the target lies outside have ended. -/
theorem jumps_jump {t : Nat} (h : issuable s c len sr vr = true) (hk : kinds = []) (he : f (noteIssue s c) = .jump s' t)
    (hv : view s' = (view (noteIssue s c)).upd c g) : Jumps s (issueShort s c len kinds sr vr f) c t g := by
  subst hk
  rw [issueShort_eq h, he]
  obtain ⟨n, hn, hview⟩ := view_countSteps s' c
  have hb : view (updCore (countSteps s' c) c (fun k => jumped k t)) =
      (view (noteIssue s c)).upd c (fun k => jumped (counted (g k) n) t) := by
    rw [view_updCore, hview, hv, View.upd_upd, View.upd_upd]
  exact ⟨⟨n, hn, getCore_of_view hb⟩, othersKept_of_noteIssue hb⟩

end

/-- The core after a fault: it stands, with the fault's word and offset, and its registers are as they were (R203). -/
theorem view_faultCore (s : Block) (c cls d off : Nat) : ∃ live, view (faultCore s c cls d off) = (view s).upd c (fun k => { k with
    run := .faulted, fault := faultWord cls d, faultOff := BitVec.ofNat 32 off, waiting := none, postWait := none, twait := none,
    endWait := false, gate := none, timed := none, asked := none, det := none, drains := [], live := live }) := by
  have hcore : getCore (countWait s c) c = getCore s c := congrFun (congrArg View.cores (view_countWait s c)) c
  refine ⟨if selecting (getCore s c) then [] else (getCore s c).live, ?_⟩
  unfold faultCore
  dsimp only
  rw [view_ite (s := setCore _ _ _) rfl (view_updCtx _ _ _ rfl), view_setCore, view_countWait, hcore]
  rfl

/-- A fault of core c at its pc. -/
theorem faulted_faultCore (s : Block) (c cls d : Nat) : Faulted s (faultCore s c cls d (getCore s c).pc) c cls d := by
  obtain ⟨live, hview⟩ := view_faultCore s c cls d (getCore s c).pc
  have hcore := getCore_of_view hview
  unfold Faulted
  dsimp only
  rw [hcore]
  exact ⟨rfl, rfl, rfl, rfl, rfl, rfl, rfl, rfl, rfl, rfl, rfl, othersKept_of_view hview⟩

section
variable {s : Block} {c len cls d n : Nat} {kinds sr sr' vr vr' : List Nat} {f : Block → Exec}

/-- It faults as it is carried out. -/
theorem faulted_fault (h : issuable s c len sr vr = true) (hk : kinds = []) (he : f (noteIssue s c) = .fault cls d) :
    Faulted s (issueShort s c len kinds sr vr f) c cls d := by
  subst hk
  rw [issueShort_eq h, he]
  exact faulted_faultCore s c cls d

/-- Its word is ILLEGAL (R176): of its kinds the first in the order of R176 is n, and it lies within CODE. -/
theorem faulted_illegal (h : issuable s c len sr vr = true) (hk : illegalKind kinds = some n) (hn : n ≠ 6) :
    Faulted s (issueShort s c len kinds sr' vr' f) c 1 (detail20 n (getCore s c).pc) := by
  obtain ⟨hcan, hgate, htimed, hcode, -⟩ := issuable_spec h
  have hdec : decodeFault s c len kinds = some (1, detail20 n (getCore s c).pc, (getCore s c).pc) := by
    unfold decodeFault
    simp only [if_neg (Nat.not_lt.2 hcode), List.append_nil, hk]
  unfold issueShort
  simp only [hcan, hgate, htimed, Bool.not_true, Bool.or_self, Bool.false_eq_true, if_false, List.append_nil, hdec]
  exact faulted_faultCore s c 1 _

end

/-- Where the words spell an instruction its command is its effect on the block. -/
theorem runs_of {c : CoreNo} {i : Instr} {s : State} {f : Block → Block} {Q : Block → Prop}
    (e : exec i s = onBlock (issueWord c i f) s) (q : Q (f s.block)) : Runs c i s Q := by
  intro hspell
  refine completes_block e ?_
  unfold issueWord
  rw [hspell]
  simpa using q

theorem Runs.mono {c : CoreNo} {i : Instr} {s : State} {Q Q' : Block → Prop} (h : Runs c i s Q) (hq : ∀ b, Q b → Q' b) : Runs c i s Q' := by
  intro hspell
  obtain ⟨t, ht, hp, hQ⟩ := h hspell
  exact ⟨t, ht, hp, hq _ hQ⟩

end Sys2Proof.Machine
end

section
/-! The scalar instructions, the address registers, the branches and the special registers (R170, R171, R177 to R181, R188, R189). -/
namespace Sys2Proof.Machine

/-- Settles O13: a read after a write to the same entry of a table gives what was written, and the accessors of S and P pass 0 by. -/
theorem fixedRegisters : Obligations.FixedRegisters := by
  intro k
  have hs : ∀ n v, n ≠ 0 → getS (setS k n v) n = v ∧ getP (setP k n v) n = v := by
    intro n v hn
    simp [getS, setS, getP, setP, hn]
  refine ⟨rfl, rfl, fun _ => ⟨rfl, rfl⟩, hs, ?_, ?_, ?_, ?_⟩
  · exact fun n v => tabGet_tabSet_same _ _ n v
  · exact fun n v => tabGet_tabSet_same _ _ n v
  · exact fun n v => tabGet_tabSet_same _ _ n v
  · exact fun n v => tabGet_tabSet_same _ _ n v

section
variable {s : Block} {c : CoreNo}

theorem issued_scalar2 {x : SR} {kinds : List Nat} (h : issuable s c 4 [x.sd.val, x.sa.val, x.sb.val] [] = true) (hk : kinds = [])
    (f : DWord → DWord → DWord) : Issued s (scalar2 s c x kinds f) c 4 (fun k => setS k x.sd.val (f (getS k x.sa.val) (getS k x.sb.val))) :=
  issued_onCore h hk (inPlace_setS _ _ _)

theorem issued_scalarI {x : SI} {kinds : List Nat} (h : issuable s c 4 [x.sd.val, x.sa.val] [] = true) (hk : kinds = [])
    (f : DWord → DWord) : Issued s (scalarI s c x kinds f) c 4 (fun k => setS k x.sd.val (f (getS k x.sa.val))) :=
  issued_onCore h hk (inPlace_setS _ _ _)

end

/-! Division (R178). -/

theorem divS_zero (a : DWord) : divS a 0 = BitVec.allOnes 64 := rfl
theorem divS_nonzero (a : DWord) {b : DWord} (h : b ≠ 0) : divS a b = BitVec.ofInt 64 (a.toInt.tdiv b.toInt) := if_neg h
theorem divS_intMin : divS (BitVec.intMin 64) (BitVec.allOnes 64) = BitVec.intMin 64 := by decide
theorem remS_zero (a : DWord) : remS a 0 = a := rfl
theorem remS_nonzero (a : DWord) {b : DWord} (h : b ≠ 0) : remS a b = BitVec.ofInt 64 (a.toInt.tmod b.toInt) := if_neg h
theorem remS_intMin : remS (BitVec.intMin 64) (BitVec.allOnes 64) = 0 := by decide
theorem divU_zero (a : DWord) : divU a 0 = BitVec.allOnes 64 := rfl
theorem divU_nonzero (a : DWord) {b : DWord} (h : b ≠ 0) : (divU a b).toNat = a.toNat / b.toNat := by
  rw [divU, if_neg h, BitVec.toNat_ofNat]
  exact Nat.mod_eq_of_lt (lt_of_le_of_lt (Nat.div_le_self _ _) a.isLt)
theorem remU_zero (a : DWord) : remU a 0 = a := rfl
theorem remU_nonzero (a : DWord) {b : DWord} (h : b ≠ 0) : (remU a b).toNat = a.toNat % b.toNat := by
  rw [remU, if_neg h, BitVec.toNat_ofNat]
  exact Nat.mod_eq_of_lt (lt_of_le_of_lt (Nat.mod_le _ _) a.isLt)

/-- A scalar instruction with two operands writes the value of its function at the operands it finds. -/
theorem scalar2_writes {s : State} {c : CoreNo} {x : SR} {i : Instr} (h : issuable s.block c 4 [x.sd.val, x.sa.val, x.sb.val] [] = true)
    (f : DWord → DWord → DWord) (e : exec i s = onBlock (issueWord c i (fun b => scalar2 b c x [] f)) s) :
    Runs c i s (fun b => Issued s.block b c 4 (fun k => setS k x.sd.val
      (f (getS (issuing s.block c) x.sa.val) (getS (issuing s.block c) x.sb.val)))) :=
  runs_of e (issued_scalar2 h rfl f)

/-- Settles O7: each of these instructions is `scalar2` of its function. -/
theorem scalarDivision : Obligations.ScalarDivision := by
  intro s c x h a b writes
  have does (i : Instr) (f : DWord → DWord → DWord) (p : DWord → Prop) (hp : p (f a b))
      (e : exec i s = onBlock (issueWord c i (fun b => scalar2 b c x [] f)) s) : writes i p := ⟨f a b, hp, scalar2_writes h f e⟩
  refine ⟨does _ divS _ ⟨?_, divS_nonzero a, ?_⟩ rfl, does _ remS _ ⟨?_, remS_nonzero a, ?_⟩ rfl, does _ divU _ ⟨?_, divU_nonzero a⟩ rfl,
    does _ remU _ ⟨?_, remU_nonzero a⟩ rfl, ?_⟩
  · intro hb
    rw [hb, divS_zero]
  · rintro ⟨ha, hb⟩
    rw [ha, hb, divS_intMin]
  · intro hb
    rw [hb, remS_zero]
  · rintro ⟨ha, hb⟩
    rw [ha, hb, remS_intMin]
  · intro hb
    rw [hb, divU_zero]
  · intro hb
    rw [hb, remU_zero]
  · have any (i : Instr) (f : DWord → DWord → DWord)
        (e : exec i s = onBlock (issueWord c i (fun b => scalar2 b c x [] f)) s) : writes i (fun _ => True) := does i f _ trivial e
    simp only [List.forall_mem_cons, List.not_mem_nil, false_imp_iff, implies_true, and_true]
    exact ⟨any _ _ rfl, any _ _ rfl, any _ _ rfl, any _ _ rfl, any _ _ rfl, any _ _ rfl, any _ _ rfl, any _ _ rfl, any _ _ rfl,
      any _ _ rfl, any _ _ rfl, any _ _ rfl, any _ _ rfl, any _ _ rfl, any _ _ rfl, any _ _ rfl, any _ _ rfl, any _ _ rfl,
      any _ _ rfl, any _ _ rfl, any _ _ rfl, any _ _ rfl⟩

/-! Immediate instructions (R179). -/

/-- The kinds of the word of SHIFTI (R179). -/
def shiftiKinds (x : SI) : List Nat := (if bvBits x.imm16 6 2 = 3 then [2] else []) ++ mustZero (bvBits x.imm16 8 8 == 0)

/-- What SHIFTI with imm16[7:6] = m writes (R179). -/
def shiftiTo (x : SI) (m : Nat) (a : DWord) : DWord :=
  let n := bvBits x.imm16 0 6
  if m = 0 then a <<< n else if m = 1 then a >>> n else a.sshiftRight n

/-- Settles O8: each of these instructions is `scalarI` of its function; LUI and SHIFTI have fields that must be zero. -/
theorem scalarImmediate : Obligations.ScalarImmediate := by
  intro s c x h does
  have does_of (i : Instr) (kinds : List Nat) (hk : kinds = []) (f : DWord → DWord)
      (e : exec i s = onBlock (issueWord c i (fun b => scalarI b c x kinds f)) s) : does i f := runs_of e (issued_scalarI h hk f)
  have faults (i : Instr) (kinds : List Nat) (n : Nat) (hk : illegalKind kinds = some n) (hn : n ≠ 6) (f : DWord → DWord)
      (e : exec i s = onBlock (issueWord c i (fun b => scalarI b c x kinds f)) s) :
      Runs c i s (fun b => Faulted s.block b c 1 (detail20 n (getCore s.block c).pc)) := runs_of e (faulted_illegal h hk hn)
  refine ⟨does_of (.addi c x) [] rfl (fun a => a + x.imm16.signExtend 64) rfl, does_of (.andi c x) [] rfl (fun a => a &&& x.imm16.zeroExtend 64) rfl,
    does_of (.ori c x) [] rfl (fun a => a ||| x.imm16.zeroExtend 64) rfl, does_of (.xori c x) [] rfl (fun a => a ^^^ x.imm16.zeroExtend 64) rfl,
    ?slti, ?lui, ?luiField, ?shifti, ?reserved, ?shiftiField⟩
  case slti =>
    have hslti := does_of (.slti c x) [] rfl (fun a => truth (decide (a.toInt < x.imm16.toInt))) rfl
    simpa only [truth, decide_eq_true_eq] using hslti
  case lui =>
    intro hsa
    exact does_of (.lui c x) (mustZero (x.sa.val == 0)) (by simp [hsa]) (fun _ => x.imm16.signExtend 64 <<< 16) rfl
  case luiField =>
    intro hsa
    exact faults (.lui c x) (mustZero (x.sa.val == 0)) 3 (by rw [beq_false_of_ne hsa]; rfl) (by decide)
      (fun _ => x.imm16.signExtend 64 <<< 16) rfl
  case shifti =>
    intro hfield
    have hshift (m : Nat) (hm : bvBits x.imm16 6 2 = m) (hne : m ≠ 3) : does (.shifti c x) (shiftiTo x m) :=
      hm ▸ does_of (.shifti c x) (shiftiKinds x) (by simp [shiftiKinds, hm, hne, hfield]) (shiftiTo x (bvBits x.imm16 6 2)) rfl
    exact ⟨fun hm => hshift 0 hm (by decide), fun hm => hshift 1 hm (by decide), fun hm => hshift 2 hm (by decide)⟩
  case reserved =>
    intro hm
    refine faults (.shifti c x) (shiftiKinds x) 2 ?_ (by decide) (shiftiTo x (bvBits x.imm16 6 2)) rfl
    rw [shiftiKinds, if_pos hm]
    cases bvBits x.imm16 8 8 == 0 <;> rfl
  case shiftiField =>
    intro hm hfield
    refine faults (.shifti c x) (shiftiKinds x) 3 ?_ (by decide) (shiftiTo x (bvBits x.imm16 6 2)) rfl
    rw [shiftiKinds, if_neg hm, beq_false_of_ne hfield]
    rfl

/-! Address registers (R181). -/

/-- The kinds of the word of ALSTEP (R181, R207). -/
def alstepKinds (s : Block) (c n : Nat) : List Nat := mustZero (decide (n < 4)) ++ k2 s c (n == 2 || n == 3)

/-- What ALSTEP k writes (R181). -/
def alstepTo (n : Nat) (r : AReg) (v : DWord) : AReg :=
  let w : Word := v.truncate 32
  match n with
  | 0 => { r with lstep0 := w }
  | 1 => { r with lstep1 := w }
  | 2 => { r with lstep2 := w }
  | _ => { r with lstep3 := w }

theorem alstepKinds_low (s : Block) (c : Nat) {n : Nat} (h : n < 2) : alstepKinds s c n = [] := by
  interval_cases n <;> rfl

theorem alstepKinds_level2 {s : Block} {c n : Nat} (h : n < 4) (hl : levelOf s (getCore s c) ≠ 1) : alstepKinds s c n = [] := by
  simp [alstepKinds, h, k2_of_level2 _ hl]

theorem alstepKinds_level1 {s : Block} {c n : Nat} (h : n = 2 ∨ n = 3) (hl : levelOf s (getCore s c) = 1) : alstepKinds s c n = [4] := by
  rcases h with rfl | rfl <;> exact k2_of_level1 hl

theorem alstepKinds_field (s : Block) (c : Nat) {n : Nat} (h : 4 ≤ n) : alstepKinds s c n = [3] := by
  have hlt : ¬n < 4 := by omega
  have h2 : (n == 2 || n == 3) = false := by simp; omega
  simp [alstepKinds, hlt, h2]

/-- Settles O9: the register that the instruction names is changed once no load is to step it; the fields are judged before. -/
theorem addressRegisters : Obligations.AddressRegisters := by
  intro s c x h does
  have does_of (i : Instr) (kinds : Block → List Nat) (hk : kinds s.block = []) (hsd : x.sd.val < 16)
      (hfree : baseBusy (getCore s.block c) x.sd.val = false) (f : AReg → DWord → AReg)
      (e : exec i s = onBlock (issueWord c i (fun b => aregOp b c x (kinds b) f)) s) : does i f := by
    refine runs_of e (issued_done_in_place (issuable_mono h (by simp) (by simp)) (by simp [hk, hsd]) (if_neg ?_) (view_updCore _ _ _)
      (inPlace_setA _ _ _))
    rw [getCore_noteIssue, baseBusy_issuing, hfree]
    decide
  have alstep (n : Nat) (hn : x.sb.val = n) (hk : alstepKinds s.block c x.sb.val = []) (hsd : x.sd.val < 16)
      (hfree : baseBusy (getCore s.block c) x.sd.val = false) : does (.alstep c x) (alstepTo n) :=
    hn ▸ does_of (.alstep c x) (fun b => alstepKinds b c x.sb.val) hk hsd hfree (alstepTo x.sb.val) rfl
  have alstep_faults (n : Nat) (hk : illegalKind (alstepKinds s.block c x.sb.val ++ mustZero (decide (x.sd.val < 16))) = some n) (hn : n ≠ 6) :
      Runs c (.alstep c x) s (fun b => Faulted s.block b c 1 (detail20 n (getCore s.block c).pc)) :=
    runs_of (f := fun b => aregOp b c x (alstepKinds b c x.sb.val) (alstepTo x.sb.val)) rfl (faulted_illegal h hk hn)
  refine ⟨fun hsd hsb hfree => ⟨?_, ?_, ?_, ?_⟩, ?_, ?_, ?_, ?_, ?_, ?aget⟩
  · exact does_of (.aset c x) (fun _ => mustZero (x.sb.val == 0)) (by simp [hsb]) hsd hfree (fun r v => { r with base := v }) rfl
  · exact does_of (.astride c x) (fun _ => mustZero (x.sb.val == 0)) (by simp [hsb]) hsd hfree (fun r v => { r with stride := v.truncate 32 }) rfl
  · exact does_of (.aadd c x) (fun _ => mustZero (x.sb.val == 0)) (by simp [hsb]) hsd hfree (fun r v => { r with base := r.base + v }) rfl
  · exact alstep 0 hsb (alstepKinds_low _ _ (by omega)) hsd hfree
  · exact fun hsd hsb hfree => alstep 1 hsb (alstepKinds_low _ _ (by omega)) hsd hfree
  · exact fun hsd hsb hl hfree => alstep 2 hsb (alstepKinds_level2 (by omega) hl) hsd hfree
  · exact fun hsd hsb hl hfree => alstep 3 hsb (alstepKinds_level2 (by omega) hl) hsd hfree
  · intro hsd hsb hl
    exact alstep_faults 4 (by rw [alstepKinds_level1 hsb hl, decide_eq_true hsd]; rfl) (by decide)
  · intro hsb
    refine alstep_faults 3 ?_ (by decide)
    rw [alstepKinds_field _ _ hsb]
    cases decide (x.sd.val < 16) <;> rfl
  case aget =>
    intro hsa hsb hfree
    refine runs_of (f := doAget c x) rfl (issued_done_in_place (issuable_mono h (by simp) (by simp)) (by simp [hsb, hsa]) (if_neg ?_)
      (view_updCore _ _ _) (inPlace_setS _ _ _))
    rw [getCore_noteIssue, baseBusy_issuing, hfree]
    decide

end Sys2Proof.Machine
end

section
/-! The branches and jumps (R188, R189). -/
namespace Sys2Proof.Machine

section
variable {s : Block} {c : Nat}

/-- A jump to an offset of CODE is taken (R189). -/
theorem jumpTo_inCode {t : Nat} (hal : t % 4 = 0) (hin : t < codeLen s (getCore s c)) :
    jumpTo (noteIssue s c) c t = .jump (noteIssue s c) t :=
  if_pos ⟨hal, by rwa [getCore_noteIssue, codeLen_noteIssue, codeLen_issuing]⟩

/-- One to any other offset faults as kind TARGET (R189). -/
theorem jumpTo_outside {t : Nat} (h : ¬(t % 4 = 0 ∧ t < codeLen s (getCore s c))) :
    jumpTo (noteIssue s c) c t = .fault 1 (detail20 6 t) :=
  if_neg (by rwa [getCore_noteIssue, codeLen_noteIssue, codeLen_issuing])

/-- A taken branch to an offset of CODE jumps (R188). -/
theorem takeBranch_inCode {off : BitVec 18} (hlo : 0 ≤ branchTarget (getCore s c).pc off)
    (hin : branchTarget (getCore s c).pc off < codeLen s (getCore s c)) (hal : branchTarget (getCore s c).pc off % 4 = 0) :
    takeBranch (noteIssue s c) c off = .jump (noteIssue s c) (branchTarget (getCore s c).pc off).toNat := by
  unfold takeBranch
  rw [getCore_noteIssue, issuing_pc, if_neg (not_lt.2 hlo)]
  exact jumpTo_inCode (by omega) (by omega)

end

/-- Settles O10: a branch decides on what its register holds, which issue leaves, and then jumps or goes on. -/
theorem branches : Obligations.Branches := by
  intro s c k
  constructor
  · intro x h t inCode v p does field
    have branch (i : Instr) (kinds sr : List Nat) (cond : Core → Bool) (hk : kinds = []) (hsr : sr ⊆ [x.sa.val])
        (hcond : cond (issuing s.block c) = cond k)
        (e : exec i s = onBlock (issueWord c i (fun b => issueShort b c 4 kinds sr [] (fun b =>
          if cond (getCore b c) then takeBranch b c x.off18 else .done b))) s) : does i (cond k) (fun k => k) := by
      have hissue := issuable_mono h hsr (List.Subset.refl [])
      refine ⟨fun hc => runs_of e ?_, fun hc hin => runs_of e ?_⟩
      · refine issued_done_in_place hissue hk (if_neg ?_) (View.upd_id _ _).symm (.refl _)
        rw [getCore_noteIssue, hcond, hc]
        decide
      · obtain ⟨hlo, hhi, hal⟩ := hin
        refine jumps_jump hissue hk ?_ (View.upd_id _ _).symm
        rw [getCore_noteIssue, hcond, if_pos hc]
        exact takeBranch_inCode hlo hhi hal
    have scalar (i : Instr) (cond : DWord → Bool) (e : exec i s = onBlock (issueWord c i (fun b => branchS b c x cond)) s) :
        does i (cond v) (fun k => k) :=
      branch i [] [x.sa.val] (fun k => cond (getS k x.sa.val)) rfl (List.Subset.refl _) (congrArg cond (getS_issuing _ _ _)) e
    have pred (hsa : x.sa.val < 8) (i : Instr) (cond : DWord → Bool)
        (e : exec i s = onBlock (issueWord c i (fun b => branchP b c x cond)) s) : does i (cond p) (fun k => k) :=
      branch i (mustZero (decide (x.sa.val < 8))) [] (fun k => cond (getP k x.sa.val)) (by simp [hsa]) (List.nil_subset _)
        (congrArg cond (getP_issuing _ _ _)) e
    refine ⟨scalar (.bz c x) (fun v => v == 0) rfl, scalar (.bnz c x) (fun v => v != 0) rfl,
      scalar (.bltz c x) (fun v => decide (v.toInt < 0)) rfl, scalar (.bgez c x) (fun v => decide (0 ≤ v.toInt)) rfl,
      fun hsa => ⟨pred hsa (.bany c x) (fun v => v != 0) rfl, pred hsa (.bnone c x) (fun v => v == 0) rfl⟩, ?field8, ?field0, ?always, ?call⟩
    case field8 =>
      intro hsa
      have hk : illegalKind (mustZero (decide (x.sa.val < 8))) = some 3 := by rw [decide_eq_false (not_lt.2 hsa)]; rfl
      exact ⟨runs_of (f := doBany c x) rfl (faulted_illegal h hk (by decide)), runs_of (f := doBnone c x) rfl (faulted_illegal h hk (by decide))⟩
    case field0 =>
      intro hsa
      have hk : illegalKind (mustZero (x.sa.val == 0)) = some 3 := by rw [beq_false_of_ne hsa]; rfl
      exact ⟨runs_of (f := doB c x) rfl (faulted_illegal h hk (by decide)), runs_of (f := doCall c x) rfl (faulted_illegal h hk (by decide))⟩
    case always =>
      intro hsa
      exact branch (.b c x) (mustZero (x.sa.val == 0)) [] (fun _ => true) (by simp [hsa]) (List.nil_subset _) rfl rfl
    case call =>
      intro hsa hload hlong
      refine ⟨fun hc => absurd hc (by decide), fun _ hin => runs_of (f := doCall c x) rfl ?_⟩
      obtain ⟨hlo, hhi, hal⟩ := hin
      have hissue : issuable s.block c 4 [31] [] = true := by
        refine issuable_of h hload (fun r hr h31 => ?_)
        rw [List.mem_singleton.1 h31] at hr
        rw [List.contains_iff_mem.2 hr] at hlong
        exact absurd hlong (by decide)
      refine jumps_jump hissue (by simp [hsa]) (s' := updCore (noteIssue s.block c) c _) ?_ (view_updCore _ _ _)
      rw [takeBranch_inCode hlo hhi hal]
      rfl
  · intro x h hsb t does
    have target : (getS (getCore (noteIssue s.block c) c) x.sa.val).toNat = t := congrArg BitVec.toNat (getS_issuing _ _ _)
    refine ⟨fun hsd => ⟨fun hal hin => ?_, fun hout => ?_⟩, fun hal hin => ?_, fun hout => ?_⟩
    · refine runs_of (f := doJr c x) rfl (jumps_jump (issuable_mono h (by simp) (by simp)) (by simp [hsd, hsb]) ?_ (View.upd_id _ _).symm)
      rw [target]
      exact jumpTo_inCode hal hin
    · refine runs_of (f := doJr c x) rfl (faulted_fault (issuable_mono h (by simp) (by simp)) (by simp [hsd, hsb]) ?_)
      rw [target]
      exact jumpTo_outside hout
    · refine runs_of (f := doJalr c x) rfl (jumps_jump h (by simp [hsb]) (s' := updCore (noteIssue s.block c) c _) ?_ (view_updCore _ _ _))
      rw [target, jumpTo_inCode hal hin]
    · refine runs_of (f := doJalr c x) rfl (faulted_fault h (by simp [hsb]) ?_)
      rw [target, jumpTo_outside hout]
      rfl

end Sys2Proof.Machine
end

section
/-! The instructions of major 0x01: the special registers, NOP, TRAP and QCAP (R171, R189, R204). -/
namespace Sys2Proof.Machine

/-! The values that MFS and QCAP read are those of before the issue. -/

theorem specialRead_noteIssue (s : Block) (c n : Nat) : specialRead (noteIssue s c) c n = specialRead s c n := by
  obtain ⟨l, hl⟩ := issuing_eq s c
  obtain ⟨i, hi⟩ := ctxOf_issuing s c
  have hnow : (noteIssue s c).now = s.now := by rw [noteIssue_eq]
  unfold specialRead
  dsimp only
  rw [getCore_noteIssue, hi, hnow, hl]
  rfl

theorem qcapItem_noteIssue (s : Block) (c n : Nat) : qcapItem (noteIssue s c) c n = qcapItem s c n := by
  obtain ⟨l, hl⟩ := issuing_eq s c
  obtain ⟨i, hi⟩ := ctxOf_issuing s c
  unfold qcapItem
  dsimp only
  rw [getCore_noteIssue, hi, slicesHeld_noteIssue, hl]
  rfl

/-- MFS reads nothing at a number that the table does not give (R171). -/
theorem specialRead_unlisted (s : Block) (c : Nat) {n : Nat} (h : n ∉ [0, 1, 2, 3, 4, 8, 9, 0xA, 0xB, 0x10, 0x11, 0x12, 0x13, 0x18]) :
    specialRead s c n = none := by
  unfold specialRead
  dsimp only
  split
  case h_15 => rfl
  all_goals exact absurd (by decide) h

/-- MTS writes nothing at a number that is reserved or read only (R171). -/
theorem specialWrite_unlisted (s : Block) (c : Nat) {n : Nat} (v : DWord) (h : n ∉ [9, 0x10, 0x11, 0x12, 0x13, 0x18]) :
    specialWrite s c n v = none := by
  unfold specialWrite
  dsimp only
  split
  case h_7 => rfl
  all_goals exact absurd (by decide) h

section
variable {s : State} {c : CoreNo} {x : SY} (h : issuable s.block c 4 [x.sd.val, x.sa.val] [] = true)
include h

theorem mfs_runs (hsa : x.sa.val = 0) {v : DWord} (hv : specialRead s.block c x.imm11.toNat = some v) :
    Runs c (.mfs c x) s (fun b => Issued s.block b c 4 (fun k => setS k x.sd.val v)) := by
  refine runs_of (f := doMfs c x) rfl ?_
  refine issued_done_in_place (f := fun t => .done (updCore t c (fun k => setS k x.sd.val ((specialRead t c x.imm11.toNat).getD 0))))
    (issuable_mono h (by simp) (by simp)) (by simp [hsa, hv]) rfl ?_ (inPlace_setS _ _ _)
  rw [view_updCore, specialRead_noteIssue, hv]
  rfl

theorem mfs_faults (hsa : x.sa.val = 0) (hv : specialRead s.block c x.imm11.toNat = none) :
    Runs c (.mfs c x) s (fun b => Faulted s.block b c 1 (detail20 5 (getCore s.block c).pc)) :=
  runs_of (f := doMfs c x) rfl (faulted_illegal h (by rw [hsa, hv]; rfl) (by decide))

/-- MTS with a number that it writes: f is what it does with the value; the loop counters may change, and with them where execution goes on. -/
theorem mts_runs {m : Nat} (hn : x.imm11.toNat = m) (hsd : x.sd.val = 0) (f : Core → DWord → Core)
    (hw : ∀ v, specialWrite (noteIssue s.block c) c m v = some (f (issuing s.block c) v))
    (hkind : (specialWrite s.block c m 0).isNone = false)
    (hplace : ∀ k v, (f k v).loops = k.loops ∧ (f k v).pc = k.pc ∧ (f k v).placed = k.placed)
    (hlc : ∀ k k' v, k.lc = k'.lc → (f k v).lc = (f k' v).lc)
    (hend : (loopEnd 4 (f (getCore s.block c) (getS (getCore s.block c) x.sa.val)) ((getCore s.block c).pc + 4)).2 <
      codeLen s.block (getCore s.block c)) :
    Runs c (.mts c x) s (fun b => Issued s.block b c 4 (fun k => f k (getS k x.sa.val))) := by
  subst hn
  refine runs_of (f := doMts c x) rfl ?_
  refine issued_done (f := fun t => .done (updCore t c (fun k => (specialWrite t c x.imm11.toNat (getS k x.sa.val)).getD k)))
    (issuable_mono h (by simp) (by simp)) (by rw [hsd, hkind]; rfl) rfl ?_ ?_
  · rw [view_updCore]
    refine View.upd_congr _ ?_
    rw [view_cores, getCore_noteIssue, hw, Option.getD_some]
  · obtain ⟨hloops, hpc, hplaced⟩ := hplace (issuing s.block c) (getS (getCore s.block c) x.sa.val)
    obtain ⟨hloops', -, -⟩ := hplace (getCore s.block c) (getS (getCore s.block c) x.sa.val)
    have hcode : codeLen s.block (f (issuing s.block c) (getS (getCore s.block c) x.sa.val)) = codeLen s.block (getCore s.block c) := by
      unfold codeLen ctxOf ctxNoOf
      rw [hplaced, issuing_placed]
    rw [getS_issuing, hcode, hpc, issuing_pc, loopEnd_pc 4 _ (f (getCore s.block c) (getS (getCore s.block c) x.sa.val)) _ ?_
      (hlc _ _ _ (issuing_lc _ _))]
    · exact hend
    · rw [hloops, issuing_loops, hloops']

theorem mts_faults (hsd : x.sd.val = 0) (hw : specialWrite s.block c x.imm11.toNat 0 = none) :
    Runs c (.mts c x) s (fun b => Faulted s.block b c 1 (detail20 5 (getCore s.block c).pc)) :=
  runs_of (f := doMts c x) rfl (faulted_illegal h (by rw [hsd, hw]; rfl) (by decide))

end

/-- Settles O14: MFS and MTS go through the table of R171, which issue does not change. -/
theorem specialRegisters : Obligations.SpecialRegisters := by
  intro s c x h k cx n reads writes
  have read (hsa : x.sa.val = 0) (m : Nat) (v : DWord) (hv : specialRead s.block c m = some v) : reads m v :=
    fun hn => mfs_runs h hsa ((congrArg (specialRead s.block c) hn).trans hv)
  have write (hsd : x.sd.val = 0) (m : Nat) (f : Core → DWord → Core)
      (hw : ∀ v, specialWrite (noteIssue s.block c) c m v = some (f (issuing s.block c) v)) (hkind : (specialWrite s.block c m 0).isNone = false)
      (hplace : ∀ k v, (f k v).loops = k.loops ∧ (f k v).pc = k.pc ∧ (f k v).placed = k.placed)
      (hlc : ∀ k k' v, k.lc = k'.lc → (f k v).lc = (f k' v).lc) : writes m (fun k => f k (getS k x.sa.val)) :=
    fun hn hend => mts_runs h hn hsd f hw hkind hplace hlc hend
  refine ⟨fun hsd hsa hn => ?nop, fun hsd hsa => ?trap, fun hsa => ?mfs, fun hsd => ?mts, ?qcap⟩
  case nop =>
    have himm : x.imm11 = 0 := BitVec.eq_of_toNat_eq hn
    exact runs_of (f := doNop c x) rfl (issued_onCore (issuable_mono h (by simp) (by simp)) (by simp [hsd, hsa, himm]) (.refl _))
  case trap =>
    exact runs_of (f := doTrap c x) rfl (faulted_fault (issuable_mono h (by simp) (by simp)) (by simp [hsd, hsa]) rfl)
  case mfs =>
    refine ⟨read hsa 0x000 _ rfl, read hsa 0x001 _ rfl, read hsa 0x002 _ rfl, read hsa 0x003 _ rfl, read hsa 0x004 _ rfl, read hsa 0x008 _ rfl,
      read hsa 0x009 _ rfl, read hsa 0x00A _ rfl, read hsa 0x00B _ rfl, read hsa 0x010 _ rfl, read hsa 0x011 _ rfl, read hsa 0x012 _ rfl,
      read hsa 0x013 _ rfl, fun hl => read hsa 0x018 _ (if_neg hl), fun hn => mfs_faults h hsa (specialRead_unlisted _ _ hn)⟩
  case mts =>
    have lc (i : Nat) (m : Nat) (hw : ∀ t v, specialWrite t c m v = some (setLC (getCore t c) i v)) :
        writes m (fun k => setLC k i (getS k x.sa.val)) :=
      write hsd m (fun k v => setLC k i v) (hw _) (by rw [hw]; rfl) (fun _ _ => ⟨rfl, rfl, rfl⟩) (fun _ _ v e => congrArg (tabSet · i v) e)
    refine ⟨write hsd 0x009 (fun k v => { k with fstat := v.truncate 16 &&& 0x3F }) (fun _ => rfl) rfl (fun _ _ => ⟨rfl, rfl, rfl⟩)
        (fun _ _ _ e => e),
      lc 0 0x010 (fun _ _ => rfl), lc 1 0x011 (fun _ _ => rfl), lc 2 0x012 (fun _ _ => rfl), lc 3 0x013 (fun _ _ => rfl), fun hl => ?mirage,
      fun hn => mts_faults h hsd (specialWrite_unlisted _ _ _ hn)⟩
    have hl' : levelOf (noteIssue s.block c) (getCore (noteIssue s.block c) c) ≠ 1 := by
      rwa [getCore_noteIssue, levelOf_noteIssue, levelOf_issuing]
    refine write hsd 0x018 (fun k v => { k with mirage := v &&& 0xF000FFFFFFFFFFFF }) (fun _ => if_neg hl') ?_
      (fun _ _ => ⟨rfl, rfl, rfl⟩) (fun _ _ _ e => e)
    have hsome : specialWrite s.block c 0x018 0 = some _ := if_neg hl
    rw [hsome]
    rfl
  case qcap =>
    refine runs_of (f := doQcap c x) rfl ?_
    refine issued_done_in_place (f := fun t => .done (updCore t c (fun k => setS k x.sd.val (BitVec.ofNat 64
      (qcapItem t c (getS k x.sa.val + x.imm11.zeroExtend 64).toNat))))) h rfl rfl ?_ (inPlace_setS _ _ _)
    simp only [qcapItem_noteIssue, view_updCore]

end Sys2Proof.Machine
end

section
/-! Lanes of vector registers, and the vector instructions (R183 to R185). -/
namespace Sys2Proof.Machine

/-! Fields of words: a field that is put in reads back, and the bits beside it stay. -/

theorem testBit_bvBits {w : Nat} (v : BitVec w) (lo n j : Nat) :
    (bvBits v lo n).testBit j = (decide (j < n) && v.getLsbD (lo + j)) := by
  rw [bvBits, natBits, Nat.testBit_mod_two_pow, Nat.testBit_div_two_pow, BitVec.getLsbD, Nat.add_comm]

/-- The bits of a number of n bits that stands at bit lo. -/
theorem testBit_mod_mul (x lo n j : Nat) : (x % 2 ^ n * 2 ^ lo).testBit j = (decide (lo ≤ j ∧ j < lo + n) && x.testBit (j - lo)) := by
  rw [Nat.testBit_mul_two_pow, Nat.testBit_mod_two_pow]
  by_cases hlo : lo ≤ j
  · by_cases hn : j < lo + n
    · have : j - lo < n := by omega
      simp [hlo, hn, this]
    · have : ¬j - lo < n := by omega
      simp [hn, this]
  · simp [hlo]

theorem getLsbD_bvPut {w : Nat} (v : BitVec w) (lo n x j : Nat) (hj : j < w) :
    (bvPut v lo n x).getLsbD j = if lo ≤ j ∧ j < lo + n then x.testBit (j - lo) else v.getLsbD j := by
  have hmask : ((2 ^ n - 1) * 2 ^ lo).testBit j = decide (lo ≤ j ∧ j < lo + n) := by
    have hones : 2 ^ n - 1 = (2 ^ n - 1) % 2 ^ n := (Nat.mod_eq_of_lt (by have := Nat.two_pow_pos n; omega)).symm
    rw [hones, testBit_mod_mul, Nat.testBit_two_pow_sub_one]
    by_cases h : lo ≤ j ∧ j < lo + n
    · simp [h]
      omega
    · simp [h]
  simp only [bvPut, BitVec.getLsbD_or, BitVec.getLsbD_and, BitVec.getLsbD_not, BitVec.getLsbD_ofNat, hj, decide_true, Bool.true_and, hmask,
    testBit_mod_mul]
  by_cases h : lo ≤ j ∧ j < lo + n <;> simp [h]

theorem bvBits_bvPut_same {w : Nat} (v : BitVec w) {lo n : Nat} (x : Nat) (h : lo + n ≤ w) :
    bvBits (bvPut v lo n x) lo n = x % 2 ^ n := by
  refine Nat.eq_of_testBit_eq fun j => ?_
  rw [testBit_bvBits, Nat.testBit_mod_two_pow]
  by_cases hj : j < n
  · rw [getLsbD_bvPut _ _ _ _ _ (by omega), if_pos (by omega), Nat.add_sub_cancel_left]
  · simp [hj]

theorem bvBits_bvPut_other {w : Nat} (v : BitVec w) {lo n lo' n' : Nat} (x : Nat) (h : lo' + n' ≤ w) (hd : lo' + n' ≤ lo ∨ lo + n ≤ lo') :
    bvBits (bvPut v lo n x) lo' n' = bvBits v lo' n' := by
  refine Nat.eq_of_testBit_eq fun j => ?_
  rw [testBit_bvBits, testBit_bvBits]
  by_cases hj : j < n'
  · rw [getLsbD_bvPut _ _ _ _ _ (by omega), if_neg (by omega)]
  · simp [hj]

/-! Writing lanes. -/

/-- Of lanes written one after another, each by a value of its own, every lane that is listed reads its value and the others are as they
were. -/
theorem laneOf_foldl_bvPut {w n : Nat} (g : Nat → Nat) (hn : w * n ≤ 1024) (l : List Nat) (hl : ∀ i ∈ l, i < n) (v : BitVec 1024) {i : Nat}
    (hi : i < n) : laneOf w (l.foldl (fun v i => bvPut v (w * i) w (g i)) v) i = if i ∈ l then g i % 2 ^ w else laneOf w v i := by
  have hfit : w * i + w ≤ 1024 := by
    have : w * (i + 1) ≤ w * n := Nat.mul_le_mul_left w hi
    rw [Nat.mul_add, Nat.mul_one] at this
    omega
  induction l generalizing v with
  | nil => rfl
  | cons a l ih =>
    rw [List.foldl_cons, ih (fun i h => hl i (List.mem_cons_of_mem _ h))]
    by_cases hmem : i ∈ l
    · rw [if_pos hmem, if_pos (List.mem_cons_of_mem _ hmem)]
    · rw [if_neg hmem]
      by_cases ha : i = a
      · subst ha
        rw [if_pos List.mem_cons_self]
        exact bvBits_bvPut_same v (g i) hfit
      · rw [if_neg (by simp [ha, hmem])]
        refine bvBits_bvPut_other v (g a) hfit ?_
        rcases Nat.lt_or_gt_of_ne ha with hlt | hlt
        · left
          have : w * (i + 1) ≤ w * a := Nat.mul_le_mul_left w hlt
          rwa [Nat.mul_add, Nat.mul_one] at this
        · right
          have : w * (a + 1) ≤ w * i := Nat.mul_le_mul_left w hlt
          rwa [Nat.mul_add, Nat.mul_one] at this

theorem mem_activeLanes (k : Core) (p n i : Nat) : i ∈ activeLanes k p n ↔ i < n ∧ (getP k p).getLsbD i = true := by
  simp [activeLanes]

/-- What a masked write puts into its register. -/
theorem getV_writeLanes (k : Core) (vd p w n : Nat) (f : Nat → Flagged Nat) :
    getV (writeLanes k vd p w n f) vd = (activeLanes k p n).foldl (fun v i => bvPut v (w * i) w (f i).val) (getV k vd) := by
  unfold writeLanes
  show getV (setV k vd _) vd = _
  rw [getV, setV, tabGet_tabSet_same, List.foldl_map]

theorem laneOf_writeLanes (k : Core) (vd p : Nat) {w n i : Nat} (f : Nat → Flagged Nat) (hn : w * n ≤ 1024) (hi : i < n) :
    laneOf w (getV (writeLanes k vd p w n f) vd) i = if (getP k p).getLsbD i then (f i).val % 2 ^ w else laneOf w (getV k vd) i := by
  rw [getV_writeLanes, laneOf_foldl_bvPut (fun i => (f i).val) hn _ (fun i h => ((mem_activeLanes k p n i).1 h).1) _ hi]
  simp only [mem_activeLanes, hi, true_and]

/-- Flags join. -/
theorem getLsbD_flags (l : List (Flagged Nat)) (a : BitVec 16) (j : Nat) :
    (l.foldl (fun a x => a ||| x.fl) a).getLsbD j = (a.getLsbD j || l.any (fun x => x.fl.getLsbD j)) := by
  induction l generalizing a with
  | nil => simp
  | cons x l ih => rw [List.foldl_cons, ih, BitVec.getLsbD_or, List.any_cons, Bool.or_assoc]

theorem fstat_writeLanes (k : Core) (vd p w n : Nat) (f : Nat → Flagged Nat) (j : Nat) :
    (writeLanes k vd p w n f).fstat.getLsbD j =
      (k.fstat.getLsbD j || (List.range n).any (fun i => (getP k p).getLsbD i && (f i).fl.getLsbD j)) := by
  show (k.fstat ||| flagsOf (((activeLanes k p n).map (fun i => (i, f i))).map (·.2))).getLsbD j = _
  rw [BitVec.getLsbD_or, flagsOf, getLsbD_flags, List.map_map, List.any_map, activeLanes, List.any_filter]
  simp

/-- Settles O21: the lanes that the predicate names are written one after another, and theirs alone are the flags. -/
theorem vectorMasking : Obligations.VectorMasking := by
  intro k vd p bf f w n r
  have hn : w * n ≤ 1024 := by cases bf <;> decide
  exact ⟨fun i hi => laneOf_writeLanes k vd p f hn hi, fstat_writeLanes k vd p w n f, rfl,
    fun o ho => tabGet_tabSet_other 0 k.v vd o _ ho⟩

end Sys2Proof.Machine
end

section
/-! The vector instructions that write lanes under a predicate (R183, R184, R207). -/
namespace Sys2Proof.Machine

theorem inPlace_writeLanes (k : Core) (vd p w n : Nat) (f : Nat → Flagged Nat) : InPlace k (writeLanes k vd p w n f) := ⟨rfl, rfl, rfl, rfl⟩

/-- An instruction whose word has no ILLEGAL kind and that writes lanes of Vd under its predicate. -/
theorem lanes_run {s : State} {c : CoreNo} {x : VV} {i : Instr} {sr sr' vr vr' : List Nat} (h : issuable s.block c 4 sr vr = true) (hsr : sr' ⊆ sr)
    (hvr : vr' ⊆ vr) (kinds : Block → List Nat) (hk : kinds s.block = []) (w n : Nat) (f : Core → Nat → Flagged Nat)
    (e : exec i s = onBlock (issueWord c i (fun b => issueShort b c 4 (kinds b) sr' vr' (onCore c (fun k =>
      writeLanes k x.vd.val x.pred.val w n (f k))))) s) :
    Runs c i s (fun b => Issued s.block b c 4 (fun k => writeLanes k x.vd.val x.pred.val w n (f k))) :=
  runs_of e (issued_onCore (issuable_mono h hsr hvr) hk (inPlace_writeLanes _ _ _ _ _ _))

/-- A vector word has no ILLEGAL kind where its type is one of the function's, its level one of the core's, and its unused field zero. -/
theorem vKinds_nil {s : Block} {c : Nat} {x : VV} {k2Fn typeOk vbUsed : Bool}
    (hl : (x.bf16 = false ∧ k2Fn = false) ∨ levelOf s (getCore s c) ≠ 1) (ht : typeOk = true) (hvb : vbUsed = true ∨ x.vb.val = 0) :
    vKinds s c x k2Fn typeOk vbUsed = [] := by
  have hk2 : k2 s c (x.bf16 || k2Fn) = [] := by
    rcases hl with ⟨hb, hf⟩ | hl
    · rw [hb, hf]
      rfl
    · exact k2_of_level2 _ hl
  have hz : (vbUsed || x.vb.val == 0) = true := by
    rcases hvb with hvb | hvb <;> simp [hvb]
  rw [vKinds, hk2, ht, hz]
  rfl

/-! The functions of lanes, said of both types at once. -/

theorem signBit_laneF (bf : Bool) : signBit (laneF bf) = 2 ^ (laneW bf - 1) := by
  cases bf <;> rfl

theorem signedOf_eq_toInt (n v : Nat) (hn : 0 < n) : signedOf n v = (BitVec.ofNat n v).toInt := by
  have hpow : 2 ^ n = 2 * 2 ^ (n - 1) :=  (mul_pow_sub_one hn.ne' 2).symm
  rw [BitVec.toInt_eq_toNat_cond, BitVec.toNat_ofNat, signedOf]
  by_cases h : v % 2 ^ n < 2 ^ (n - 1)
  · rw [if_pos h, if_pos (by omega)]
  · rw [if_neg h, if_neg (by omega)]

/-- Settles O22: each instruction writes lanes through `writeLanes`, with the model's function of its lanes. -/
theorem vectorArithmetic : Obligations.VectorArithmetic := by
  constructor
  · intro s c x h w n ff lane fp int
    have fp_of (hl : x.bf16 = false ∨ levelOf s.block (getCore s.block c) ≠ 1) (i : Instr) (f : Core → Nat → Flagged Nat)
        (e : exec i s = onBlock (issueWord c i (fun b => issueShort b c 4 (vKinds b c x false true true) [] [x.vd.val, x.va.val, x.vb.val]
          (onCore c (fun k => writeLanes k x.vd.val x.pred.val w n (f k))))) s) : fp i f :=
      lanes_run h (List.Subset.refl _) (List.Subset.refl _) _ (vKinds_nil (hl.imp_left (⟨·, rfl⟩)) rfl (.inl rfl)) w n f e
    have int_of (hb : x.bf16 = false) (i : Instr) (f : Word → Word → Word) (e : exec i s = onBlock (issueWord c i (fun b => vecI2 b c x f)) s) : int i f :=
      lanes_run h (List.Subset.refl _) (List.Subset.refl _) _ (vKinds_nil (.inl ⟨hb, rfl⟩) (by rw [hb]; rfl) (.inl rfl)) 32 32 _ e
    refine ⟨fun hl => ⟨?_, ?_, ?_, ?_, ?_, ?_⟩, fun hb => ⟨?_, ?_, ?_, ?_, ?_, ?_, ?_, ?_⟩⟩
    · exact fp_of hl (.vadd c x) (fun k i => fadd ff (lane k x.va.val i) (lane k x.vb.val i)) rfl
    · exact fp_of hl (.vsub c x) (fun k i => fsub ff (lane k x.va.val i) (lane k x.vb.val i)) rfl
    · exact fp_of hl (.vmul c x) (fun k i => fmul ff (lane k x.va.val i) (lane k x.vb.val i)) rfl
    · exact fp_of hl (.vmin c x) (fun k i => ⟨fmin ff (lane k x.va.val i) (lane k x.vb.val i), 0⟩) rfl
    · exact fp_of hl (.vmax c x) (fun k i => ⟨fmax ff (lane k x.va.val i) (lane k x.vb.val i), 0⟩) rfl
    · exact fp_of hl (.vfma c x) (fun k i => ffma ff (lane k x.va.val i) (lane k x.vb.val i) (lane k x.vd.val i)) rfl
    · exact int_of hb (.viadd c x) (fun a b => a + b) rfl
    · exact int_of hb (.visub c x) (fun a b => a - b) rfl
    · exact int_of hb (.vimul c x) (fun a b => a * b) rfl
    · exact int_of hb (.vand c x) (fun a b => a &&& b) rfl
    · exact int_of hb (.vor c x) (fun a b => a ||| b) rfl
    · exact int_of hb (.vxor c x) (fun a b => a ^^^ b) rfl
    · exact int_of hb (.vshl c x) (fun a b => a <<< (b.toNat % 32)) rfl
    · exact int_of hb (.vshr c x) (fun a b => a >>> (b.toNat % 32)) rfl
  · intro s c x h w n sign lane does trans level2
    have hvr : [x.vd.val, x.va.val] ⊆ [x.vd.val, x.va.val, x.vb.val] := by simp
    have vec1_of (k2Fn : Bool) (hvb : x.vb.val = 0) (hl : (x.bf16 = false ∧ k2Fn = false) ∨ level2) (i : Instr) (f : FFmt → Nat → Flagged Nat)
        (g : Core → Nat → Flagged Nat) (hfg : ∀ k i, f (laneF x.bf16) (lane k i) = g k i)
        (e : exec i s = onBlock (issueWord c i (fun b => vec1 b c x k2Fn f)) s) : does i w n g := by
      have hrun : does i w n (fun k i => f (laneF x.bf16) (lane k i)) :=
        lanes_run h (List.Subset.refl _) hvr (fun b => vKinds b c x k2Fn true false) (vKinds_nil hl rfl (.inr hvb)) w n _ e
      rwa [funext fun k => funext (hfg k)] at hrun
    have trans_eq (g : Nat → Flagged Nat) (a : Nat) : transc g (laneF x.bf16) a = trans g a := by
      show _ = if x.bf16 then _ else _
      cases x.bf16 <;> rfl
    refine ⟨fun hvb hl => ?_, fun hvb hb => ?_, fun hb hl => ?_⟩
    · have hl' : (x.bf16 = false ∧ false = false) ∨ level2 := hl.imp_left (⟨·, rfl⟩)
      have hsign : signBit (laneF x.bf16) = sign := signBit_laneF x.bf16
      refine ⟨?_, ?_, ?_, ?_, ?_, ?_, fun hl2 => ?_⟩
      · exact vec1_of false hvb hl' (.vabs c x) (fun f a => plain (a % signBit f)) _ (fun k i => by rw [hsign]; rfl) rfl
      · exact vec1_of false hvb hl' (.vneg c x) (fun f a => plain (if signBit f ≤ a then a - signBit f else a + signBit f)) _
          (fun k i => by rw [hsign]; rfl) rfl
      · exact vec1_of false hvb hl' (.vrcp c x) (transc frcp) _ (fun k i => trans_eq _ _) rfl
      · exact vec1_of false hvb hl' (.vrsq c x) (transc frsq) _ (fun k i => trans_eq _ _) rfl
      · exact vec1_of false hvb hl' (.vexp2 c x) (transc fexp2) _ (fun k i => trans_eq _ _) rfl
      · exact vec1_of false hvb hl' (.vlog2 c x) (transc flog2) _ (fun k i => trans_eq _ _) rfl
      · exact vec1_of true hvb (.inr hl2) (.vtanh c x) (transc ftanh) _ (fun k i => trans_eq _ _) rfl
    · have vecI1_of (i : Instr) (f : Nat → Flagged Nat) (g : Core → Nat → Flagged Nat)
          (hfg : ∀ k i, f (laneOf 32 (getV k x.va.val) i) = g k i) (e : exec i s = onBlock (issueWord c i (fun b => vecI1 b c x f)) s) :
          does i 32 32 g := by
        have hrun : does i 32 32 (fun k i => f (laneOf 32 (getV k x.va.val) i)) :=
          lanes_run h (List.Subset.refl _) hvr (fun b => vKinds b c x false (!x.bf16) false)
            (vKinds_nil (.inl ⟨hb, rfl⟩) (by rw [hb]; rfl) (.inr hvb)) 32 32 _ e
        rwa [funext fun k => funext (hfg k)] at hrun
      have hlane (k : Core) (i : Nat) : lane k i = laneOf 32 (getV k x.va.val) i := by
        show laneOf (if x.bf16 then 16 else 32) _ _ = _
        rw [hb]
        rfl
      constructor
      · exact vecI1_of (.vcvtif c x) (fun a => fofInt .fp32 (signedOf 32 a)) _
          (fun k i => by rw [hlane, signedOf_eq_toInt 32 _ (by decide)]) rfl
      · exact vecI1_of (.vcvtfi c x) (fun a => let r := ftoS32 a; ⟨narrowInt 32 r.val, r.fl⟩) _
          (fun k i => by rw [hlane]; rfl) rfl
    · have hk : k2 s.block c true ++ mustZero x.bf16 = [] := by rw [k2_of_level2 _ hl, hb]; rfl
      have widen_of (hvb : x.vb.val = 0) (i : Instr) (first : Nat) (e : exec i s = onBlock (issueWord c i (fun b => widen b c x first)) s) :
          does i 32 32 (fun k i => fconvertIn .bf16 .fp32 (laneOf 16 (getV k x.va.val) (first + i))) :=
        lanes_run h (List.Subset.refl _) hvr (fun b => k2 b c true ++ mustZero x.bf16 ++ mustZero (x.vb.val == 0)) (by rw [hk, hvb]; rfl) 32 32 _ e
      refine ⟨?_, fun hvb => ⟨?_, ?_⟩⟩
      · exact lanes_run h (List.Subset.refl _) (List.Subset.refl _) (fun b => k2 b c true ++ mustZero x.bf16) hk 16 64 _ rfl
      · simpa only [Nat.zero_add] using widen_of hvb (.vwidenl c x) 0 rfl
      · exact widen_of hvb (.vwidenh c x) 32 rfl

end Sys2Proof.Machine
end

section
/-! VSEL, the reductions, VBCAST, VEXTR and VCMP (R183 to R185). -/
namespace Sys2Proof.Machine

theorem laneOf_mod (w : Nat) (v : BitVec 1024) (i : Nat) : laneOf w v i % 2 ^ w = laneOf w v i := Nat.mod_mod _ _

/-! The tree of R83 over leaves none of which takes part. -/

theorem treeLevel_none {α : Type} (f : α → α → α) : ∀ l : List (Option α), (∀ a ∈ l, a = none) → ∀ a ∈ treeLevel f l, a = none
  | [], h => h
  | [_], h => h
  | a :: b :: r, h => by
    have ha := h a (by simp)
    have hb := h b (by simp)
    subst ha hb
    intro o ho
    rcases List.mem_cons.1 ho with rfl | ho
    · rfl
    · exact treeLevel_none f r (fun a ha => h a (by simp [ha])) o ho

theorem treeFold_none {α : Type} (f : α → α → α) (n : Nat) (l : List (Option α)) (h : ∀ a ∈ l, a = none) : treeFold f n l = none := by
  induction n generalizing l with
  | zero =>
    cases l with
    | nil => rfl
    | cons a l => exact h a List.mem_cons_self
  | succ n ih => exact ih _ (treeLevel_none f l h)

@[simp] theorem addFlags_zero (k : Core) : addFlags k 0#16 = k := by simp [addFlags]

/-- The sum of the active lanes of Va by the tree of R83 in FP32, and its flags: what VRSUM rounds to the type of its lanes. -/
def laneSum (k : Core) (x : VV) : Flagged Nat :=
  (treeFold (fun a b : Flagged Nat => ⟨(fadd .fp32 a.val b.val).val, a.fl ||| b.fl ||| (fadd .fp32 a.val b.val).fl⟩) 6
    ((List.range (laneN x.bf16)).map (fun i => if (getP k x.pred.val).getLsbD i then
      some (plain (fwiden (laneF x.bf16) (laneOf (laneW x.bf16) (getV k x.va.val) i))) else none))).getD (plain 0)

/-- The maximum of the active lanes of Va by the tree of R83. -/
def laneTop (k : Core) (x : VV) : Nat :=
  (treeFold (fmax (laneF x.bf16)) 6 ((List.range (laneN x.bf16)).map (fun i => if (getP k x.pred.val).getLsbD i then
    some (laneOf (laneW x.bf16) (getV k x.va.val) i) else none))).getD ((laneF x.bf16).inf true)

section
variable {k : Core} {x : VV} (hnone : ∀ i, i < laneN x.bf16 → (getP k x.pred.val).getLsbD i = false)
include hnone

theorem leaves_none {α : Type} (f : Nat → α) :
    ∀ a ∈ (List.range (laneN x.bf16)).map (fun i => if (getP k x.pred.val).getLsbD i then some (f i) else none), a = none := by
  intro a ha
  obtain ⟨i, hi, rfl⟩ := List.mem_map.1 ha
  rw [hnone i (List.mem_range.1 hi)]
  rfl

theorem laneSum_none : laneSum k x = ⟨0, 0⟩ := by
  rw [laneSum, treeFold_none _ _ _ (leaves_none hnone _)]
  rfl

theorem laneTop_none : laneTop k x = (laneF x.bf16).inf true := by
  rw [laneTop, treeFold_none _ _ _ (leaves_none hnone _)]
  rfl

end

/-- Minus infinity is no NaN, and zero rounds to zero. -/
theorem fisNan_inf (bf : Bool) : fisNan (laneF bf) ((laneF bf).inf true) = false := by
  cases bf <;> decide
theorem fconvert_zero : fconvert .fp32 .bf16 0 = ⟨0, 0⟩ := by decide

section
variable {s : State} {c : CoreNo} {x : VV} (h : issuable s.block c 4 [] [x.vd.val, x.va.val] = true)
  (hk : vKinds s.block c x false true false = [])
include h hk

theorem vrsum_runs : Runs c (.vrsum c x) s (fun b => Issued s.block b c 4 (fun k =>
    let q := if x.bf16 then fconvert .fp32 .bf16 (laneSum k x).val else plain (laneSum k x).val
    addFlags (setV k x.vd.val (BitVec.ofNat 1024 q.val)) ((laneSum k x).fl ||| q.fl))) :=
  runs_of (f := doVrsum c x) rfl (issued_onCore h hk ((inPlace_setV _ _ _).trans (inPlace_addFlags _ _)))

theorem vrmax_runs : Runs c (.vrmax c x) s (fun b => Issued s.block b c 4 (fun k =>
    setV k x.vd.val (BitVec.ofNat 1024 (if fisNan (laneF x.bf16) (laneTop k x) then (laneF x.bf16).nan else laneTop k x)))) :=
  runs_of (f := doVrmax c x) rfl (issued_onCore h hk (inPlace_setV _ _ _))

end

/-! The bits of a comparison. -/

/-- The predicate that VCMP writes (R183). -/
def vcmpBits (k : Core) (fn : Nat) (x : VV) : DWord :=
  ((activeLanes k x.pred.val (laneN x.bf16)).filter (fun i => vcmpLane (laneF x.bf16) fn
    (laneOf (laneW x.bf16) (getV k x.va.val) i) (laneOf (laneW x.bf16) (getV k x.vb.val) i))).foldl
      (fun v i => v ||| BitVec.ofNat 64 (2 ^ i)) 0

theorem getLsbD_foldl_bit (l : List Nat) (v : DWord) {j : Nat} (hj : j < 64) :
    (l.foldl (fun v i => v ||| BitVec.ofNat 64 (2 ^ i)) v).getLsbD j = (v.getLsbD j || decide (j ∈ l)) := by
  induction l generalizing v with
  | nil => simp
  | cons i l ih =>
    rw [List.foldl_cons, ih, BitVec.getLsbD_or, BitVec.getLsbD_ofNat, Nat.testBit_two_pow]
    simp only [hj, decide_true, Bool.true_and, List.mem_cons, Bool.or_assoc, Bool.decide_or, eq_comm (a := j)]

theorem getLsbD_vcmpBits (k : Core) (fn : Nat) (x : VV) {i : Nat} (hi : i < 64) : (vcmpBits k fn x).getLsbD i =
    (decide (i < laneN x.bf16) && (getP k x.pred.val).getLsbD i && vcmpLane (laneF x.bf16) fn
      (laneOf (laneW x.bf16) (getV k x.va.val) i) (laneOf (laneW x.bf16) (getV k x.vb.val) i)) := by
  rw [vcmpBits, getLsbD_foldl_bit _ _ hi]
  simp only [List.mem_filter, mem_activeLanes]
  simp

/-- Settles O23: VSEL and VCMP by the lanes and bits they put together, the reductions by the tree of R83. -/
theorem vectorSelects : Obligations.VectorSelects := by
  intro s c x hl w n ff pre act
  have hl' : (x.bf16 = false ∧ false = false) ∨ levelOf s.block (getCore s.block c) ≠ 1 := hl.imp_left (⟨·, rfl⟩)
  have hn : w * n ≤ 1024 := by
    show (if x.bf16 then 16 else 32) * (if x.bf16 then 64 else 32) ≤ 1024
    cases x.bf16 <;> decide
  refine ⟨fun h => ⟨?vsel, fun hvb => ?reduce, fun hvb hnone => ?empty⟩, fun h hvb => ?vbcast, fun h hpred => ?vextr, fun h hvd fn hfn => ?vcmp⟩
  case vsel =>
    let g (i : Nat) : Nat := laneOf w (if act i then getV pre x.va.val else getV pre x.vb.val) i
    refine ⟨(List.range n).foldl (fun v i => bvPut v (w * i) w (g i)) 0, fun i hi => ?_, ?_⟩
    · rw [laneOf_foldl_bvPut g hn _ (fun i h => List.mem_range.1 h) 0 hi, if_pos (List.mem_range.2 hi), laneOf_mod]
      show laneOf w (if act i then _ else _) i = laneOf w (getV pre (if act i then _ else _)) i
      cases act i <;> rfl
    · exact runs_of (f := doVsel c x) rfl (issued_congr rfl (issued_onCore h (vKinds_nil hl' rfl (.inl rfl)) (inPlace_setV _ _ _)))
  case reduce =>
    intro lane add sum top
    have h' : issuable s.block c 4 [] [x.vd.val, x.va.val] = true := issuable_mono h (List.Subset.refl _) (by simp)
    have hk : vKinds s.block c x false true false = [] := vKinds_nil hl' rfl (.inr hvb)
    have hsum : laneSum pre x = sum := rfl
    refine ⟨fun hb => (vrsum_runs h' hk).mono fun b => issued_congr ?_, fun hb => (vrsum_runs h' hk).mono fun b => issued_congr ?_,
      (vrmax_runs h' hk).mono fun b => issued_congr rfl⟩
    · simp [hb, pre, hsum, plain]
    · simp [hb, pre, hsum]
  case empty =>
    have h' : issuable s.block c 4 [] [x.vd.val, x.va.val] = true := issuable_mono h (List.Subset.refl _) (by simp)
    have hk : vKinds s.block c x false true false = [] := vKinds_nil hl' rfl (.inr hvb)
    refine ⟨(vrsum_runs h' hk).mono fun b => issued_congr ?_, (vrmax_runs h' hk).mono fun b => issued_congr ?_⟩
    · have hsum : laneSum pre x = ⟨0, 0⟩ := laneSum_none hnone
      simp [pre, hsum, plain, fconvert_zero]
    · have htop : laneTop pre x = (laneF x.bf16).inf true := laneTop_none hnone
      show setV pre _ (BitVec.ofNat 1024 (if fisNan (laneF x.bf16) (laneTop pre x) then _ else laneTop pre x)) = _
      rw [htop, fisNan_inf]
      rfl
  case vbcast =>
    exact lanes_run h (List.Subset.refl _) (List.Subset.refl _) (fun b => vKinds b c x false true false) (vKinds_nil hl' rfl (.inr hvb)) w n
      (fun k _ => ⟨(getS k x.va.val).toNat % 2 ^ w, 0⟩) rfl
  case vextr =>
    exact runs_of (f := doVextr c x) rfl (issued_onCore h (by rw [vKinds_nil hl' rfl (.inl rfl), hpred]; rfl) (inPlace_setS _ _ _))
  case vcmp =>
    intro holds
    have hkinds : vKinds s.block c x false (decide (fn.val < 4) || !x.bf16) true ++ mustZero (decide (x.vd.val < 8)) = [] := by
      rw [vKinds_nil hl' _ (.inl rfl), decide_eq_true hvd]
      · rfl
      · rcases hfn with hfn | hfn <;> simp [hfn]
    refine ⟨vcmpBits pre fn.val x, fun i hi => ?_,
      runs_of (f := doVcmp c fn x) rfl (issued_congr rfl (issued_onCore h hkinds (inPlace_setP _ _ _)))⟩
    have hholds : holds i = vcmpLane ff fn.val (laneOf w (getV pre x.va.val) i) (laneOf w (getV pre x.vb.val) i) := by
      obtain ⟨fn, hfn⟩ := fn
      interval_cases fn
      on_goal 6 =>
        show decide _ = decide (signedOf 32 _ < signedOf 32 _)
        rw [signedOf_eq_toInt 32 _ (by decide), signedOf_eq_toInt 32 _ (by decide)]
      all_goals rfl
    rw [hholds]
    exact getLsbD_vcmpBits pre fn.val x hi

end Sys2Proof.Machine
end

section
/-! Accesses of cores to memory: where they go, whether they wait, and loads (R76, R77, R180, R196, R562, R565, R675). -/
namespace Sys2Proof.Machine

/-! Issue leaves where an access goes and whether it waits. -/

theorem locate_noteIssue (s : Block) (c a : Nat) : locate (noteIssue s c) c a = locate s c a := by
  obtain ⟨l, hl⟩ := issuing_eq s c
  obtain ⟨i, hi⟩ := ctxOf_issuing s c
  unfold locate
  dsimp only
  rw [getCore_noteIssue, hi, slicesHeld_noteIssue, hl]
  rfl

theorem locateAll_noteIssue (s : Block) (c a n : Nat) : locateAll (noteIssue s c) c a n = locateAll s c a n := by
  induction n generalizing a with
  | zero => rfl
  | succ n ih => rw [locateAll, locateAll, locate_noteIssue, ih]

@[simp] theorem judge_noteIssue (s : Block) (c a n align : Nat) : judge (noteIssue s c) c a n align = judge s c a n align := by
  unfold judge
  rw [locateAll_noteIssue]

@[simp] theorem judgeAll_noteIssue (s : Block) (c n align : Nat) (as : List Nat) :
    judgeAll (noteIssue s c) c n align as = judgeAll s c n align as := by
  induction as with
  | nil => rfl
  | cons a as ih => rw [judgeAll, judgeAll, judge_noteIssue, ih]

@[simp] theorem accessWaits_noteIssue (s : Block) (c : Nat) (e : Nat × Nat) (st : Bool) :
    accessWaits (noteIssue s c) c e st = accessWaits s c e st := by
  obtain ⟨l, hl⟩ := issuing_eq s c
  obtain ⟨i, hi⟩ := ctxOf_issuing s c
  unfold accessWaits remoteHere localCopies
  dsimp only
  rw [getCore_noteIssue, hi, hl]
  rfl

@[simp] theorem maAddr_issuing (s : Block) (c : Nat) (x : MA) (w : Nat) : maAddr (issuing s c) x w = maAddr (getCore s c) x w := by
  unfold maAddr
  rw [getA_issuing, getS_issuing]

/-- A byte reads alike in blocks that are seen alike, whatever their cores hold beside their local stores. -/
theorem readLoc_congr {s t : Block} {c : Nat} (hls : (getCore t c).ls = (getCore s c).ls) (hcs : t.cs = s.cs) (hdm : t.dm = s.dm) (p : Loc) :
    readLoc t c p = readLoc s c p := by
  cases p with
  | ls a => exact congrArg (memGet 0 · a) hls
  | cs a => exact congrArg (fun m => memGet 0 (tabGet [] m (cluOfCore c)) a) hcs
  | dm a => exact congrArg (memGet 0 · a) hdm

@[simp] theorem readLoc_noteIssue (s : Block) (c : Nat) : readLoc (noteIssue s c) c = readLoc s c :=
  funext (readLoc_congr (issuing_ls s c) (by rw [noteIssue_eq]) (by rw [noteIssue_eq]))

@[simp] theorem lineSyms_noteIssue (s : Block) (c line : Nat) : lineSyms (noteIssue s c) line = lineSyms s line := by
  rw [noteIssue_eq]
  rfl

/-! Reading SRAM words: the answer is the first word with two bits in error (R565). -/

/-- The byte address of a word that does not decode. -/
def badWord (err : Tab Nat) (base w : Nat) : Option Nat := if 2 ≤ tabGet 0 err (base + w) then some (w * 8) else none

/-- The number of the first word of a store, by kind. -/
def storeBase (kind unit : Nat) : Nat := if kind = 1 then wordLs unit 0 else wordCs unit 0

theorem sramErr_raiseIrq (s : Block) (p bit : Nat) : (raiseIrq s p bit).sramErr = s.sramErr := by
  have h : (besideTold (raiseIrq s p bit)).sramErr = (besideTold s).sramErr := by rw [besideTold_raiseIrq]
  exact h

/-- A fold of readings that keep the errors that stand, each with an answer of its own: the first answer counts. -/
theorem foldl_readings {f : Block × Option Nat → Nat → Block × Option Nat} {err : Tab Nat} {g : Nat → Option Nat}
    (hf : ∀ t bad w, t.sramErr = err → (f (t, bad) w).1.sramErr = err ∧ (f (t, bad) w).2 = bad.or (g w)) (words : List Nat) :
    ∀ t bad, t.sramErr = err → (words.foldl f (t, bad)).1.sramErr = err ∧ (words.foldl f (t, bad)).2 = bad.or (words.findSome? g) := by
  induction words with
  | nil => exact fun t bad ht => ⟨ht, (Option.or_none).symm⟩
  | cons w ws ih =>
    intro t bad ht
    obtain ⟨herr, hans⟩ := hf t bad w ht
    obtain ⟨herr', hans'⟩ := ih (f (t, bad) w).1 (f (t, bad) w).2 herr
    refine ⟨herr', hans'.trans ?_⟩
    rw [hans, Option.or_assoc, List.findSome?_cons]
    cases g w <;> rfl

theorem sramRead_answer (s : Block) (kind unit : Nat) (words : List Nat) : (sramRead s kind unit words).1.sramErr = s.sramErr ∧
    (sramRead s kind unit words).2 = words.findSome? (badWord s.sramErr (storeBase kind unit)) := by
  refine foldl_readings (fun t bad w ht => ?_) words s none rfl
  have hbase : (if kind = 1 then wordLs unit 0 else wordCs unit 0) = storeBase kind unit := rfl
  simp only [hbase, badWord, ht]
  by_cases h0 : tabGet 0 s.sramErr (storeBase kind unit + w) = 0
  · simp [h0, ht]
  · by_cases h1 : tabGet 0 s.sramErr (storeBase kind unit + w) = 1
    · simp [h1, ht]
    · have h2 : 2 ≤ tabGet 0 s.sramErr (storeBase kind unit + w) := by omega
      simp only [h0, h1, h2, if_true, if_false, sramErr_raiseIrq]
      exact ⟨ht, trivial⟩

theorem sramErr_contend (s : Block) (p i : Nat) (b : Bool) : (contend s p i b).sramErr = s.sramErr := by
  unfold contend
  split <;> rfl

theorem sramErr_countClu (s : Block) (g i n : Nat) : (countClu s g i n).sramErr = s.sramErr := by
  unfold countClu
  split
  · rfl
  · exact sramErr_contend _ _ _ _

theorem sramErr_usePort (s : Block) (c : Nat) (l : List Loc) : (usePort s c l).sramErr = s.sramErr := by
  unfold usePort
  dsimp only
  split <;> split
  · rfl
  · exact sramErr_contend _ _ _ _
  · rfl
  · exact sramErr_contend _ _ _ _

/-- Whether the words of an access decode depends on the errors that stand alone. -/
theorem sramReads_answer (s : Block) (c : Nat) (l : List Loc) : (sramReads s c l).2 =
    ((((lsAddrs l).map (· / 8)).eraseDups).findSome? (badWord s.sramErr (storeBase 1 c))).or
      ((((csAddrs l).map (· / 8)).eraseDups).findSome? (badWord s.sramErr (storeBase 2 (cluOfCore c)))) := by
  unfold sramReads
  dsimp only
  rw [(sramRead_answer _ _ _ _).2, (sramRead_answer _ _ _ _).2, sramErr_countClu, (sramRead_answer _ _ _ _).1]

/-! Loads. -/

theorem writeLoad_portWaits (k : Core) (w : Bool) (dst : LoadDst) (data : List Byte) :
    writeLoad { k with portWaits := w } dst data = { writeLoad k dst data with portWaits := w } := by
  cases dst with
  | scalar sd size =>
    show setS _ _ _ = { setS _ _ _ with portWaits := w }
    unfold setS
    split <;> rfl
  | vector vd => rfl
  | gather vd lanes => rfl

theorem stepBase_portWaits (k : Core) (w : Bool) (an : Option Nat) : stepBase { k with portWaits := w } an = { stepBase k an with portWaits := w } := by
  cases an <;> rfl

theorem inPlace_writeLoad (k : Core) (dst : LoadDst) (data : List Byte) : InPlace k (writeLoad k dst data) := by
  cases dst with
  | scalar sd size => exact inPlace_setS _ _ _
  | vector vd => exact inPlace_setV _ _ _
  | gather vd lanes => exact inPlace_setV _ _ _

/-- The lines of device memory that a load waits for, with the symbols in error as it is issued (R675). -/
def loadLines (s : Block) (l : List Loc) : List (Nat × List Nat) := ((dmAddrs l).map (· / 64)).eraseDups.map (fun n => (n, lineSyms s n))

theorem view_load (s : Block) (c : Nat) (l : List Loc) : ∃ w, view (sramReads (usePort (noteIssue s c) c l) c l).1 =
    (view (noteIssue s c)).upd c (fun k => { k with portWaits := w }) := by
  rw [view_sramReads]
  exact view_usePort _ c l

section
variable {s : Block} {c : Nat} {l : List Loc} (hs : (sramReads s c l).2 = none) (a : Nat) (dst : LoadDst) (step : Option Nat)
include hs

theorem sramReads_noteIssue : (sramReads (usePort (noteIssue s c) c l) c l).2 = none := by
  have herr : (noteIssue s c).sramErr = s.sramErr := by rw [noteIssue_eq]
  rw [sramReads_answer, sramErr_usePort, herr, ← sramReads_answer]
  exact hs

/-- A load of bytes in the stores writes its register as it is issued, and steps BASE. -/
theorem loadLocs_here (hd : dmAddrs l = []) : ∃ s' w, loadLocs (noteIssue s c) c a l dst step = .done s' ∧
    view s' = (view (noteIssue s c)).upd c (fun k => { stepBase (writeLoad k dst (l.map (readLoc s c))) step with portWaits := w }) := by
  obtain ⟨w, hw⟩ := view_load s c l
  have hload : loadLocs (noteIssue s c) c a l dst step = .done (updCore (sramReads (usePort (noteIssue s c) c l) c l).1 c
      (fun k => stepBase (writeLoad k dst (l.map (readLoc (noteIssue s c) c))) step)) := by
    unfold loadLocs
    simp only [sramReads_noteIssue hs, hd, List.isEmpty_nil, if_true]
  refine ⟨_, w, hload, ?_⟩
  rw [view_updCore, hw, View.upd_upd]
  simp only [readLoc_noteIssue, writeLoad_portWaits, stepBase_portWaits]

/-- One of bytes in device memory, too, waits for its lines with the bytes that it read. -/
theorem loadLocs_waits (hd : dmAddrs l ≠ []) : ∃ s' w, loadLocs (noteIssue s c) c a l dst step = .done s' ∧
    view s' = (view (noteIssue s c)).upd c (fun k => { k with
      portWaits := w, loads := k.loads ++ [⟨s.fresh, (getCore s c).pc, dst, a, loadLines s l, l.map (readLoc s c), step⟩] }) := by
  obtain ⟨w, hw⟩ := view_load s c l
  have hfresh : (noteIssue s c).fresh = s.fresh := by rw [noteIssue_eq]
  have hload : loadLocs (noteIssue s c) c a l dst step = .done (updCore (drawFresh (sramReads (usePort (noteIssue s c) c l) c l).1) c
      (fun k => { k with loads := k.loads ++ [⟨s.fresh, (getCore s c).pc, dst, a, loadLines s l, l.map (readLoc s c), step⟩] })) := by
    unfold loadLocs
    simp only [sramReads_noteIssue hs, List.isEmpty_iff, hd, if_false, hfresh, lineSyms_noteIssue, readLoc_noteIssue, getCore_noteIssue, issuing_pc]
    rfl
  refine ⟨_, w, hload, ?_⟩
  rw [view_updCore, view_drawFresh, hw, View.upd_upd]

end

/-- The destination of LD and VLD (R180). -/
def loadDst (x : MA) (size : Nat) : LoadDst := if size = 7 then .vector x.d.val else .scalar x.d.val size

section
variable {s : Block} {c : Nat} {x : MA} {size : Nat} {l : List Loc}
  (h : issuable s c 4 (maIndex x ++ if size = 7 then [] else [x.d.val]) (if size = 7 then [x.d.val] else []) = true)
  (hk : maKinds x = []) (hfree : baseBusy (getCore s c) x.an.val = false)
  (hj : judge s c (maAddr (getCore s c) x (sizeWidth size)) (sizeWidth size) (sizeAlign size) = .inl l)
  (hw : accessWaits s c (maAddr (getCore s c) x (sizeWidth size), maAddr (getCore s c) x (sizeWidth size) + sizeWidth size) false = false)
include h hk hfree hj hw

/-- LD and VLD, issued: an access that nothing holds back is the load of the bytes at its places. -/
theorem loadForm_issued {g : Core → Core} (hg : InPlace (issuing s c) (g (issuing s c)))
    (hload : ∃ s', loadLocs (noteIssue s c) c (maAddr (getCore s c) x (sizeWidth size)) l (loadDst x size) (maStep x) = .done s' ∧
      view s' = (view (noteIssue s c)).upd c g) : Issued s (loadForm s c x size) c 4 g := by
  obtain ⟨s', hdone, hview⟩ := hload
  refine issued_done_in_place h hk ?_ hview hg
  simp only [getCore_noteIssue, baseBusy_issuing, hfree, maAddr_issuing, judge_noteIssue, hj, accessWaits_noteIssue, hw]
  exact hdone

theorem loadForm_here (hs : (sramReads s c l).2 = none) (hd : dmAddrs l = []) {dst : LoadDst} (hdst : loadDst x size = dst) :
    ∃ w, Issued s (loadForm s c x size) c 4 (fun k => { maAfter (writeLoad k dst (l.map (readLoc s c))) x with portWaits := w }) := by
  subst hdst
  obtain ⟨s', w, hdone, hview⟩ := loadLocs_here hs _ (loadDst x size) (maStep x) hd
  exact ⟨w, loadForm_issued h hk hfree hj hw ((inPlace_writeLoad _ _ _).trans (inPlace_stepBase _ _)) ⟨s', hdone, hview⟩⟩

theorem loadForm_waits (hs : (sramReads s c l).2 = none) (hd : dmAddrs l ≠ []) {dst : LoadDst} (hdst : loadDst x size = dst) :
    ∃ w, Issued s (loadForm s c x size) c 4 (fun k => { k with
      portWaits := w
      loads := k.loads ++ [⟨s.fresh, k.pc, dst, maAddr k x (sizeWidth size), loadLines s l, l.map (readLoc s c), maStep x⟩] }) := by
  subst hdst
  obtain ⟨s', w, hdone, hview⟩ := loadLocs_waits hs _ (loadDst x size) (maStep x) hd
  refine ⟨w, issued_congr ?_ (loadForm_issued h hk hfree hj hw ⟨rfl, rfl, rfl, rfl⟩ ⟨s', hdone, hview⟩)⟩
  rw [issuing_pc, maAddr_issuing]

end

/-- The return of the lines of a load, all of which decode, writes its register and steps BASE. -/
theorem view_lineReturn {s : Block} {c : CoreNo} {id : Nat} {l : PendLoad} (hfind : (getCore s c).loads.find? (fun l => l.id == id) = some l)
    (hlines : (dmReadSyms s l.lines ⟨1, some (ctxNoOf (getCore s c))⟩).2 = none) :
    view (doDeviceMemoryLineReturn c id s) = (view s).upd c (fun k =>
      stepBase (writeLoad { k with loads := k.loads.filter (fun q => q.id ≠ id) } l.dst l.data) l.step) := by
  unfold doDeviceMemoryLineReturn
  simp only [hfind, hlines, view_updCore, view_countRgn, view_dmReadSyms, View.upd_upd]

/-- What a scalar load writes: the bytes, extended as its size says (R180). -/
theorem writeLoad_scalar (k : Core) (sd size : Nat) (data : List Byte) : writeLoad k (.scalar sd size) data = setS k sd
    (let v := leNat data
    if size = 4 then (BitVec.ofNat 8 v).signExtend 64 else if size = 5 then (BitVec.ofNat 16 v).signExtend 64
      else if size = 6 then (BitVec.ofNat 32 v).signExtend 64 else BitVec.ofNat 64 v) := by
  have hext (n v : Nat) (hn : 0 < n) : BitVec.ofInt 64 (signedOf n v) = (BitVec.ofNat n v).signExtend 64 := by
    rw [signedOf_eq_toInt n v hn]
    rfl
  unfold writeLoad
  dsimp only
  congr 1
  split
  · exact hext 8 _ (by decide)
  · exact hext 16 _ (by decide)
  · exact hext 32 _ (by decide)
  · next h4 h5 h6 => rw [if_neg h4, if_neg h5, if_neg h6]

/-- Settles O16: a load that nothing holds back writes its register as it is issued, or waits for its lines, whose return writes it. -/
theorem loads : Obligations.Loads := by
  intro s c k does
  refine ⟨fun size x h hk hfree l hj hw hs => ?ld, fun x h hk hfree l hj hw hs => ?vld, fun id l hfind hlines => ?returned⟩
  case ld =>
    have hsize : size.val ≠ 7 := by omega
    have hdst : loadDst x size.val = .scalar x.d.val size.val := if_neg hsize
    have h' : issuable s.block c 4 (maIndex x ++ if size.val = 7 then [] else [x.d.val]) (if size.val = 7 then [x.d.val] else []) = true := by
      rwa [if_neg hsize, if_neg hsize]
    refine ⟨fun hd => runs_of (f := doLd c size x) rfl ?_, fun hd => runs_of (f := doLd c size x) rfl ?_⟩
    · obtain ⟨w, hi⟩ := loadForm_here h' hk hfree hj hw hs hd hdst
      exact ⟨w, issued_congr (by rw [writeLoad_scalar]) hi⟩
    · exact loadForm_waits h' hk hfree hj hw hs hd hdst
  case vld =>
    have h' : issuable s.block c 4 (maIndex x ++ []) [x.d.val] = true := by rwa [List.append_nil]
    exact ⟨fun hd => runs_of (f := doVld c x) rfl (loadForm_here (size := 7) h' hk hfree hj hw hs hd rfl),
      fun hd => runs_of (f := doVld c x) rfl (loadForm_waits (size := 7) h' hk hfree hj hw hs hd rfl)⟩
  case returned =>
    have hview := view_lineReturn hfind hlines
    exact completes_block (f := doDeviceMemoryLineReturn c id) rfl ⟨getCore_of_view hview, othersKept_of_view hview⟩

end Sys2Proof.Machine
end

section
/-! Stores: the bytes that they write, and that they write no others (R76, R77, R180, R562). -/
namespace Sys2Proof.Machine

/-! Reading and writing bytes of a view. -/

/-- Reads one byte at a place of core c. -/
def View.read (v : View) (c : Nat) : Loc → Byte
  | .ls a => memGet 0 (v.cores c).ls a
  | .cs a => memGet 0 (tabGet [] v.cs (cluOfCore c)) a
  | .dm a => memGet 0 v.dm a

/-- Writes one byte at a place of core c. -/
def View.write (v : View) (c : Nat) (p : Loc) (b : Byte) : View :=
  match p with
  | .ls a => v.upd c (fun k => { k with ls := memSet 0 k.ls a b })
  | .cs a => { v with cs := tabSet v.cs (cluOfCore c) (memSet 0 (tabGet [] v.cs (cluOfCore c)) a b) }
  | .dm a => { v with dm := memSet 0 v.dm a b }

theorem View.write_ls (v : View) (c a : Nat) (b : Byte) : v.write c (.ls a) b = v.upd c (fun k => { k with ls := memSet 0 k.ls a b }) := rfl

/-- Writes bytes at places, in order. -/
def View.writes (c : Nat) : List Loc → List Byte → View → View
  | p :: ps, b :: bs, v => View.writes c ps bs (v.write c p b)
  | _, _, v => v

theorem readLoc_eq (s : Block) (c : Nat) (p : Loc) : readLoc s c p = (view s).read c p := by
  cases p <;> rfl

theorem view_writeLoc (s : Block) (c : Nat) (p : Loc) (b : Byte) : view (writeLoc s c p b) = (view s).write c p b := by
  cases p with
  | ls a => exact view_updCore s c _
  | cs a => rfl
  | dm a => rfl

theorem view_writeLocs (c : Nat) (l : List Loc) : ∀ (d : List Byte) (s : Block), view (writeLocs s c l d) = (view s).writes c l d := by
  induction l with
  | nil => intro d s; rfl
  | cons p l ih =>
    intro d s
    cases d with
    | nil => rfl
    | cons b d =>
      rw [writeLocs, ih, view_writeLoc]
      rfl

/-- The memories that core c writes stand in their canonical form. -/
def View.wfAt (v : View) (c : Nat) : Prop :=
  memWf 0 (v.cores c).ls = true ∧ memWf 0 (tabGet [] v.cs (cluOfCore c)) = true ∧ memWf 0 v.dm = true

theorem View.wfAt_write {v : View} {c : Nat} (h : v.wfAt c) (p : Loc) (b : Byte) : (v.write c p b).wfAt c := by
  obtain ⟨hls, hcs, hdm⟩ := h
  cases p with
  | ls a =>
    refine ⟨?_, hcs, hdm⟩
    rw [View.write_ls, View.upd_cores_same]
    exact memSet_wf a b hls
  | cs a =>
    refine ⟨hls, ?_, hdm⟩
    show memWf 0 (tabGet [] (tabSet v.cs _ _) _) = true
    rw [tabGet_tabSet_same]
    exact memSet_wf a b hcs
  | dm a => exact ⟨hls, hcs, memSet_wf a b hdm⟩

theorem View.read_write {v : View} {c : Nat} (h : v.wfAt c) (p q : Loc) (b : Byte) :
    (v.write c p b).read c q = if q = p then b else v.read c q := by
  obtain ⟨hls, hcs, hdm⟩ := h
  cases p with
  | ls a =>
    cases q with
    | ls o =>
      rw [View.read, View.write_ls, View.upd_cores_same, memGet_memSet a b hls o]
      simp only [Loc.ls.injEq]
      rfl
    | cs o => rfl
    | dm o => rfl
  | cs a =>
    cases q with
    | ls o => rfl
    | cs o =>
      show memGet 0 (tabGet [] (tabSet v.cs _ _) _) o = _
      rw [tabGet_tabSet_same, memGet_memSet a b hcs o]
      simp only [Loc.cs.injEq]
      rfl
    | dm o => rfl
  | dm a =>
    cases q with
    | ls o => rfl
    | cs o => rfl
    | dm o =>
      show memGet 0 (memSet 0 v.dm a b) o = _
      rw [memGet_memSet a b hdm o]
      simp only [Loc.dm.injEq]
      rfl

/-- A place that is not written reads as before. -/
theorem View.read_writes_other {c : Nat} {q : Loc} (l : List Loc) : ∀ (d : List Byte) (v : View), v.wfAt c → q ∉ l →
    (v.writes c l d).read c q = v.read c q := by
  induction l with
  | nil => intro d v _ _; rfl
  | cons p l ih =>
    intro d v hv hq
    cases d with
    | nil => rfl
    | cons b d =>
      rw [View.writes, ih d _ (View.wfAt_write hv p b) (fun h => hq (List.mem_cons_of_mem _ h)), View.read_write hv,
        if_neg (fun h => hq (by rw [h]; exact List.mem_cons_self))]

/-- A place reads as the last byte that was written there. -/
theorem View.read_writes_last {c : Nat} {q : Loc} {b : Byte} (l : List Loc) : ∀ (d : List Byte) (v : View) (j : Nat), v.wfAt c →
    l[j]? = some q → d[j]? = some b → (∀ m, j < m → l[m]? ≠ some q) → (v.writes c l d).read c q = b := by
  induction l with
  | nil => intro d v j _ hj; cases hj
  | cons p l ih =>
    intro d v j hv hj hd hlast
    cases d with
    | nil => cases hd
    | cons e d =>
      rw [View.writes]
      cases j with
      | zero =>
        cases hj
        cases hd
        have hq : q ∉ l := by
          intro hmem
          obtain ⟨m, hm⟩ := List.mem_iff_getElem?.1 hmem
          exact hlast (m + 1) (Nat.succ_pos m) hm
        rw [View.read_writes_other l d _ (View.wfAt_write hv q b) hq, View.read_write hv, if_pos rfl]
      | succ j => exact ih d _ j (View.wfAt_write hv p e) hj hd (fun m hm => hlast (m + 1) (Nat.succ_lt_succ hm))

theorem View.writes_append (c : Nat) (l l' : List Loc) : ∀ (d d' : List Byte) (v : View), l.length = d.length →
    v.writes c (l ++ l') (d ++ d') = (v.writes c l d).writes c l' d' := by
  induction l with
  | nil =>
    intro d d' v h
    rw [List.length_eq_zero_iff.1 h.symm]
    rfl
  | cons p l ih =>
    intro d d' v h
    cases d with
    | nil => cases h
    | cons b d => exact ih d d' _ (Nat.succ.inj h)

/-- The core with another local store, and its port busy or not. -/
def withStore (k : Core) (m : Mem) (w : Bool) : Core := { k with ls := m, portWaits := w }

/-- Writes change of the cores the local store of the one alone. -/
theorem View.writes_frame {c : Nat} (l : List Loc) : ∀ (d : List Byte) (v : View), (v.writes c l d).images = v.images ∧
    (∀ o, o ≠ c → (v.writes c l d).cores o = v.cores o) ∧ ∃ m, (v.writes c l d).cores c = withStore (v.cores c) m (v.cores c).portWaits := by
  induction l with
  | nil => exact fun d v => ⟨rfl, fun _ _ => rfl, _, rfl⟩
  | cons p l ih =>
    intro d v
    cases d with
    | nil => exact ⟨rfl, fun _ _ => rfl, _, rfl⟩
    | cons b d =>
      obtain ⟨himg, hothers, m, hcore⟩ := ih d (v.write c p b)
      rw [View.writes, himg, hcore]
      refine ⟨?_, fun o ho => (hothers o ho).trans ?_, ?_⟩
      · cases p <;> rfl
      · cases p with
        | ls a => rw [View.write_ls, View.upd_cores_other v _ ho]
        | cs a => rfl
        | dm a => rfl
      · refine ⟨m, ?_⟩
        cases p with
        | ls a =>
          rw [View.write_ls, View.upd_cores_same]
          rfl
        | cs a => rfl
        | dm a => rfl

end Sys2Proof.Machine
end

section
/-! ST and VST (R180). -/
namespace Sys2Proof.Machine

/-! The stores' codes: what they note of a write is not seen. -/

theorem view_storeApply (s : Block) (c : Nat) (l : List Loc) (data : List Byte) :
    view (storeApply s c l data) = (view s).writes c l data := by
  unfold storeApply
  dsimp only
  rw [view_writeLocs, view_countRgn, view_foldl _ (fun t r => view_foldl _ (fun t line => view_dmNoteWrite t line _) _ t),
    view_foldl _ (fun t r => view_sramNoteWrite t _ _ _), view_countClu, view_foldl _ (fun t r => view_sramNoteWrite t _ _ _)]

/-! Whether a line decodes depends on the symbols in error and on the registers of its page, which statistics leave. -/

theorem regs_bump (s : Block) (p i n q : Nat) : (getPage (bump s p i n) q).regs = (getPage s q).regs := by
  by_cases h : q = p
  · subst h
    show (tabGet _ (tabSet s.pages q _) q).regs = _
    rw [tabGet_tabSet_same]
  · show (tabGet _ (tabSet s.pages p _) q).regs = _
    rw [tabGet_tabSet_other _ _ _ _ _ h]
    rfl

theorem regs_contend (s : Block) (p i : Nat) (b : Bool) (q : Nat) : (getPage (contend s p i b) q).regs = (getPage s q).regs := by
  unfold contend
  split
  · exact regs_bump _ _ _ _ _
  · rfl

theorem regs_usePort (s : Block) (c : Nat) (l : List Loc) (q : Nat) : (getPage (usePort s c l) q).regs = (getPage s q).regs := by
  have hport : (getPage (updCore (contend (bump s (pgCor c) 8 (bankWaits 64 (lsAddrs l))) (pgCor c) 8 (portShared s c || (getCore s c).portWaits)) c
      (fun k => { k with portWaits := decide (0 < bankWaits 64 (lsAddrs l)) })) q).regs = (getPage s q).regs :=
    (regs_contend _ _ _ _ q).trans (regs_bump _ _ _ _ q)
  unfold usePort
  dsimp only
  split <;> split
  · rfl
  · exact hport
  · exact regs_bump _ _ _ _ q
  · exact (regs_bump _ _ _ _ q).trans hport

theorem dmErr_usePort (s : Block) (c : Nat) (l : List Loc) : (usePort s c l).dmErr = s.dmErr := by
  have hcontend (t : Block) (p i : Nat) (b : Bool) : (contend t p i b).dmErr = t.dmErr := by
    unfold contend
    split <;> rfl
  unfold usePort
  dsimp only
  split <;> split
  · rfl
  · exact hcontend _ _ _ _
  · rfl
  · exact hcontend _ _ _ _

theorem storeBad_congr {s t : Block} (hregs : ∀ q, (getPage t q).regs = (getPage s q).regs) (herr : t.dmErr = s.dmErr) (l : List Loc) :
    storeBad t l = storeBad s l := by
  have hdec : decodeLine t = decodeLine s := by
    funext line
    unfold decodeLine decodeSyms lineSyms dmMark getRegD
    rw [herr, hregs]
  unfold storeBad
  rw [hdec]

theorem storeBad_noteIssue (s : Block) (c : Nat) (l : List Loc) : storeBad (noteIssue s c) l = storeBad s l :=
  storeBad_congr (fun q => by rw [noteIssue_eq]; rfl) (by rw [noteIssue_eq]) l

theorem storeBad_usePort (s : Block) (c : Nat) (l l' : List Loc) : storeBad (usePort s c l') l = storeBad s l :=
  storeBad_congr (regs_usePort s c l') (dmErr_usePort s c l') l

/-! The core that has stored: everything but its local store and its port is as it would be without the store. -/


theorem loopEnd_withStore (m : Mem) (w : Bool) (fuel : Nat) : ∀ (k : Core) (pc : Nat),
    loopEnd fuel (withStore k m w) pc = (withStore (loopEnd fuel k pc).1 m w, (loopEnd fuel k pc).2) := by
  induction fuel with
  | zero => intro k pc; rfl
  | succ n ih =>
    intro k pc
    have hloops : (withStore k m w).loops = k.loops := rfl
    unfold loopEnd
    rw [hloops]
    cases k.loops with
    | nil => rfl
    | cons l ls =>
      dsimp only
      have hlc : getLC (applyLstep (withStore k m w) l.lc) l.lc = getLC (applyLstep k l.lc) l.lc := rfl
      rw [hlc]
      split
      · split
        · exact ih { setLC (applyLstep k l.lc) l.lc 0 with loops := ls } pc
        · rfl
      · rfl

theorem inSequence_withStore (k : Core) (m : Mem) (w : Bool) (len : Nat) :
    inSequence (withStore k m w) len = withStore (inSequence k len) m w := by
  have hpc : (withStore k m w).pc = k.pc := rfl
  unfold inSequence
  rw [hpc, loopEnd_withStore]
  rfl

/-- Going on in sequence changes the place in the program and what the ends of loops step. -/
theorem loopEnd_eq (fuel : Nat) : ∀ (k : Core) (pc : Nat), ∃ a lc loops, (loopEnd fuel k pc).1 = { k with a := a, lc := lc, loops := loops } := by
  induction fuel with
  | zero => exact fun k pc => ⟨_, _, _, rfl⟩
  | succ n ih =>
    intro k pc
    unfold loopEnd
    cases k.loops with
    | nil => exact ⟨_, _, _, rfl⟩
    | cons l ls =>
      dsimp only
      split
      · split
        · obtain ⟨a, lc, loops, h⟩ := ih { setLC (applyLstep k l.lc) l.lc 0 with loops := ls } pc
          exact ⟨a, lc, loops, h⟩
        · exact ⟨_, _, _, rfl⟩
      · exact ⟨_, _, _, rfl⟩

theorem inSequence_eq (k : Core) (len : Nat) : ∃ a lc loops pc, inSequence k len =
    { k with a := a, lc := lc, loops := loops, pc := pc, gateOpen := false } := by
  obtain ⟨a, lc, loops, h⟩ := loopEnd_eq 4 k (k.pc + len)
  refine ⟨a, lc, loops, (loopEnd 4 k (k.pc + len)).2, ?_⟩
  unfold inSequence
  dsimp only
  rw [h]
  rfl

@[simp] theorem inSequence_ls (k : Core) (len : Nat) : (inSequence k len).ls = k.ls := by
  obtain ⟨a, lc, loops, pc, h⟩ := inSequence_eq k len
  rw [h]
@[simp] theorem inSequence_v (k : Core) (len : Nat) : (inSequence k len).v = k.v := by
  obtain ⟨a, lc, loops, pc, h⟩ := inSequence_eq k len
  rw [h]
@[simp] theorem inSequence_loads (k : Core) (len : Nat) : (inSequence k len).loads = k.loads := by
  obtain ⟨a, lc, loops, pc, h⟩ := inSequence_eq k len
  rw [h]

theorem maAfter_withStore (k : Core) (m : Mem) (w : Bool) (x : MA) : maAfter (withStore k m w) x = withStore (maAfter k x) m w := by
  unfold maAfter
  cases maStep x <;> rfl

theorem View.read_upd {v : View} {c : Nat} {f : Core → Core} (h : (f (v.cores c)).ls = (v.cores c).ls) (p : Loc) :
    (v.upd c f).read c p = v.read c p := by
  cases p with
  | ls a => rw [View.read, View.upd_cores_same, h]; rfl
  | cs a => rfl
  | dm a => rfl

/-- The view in which core c, at the instruction at its pc, uses its port. -/
def portView (s : Block) (c : Nat) (w : Bool) : View := (view (noteIssue s c)).upd c (fun k => { k with portWaits := w })

theorem portView_core (s : Block) (c : Nat) (w : Bool) : (portView s c w).cores c = { issuing s c with portWaits := w } := View.upd_cores_same _ _ _

theorem portView_other (s : Block) {c o : Nat} (w : Bool) (h : o ≠ c) : (portView s c w).cores o = getCore s o := by
  rw [portView, View.upd_cores_other _ _ h]
  exact (noteIssue_frame s c).2.2.1 o h

theorem portView_read (s : Block) (c : Nat) (w : Bool) (p : Loc) : (portView s c w).read c p = readLoc s c p := by
  rw [portView, View.read_upd rfl, ← readLoc_eq, readLoc_noteIssue]

theorem portView_wfAt {s : Block} {c : Nat} (w : Bool) (h : (view s).wfAt c) : (portView s c w).wfAt c := by
  obtain ⟨hls, hcs, hdm⟩ := h
  obtain ⟨hdm', hcs', -⟩ := noteIssue_frame s c
  refine ⟨?_, ?_, ?_⟩
  · rw [portView_core]
    show memWf 0 (issuing s c).ls = true
    rw [issuing_ls]
    exact hls
  · show memWf 0 (tabGet [] (noteIssue s c).cs _) = true
    rw [hcs']
    exact hcs
  · show memWf 0 (noteIssue s c).dm = true
    rw [hdm']
    exact hdm

theorem tabGet_all {α : Type} {q : α → Bool} {d : α} (hd : q d = true) (t : Tab α) (k : Nat) (h : t.all (fun e => q e.2) = true) :
    q (tabGet d t k) = true := by
  induction t with
  | nil => exact hd
  | cons e t ih =>
    obtain ⟨k', v⟩ := e
    rw [List.all_cons, Bool.and_eq_true] at h
    obtain ⟨hv, ht⟩ := h
    unfold tabGet tabFind
    split
    · exact hv
    · split
      · exact hd
      · exact ih ht

/-- In a well-formed block the memories of every core are. -/
theorem wfAt_of_wf {s : Block} (h : Memory.wf s = true) (c : Nat) : (view s).wfAt c := by
  simp only [Memory.wf, Bool.and_eq_true] at h
  obtain ⟨⟨⟨⟨hdm, hcores⟩, hcs⟩, -⟩, -⟩ := h
  exact ⟨tabGet_all (q := fun k : Core => memWf 0 k.ls) rfl s.cores c hcores, tabGet_all (q := memWf 0) rfl s.cs (cluOfCore c) hcs, hdm⟩

/-- The view after core c has stored bytes at places and done g to itself, in sequence. -/
def storedView (s : Block) (c : Nat) (l : List Loc) (data : List Byte) (w : Bool) (g : Core → Core) (n : Nat) : View :=
  ((portView s c w).writes c l data).upd c (fun k => inSequence (counted (g k) n) 4)

theorem getCore_stored_other {s b : Block} {c : Nat} {l : List Loc} {data : List Byte} {w : Bool} {g : Core → Core} {n : Nat}
    (hb : view b = storedView s c l data w g n) {o : Nat} (ho : o ≠ c) : getCore b o = getCore s o := by
  obtain ⟨-, hothers, -⟩ := View.writes_frame (c := c) l data (portView s c w)
  rw [← view_cores b, hb, storedView, View.upd_cores_other _ _ ho, hothers o ho, portView_other s w ho]

section
variable {s b : Block} {c : Nat} {l : List Loc} {data : List Byte} {w : Bool} {g : Core → Core} {n : Nat}
  (hg : ∀ k m w, g (withStore k m w) = withStore (g k) m w) (hb : view b = storedView s c l data w g n)
include hg hb

theorem readLoc_stored (p : Loc) : readLoc b c p = ((portView s c w).writes c l data).read c p := by
  have hls (k : Core) : (g k).ls = k.ls := by
    have h : (g k).ls = (withStore (g k) k.ls k.portWaits).ls := by rw [← hg]; rfl
    exact h
  rw [readLoc_eq, hb, storedView, View.read_upd]
  rw [inSequence_ls]
  exact hls _

theorem readLoc_stored_other (hwf : Memory.wf s = true) {p : Loc} (hp : p ∉ l) : readLoc b c p = readLoc s c p := by
  rw [readLoc_stored hg hb, View.read_writes_other l data _ (portView_wfAt w (wfAt_of_wf hwf c)) hp, portView_read]

theorem readLoc_stored_last (hwf : Memory.wf s = true) {p : Loc} {j : Nat} {e : Byte} (hj : l[j]? = some p) (he : data[j]? = some e)
    (hlast : ∀ m, j < m → l[m]? ≠ some p) : readLoc b c p = e := by
  rw [readLoc_stored hg hb, View.read_writes_last l data _ j (portView_wfAt w (wfAt_of_wf hwf c)) hj he hlast]

theorem getCore_stored : getCore b c =
    { inSequence (counted (g (issuing s c)) n) 4 with ls := (getCore b c).ls, portWaits := (getCore b c).portWaits } := by
  obtain ⟨-, -, m, hcore⟩ := View.writes_frame (c := c) l data (portView s c w)
  have hstore : withStore { issuing s c with portWaits := w } m w = withStore (issuing s c) m w := rfl
  have hk : (view b).cores c = withStore (inSequence (counted (g (issuing s c)) n) 4) m w := by
    rw [hb, storedView, View.upd_cores_same, hcore, portView_core, hstore, hg]
    exact inSequence_withStore (counted (g (issuing s c)) n) m w 4
  rw [show getCore b c = _ from hk]
  rfl

end

/-! The two instructions. -/

theorem length_leBytes (n v : Nat) : (leBytes n v).length = n := by
  induction n generalizing v with
  | zero => rfl
  | succ n ih => rw [leBytes, List.length_cons, ih]

theorem length_locateAll {s : Block} {c : Nat} : ∀ {n a : Nat} {l : List Loc}, locateAll s c a n = .inl l → l.length = n
  | 0, a, l, h => by
    cases h
    rfl
  | n + 1, a, l, h => by
    unfold locateAll at h
    split at h
    · cases h
    · split at h
      · cases h
      · next p _ ls hls =>
        cases h
        rw [List.length_cons, length_locateAll hls]

theorem length_judge {s : Block} {c a n align : Nat} {l : List Loc} (h : judge s c a n align = .inl l) : l.length = n := by
  unfold judge at h
  split at h
  · cases h
  · split at h
    · next hl =>
      cases h
      exact length_locateAll hl
    · cases h

/-- The bytes that ST and VST store (R180). -/
def storeData (k : Core) (x : MA) (size : Nat) : List Byte :=
  if size = 7 then leBytes 128 (getV k x.d.val).toNat else leBytes (sizeWidth size) (getS k x.d.val).toNat

theorem length_storeData (k : Core) (x : MA) (size : Nat) : (storeData k x size).length = sizeWidth size := by
  unfold storeData
  split
  · next h => rw [h, length_leBytes]; rfl
  · rw [length_leBytes]

/-- A store that nothing holds back, in sequence: it writes at its places and does g to its core. -/
theorem view_stored {s s' : Block} {c : Nat} {kinds sr vr : List Nat} {f : Block → Exec} {l : List Loc} {data : List Byte} {w : Bool} {g : Core → Core}
    (h : issuable s c 4 sr vr = true) (hk : kinds = []) (he : f (noteIssue s c) = .done s')
    (hv : view s' = ((portView s c w).writes c l data).upd c g) (hg : ∀ k, InPlace k (g k)) :
    ∃ n, 1 ≤ n ∧ view (issueShort s c 4 kinds sr vr f) = storedView s c l data w g n := by
  obtain ⟨himg, -, m, hcore⟩ := View.writes_frame (c := c) l data (portView s c w)
  have hcore' : getCore s' c = g (withStore (issuing s c) m w) := by
    rw [← view_cores s', hv, View.upd_cores_same, hcore, portView_core]
    rfl
  have hplace : InPlace (issuing s c) (getCore s' c) := by
    rw [hcore']
    exact InPlace.trans (k' := withStore (issuing s c) m w) ⟨rfl, rfl, rfl, rfl⟩ (hg _)
  obtain ⟨n, hn, hdone⟩ := view_issueShort_done h hk he (by rw [hv, View.upd_images, himg]; rfl) (loopEnd_inPlace h hplace)
  refine ⟨n, hn, ?_⟩
  rw [hdone, hv, View.upd_upd]
  rfl

/-- ST and VST, issued, where nothing holds the access back. -/
theorem view_storeForm {s : Block} {c : Nat} {x : MA} {size : Nat} {l : List Loc}
    (h : issuable s c 4 (maIndex x ++ if size = 7 then [] else [x.d.val]) (if size = 7 then [x.d.val] else []) = true)
    (hk : maKinds x = []) (hsize : size ≠ 6) (hfree : baseBusy (getCore s c) x.an.val = false)
    (hj : judge s c (maAddr (getCore s c) x (sizeWidth size)) (sizeWidth size) (sizeAlign size) = .inl l)
    (hw : accessWaits s c (maAddr (getCore s c) x (sizeWidth size), maAddr (getCore s c) x (sizeWidth size) + sizeWidth size) true = false)
    (hbad : storeBad s l = none) :
    ∃ w n, 1 ≤ n ∧ view (storeForm s c x size) = storedView s c l (storeData (getCore s c) x size) w (fun k => maAfter k x) n := by
  obtain ⟨w, hport⟩ := view_usePort (noteIssue s c) c l
  refine ⟨w, view_stored (l := l) (data := storeData (getCore s c) x size) (w := w) (g := fun k => maAfter k x)
    (s' := updCore (storeApply (usePort (noteIssue s c) c l) c l (storeData (getCore s c) x size)) c (fun k => maAfter k x))
    h (by simp [hk, hsize]) ?_ ?_ (fun k => inPlace_stepBase k _)⟩
  · simp only [getCore_noteIssue, baseBusy_issuing, hfree, maAddr_issuing, judge_noteIssue, hj, accessWaits_noteIssue, hw, storeLocs,
      storeBad_usePort, storeBad_noteIssue, hbad, getV_issuing, getS_issuing]
    rfl
  · rw [view_updCore, view_storeApply, hport]
    rfl

/-- Settles O17: the bytes are written at the places that the access was judged to have, one after another. -/
theorem stores : Obligations.Stores := by
  intro s c k does
  have does_of (i : Instr) (x : MA) (size : Nat) (hsize : size ≠ 6)
      (h : issuable s.block c 4 (maIndex x ++ if size = 7 then [] else [x.d.val]) (if size = 7 then [x.d.val] else []) = true)
      (e : exec i s = onBlock (issueWord c i (fun b => storeForm b c x size)) s) : does i x size (storeData k x size) := by
    intro hwf hk hfree l hj hw hbad
    refine runs_of e ?_
    obtain ⟨w, n, hn, hview⟩ := view_storeForm h hk hsize hfree hj hw hbad
    have hg (k : Core) (m : Mem) (w : Bool) : maAfter (withStore k m w) x = withStore (maAfter k x) m w := maAfter_withStore k m w x
    refine ⟨fun j hj' hlast p hp => ?_, fun p hp => readLoc_stored_other hg hview hwf hp, fun o ho => getCore_stored_other hview ho, n, hn,
      getCore_stored hg hview⟩
    have hlen : j < (storeData k x size).length := by rwa [length_storeData, ← length_judge hj]
    rw [List.getElem?_eq_getElem hlen, Option.getD_some]
    refine readLoc_stored_last hg hview hwf hp (List.getElem?_eq_getElem hlen) fun m hm he => ?_
    obtain ⟨hml, -⟩ := List.getElem?_eq_some_iff.1 he
    exact hlast m hm hml (he.trans hp.symm)
  constructor
  · intro size x hsize h
    have h7 : size.val ≠ 7 := by omega
    have hdoes := does_of (.st c size x) x size.val hsize (by rwa [if_neg h7, if_neg h7]) rfl
    rwa [storeData, if_neg h7] at hdoes
  · intro x h
    exact does_of (.vst c x) x 7 (by decide) (by rwa [if_pos rfl, if_pos rfl, List.append_nil]) rfl

end Sys2Proof.Machine
end

section
/-! Gathers and scatters (R186). -/
namespace Sys2Proof.Machine

@[simp] theorem lanes32_issuing (s : Block) (c pred : Nat) : lanes32 (issuing s c) pred = lanes32 (getCore s c) pred := by
  unfold lanes32
  rw [getP_issuing]

@[simp] theorem laneAddr_issuing (s : Block) (c : Nat) (x : VV) : laneAddr (issuing s c) x = laneAddr (getCore s c) x := by
  funext i
  unfold laneAddr
  rw [getV_issuing, getA_issuing]

/-- One access is judged for each address, each of n bytes. -/
theorem judgeAll_lengths {s : Block} {c n align : Nat} : ∀ {as : List Nat} {ls : List (List Loc)}, judgeAll s c n align as = .inl ls →
    as.length = ls.length ∧ ∀ l ∈ ls, l.length = n
  | [], ls, h => by
    cases h
    exact ⟨rfl, fun l hl => nomatch hl⟩
  | a :: as, ls, h => by
    unfold judgeAll at h
    split at h
    · cases h
    · next l hl =>
      split at h
      · cases h
      · next ls' hls =>
        cases h
        obtain ⟨hlen, hall⟩ := judgeAll_lengths hls
        refine ⟨congrArg Nat.succ hlen, fun q hq => ?_⟩
        rcases List.mem_cons.1 hq with rfl | hq
        · exact length_judge hl
        · exact hall q hq

/-- The word of VGTH and VSCT on 32-bit lanes with an A register has no ILLEGAL kind. -/
theorem gatherKinds_nil {s : Block} {c : Nat} {x : VV} (hva : x.va.val < 16) (hb : x.bf16 = false) : gatherKinds s c x = [] := by
  simp [gatherKinds, hva, hb]

/-! Bytes of lanes that lie one behind another. -/

/-- A field of a list behind other fields. -/
theorem fieldAt_append (pre l post : List Byte) : fieldAt (pre ++ (l ++ post)) pre.length l.length = leNat l := by
  rw [fieldAt, bytesAt_within _ _ _ (by simp), List.drop_left, List.take_left]

/-- The lanes of a gather take their bytes by position, which are those of their own access. -/
theorem foldl_gather (f : Loc → Byte) : ∀ (lanes : List Nat) (ls : List (List Loc)) (pre : List Byte) (i : Nat) (v : BitVec 1024),
    lanes.length = ls.length → (∀ l ∈ ls, l.length = 4) → pre.length = 4 * i →
    (lanes.zipIdx i).foldl (fun v e => bvPut v (32 * e.1) 32 (fieldAt (pre ++ ls.flatten.map f) (4 * e.2) 4)) v =
      (lanes.zip ls).foldl (fun v e => bvPut v (32 * e.1) 32 (leNat (e.2.map f))) v
  | [], _, _, _, _, _, _, _ => rfl
  | a :: lanes, [], _, _, _, hlen, _, _ => nomatch hlen
  | a :: lanes, l :: ls, pre, i, v, hlen, hall, hpre => by
    have hl : (l.map f).length = 4 := by rw [List.length_map]; exact hall l List.mem_cons_self
    have hfield : fieldAt (pre ++ (l :: ls).flatten.map f) (4 * i) 4 = leNat (l.map f) := by
      rw [List.flatten_cons, List.map_append, ← hpre, ← hl]
      exact fieldAt_append pre (l.map f) _
    rw [List.zipIdx_cons, List.foldl_cons, List.zip_cons_cons, List.foldl_cons, hfield]
    have happ : pre ++ (l :: ls).flatten.map f = (pre ++ l.map f) ++ ls.flatten.map f := by
      rw [List.flatten_cons, List.map_append, List.append_assoc]
    rw [happ]
    exact foldl_gather f lanes ls (pre ++ l.map f) (i + 1) _ (Nat.succ.inj hlen) (fun q hq => hall q (List.mem_cons_of_mem _ hq))
      (by rw [List.length_append, hpre, hl]; omega)

theorem getElem?_leBytes : ∀ (n v m : Nat), m < n → (leBytes n v)[m]? = some (BitVec.ofNat 8 (v / 2 ^ (8 * m)))
  | n + 1, v, 0, _ => by
    rw [leBytes, List.getElem?_cons_zero]
    simp
  | n + 1, v, m + 1, h => by
    rw [leBytes, List.getElem?_cons_succ, getElem?_leBytes n _ m (by omega), Nat.div_div_eq_div_mul, Nat.mul_add, Nat.pow_add, Nat.mul_comm (2 ^ (8 * m))]

/-- The bytes of a lane are fields of the register. -/
theorem getElem?_laneBytes (v : BitVec 1024) (i : Nat) {m : Nat} (h : m < 4) :
    (leBytes 4 (bvBits v (32 * i) 32))[m]? = some (BitVec.ofNat 8 (bvBits v (32 * i + 8 * m) 8)) := by
  rw [getElem?_leBytes 4 _ m h]
  congr 1
  refine BitVec.eq_of_getLsbD_eq fun t ht => ?_
  rw [BitVec.getLsbD_ofNat, BitVec.getLsbD_ofNat, Nat.testBit_div_two_pow, testBit_bvBits, testBit_bvBits]
  have h32 : t + 8 * m < 32 := by omega
  simp only [ht, h32, decide_true, Bool.true_and]
  congr 1
  omega

/-- Of parts of four the element j is the element j mod 4 of part j / 4. -/
theorem getElem?_flatten_four {α β : Type} (f : α → List β) (hf : ∀ a, (f a).length = 4) : ∀ (l : List α) (j : Nat),
    ((l.map f).flatten)[j]? = (l[j / 4]?).bind (fun a => (f a)[j % 4]?)
  | [], j => by simp
  | a :: l, j => by
    rw [List.map_cons, List.flatten_cons]
    by_cases hj : j < 4
    · rw [List.getElem?_append_left (by rw [hf]; exact hj), Nat.div_eq_of_lt hj, Nat.mod_eq_of_lt hj]
      rfl
    · have hdiv : j / 4 = (j - 4) / 4 + 1 := by omega
      have hmod : j % 4 = (j - 4) % 4 := by omega
      rw [List.getElem?_append_right (by rw [hf]; omega), hf, getElem?_flatten_four f hf l (j - 4), hdiv, hmod, List.getElem?_cons_succ]

/-- The bytes of the lanes that a scatter stores, one lane behind another. -/
def scatterData (k : Core) (x : VV) : List Byte := ((lanes32 k x.pred.val).map (fun i => leBytes 4 (bvBits (getV k x.vd.val) (32 * i) 32))).flatten

/-- A scatter writes its lanes one after another. -/
theorem view_scatter (c : Nat) (f : Nat → List Byte) (hf : ∀ i, (f i).length = 4) : ∀ (lanes : List Nat) (ls : List (List Loc)) (s : Block),
    lanes.length = ls.length → (∀ l ∈ ls, l.length = 4) →
    view ((lanes.zip ls).foldl (fun s e => storeApply s c e.2 (f e.1)) s) = (view s).writes c ls.flatten (lanes.map f).flatten
  | [], [], _, _, _ => rfl
  | [], _ :: _, _, hlen, _ => nomatch hlen
  | _ :: _, [], _, hlen, _ => nomatch hlen
  | i :: lanes, l :: ls, s, hlen, hall => by
    rw [List.zip_cons_cons, List.foldl_cons, view_scatter c f hf lanes ls _ (Nat.succ.inj hlen) (fun q hq => hall q (List.mem_cons_of_mem _ hq)),
      view_storeApply, List.flatten_cons, List.map_cons, List.flatten_cons, View.writes_append]
    rw [hall l List.mem_cons_self, hf]

/-- The address that a gather notes: of the first lane with bytes in device memory. -/
def gatherAddr (k : Core) (x : VV) (ls : List (List Loc)) : Nat :=
  (((((lanes32 k x.pred.val).map (laneAddr k x)).zip ls).find? (fun e => !(dmAddrs e.2).isEmpty)).map (·.1)).getD 0

section
variable {s : Block} {c : CoreNo} {x : VV} {ls : List (List Loc)} (h : issuable s c 4 [] [x.vd.val, x.vb.val] = true) (hva : x.va.val < 16)
  (hb : x.bf16 = false) (hfree : baseBusy (getCore s c) x.va.val = false)
  (hj : judgeAll s c 4 4 ((lanes32 (getCore s c) x.pred.val).map (laneAddr (getCore s c) x)) = .inl ls)
include h hva hb hfree hj

/-- VGTH, issued, where nothing holds its accesses back, is the load of the bytes at their places. -/
theorem vgth_issued {g : Core → Core}
    (hw : ∀ a ∈ (lanes32 (getCore s c) x.pred.val).map (laneAddr (getCore s c) x), accessWaits s c (a, a + 4) false = false)
    (hload : ∃ s', loadLocs (noteIssue s c) c (gatherAddr (getCore s c) x ls) ls.flatten
        (.gather x.vd.val (lanes32 (getCore s c) x.pred.val)) none = .done s' ∧ view s' = (view (noteIssue s c)).upd c g)
    (hg : InPlace (issuing s c) (g (issuing s c))) :
    Issued s (doVgth c x s) c 4 g := by
  obtain ⟨s', hdone, hview⟩ := hload
  have hany : ((lanes32 (getCore s c) x.pred.val).map (laneAddr (getCore s c) x)).any (fun a => accessWaits s c (a, a + 4) false) = false := by
    rw [List.any_eq_false]
    intro a ha
    rw [hw a ha]
    decide
  refine issued_done_in_place h (gatherKinds_nil hva hb) ?_ hview hg
  simp only [getCore_noteIssue, lanes32_issuing, laneAddr_issuing, baseBusy_issuing, Nat.mod_eq_of_lt hva, hfree, judgeAll_noteIssue, hj,
    accessWaits_noteIssue, hany]
  exact hdone

/-- VSCT, issued, where nothing holds its accesses back, stores its lanes. -/
theorem view_vsct
    (hw : ∀ a ∈ (lanes32 (getCore s c) x.pred.val).map (laneAddr (getCore s c) x), accessWaits s c (a, a + 4) true = false)
    (hbad : ∀ l ∈ ls, storeBad s l = none) :
    ∃ w n, 1 ≤ n ∧ view (doVsct c x s) = storedView s c ls.flatten (scatterData (getCore s c) x) w (fun k => k) n := by
  obtain ⟨hlen, hall⟩ := judgeAll_lengths hj
  rw [List.length_map] at hlen
  obtain ⟨w, hport⟩ := view_usePort (noteIssue s c) c ls.flatten
  have hany : ((lanes32 (getCore s c) x.pred.val).map (laneAddr (getCore s c) x)).any (fun a => accessWaits s c (a, a + 4) true) = false := by
    rw [List.any_eq_false]
    intro a ha
    rw [hw a ha]
    decide
  have hnone : (((lanes32 (getCore s c) x.pred.val).map (laneAddr (getCore s c) x)).zip ls).findSome?
      (fun e => (storeBad (noteIssue s c) e.2).map (fun line => (e.1, line))) = none := by
    rw [List.findSome?_eq_none_iff]
    intro e he
    rw [storeBad_noteIssue, hbad _ (List.of_mem_zip he).2]
    rfl
  refine ⟨w, view_stored (l := ls.flatten) (data := scatterData (getCore s c) x) (w := w) (g := fun k => k) (s' := ((lanes32 (getCore s c) x.pred.val).zip ls).foldl
    (fun t e => storeApply t c e.2 (leBytes 4 (bvBits (getV (getCore s c) x.vd.val) (32 * e.1) 32))) (usePort (noteIssue s c) c ls.flatten))
    h (gatherKinds_nil hva hb) ?_ ?_ (fun k => .refl k)⟩
  · simp only [getCore_noteIssue, lanes32_issuing, laneAddr_issuing, baseBusy_issuing, Nat.mod_eq_of_lt hva, hfree, judgeAll_noteIssue, hj,
      accessWaits_noteIssue, hany, hnone, getV_issuing]
    rfl
  · rw [View.upd_id, view_scatter c (fun i => leBytes 4 (bvBits (getV (getCore s c) x.vd.val) (32 * i) 32)) (fun _ => length_leBytes 4 _) _ ls _ hlen hall,
      hport]
    rfl

end

/-- Settles O19: the lanes of a gather are those of its load, and a scatter writes its lanes in ascending order. -/
theorem gatherScatter : Obligations.GatherScatter := by
  intro s c x h hva hb hfree k lanes addrs ls hj
  obtain ⟨hlen, hall⟩ := judgeAll_lengths hj
  have hlanes : lanes.length = ls.length := by rw [← hlen, List.length_map]
  refine ⟨fun hw hs => ⟨fun hd => ?here, fun hd => ?waits⟩, fun hwf hw hbad => ?scatter⟩
  case here =>
    obtain ⟨s', w, hdone, hview⟩ := loadLocs_here hs (gatherAddr k x ls) (.gather x.vd.val lanes) none hd
    have hi := vgth_issued h hva hb hfree hj hw ⟨s', hdone, hview⟩ ⟨rfl, rfl, rfl, rfl⟩
    refine runs_of (f := doVgth c x) rfl ⟨w, issued_congr ?_ hi⟩
    have hlane := foldl_gather (readLoc s.block c) lanes ls [] 0 (getV (issuing s.block c) x.vd.val) hlanes hall rfl
    exact congrArg (fun v => { setV (issuing s.block c) x.vd.val v with portWaits := w }) hlane
  case waits =>
    obtain ⟨s', w, hdone, hview⟩ := loadLocs_waits hs (gatherAddr k x ls) (.gather x.vd.val lanes) none hd
    obtain ⟨⟨n, -, hcore⟩, hkept⟩ := vgth_issued h hva hb hfree hj hw ⟨s', hdone, hview⟩ ⟨rfl, rfl, rfl, rfl⟩
    have hv : (getCore (doVgth c x s.block) c).v = k.v := (congrArg Core.v hcore).trans ((inSequence_v _ _).trans (issuing_v s.block c))
    have hloads := (congrArg Core.loads hcore).trans ((inSequence_loads _ _).trans (congrArg (· ++ _) (issuing_loads s.block c)))
    exact runs_of (f := doVgth c x) rfl ⟨hkept, hv, _, hloads, rfl, rfl⟩
  case scatter =>
    refine runs_of (f := doVsct c x) rfl ?_
    obtain ⟨w, n, hn, hview⟩ := view_vsct h hva hb hfree hj hw hbad
    refine ⟨fun p hp => readLoc_stored_other (fun _ _ _ => rfl) hview hwf hp, fun j i p hp hlast hi => ?_,
      fun o ho => getCore_stored_other hview ho, n, hn, getCore_stored (fun _ _ _ => rfl) hview⟩
    refine readLoc_stored_last (fun _ _ _ => rfl) hview hwf hp ?_ hlast
    rw [scatterData, getElem?_flatten_four _ (fun _ => length_leBytes 4 _), hi]
    exact getElem?_laneBytes _ i (Nat.mod_lt j (by decide))

end Sys2Proof.Machine
end

section
/-! END and the end of its wait (R189, R221, R224). -/
namespace Sys2Proof.Machine

@[simp] theorem allDone_issuing (s : Block) (c : Nat) : allDone (issuing s c) = allDone (getCore s c) := by
  obtain ⟨l, hl⟩ := issuing_eq s c
  rw [hl]
  rfl
@[simp] theorem getSet_issuing (s : Block) (c n : Nat) : getSet (issuing s c) n = getSet (getCore s c) n := by
  obtain ⟨l, hl⟩ := issuing_eq s c
  rw [hl]
  rfl
@[simp] theorem issuing_run (s : Block) (c : Nat) : (issuing s c).run = (getCore s c).run := by
  obtain ⟨l, hl⟩ := issuing_eq s c
  rw [hl]
@[simp] theorem issuing_s (s : Block) (c : Nat) : (issuing s c).s = (getCore s c).s := by
  obtain ⟨l, hl⟩ := issuing_eq s c
  rw [hl]
@[simp] theorem ctxNoOf_issuing (s : Block) (c : Nat) : ctxNoOf (issuing s c) = ctxNoOf (getCore s c) := by
  unfold ctxNoOf
  rw [issuing_placed]
@[simp] theorem rankOf_issuing (s : Block) (c : Nat) : rankOf (issuing s c) = rankOf (getCore s c) := by
  unfold rankOf
  rw [issuing_placed]
@[simp] theorem run_noteIssue (s : Block) (c x : Nat) : (getCtx (noteIssue s c) x).run = (getCtx s x).run := by
  obtain ⟨i, hi⟩ := getCtx_noteIssue s c x
  rw [hi]

/-! What a change of core c keeps of the rest. -/

theorem othersKept.trans {s t b : Block} {c : Nat} (h : othersKept s t c) (h' : othersKept t b c) : othersKept s b c := by
  obtain ⟨hcores, hdm, hcs⟩ := h
  obtain ⟨hcores', hdm', hcs'⟩ := h'
  exact ⟨fun o ho => (hcores' o ho).trans (hcores o ho), hdm'.trans hdm, hcs'.trans hcs⟩
theorem othersKept_setCore (s : Block) (c : Nat) (k : Core) : othersKept s (setCore s c k) c :=
  othersKept_of_view (view_setCore s c k)
theorem othersKept_noteIssue (s : Block) (c : Nat) : othersKept s (noteIssue s c) c := by
  obtain ⟨l, hl⟩ := view_noteIssue s c
  exact othersKept_of_view hl
theorem othersKept_countSteps (s : Block) (c : Nat) : othersKept s (countSteps s c) c := by
  obtain ⟨n, -, hview⟩ := view_countSteps s c
  exact othersKept_of_view hview

/-! The completion sets that END judges. -/

/-- No completion set holds a failure word. -/
theorem failedSet_none {k : Core} (h : ∀ i < 8, (getSet k i).word = 0) : failedSet k (List.range 8) = none := by
  have hfind : (List.range 8).find? (fun i => (getSet k i).word ≠ 0) = none := by
    rw [List.find?_eq_none]
    intro i hi
    simp [h i (List.mem_range.1 hi)]
  rw [failedSet, hfind]
  rfl

/-- The set j is the lowest-numbered one that holds a failure word. -/
theorem failedSet_lowest {k : Core} {j : Nat} (hj : j < 8) (hw : (getSet k j).word ≠ 0) (hlow : ∀ i < j, (getSet k i).word = 0) :
    failedSet k (List.range 8) = some (j, (getSet k j).word) := by
  have hfind : (List.range 8).find? (fun i => (getSet k i).word ≠ 0) = some j := by
    rw [List.find?_range_eq_some]
    exact ⟨by simpa using hw, List.mem_range.2 hj, fun i hi => by simp [hlow i hi]⟩
  rw [failedSet, hfind]
  rfl

/-- A failure word is that of its own class and detail (R203). -/
theorem faultWord_parts (w : Word) : faultWord (bvBits w 24 8) (bvBits w 0 24) = w := by
  refine BitVec.eq_of_toNat_eq ?_
  have hw := w.isLt
  simp only [faultWord, bvBits, natBits, BitVec.toNat_ofNat]
  omega

/-! The end of a program. -/

/-- The program of core c of block s has ended well: the core is idle for good, and its run has noted its rank. -/
def EndedWell (s b : Block) (c : Nat) : Prop :=
  let k := getCore s c
  (getCore b c).run = .idle ∧ (getCore b c).ended = true ∧ (getCore b c).pc = k.pc ∧ (getCore b c).s = k.s ∧ (getCore b c).ls = k.ls ∧
    othersKept s b c ∧
    (getCtx b (ctxNoOf k)).run.map (·.endedRanks) = ((getCtx s (ctxNoOf k)).run.map (fun r => r.endedRanks ++ [rankOf k]))

/-- It has ended with a failure word w: the core has faulted with that word at its pc. -/
def EndedFailed (s b : Block) (c : Nat) (w : Word) : Prop :=
  (getCore b c).run = .faulted ∧ (getCore b c).fault = w ∧ (getCore b c).faultOff = BitVec.ofNat 32 (getCore s c).pc ∧ othersKept s b c

theorem finishEnd_endedWell {s : Block} {c : Nat} (h : ∀ i < 8, (getSet (getCore s c) i).word = 0) : EndedWell s (finishEnd s c) c := by
  unfold finishEnd
  dsimp only
  rw [failedSet_none h]
  simp only [EndedWell, getCore_updCtx, getCore_setCore_same, getCtx_updCtx_same, Option.map_map]
  exact ⟨trivial, trivial, trivial, trivial, trivial, othersKept_setCore s c _, rfl⟩

theorem finishEnd_endedFailed {s : Block} {c j : Nat} (hj : j < 8) (hw : (getSet (getCore s c) j).word ≠ 0)
    (hlow : ∀ i < j, (getSet (getCore s c) i).word = 0) : EndedFailed s (finishEnd s c) c (getSet (getCore s c) j).word := by
  have hfault := faulted_faultCore (setCore s c { getCore s c with endWait := false }) c (bvBits (getSet (getCore s c) j).word 24 8)
    (bvBits (getSet (getCore s c) j).word 0 24)
  rw [getCore_setCore_same] at hfault
  obtain ⟨hrun, hword, hoff, -, -, -, -, -, -, -, -, hkept⟩ := hfault
  rw [faultWord_parts] at hword
  rw [getCore_setCore_same] at hoff
  unfold finishEnd
  dsimp only
  rw [failedSet_lowest hj hw hlow]
  exact ⟨hrun, hword, hoff, (othersKept_setCore s c _).trans hkept⟩

/-- An end that the instruction END itself finds is one of the block before its issue, whose steps then count. -/
theorem EndedWell.of_issue {s b : Block} {c : Nat} (h : EndedWell (noteIssue s c) b c) : EndedWell s (countSteps b c) c := by
  obtain ⟨hrun, hended, hpc, hs, hls, hkept, hranks⟩ := h
  obtain ⟨n, -, hcore, -, -, -, hctxs⟩ := countSteps_core b c
  have hctx : getCtx (countSteps b c) = getCtx b := by
    unfold getCtx
    rw [hctxs]
  simp only [getCore_noteIssue, issuing_pc, issuing_s, issuing_ls, ctxNoOf_issuing, rankOf_issuing, run_noteIssue] at hpc hs hls hranks
  unfold EndedWell
  rw [hcore, hctx]
  exact ⟨hrun, hended, hpc, hs, hls, ((othersKept_noteIssue s c).trans hkept).trans (othersKept_countSteps b c), hranks⟩

theorem EndedFailed.of_issue {s b : Block} {c : Nat} {w : Word} (h : EndedFailed (noteIssue s c) b c w) :
    EndedFailed s (countSteps b c) c w := by
  obtain ⟨hrun, hword, hoff, hkept⟩ := h
  obtain ⟨n, -, hcore, -⟩ := countSteps_core b c
  rw [getCore_noteIssue, issuing_pc] at hoff
  unfold EndedFailed
  rw [hcore]
  exact ⟨hrun, hword, hoff, ((othersKept_noteIssue s c).trans hkept).trans (othersKept_countSteps b c)⟩

/-- An instruction that sets its pc itself leaves what it does, and its steps count. -/
theorem issueShort_stay {s s' : Block} {c len : Nat} {kinds sr vr : List Nat} {f : Block → Exec} (h : issuable s c len sr vr = true)
    (hk : kinds = []) (he : f (noteIssue s c) = .stay s') : issueShort s c len kinds sr vr f = countSteps s' c := by
  subst hk
  rw [issueShort_eq h, he]

section
variable {s : Block} {c : CoreNo} {x : SY} (h : issuable s c 4 [] [] = true) (hsd : x.sd.val = 0) (hsa : x.sa.val = 0) (himm : x.imm11 = 0)
include h hsd hsa himm

/-- END of a core all of whose work has completed is the end of its program. -/
theorem doEnd_allDone (hall : allDone (getCore s c) = true) : doEnd c x s = countSteps (finishEnd (noteIssue s c) c) c := by
  refine issueShort_stay h (by simp [hsd, hsa, himm]) (if_pos ?_)
  rw [getCore_noteIssue, allDone_issuing, hall]

/-- END of any other waits. -/
theorem doEnd_waits (hall : allDone (getCore s c) = false) :
    doEnd c x s = countSteps (setCore (noteIssue s c) c { issuing s c with endWait := true }) c := by
  refine issueShort_stay h (by simp [hsd, hsa, himm]) (if_neg ?_)
  rw [getCore_noteIssue, allDone_issuing, hall]
  decide

end

/-- Settles O15: END, where all is done, and END_DONE end the program by `finishEnd`, which the completion sets decide; else END waits. -/
theorem endOfProgram : Obligations.EndOfProgram := by
  intro s c k clean stops
  refine ⟨fun x h hsd hsa himm => ⟨fun hall => ⟨fun hclean => ?well, fun j hj hw hlow => ?failed⟩, fun hall => ?waits⟩,
    fun hwait hall hstop hrun => ?endDone⟩
  case well =>
    refine runs_of (f := doEnd c x) rfl ?_
    rw [doEnd_allDone h hsd hsa himm hall]
    exact (finishEnd_endedWell fun i hi => by simpa using hclean i hi).of_issue
  case failed =>
    refine runs_of (f := doEnd c x) rfl ?_
    rw [doEnd_allDone h hsd hsa himm hall]
    have hfailed := (finishEnd_endedFailed (s := noteIssue s.block c) (c := c) hj (by simpa using hw) (by simpa using hlow)).of_issue
    rwa [getCore_noteIssue, getSet_issuing] at hfailed
  case waits =>
    refine runs_of (f := doEnd c x) rfl ?_
    rw [doEnd_waits h hsd hsa himm hall]
    obtain ⟨n, -, hcore, -⟩ := countSteps_core (setCore (noteIssue s.block c) c { issuing s.block c with endWait := true }) c
    rw [hcore, getCore_setCore_same]
    exact ⟨rfl, issuing_pc _ _, issuing_run _ _, issuing_s _ _,
      ((othersKept_noteIssue _ _).trans (othersKept_setCore _ _ _)).trans (othersKept_countSteps _ _)⟩
  case endDone =>
    have hdone : doEndDone c s.block = finishEnd s.block c := if_pos (by simp [k, hwait, hall, hstop, hrun])
    exact ⟨fun hclean => completes_block (f := doEndDone c) rfl (hdone ▸ finishEnd_endedWell hclean),
      fun j hj hw hlow => completes_block (f := doEndDone c) rfl (hdone ▸ finishEnd_endedFailed hj hw hlow)⟩

end Sys2Proof.Machine
end

section
/-! The descriptor instructions (R176, R211, R214, R217). -/
namespace Sys2Proof.Machine

@[simp] theorem getT_issuing (s : Block) (c n : Nat) : getT (issuing s c) n = getT (getCore s c) n := by
  obtain ⟨l, hl⟩ := issuing_eq s c
  rw [hl]
  rfl

theorem inPlace_setT (k : Core) (n : Nat) (v : BitVec 256) : InPlace k (setT k n v) := ⟨rfl, rfl, rfl, rfl⟩

@[simp] theorem checkLsAddr_noteIssue (s : Block) (c a n align : Nat) : checkLsAddr (noteIssue s c) c a n align = checkLsAddr s c a n align := by
  obtain ⟨i, hi⟩ := ctxOf_issuing s c
  unfold checkLsAddr presentLocal
  rw [getCore_noteIssue, hi]

/-- An aligned address whose bytes are all present in the local store is in order (R217). -/
theorem checkLsAddr_none {s : Block} {c a n align : Nat} (hal : a % align = 0) (hin : a + n ≤ presentLocal (ctxOf s (getCore s c))) :
    checkLsAddr s c a n align = none := by
  unfold checkLsAddr
  dsimp only
  rw [if_neg (not_not_intro hal), if_neg (Nat.not_lt.2 hin)]

/-- A write to the local store is seen there alone. -/
theorem view_writeLsBytes (s : Block) (c a : Nat) (b : List Byte) :
    view (writeLsBytes s c a b) = (view s).upd c (fun k => { k with ls := memPut 0 k.ls a b }) := by
  unfold writeLsBytes
  rw [view_updCore, view_sramNoteWrite]

/-- The table of the fields of a descriptor (R211, R214). -/
theorem descField_eq {f : Nat} (h : f ≤ 6) :
    (([(64, 32), (96, 32), (128, 32), (160, 32), (192, 48), (0, 48), (0, 64)] : List (Nat × Nat))[f]?).getD (0, 0) = descField f := by
  interval_cases f <;> rfl

section
variable {s : Block} {c : CoreNo} {x : XT} (h : issuable s c 8 [x.sa.val] [] = true)
  (hk : xtUnused x true false false false false true false false 0 = []) (hal : (getS (getCore s c) x.sa.val).toNat % 32 = 0)
  (hin : (getS (getCore s c) x.sa.val).toNat + 32 ≤ presentLocal (ctxOf s (getCore s c)))
include h hk hal hin

theorem tld_issued (hw : accessWaits s c ((getS (getCore s c) x.sa.val).toNat, (getS (getCore s c) x.sa.val).toNat + 32) false = false) :
    Issued s (doTld c x s) c 8
      (fun k => setT k x.td.val (BitVec.ofNat 256 (leNat (memBytes 0 k.ls (getS (getCore s c) x.sa.val).toNat 32)))) := by
  refine issued_done_in_place h hk ?_ (view_updCore (noteIssue s c) c _) (inPlace_setT _ _ _)
  simp only [getCore_noteIssue, getS_issuing, checkLsAddr_noteIssue, checkLsAddr_none hal hin, accessWaits_noteIssue, hw]
  rfl

theorem tst_issued (hw : accessWaits s c ((getS (getCore s c) x.sa.val).toNat, (getS (getCore s c) x.sa.val).toNat + 32) true = false) :
    Issued s (doTst c x s) c 8
      (fun k => { k with ls := memPut 0 k.ls (getS (getCore s c) x.sa.val).toNat (leBytes 32 (getT (getCore s c) x.td.val).toNat) }) := by
  refine issued_done_in_place h hk ?_ (view_writeLsBytes (noteIssue s c) c _ _) ⟨rfl, rfl, rfl, rfl⟩
  simp only [getCore_noteIssue, getS_issuing, getT_issuing, checkLsAddr_noteIssue, checkLsAddr_none hal hin, accessWaits_noteIssue, hw]
  rfl

end

/-- Settles O20: TLD and TST go through the check of their address, the others change the core alone; a field number outside the table
is a kind of the word. -/
theorem descriptors : Obligations.Descriptors := by
  intro s c x k a f field
  refine ⟨fun h hk => ⟨fun hal hin => ⟨fun hw => ?tld, fun hw => ?tst⟩, ?taddr⟩, fun h hk => ?tmov,
    fun h hk => ⟨fun hf => ?tsetf, fun hf => ?tsetfField⟩, fun h hk => ⟨fun hf => ?tgetf, fun hf => ?tgetfField⟩⟩
  case tld => exact runs_of (f := doTld c x) rfl (tld_issued h hk hal hin hw)
  case tst => exact runs_of (f := doTst c x) rfl (issued_congr (by rw [getT_issuing]) (tst_issued h hk hal hin hw))
  case taddr => exact runs_of (f := doTaddr c x) rfl (issued_onCore h hk (inPlace_setT _ _ _))
  case tmov => exact runs_of (f := doTmov c x) rfl (issued_onCore h hk (inPlace_setT _ _ _))
  case tsetf =>
    have hfield : field = descField f := descField_eq (by omega)
    rw [hfield]
    exact runs_of (f := doTsetf c x) rfl (issued_onCore h (by rw [hk, decide_eq_true hf]; rfl) (inPlace_setT _ _ _))
  case tsetfField =>
    exact runs_of (f := doTsetf c x) rfl (faulted_illegal h (n := 3) (by rw [hk, decide_eq_false (not_le.2 hf)]; rfl) (by decide))
  case tgetf =>
    have hfield : field = descField f := descField_eq hf
    rw [hfield]
    exact runs_of (f := doTgetf c x) rfl (issued_onCore h (by rw [hk, decide_eq_true hf]; rfl) (inPlace_setS _ _ _))
  case tgetfField =>
    have hout : ¬f ≤ 6 := by omega
    exact runs_of (f := doTgetf c x) rfl (faulted_illegal h (n := 3) (by rw [hk, decide_eq_false hout]; rfl) (by decide))

end Sys2Proof.Machine
end
